-- ==== Sys2Proof/Word.lean ====
section
/-!
DEFINITION. The word types of the H9 (R1, R46): a byte, a 32-bit register, a 64-bit pair.
-/

namespace Sys2Proof

abbrev Byte := BitVec 8
/-- A 32-bit register or instruction word. -/
abbrev Word := BitVec 32
/-- A 64-bit value: an even register pair, low half in the even register (R46). -/
abbrev DWord := BitVec 64

end Sys2Proof
end

