-- ==== Sys2Proof/Syntax.lean ====
section
/-!
DEFINITION. The instructions and events of the H9: one constructor per row of spec/opcode_table.json.

The 197 encoded words (R60, R72, R75, R76) carry their fields raw, under the table's field names: `c` is the
chain bit, `w` the stall count S of R60, the others as each row's field map gives.  The rows without an
encoding are the device's own operations and events; their arguments name the unit that acts (a package core
number, R9; a team slot; a context; an in-flight operation) and carry what comes from outside the machine.
-/

namespace Sys2Proof

/-- What the patrol scrubber or a demand read finds in one HBM granule (R367). -/
inductive ScrubOutcome where
  | clean
  | corrected
  | uncorrectable
  deriving DecidableEq, Repr

/-- One constructor per row of the opcode table. -/
inductive Instr where
  /-- NOP (R60): Does nothing; also the padding word, and with S = 3 the runner mark. -/
  | nop (c : BitVec 1) (w : BitVec 2)
  /-- BRA (R98): Transfers the executing path to packet PC + off. -/
  | bra (c : BitVec 1) (w : BitVec 2) (o : BitVec 19)
  /-- BRC (R98): Branches the path when condition c equals 1, or equals 0 with Z set. -/
  | brc (c : BitVec 1) (w : BitVec 2) (z : BitVec 1) (k : BitVec 2) (o : BitVec 16)
  /-- SPLIT (R23): Divides the active lanes on a predicate, pushes a reconvergence record and starts the else path. -/
  | split (c : BitVec 1) (w : BitVec 2) (p : BitVec 3) (o : BitVec 16)
  /-- JOIN (R25): Waits for the other half of the innermost record, then merges masks and scalar state. -/
  | join (c : BitVec 1) (w : BitVec 2)
  /-- CALL (R100): Writes PC + 1 to a link register and branches by an offset. -/
  | call (c : BitVec 1) (w : BitVec 2) (l : BitVec 6) (o : BitVec 13)
  /-- CALLI (R100): Writes PC + 1 to a link register and goes to the packet held in a scalar register. -/
  | calli (c : BitVec 1) (w : BitVec 2) (l : BitVec 6) (t : BitVec 6)
  /-- RET (R100): Goes to the packet held in the link register. -/
  | ret (c : BitVec 1) (w : BitVec 2) (t : BitVec 6)
  /-- EXIT (R101): Ends the executing path; in a handler image it kills the team. -/
  | exit (c : BitVec 1) (w : BitVec 2)
  /-- TRAP (R102): Raises trap 0x0E, with the code in the fault address. -/
  | trap (c : BitVec 1) (w : BitVec 2) (k : BitVec 8)
  /-- BRK (R102): Raises trap 0x0D, which goes to the debugger when one is attached. -/
  | brk (c : BitVec 1) (w : BitVec 2) (g : BitVec 8)
  /-- WAITCYC (R104): Delays the path's next word by N cycles. -/
  | waitcyc (c : BitVec 1) (w : BitVec 2) (n : BitVec 16)
  /-- YIELD (R106): When preemption is requested and the team is converged, stops issue and drains for a clean save. -/
  | yield (c : BitVec 1) (w : BitVec 2)
  /-- PRIO (R105): Sets the team's issue priority to at most the launch's priority. -/
  | prio (c : BitVec 1) (w : BitVec 2) (p : BitVec 3)
  /-- SRD (R107): Reads a special register into a scalar register. -/
  | srd (c : BitVec 1) (w : BitVec 2) (d : BitVec 6) (n : BitVec 8)
  /-- SWR (R107): Writes a scalar register to a special register. -/
  | swr (c : BitVec 1) (w : BitVec 2) (a : BitVec 6) (n : BitVec 8)
  /-- TRTAG (R108): Emits a tag trace record carrying a scalar value. -/
  | trtag (c : BitVec 1) (w : BitVec 2) (a : BitVec 6) (g : BitVec 12)
  /-- RETT (R103): Ends the trap handler, restores the banked registers and retries or skips the faulting word. -/
  | rett (c : BitVec 1) (w : BitVec 2) (k : BitVec 1)
  /-- LAUNCH (R109): Checks a launch record and accepts a child launch from it. -/
  | launch (c : BitVec 1) (w : BitVec 2) (a : BitVec 6)
  /-- SPAWN (R111): Adds one lane for each active lane to the bins of the cluster keyed by header address. -/
  | spawn (c : BitVec 1) (w : BitVec 2) (a : BitVec 6) (e : BitVec 6) (t : BitVec 6)
  /-- WAITC (R112): Waits until an in-flight counter is at or below a register threshold. -/
  | waitc (c : BitVec 1) (w : BitVec 2) (h : BitVec 3) (a : BitVec 6)
  /-- WAITCI (R112): Waits until an in-flight counter is at or below an immediate threshold. -/
  | waitci (c : BitVec 1) (w : BitVec 2) (h : BitVec 3) (n : BitVec 6)
  /-- BAR (R113): Arrives at a cohort barrier and waits for the phase to complete. -/
  | bar (c : BitVec 1) (w : BitVec 2) (b : BitVec 4)
  /-- BARA (R113): Arrives at a cohort barrier without waiting. -/
  | bara (c : BitVec 1) (w : BitVec 2) (b : BitVec 4)
  /-- BARW (R113): Waits for the phase of the team's last arrival on a barrier to complete. -/
  | barw (c : BitVec 1) (w : BitVec 2) (b : BitVec 4)
  /-- FENCE (R115): Orders the team's accesses as a release, an acquire or both at a scope. -/
  | fence (c : BitVec 1) (w : BitVec 2) (o : BitVec 2) (e : BitVec 3)
  /-- QFENCE (R116): Waits for the named engine queues and joins their operations to program order. -/
  | qfence (c : BitVec 1) (w : BitVec 2) (m : BitVec 5)
  /-- SPOUT (R117): Publishes a scalar value as the item's value of a spine slot. -/
  | spout (c : BitVec 1) (w : BitVec 2) (n : BitVec 2) (a : BitVec 6)
  /-- GROW (R31): Asks for the extended register block and blocks until it is granted. -/
  | grow (c : BitVec 1) (w : BitVec 2)
  /-- GROWT (R31): Asks for the extended block without blocking and writes the outcome to a condition. -/
  | growt (c : BitVec 1) (w : BitVec 2) (k : BitVec 2)
  /-- SHRINK (R31): Releases the extended register block. -/
  | shrink (c : BitVec 1) (w : BitVec 2)
  /-- SADD (R119): Scalar 32-bit add. -/
  | sadd (c : BitVec 1) (w : BitVec 2) (d : BitVec 6) (a : BitVec 6) (b : BitVec 6) (q : BitVec 2)
  /-- SSUB (R119): Scalar 32-bit subtract. -/
  | ssub (c : BitVec 1) (w : BitVec 2) (d : BitVec 6) (a : BitVec 6) (b : BitVec 6) (q : BitVec 2)
  /-- SMUL (R119): Scalar low 32-bit product. -/
  | smul (c : BitVec 1) (w : BitVec 2) (d : BitVec 6) (a : BitVec 6) (b : BitVec 6) (q : BitVec 2)
  /-- SMULH (R119): Scalar high word of the signed product. -/
  | smulh (c : BitVec 1) (w : BitVec 2) (d : BitVec 6) (a : BitVec 6) (b : BitVec 6) (q : BitVec 2)
  /-- SAND (R119): Scalar bitwise and. -/
  | sand (c : BitVec 1) (w : BitVec 2) (d : BitVec 6) (a : BitVec 6) (b : BitVec 6) (q : BitVec 2)
  /-- SOR (R119): Scalar bitwise or. -/
  | sor (c : BitVec 1) (w : BitVec 2) (d : BitVec 6) (a : BitVec 6) (b : BitVec 6) (q : BitVec 2)
  /-- SXOR (R119): Scalar bitwise exclusive or. -/
  | sxor (c : BitVec 1) (w : BitVec 2) (d : BitVec 6) (a : BitVec 6) (b : BitVec 6) (q : BitVec 2)
  /-- SSHL (R119): Scalar shift left. -/
  | sshl (c : BitVec 1) (w : BitVec 2) (d : BitVec 6) (a : BitVec 6) (b : BitVec 6) (q : BitVec 2)
  /-- SSHR (R119): Scalar logical shift right. -/
  | sshr (c : BitVec 1) (w : BitVec 2) (d : BitVec 6) (a : BitVec 6) (b : BitVec 6) (q : BitVec 2)
  /-- SSRA (R119): Scalar arithmetic shift right. -/
  | ssra (c : BitVec 1) (w : BitVec 2) (d : BitVec 6) (a : BitVec 6) (b : BitVec 6) (q : BitVec 2)
  /-- SMIN (R119): Scalar signed minimum. -/
  | smin (c : BitVec 1) (w : BitVec 2) (d : BitVec 6) (a : BitVec 6) (b : BitVec 6) (q : BitVec 2)
  /-- SMAX (R119): Scalar signed maximum. -/
  | smax (c : BitVec 1) (w : BitVec 2) (d : BitVec 6) (a : BitVec 6) (b : BitVec 6) (q : BitVec 2)
  /-- SMINU (R119): Scalar unsigned minimum. -/
  | sminu (c : BitVec 1) (w : BitVec 2) (d : BitVec 6) (a : BitVec 6) (b : BitVec 6) (q : BitVec 2)
  /-- SMAXU (R119): Scalar unsigned maximum. -/
  | smaxu (c : BitVec 1) (w : BitVec 2) (d : BitVec 6) (a : BitVec 6) (b : BitVec 6) (q : BitVec 2)
  /-- SADDW (R120): Scalar 64-bit add into a register pair. -/
  | saddw (c : BitVec 1) (w : BitVec 2) (d : BitVec 6) (a : BitVec 6) (b : BitVec 6) (q : BitVec 2)
  /-- SCMP (R121): Signed scalar compare that sets a condition. -/
  | scmp (c : BitVec 1) (w : BitVec 2) (k : BitVec 2) (e : BitVec 3) (a : BitVec 6) (b : BitVec 6) (q : BitVec 2)
  /-- SADDI (R122): Adds an immediate to a scalar register. -/
  | saddi (c : BitVec 1) (w : BitVec 2) (d : BitVec 6) (a : BitVec 6) (i : BitVec 12)
  /-- SMOVI (R122): Moves an immediate into a scalar register. -/
  | smovi (c : BitVec 1) (w : BitVec 2) (d : BitVec 6) (i : BitVec 18)
  /-- EXT (R71): Supplies the upper immediate bits to the next word of its packet. -/
  | ext (x : BitVec 24)
  /-- VADD (R128): Vector 32-bit add. -/
  | vadd (c : BitVec 1) (w : BitVec 2) (d : BitVec 6) (a : BitVec 6) (b : BitVec 6) (q : BitVec 2)
  /-- VSUB (R128): Vector 32-bit subtract. -/
  | vsub (c : BitVec 1) (w : BitVec 2) (d : BitVec 6) (a : BitVec 6) (b : BitVec 6) (q : BitVec 2)
  /-- VMUL (R128): Vector low 32-bit product. -/
  | vmul (c : BitVec 1) (w : BitVec 2) (d : BitVec 6) (a : BitVec 6) (b : BitVec 6) (q : BitVec 2)
  /-- VMULH (R128): Vector high word of the signed product. -/
  | vmulh (c : BitVec 1) (w : BitVec 2) (d : BitVec 6) (a : BitVec 6) (b : BitVec 6) (q : BitVec 2)
  /-- VMULHU (R128): Vector high word of the unsigned product. -/
  | vmulhu (c : BitVec 1) (w : BitVec 2) (d : BitVec 6) (a : BitVec 6) (b : BitVec 6) (q : BitVec 2)
  /-- VAND (R128): Vector bitwise and. -/
  | vand (c : BitVec 1) (w : BitVec 2) (d : BitVec 6) (a : BitVec 6) (b : BitVec 6) (q : BitVec 2)
  /-- VOR (R128): Vector bitwise or. -/
  | vor (c : BitVec 1) (w : BitVec 2) (d : BitVec 6) (a : BitVec 6) (b : BitVec 6) (q : BitVec 2)
  /-- VXOR (R128): Vector bitwise exclusive or. -/
  | vxor (c : BitVec 1) (w : BitVec 2) (d : BitVec 6) (a : BitVec 6) (b : BitVec 6) (q : BitVec 2)
  /-- VSHL (R128): Vector shift left. -/
  | vshl (c : BitVec 1) (w : BitVec 2) (d : BitVec 6) (a : BitVec 6) (b : BitVec 6) (q : BitVec 2)
  /-- VSHR (R128): Vector logical shift right. -/
  | vshr (c : BitVec 1) (w : BitVec 2) (d : BitVec 6) (a : BitVec 6) (b : BitVec 6) (q : BitVec 2)
  /-- VSRA (R128): Vector arithmetic shift right. -/
  | vsra (c : BitVec 1) (w : BitVec 2) (d : BitVec 6) (a : BitVec 6) (b : BitVec 6) (q : BitVec 2)
  /-- VMIN (R128): Vector signed minimum. -/
  | vmin (c : BitVec 1) (w : BitVec 2) (d : BitVec 6) (a : BitVec 6) (b : BitVec 6) (q : BitVec 2)
  /-- VMAX (R128): Vector signed maximum. -/
  | vmax (c : BitVec 1) (w : BitVec 2) (d : BitVec 6) (a : BitVec 6) (b : BitVec 6) (q : BitVec 2)
  /-- VMINU (R128): Vector unsigned minimum. -/
  | vminu (c : BitVec 1) (w : BitVec 2) (d : BitVec 6) (a : BitVec 6) (b : BitVec 6) (q : BitVec 2)
  /-- VMAXU (R128): Vector unsigned maximum. -/
  | vmaxu (c : BitVec 1) (w : BitVec 2) (d : BitVec 6) (a : BitVec 6) (b : BitVec 6) (q : BitVec 2)
  /-- VADDW (R129): Vector 64-bit add into a register pair. -/
  | vaddw (c : BitVec 1) (w : BitVec 2) (d : BitVec 6) (a : BitVec 6) (b : BitVec 6) (q : BitVec 2)
  /-- VADDI (R130): Adds an immediate to a vector register. -/
  | vaddi (c : BitVec 1) (w : BitVec 2) (d : BitVec 6) (a : BitVec 6) (i : BitVec 12)
  /-- VMAD (R131): Vector integer multiply-add. -/
  | vmad (c : BitVec 1) (w : BitVec 2) (d : BitVec 6) (a : BitVec 6) (b : BitVec 6) (j : BitVec 6)
  /-- VMOV (R132): Vector move or broadcast. -/
  | vmov (c : BitVec 1) (w : BitVec 2) (d : BitVec 6) (b : BitVec 6) (q : BitVec 2)
  /-- VPOPC (R132): Vector population count. -/
  | vpopc (c : BitVec 1) (w : BitVec 2) (d : BitVec 6) (b : BitVec 6) (q : BitVec 2)
  /-- VCLZ (R132): Vector count of leading zeros. -/
  | vclz (c : BitVec 1) (w : BitVec 2) (d : BitVec 6) (b : BitVec 6) (q : BitVec 2)
  /-- VLANE (R132): Writes each lane's index in the team. -/
  | vlane (c : BitVec 1) (w : BitVec 2) (d : BitVec 6)
  /-- VITEM (R132): Writes ITEM × TEAMLANES + lane. -/
  | vitem (c : BitVec 1) (w : BitVec 2) (d : BitVec 6)
  /-- VBREV (R132): Vector bit reverse. -/
  | vbrev (c : BitVec 1) (w : BitVec 2) (d : BitVec 6) (b : BitVec 6) (q : BitVec 2)
  /-- VNOT (R132): Vector bitwise not. -/
  | vnot (c : BitVec 1) (w : BitVec 2) (d : BitVec 6) (b : BitVec 6) (q : BitVec 2)
  /-- VABS (R132): Vector integer absolute value. -/
  | vabs (c : BitVec 1) (w : BitVec 2) (d : BitVec 6) (b : BitVec 6) (q : BitVec 2)
  /-- VCVT_I2F (R134): Converts a signed integer to FP32. -/
  | vcvtI2f (c : BitVec 1) (w : BitVec 2) (d : BitVec 6) (b : BitVec 6) (q : BitVec 2)
  /-- VCVT_U2F (R134): Converts an unsigned integer to FP32. -/
  | vcvtU2f (c : BitVec 1) (w : BitVec 2) (d : BitVec 6) (b : BitVec 6) (q : BitVec 2)
  /-- VCVT_F2I (R134): Converts FP32 to a signed integer with saturation. -/
  | vcvtF2i (c : BitVec 1) (w : BitVec 2) (d : BitVec 6) (b : BitVec 6) (q : BitVec 2)
  /-- VCVT_F2U (R134): Converts FP32 to an unsigned integer with saturation. -/
  | vcvtF2u (c : BitVec 1) (w : BitVec 2) (d : BitVec 6) (b : BitVec 6) (q : BitVec 2)
  /-- VCVT_F2H (R134): Converts FP32 to FP16 in mode RM. -/
  | vcvtF2h (c : BitVec 1) (w : BitVec 2) (d : BitVec 6) (b : BitVec 6) (q : BitVec 2)
  /-- VCVT_H2F (R134): Converts FP16 to FP32 exactly. -/
  | vcvtH2f (c : BitVec 1) (w : BitVec 2) (d : BitVec 6) (b : BitVec 6) (q : BitVec 2)
  /-- VBFX (R133): Extracts an unsigned bit field. -/
  | vbfx (c : BitVec 1) (w : BitVec 2) (d : BitVec 6) (a : BitVec 6) (b : BitVec 6) (q : BitVec 2)
  /-- VFADD (R135): FP32 add. -/
  | vfadd (c : BitVec 1) (w : BitVec 2) (d : BitVec 6) (a : BitVec 6) (b : BitVec 6) (q : BitVec 2)
  /-- VFSUB (R135): FP32 subtract. -/
  | vfsub (c : BitVec 1) (w : BitVec 2) (d : BitVec 6) (a : BitVec 6) (b : BitVec 6) (q : BitVec 2)
  /-- VFMUL (R135): FP32 multiply. -/
  | vfmul (c : BitVec 1) (w : BitVec 2) (d : BitVec 6) (a : BitVec 6) (b : BitVec 6) (q : BitVec 2)
  /-- VFMIN (R135): FP32 minimum. -/
  | vfmin (c : BitVec 1) (w : BitVec 2) (d : BitVec 6) (a : BitVec 6) (b : BitVec 6) (q : BitVec 2)
  /-- VFMAX (R135): FP32 maximum. -/
  | vfmax (c : BitVec 1) (w : BitVec 2) (d : BitVec 6) (a : BitVec 6) (b : BitVec 6) (q : BitVec 2)
  /-- VFNEG (R136): Inverts the sign bit. -/
  | vfneg (c : BitVec 1) (w : BitVec 2) (d : BitVec 6) (b : BitVec 6) (q : BitVec 2)
  /-- VFABS (R136): Clears the sign bit. -/
  | vfabs (c : BitVec 1) (w : BitVec 2) (d : BitVec 6) (b : BitVec 6) (q : BitVec 2)
  /-- VFCLASS (R136): Classifies an FP32 pattern as a one-hot mask. -/
  | vfclass (c : BitVec 1) (w : BitVec 2) (d : BitVec 6) (b : BitVec 6) (q : BitVec 2)
  /-- VQFAC (R138): Computes the quire merge maximum and factor on the SFU. -/
  | vqfac (c : BitVec 1) (w : BitVec 2) (d : BitVec 6) (a : BitVec 6) (b : BitVec 6) (q : BitVec 2)
  /-- VQNORM (R139): Computes o / l on the SFU, giving +0 when l is zero. -/
  | vqnorm (c : BitVec 1) (w : BitVec 2) (d : BitVec 6) (a : BitVec 6) (b : BitVec 6) (q : BitVec 2)
  /-- VFMA (R137): FP32 fused multiply-add. -/
  | vfma (c : BitVec 1) (w : BitVec 2) (d : BitVec 6) (a : BitVec 6) (b : BitVec 6) (j : BitVec 6)
  /-- VHADD (R140): Packed 16-bit add. -/
  | vhadd (c : BitVec 1) (w : BitVec 2) (d : BitVec 6) (a : BitVec 6) (b : BitVec 6) (q : BitVec 2) (f : BitVec 1)
  /-- VHSUB (R140): Packed 16-bit subtract. -/
  | vhsub (c : BitVec 1) (w : BitVec 2) (d : BitVec 6) (a : BitVec 6) (b : BitVec 6) (q : BitVec 2) (f : BitVec 1)
  /-- VHMUL (R140): Packed 16-bit multiply. -/
  | vhmul (c : BitVec 1) (w : BitVec 2) (d : BitVec 6) (a : BitVec 6) (b : BitVec 6) (q : BitVec 2) (f : BitVec 1)
  /-- VHMIN (R140): Packed 16-bit minimum. -/
  | vhmin (c : BitVec 1) (w : BitVec 2) (d : BitVec 6) (a : BitVec 6) (b : BitVec 6) (q : BitVec 2) (f : BitVec 1)
  /-- VHMAX (R140): Packed 16-bit maximum. -/
  | vhmax (c : BitVec 1) (w : BitVec 2) (d : BitVec 6) (a : BitVec 6) (b : BitVec 6) (q : BitVec 2) (f : BitVec 1)
  /-- VHDOT (R141): Two-element 16-bit dot product accumulated into FP32. -/
  | vhdot (c : BitVec 1) (w : BitVec 2) (d : BitVec 6) (a : BitVec 6) (b : BitVec 6) (q : BitVec 2) (f : BitVec 1)
  /-- VHNEG (R140): Inverts the sign of both halves. -/
  | vhneg (c : BitVec 1) (w : BitVec 2) (d : BitVec 6) (b : BitVec 6) (q : BitVec 2) (f : BitVec 1)
  /-- VHABS (R140): Clears the sign of both halves. -/
  | vhabs (c : BitVec 1) (w : BitVec 2) (d : BitVec 6) (b : BitVec 6) (q : BitVec 2) (f : BitVec 1)
  /-- VHFMA_BF (R142): Packed BF16 fused multiply-add. -/
  | vhfmaBf (c : BitVec 1) (w : BitVec 2) (d : BitVec 6) (a : BitVec 6) (b : BitVec 6) (j : BitVec 6)
  /-- VHFMA_HF (R142): Packed FP16 fused multiply-add. -/
  | vhfmaHf (c : BitVec 1) (w : BitVec 2) (d : BitVec 6) (a : BitVec 6) (b : BitVec 6) (j : BitVec 6)
  /-- VCMP_S (R143): Signed integer compare into a predicate. -/
  | vcmpS (c : BitVec 1) (w : BitVec 2) (p : BitVec 3) (e : BitVec 3) (a : BitVec 6) (b : BitVec 6) (q : BitVec 2)
  /-- VCMP_U (R143): Unsigned integer compare into a predicate. -/
  | vcmpU (c : BitVec 1) (w : BitVec 2) (p : BitVec 3) (e : BitVec 3) (a : BitVec 6) (b : BitVec 6) (q : BitVec 2)
  /-- VCMP_F (R143): FP32 compare into a predicate. -/
  | vcmpF (c : BitVec 1) (w : BitVec 2) (p : BitVec 3) (e : BitVec 3) (a : BitVec 6) (b : BitVec 6) (q : BitVec 2)
  /-- PAND (R144): Predicate and. -/
  | pand (c : BitVec 1) (w : BitVec 2) (p : BitVec 3) (a : BitVec 3) (b : BitVec 3)
  /-- POR (R144): Predicate or. -/
  | por (c : BitVec 1) (w : BitVec 2) (p : BitVec 3) (a : BitVec 3) (b : BitVec 3)
  /-- PXOR (R144): Predicate exclusive or. -/
  | pxor (c : BitVec 1) (w : BitVec 2) (p : BitVec 3) (a : BitVec 3) (b : BitVec 3)
  /-- PNOT (R144): Predicate not. -/
  | pnot (c : BitVec 1) (w : BitVec 2) (p : BitVec 3) (b : BitVec 3)
  /-- VSEL (R145): Selects a or b per lane by a predicate. -/
  | vsel (c : BitVec 1) (w : BitVec 2) (d : BitVec 6) (a : BitVec 6) (b : BitVec 6) (q : BitVec 2) (r : BitVec 3)
  /-- VRCP (R147): SFU reciprocal. -/
  | vrcp (c : BitVec 1) (w : BitVec 2) (d : BitVec 6) (b : BitVec 6) (q : BitVec 2)
  /-- VRSQ (R147): SFU reciprocal square root. -/
  | vrsq (c : BitVec 1) (w : BitVec 2) (d : BitVec 6) (b : BitVec 6) (q : BitVec 2)
  /-- VSQRT (R147): SFU square root. -/
  | vsqrt (c : BitVec 1) (w : BitVec 2) (d : BitVec 6) (b : BitVec 6) (q : BitVec 2)
  /-- VEXP2 (R147): SFU power of two. -/
  | vexp2 (c : BitVec 1) (w : BitVec 2) (d : BitVec 6) (b : BitVec 6) (q : BitVec 2)
  /-- VLOG2 (R147): SFU base-2 logarithm. -/
  | vlog2 (c : BitVec 1) (w : BitVec 2) (d : BitVec 6) (b : BitVec 6) (q : BitVec 2)
  /-- VSIN (R147): SFU sine. -/
  | vsin (c : BitVec 1) (w : BitVec 2) (d : BitVec 6) (b : BitVec 6) (q : BitVec 2)
  /-- VCOS (R147): SFU cosine. -/
  | vcos (c : BitVec 1) (w : BitVec 2) (d : BitVec 6) (b : BitVec 6) (q : BitVec 2)
  /-- VTANH (R147): SFU hyperbolic tangent. -/
  | vtanh (c : BitVec 1) (w : BitVec 2) (d : BitVec 6) (b : BitVec 6) (q : BitVec 2)
  /-- VSHFL (R150): Shuffle within a group by an index. -/
  | vshfl (c : BitVec 1) (w : BitVec 2) (d : BitVec 6) (a : BitVec 6) (b : BitVec 6) (q : BitVec 2)
  /-- VSHFLU (R150): Shuffle up within a group. -/
  | vshflu (c : BitVec 1) (w : BitVec 2) (d : BitVec 6) (a : BitVec 6) (b : BitVec 6) (q : BitVec 2)
  /-- VSHFLD (R150): Shuffle down within a group. -/
  | vshfld (c : BitVec 1) (w : BitVec 2) (d : BitVec 6) (a : BitVec 6) (b : BitVec 6) (q : BitVec 2)
  /-- VSHFLX (R150): Shuffle by an exclusive-or index within a group. -/
  | vshflx (c : BitVec 1) (w : BitVec 2) (d : BitVec 6) (a : BitVec 6) (b : BitVec 6) (q : BitVec 2)
  /-- VBCAST (R151): Broadcasts one lane's value to each group. -/
  | vbcast (c : BitVec 1) (w : BitVec 2) (d : BitVec 6) (a : BitVec 6) (b : BitVec 6) (q : BitVec 2)
  /-- VBALLOT (R152): Writes a group mask of a predicate. -/
  | vballot (c : BitVec 1) (w : BitVec 2) (d : BitVec 6) (p : BitVec 3)
  /-- VANY (R153): Sets a condition if a predicate is true in any active lane. -/
  | vany (c : BitVec 1) (w : BitVec 2) (k : BitVec 2) (p : BitVec 3)
  /-- VALL (R153): Sets a condition if a predicate is true in every active lane. -/
  | vall (c : BitVec 1) (w : BitVec 2) (k : BitVec 2) (p : BitVec 3)
  /-- VMRED_ADD (R154): Sums values over lanes sharing a key, at each key's leader. -/
  | vmredAdd (c : BitVec 1) (w : BitVec 2) (d : BitVec 6) (a : BitVec 6) (b : BitVec 6) (q : BitVec 2)
  /-- VMRED_MIN (R154): Signed minimum over lanes sharing a key. -/
  | vmredMin (c : BitVec 1) (w : BitVec 2) (d : BitVec 6) (a : BitVec 6) (b : BitVec 6) (q : BitVec 2)
  /-- VMRED_MAX (R154): Signed maximum over lanes sharing a key. -/
  | vmredMax (c : BitVec 1) (w : BitVec 2) (d : BitVec 6) (a : BitVec 6) (b : BitVec 6) (q : BitVec 2)
  /-- VSCAN_ADD (R155): Inclusive prefix sum within a group. -/
  | vscanAdd (c : BitVec 1) (w : BitVec 2) (d : BitVec 6) (a : BitVec 6) (t : BitVec 1)
  /-- VSCANX_ADD (R155): Exclusive prefix sum within a group. -/
  | vscanxAdd (c : BitVec 1) (w : BitVec 2) (d : BitVec 6) (a : BitVec 6) (t : BitVec 1)
  /-- VREDG_ADD (R156): Group total written to every active lane. -/
  | vredgAdd (c : BitVec 1) (w : BitVec 2) (d : BitVec 6) (a : BitVec 6) (t : BitVec 1)
  /-- VREDG_MAX (R156): Group maximum written to every active lane. -/
  | vredgMax (c : BitVec 1) (w : BitVec 2) (d : BitVec 6) (a : BitVec 6) (t : BitVec 1)
  /-- VMATCH (R152): Writes the mask of lanes of the group holding an equal key. -/
  | vmatch (c : BitVec 1) (w : BitVec 2) (d : BitVec 6) (a : BitVec 6)
  /-- LDG (R161): Global load with optional conversion, counted on LD. -/
  | ldg (c : BitVec 1) (w : BitVec 2) (d : BitVec 6) (a : BitVec 6) (o : BitVec 6) (q : BitVec 2) (f : BitVec 4)
  /-- STG (R164): Global store with optional conversion, charged against capacity. -/
  | stg (c : BitVec 1) (w : BitVec 2) (d : BitVec 6) (a : BitVec 6) (o : BitVec 6) (q : BitVec 2) (f : BitVec 4)
  /-- LDU (R163): Uniform global load into scalar registers. -/
  | ldu (c : BitVec 1) (w : BitVec 2) (d : BitVec 6) (a : BitVec 6) (o : BitVec 6) (q : BitVec 2) (f : BitVec 4)
  /-- LDS (R166): Local scratchpad load. -/
  | lds (c : BitVec 1) (w : BitVec 2) (d : BitVec 6) (a : BitVec 6) (o : BitVec 6) (fh : BitVec 1) (fl : BitVec 2)
  /-- STS (R166): Local scratchpad store, performed at issue. -/
  | sts (c : BitVec 1) (w : BitVec 2) (d : BitVec 6) (a : BitVec 6) (o : BitVec 6) (fh : BitVec 1) (fl : BitVec 2)
  /-- LDS_R (R167): Remote scratchpad load from another core of the cluster. -/
  | ldsR (c : BitVec 1) (w : BitVec 2) (d : BitVec 6) (a : BitVec 6) (x : BitVec 5) (y : BitVec 4) (g : BitVec 2)
  /-- STS_R (R167): Remote scratchpad store to another core of the cluster. -/
  | stsR (c : BitVec 1) (w : BitVec 2) (d : BitVec 6) (a : BitVec 6) (x : BitVec 5) (y : BitVec 4) (g : BitVec 2)
  /-- ATOM_ADD (R169): Atomic 32-bit add. -/
  | atomAdd (c : BitVec 1) (w : BitVec 2) (d : BitVec 6) (a : BitVec 6) (o : BitVec 2) (e : BitVec 3) (p : BitVec 1) (r : BitVec 1)
  /-- ATOM_MIN (R169): Atomic signed minimum. -/
  | atomMin (c : BitVec 1) (w : BitVec 2) (d : BitVec 6) (a : BitVec 6) (o : BitVec 2) (e : BitVec 3) (p : BitVec 1) (r : BitVec 1)
  /-- ATOM_MAX (R169): Atomic signed maximum. -/
  | atomMax (c : BitVec 1) (w : BitVec 2) (d : BitVec 6) (a : BitVec 6) (o : BitVec 2) (e : BitVec 3) (p : BitVec 1) (r : BitVec 1)
  /-- ATOM_MINU (R169): Atomic unsigned minimum. -/
  | atomMinu (c : BitVec 1) (w : BitVec 2) (d : BitVec 6) (a : BitVec 6) (o : BitVec 2) (e : BitVec 3) (p : BitVec 1) (r : BitVec 1)
  /-- ATOM_MAXU (R169): Atomic unsigned maximum. -/
  | atomMaxu (c : BitVec 1) (w : BitVec 2) (d : BitVec 6) (a : BitVec 6) (o : BitVec 2) (e : BitVec 3) (p : BitVec 1) (r : BitVec 1)
  /-- ATOM_AND (R169): Atomic and. -/
  | atomAnd (c : BitVec 1) (w : BitVec 2) (d : BitVec 6) (a : BitVec 6) (o : BitVec 2) (e : BitVec 3) (p : BitVec 1) (r : BitVec 1)
  /-- ATOM_OR (R169): Atomic or. -/
  | atomOr (c : BitVec 1) (w : BitVec 2) (d : BitVec 6) (a : BitVec 6) (o : BitVec 2) (e : BitVec 3) (p : BitVec 1) (r : BitVec 1)
  /-- ATOM_XOR (R169): Atomic exclusive or. -/
  | atomXor (c : BitVec 1) (w : BitVec 2) (d : BitVec 6) (a : BitVec 6) (o : BitVec 2) (e : BitVec 3) (p : BitVec 1) (r : BitVec 1)
  /-- ATOM_EXCH (R169): Atomic exchange. -/
  | atomExch (c : BitVec 1) (w : BitVec 2) (d : BitVec 6) (a : BitVec 6) (o : BitVec 2) (e : BitVec 3) (p : BitVec 1) (r : BitVec 1)
  /-- ATOM_CAS (R169): Atomic compare and swap. -/
  | atomCas (c : BitVec 1) (w : BitVec 2) (d : BitVec 6) (a : BitVec 6) (o : BitVec 2) (e : BitVec 3) (p : BitVec 1) (r : BitVec 1)
  /-- ATOM_FADD_F32 (R169): Atomic FP32 add. -/
  | atomFaddF32 (c : BitVec 1) (w : BitVec 2) (d : BitVec 6) (a : BitVec 6) (o : BitVec 2) (e : BitVec 3) (p : BitVec 1) (r : BitVec 1)
  /-- ATOM_FADD_BF16X2 (R169): Atomic packed BF16 add. -/
  | atomFaddBf16x2 (c : BitVec 1) (w : BitVec 2) (d : BitVec 6) (a : BitVec 6) (o : BitVec 2) (e : BitVec 3) (p : BitVec 1) (r : BitVec 1)
  /-- ATOM_LD (R169): Atomic load, usually with acquire. -/
  | atomLd (c : BitVec 1) (w : BitVec 2) (d : BitVec 6) (a : BitVec 6) (o : BitVec 2) (e : BitVec 3) (p : BitVec 1) (r : BitVec 1)
  /-- ATOM_ST (R169): Atomic store, usually with release. -/
  | atomSt (c : BitVec 1) (w : BitVec 2) (d : BitVec 6) (a : BitVec 6) (o : BitVec 2) (e : BitVec 3) (p : BitVec 1) (r : BitVec 1)
  /-- ATOM_ADD_W (R169): Atomic 64-bit add. -/
  | atomAddW (c : BitVec 1) (w : BitVec 2) (d : BitVec 6) (a : BitVec 6) (o : BitVec 2) (e : BitVec 3) (p : BitVec 1) (r : BitVec 1)
  /-- CWB (R179): Writes back the dirty lines of an address range. -/
  | cwb (c : BitVec 1) (w : BitVec 2) (a : BitVec 6) (n : BitVec 6)
  /-- CINV (R180): Writes back, then drops, a range's lines from the issuing die's L2. -/
  | cinv (c : BitVec 1) (w : BitVec 2) (a : BitVec 6) (n : BitVec 6)
  /-- PF (R181): Prefetches a range into L2 or L1 and starts migrations of remote pages. -/
  | pf (c : BitVec 1) (w : BitVec 2) (a : BitVec 6) (n : BitVec 6) (l : BitVec 1)
  /-- TRANS (R182): Translates per-lane KV positions through a block table, reporting remote pages in a replay mask. -/
  | trans (c : BitVec 1) (w : BitVec 2) (d : BitVec 6) (t : BitVec 6) (p : BitVec 3)
  /-- TRANS_S (R183): Translates one KV position, parking until its block is resident. -/
  | transS (c : BitVec 1) (w : BitVec 2) (d : BitVec 6) (t : BitVec 6)
  /-- RSVQ (R184): Reads a die's capacity reserve. -/
  | rsvq (c : BitVec 1) (w : BitVec 2) (d : BitVec 6) (i : BitVec 2)
  /-- BLNQ (R185): Reads the open balloon request and the granules still owed. -/
  | blnq (c : BitVec 1) (w : BitVec 2) (d : BitVec 6)
  /-- PGSURR (R186): Surrenders pages, freeing their granules and crediting the open balloon. -/
  | pgsurr (c : BitVec 1) (w : BitVec 2) (d : BitVec 6) (a : BitVec 6) (n : BitVec 6)
  /-- BLNACK (R188): Closes the open balloon request if its identifier matches. -/
  | blnack (c : BitVec 1) (w : BitVec 2) (a : BitVec 6)
  /-- BLKQ (R189): Reads the stored state of one block. -/
  | blkq (c : BitVec 1) (w : BitVec 2) (d : BitVec 6) (a : BitVec 6)
  /-- MZERO (R203): Clears accumulator rows. -/
  | mzero (c : BitVec 1) (w : BitVec 2) (i : BitVec 5) (p : BitVec 5) (q : BitVec 5) (b : BitVec 5)
  /-- MLOAD (R204): Loads a B tile into the shadow plane. -/
  | mload (c : BitVec 1) (w : BitVec 2) (i : BitVec 5) (p : BitVec 5) (q : BitVec 5) (b : BitVec 5)
  /-- MLOADS (R204): Loads a B tile with smoothing row factors into the shadow plane. -/
  | mloads (c : BitVec 1) (w : BitVec 2) (i : BitVec 5) (p : BitVec 5) (q : BitVec 5) (b : BitVec 5)
  /-- MSWAP (R205): Exchanges the active and shadow planes. -/
  | mswap (c : BitVec 1) (w : BitVec 2) (i : BitVec 5) (p : BitVec 5) (q : BitVec 5)
  /-- MSTREAM (R206): Streams A rows past the active plane into accumulator rows. -/
  | mstream (c : BitVec 1) (w : BitVec 2) (i : BitVec 5) (p : BitVec 5) (q : BitVec 5) (b : BitVec 5)
  /-- MSTORE (R208): Converts and stores accumulator rows to scratchpad. -/
  | mstore (c : BitVec 1) (w : BitVec 2) (i : BitVec 5) (p : BitVec 5) (q : BitVec 5) (b : BitVec 5)
  /-- MSCALE (R207): Scales accumulator rows by per-row factors. -/
  | mscale (c : BitVec 1) (w : BitVec 2) (i : BitVec 5) (p : BitVec 5) (q : BitVec 5) (b : BitVec 5)
  /-- MFENCE (R209): Closes the team's issued commands into a batch. -/
  | mfence (c : BitVec 1) (w : BitVec 2)
  /-- MWAIT (R209): Waits until the named batches have retired. -/
  | mwait (c : BitVec 1) (w : BitVec 2) (b : BitVec 5)
  /-- MERRQ (R211): Reads one matrix operand-error log entry. -/
  | merrq (c : BitVec 1) (w : BitVec 2) (b : BitVec 5)
  /-- MSTAT (R210): Reads MSTATUS and the unretired count, then clears the sticky error bits. -/
  | mstat (c : BitVec 1) (w : BitVec 2) (b : BitVec 5)
  /-- CPY_G2S (R215): Copies global rows into scratchpad. -/
  | cpyG2s (c : BitVec 1) (w : BitVec 2) (q : BitVec 2) (b : BitVec 6) (n : BitVec 6)
  /-- CPY_S2G (R215): Copies scratchpad rows to global memory. -/
  | cpyS2g (c : BitVec 1) (w : BitVec 2) (q : BitVec 2) (b : BitVec 6) (n : BitVec 6)
  /-- CPY_S2S (R215): Copies rows between scratchpads of the cluster. -/
  | cpyS2s (c : BitVec 1) (w : BitVec 2) (q : BitVec 2) (b : BitVec 6) (n : BitVec 6)
  /-- CPY_GTH (R215): Gathers indexed global elements into scratchpad. -/
  | cpyGth (c : BitVec 1) (w : BitVec 2) (q : BitVec 2) (b : BitVec 6) (n : BitVec 6)
  /-- CPY_SCT (R215): Scatters scratchpad elements to indexed global locations. -/
  | cpySct (c : BitVec 1) (w : BitVec 2) (q : BitVec 2) (b : BitVec 6) (n : BitVec 6)
  /-- CPY_FILL (R215): Fills scratchpad rows with a value. -/
  | cpyFill (c : BitVec 1) (w : BitVec 2) (q : BitVec 2) (b : BitVec 6) (n : BitVec 6)
  /-- CGRP (R223): Declares a collective group and returns rank and member count. -/
  | cgrp (c : BitVec 1) (w : BitVec 2) (b : BitVec 6) (g : BitVec 2)
  /-- CAG (R225): Collective all-gather. -/
  | cag (c : BitVec 1) (w : BitVec 2) (b : BitVec 6) (g : BitVec 2)
  /-- CRS (R225): Collective reduce-scatter. -/
  | crs (c : BitVec 1) (w : BitVec 2) (b : BitVec 6) (g : BitVec 2)
  /-- CAR (R225): Collective all-reduce folded in rank order. -/
  | car (c : BitVec 1) (w : BitVec 2) (b : BitVec 6) (g : BitVec 2)
  /-- CA2A (R225): Collective all-to-all. -/
  | ca2a (c : BitVec 1) (w : BitVec 2) (b : BitVec 6) (g : BitVec 2)
  /-- CBAR (R228): Collective barrier, a release at the group's scope. -/
  | cbar (c : BitVec 1) (w : BitVec 2) (g : BitVec 2)
  /-- RUN (R231): Starts the team's runner at a code offset. -/
  | run (c : BitVec 1) (w : BitVec 2) (o : BitVec 16)
  /-- RSTOP (R231): Stops the runner after its current word. -/
  | rstop (c : BitVec 1) (w : BitVec 2)
  /-- QPOP (R235): Pops one sprue entry per active lane. -/
  | qpop (c : BitVec 1) (w : BitVec 2) (d : BitVec 6) (q : BitVec 2)
  /-- QPOPS (R235): Pops one sprue entry into a scalar pair. -/
  | qpops (c : BitVec 1) (w : BitVec 2) (d : BitVec 6) (q : BitVec 2)
  /-- QPUSH (R234): Pushes a 64-bit entry onto a sprue queue, after earlier copies with F. -/
  | qpush (c : BitVec 1) (w : BitVec 2) (a : BitVec 6) (q : BitVec 2) (f : BitVec 1)
  /-- QSTAT (R233): Reads the runner status and a queue's count. -/
  | qstat (c : BitVec 1) (w : BitVec 2) (d : BitVec 6) (q : BitVec 2)
  /-- RESERVED_ENCODING (R76): A fetched word with a reserved major, function or field value, or major 0x1F, raises trap 0x01 or 0x12. -/
  | reservedEncoding (word : BitVec 32)
  /-- COMPARATOR_HIT (R302): A debug comparator matches before a word issues and raises trap 0x0D. -/
  | comparatorHit (core slot : Nat) (path : Bool) (cmp : Nat)
  /-- DISPATCH_COHORT (R336): The scheduler places a ready cohort on a core that can accept it. -/
  | dispatchCohort (die cluster : Nat)
  /-- TEAM_EXIT (R29): A team whose paths have exited and whose counters and matrix commands have drained releases its slot and publishes its spine slots. -/
  | teamExit (core slot : Nat)
  /-- BIN_TIMER_EXPIRY (R34): A bin's timer expires and the bin closes. -/
  | binTimerExpiry (die cluster bin : Nat)
  /-- BIN_TEAM_DISPATCH (R337): A team made from a closed bin is dispatched within its cluster. -/
  | binTeamDispatch (die cluster : Nat)
  /-- EVICT_TEAM (R32): A core stalled for registers saves and evicts its youngest team. -/
  | evictTeam (core : Nat)
  /-- RETURN_EVICTED_TEAM (R33): An evicted team returns to its core once frames and a slot are free. -/
  | returnEvictedTeam (core : Nat)
  /-- GROW_GRANT (R31): A pending GROW is granted once frames are free. -/
  | growGrant (core : Nat)
  /-- LAUNCH_COMPLETION (R333): A launch whose items and children are done performs its release and completion-word write. -/
  | launchCompletion (ctx launch : Nat)
  /-- OPERATING_POINT_STABLE (R338): A raised operating point becomes stable and the waiting team proceeds. -/
  | operatingPointStable (die : Nat)
  /-- LOAD_RETURN (R52): A global or uniform load, global atomic or LD-counted query returns and the LD counter falls. -/
  | loadReturn (core op : Nat)
  /-- SCRATCHPAD_LOAD_RETURN (R166): A scratchpad load or atomic returns and the SP counter falls. -/
  | scratchpadLoadReturn (core op : Nat)
  /-- SFU_RESULT_RETURN (R146): An SFU result is written, its flags are ORed in, and the SFU counter falls. -/
  | sfuResultReturn (core op : Nat)
  /-- STORE_PERFORMED (R165): A store's sectors are written into the home L2 slice and the ST counter falls. -/
  | storePerformed (core op : Nat)
  /-- REMOTE_STORE_PERFORMED (R167): A remote scratchpad store reaches its target bank. -/
  | remoteStorePerformed (core op : Nat)
  /-- ATOMIC_PERFORMED (R170): An atomic lane's read-modify-write is performed at the home slice or bank. -/
  | atomicPerformed (core op lane : Nat)
  /-- CWB_COMPLETE (R179): Every writeback of a CWB has been stored and the ST counter falls. -/
  | cwbComplete (core op : Nat)
  /-- CINV_COMPLETE (R180): A CINV's writeback and drop are complete and the ST counter falls. -/
  | cinvComplete (core op : Nat)
  /-- PGSURR_PAGE_DONE (R186): A surrendered page becomes unbacked, its granules go to free and are credited. -/
  | pgsurrPageDone (core op : Nat)
  /-- TRANS_RETURN (R182): A TRANS writes its resolved lanes and replay mask and the GTH counter falls. -/
  | transReturn (core op : Nat)
  /-- BLOCK_WRITEBACK (R177): An L2 eviction writes a block back, which is sized and its excess granules freed. -/
  | blockWriteback (die block : Nat)
  /-- LADLE_REFILL (R175): The crucible answers a ladle shortfall; the parked store proceeds or raises trap 0x05. -/
  | ladleRefill (core slot : Nat)
  /-- LADLE_RETURN (R173): A core with no team of the context returns both ladles once all charges are answered. -/
  | ladleReturn (core ctx : Nat)
  /-- MIGRATION_COMPLETE (R267): A page migration ends and parked accesses replay in parking order. -/
  | migrationComplete (page : Nat)
  /-- MIGRATION_FAILED (R324): A migration that cannot complete marks the page failed or short, or traps parked instructions. -/
  | migrationFailed (page : Nat) (tierLost : Bool)
  /-- COPY_OPERATION_COMPLETE (R214): A copy-engine operation completes and the CPY counter falls. -/
  | copyOperationComplete (core queue : Nat)
  /-- COLLECTIVE_COMPLETE (R224): A collective completes once all members have issued it, normally or with the mismatch fate. -/
  | collectiveComplete (core op : Nat) (remote : List (Nat × List (BitVec 32)))
  /-- MATRIX_COMMAND_START (R200): A matrix command whose predecessors have retired and whose unit is free starts. -/
  | matrixCommandStart (core cmd : Nat)
  /-- MATRIX_COMMAND_RETIRE (R200): A matrix command's writes complete and it retires. -/
  | matrixCommandRetire (core cmd : Nat)
  /-- TRAP_ENTRY (R343): Trap entry holds the other path, drains the SFU, banks registers and starts the handler or kills the team. -/
  | trapEntry (core slot : Nat) (path : Bool) (cause : BitVec 8) (fault : BitVec 64) (aux : BitVec 32)
  /-- YIELD_SAVE (R106): A yielding team whose counters have drained is saved clean. -/
  | yieldSave (core slot : Nat)
  /-- PREEMPT_DEADLINE (R347): The PDEADLINE count expires and every remaining team is force-saved. -/
  | preemptDeadline (ctx : Nat)
  /-- SAVE_COMPLETE (R347): The last image section is written and ladles returned; STATE becomes saved. -/
  | saveComplete (ctx : Nat)
  /-- RESTORE_COMPLETE (R350): The last restored team becomes resident and STATE becomes running. -/
  | restoreComplete (ctx : Nat)
  /-- INVALIDATION_DONE (R357): The invalidation's translations are dropped and their accesses done; DONE becomes 1. -/
  | invalidationDone (ctx : Nat)
  /-- PC_SAMPLE (R297): Every N cycles each scheduler samples its next resident team. -/
  | pcSample (core sched : Nat)
  /-- DEBUG_STEP_END (R303): A stepped waiting word or command completes and the path stops with a stop record. -/
  | debugStepEnd (core slot : Nat)
  /-- DEPENDENCE_RECHECK (R332): A write performed to a watched dependence word's line causes a re-read that may make the launch ready. -/
  | dependenceRecheck (ctx launch : Nat)
  /-- STOP_ON_TICK (R305): The armed tick arrives and every clock domain of the package is gated. -/
  | stopOnTick
  /-- REPLICATION_WINDOW_CLEAR (R268): At every tick that is a multiple of 2^20 the page replication counters are cleared. -/
  | replicationWindowClear
  /-- METER_CHECKPOINT (R377): Every second the counters, entries and report sequence are checkpointed. -/
  | meterCheckpoint
  /-- ROOT_START (R327): CSGO.START write: reads, checks and accepts a root launch or refuses it. -/
  | rootStart (ctx : Nat)
  /-- PREEMPT_REQUEST (R347): Setting PREQCTL.REQ raises the preemption request or refuses it with SZERR. -/
  | preemptRequest (ctx : Nat)
  /-- PREEMPT_WITHDRAW (R347): Clearing REQ while saving withdraws the request and restores saved teams. -/
  | preemptWithdraw (ctx : Nat)
  /-- PREEMPT_FORCE (R340): PREQCTL.FORCE starts the forced save at once. -/
  | preemptForce (ctx : Nat)
  /-- RESUME (R350): PREQCTL.RESUME starts the restore of a saved context, or rejects the image. -/
  | resume (ctx : Nat)
  /-- FUNCTION_LEVEL_RESET (R360): An FLR of a VF tears down its contexts. -/
  | functionLevelReset (fn : Nat)
  /-- TRANSLATION_INVALIDATE (R357): CTXINV.GO starts an invalidation of cached translations. -/
  | translationInvalidate (ctx : Nat) (value : BitVec 64)
  /-- MIGRATE_TO_CAPACITY_TIER (R358): MIGCMD operation 001 moves a page to the capacity tier. -/
  | migrateToCapacityTier (die ctx : Nat) (va : BitVec 48)
  /-- MIGRATE_TO_HBM (R358): MIGCMD operation 010 moves a page into HBM. -/
  | migrateToHbm (die ctx : Nat) (va : BitVec 48)
  /-- PIN_PAGE (R358): MIGCMD operation 011 sets a device pin on a page. -/
  | pinPage (die ctx : Nat) (va : BitVec 48)
  /-- UNPIN_PAGE (R358): MIGCMD operation 100 clears a device pin on a page. -/
  | unpinPage (die ctx : Nat) (va : BitVec 48)
  /-- CAPCFG_WRITE (R359): A CAPCFG write while no context is created changes the die's limit and pool. -/
  | capcfgWrite (die : Nat) (value : BitVec 32)
  /-- BALLOON_REQUEST (R359): A non-zero BLNREQ write raises or replaces a balloon request. -/
  | balloonRequest (ctx : Nat) (value : BitVec 32)
  /-- BALLOON_CLOSE (R359): A BLNREQ write of 0 closes the open request without acknowledgement. -/
  | balloonClose (ctx : Nat)
  /-- CTXOWN_WRITE (R360): Assigns a context to a function unless it holds a launch or saved image. -/
  | ctxownWrite (ctx : Nat) (value : BitVec 32)
  /-- STITCH_CONFIG_WRITE (R361): A write to STDEV, STPORT or STROUTE, ignored while a launch is accepted. -/
  | stitchConfigWrite (offset : Nat) (value : BitVec 32)
  /-- REGISTER_WRITE (R4): A write to any register without a row of its own, including W1C bits. -/
  | registerWrite (fn offset : Nat) (value : BitVec 64)
  /-- TRDROP_CLEAR (R295): Any write to TRDROP clears the drop count. -/
  | trdropClear (ctx : Nat)
  /-- DEBUG_ATTACH (R302): Setting DBGCTL.ATTACH attaches a debugger to the context. -/
  | debugAttach (ctx : Nat)
  /-- DEBUG_DETACH (R292): Clearing ATTACH resumes every team the debugger stopped. -/
  | debugDetach (ctx : Nat)
  /-- DEBUG_STEP (R303): DBGCMD step issues one word or chain of a stopped path. -/
  | debugStep (ctx core slot : Nat) (path : Bool)
  /-- DEBUG_STEP_TO_RETIRE (R303): DBGCMD step to retire runs the team until a stepped command retires. -/
  | debugStepToRetire (ctx core slot : Nat) (path : Bool)
  /-- DEBUG_CANCEL_WAIT (R292): DBGCMD cancels the wait of a stepped word, leaving the path before it. -/
  | debugCancelWait (ctx core slot : Nat) (path : Bool)
  /-- DEBUG_RESUME (R292): DBGCMD resume lets a stopped team run freely. -/
  | debugResume (ctx core slot : Nat)
  /-- STOP_ARM (R305): STOPCTL.ARM arms a package stop at STOPTICK. -/
  | stopArm
  /-- STOP_RELEASE (R305): STOPCTL.RELEASE resumes every domain exactly as stopped. -/
  | stopRelease
  /-- PERST_RELEASE (R362): Release of PERST# starts staged start from reset. -/
  | perstRelease
  /-- STAGE_A_COMPLETE (R362): The management controller and sideband come up and the tick counters are released. -/
  | stageAComplete
  /-- STAGE_B_COMPLETE (R362): Firmware is verified, HBM trained and core maps set, or the stage fails. -/
  | stageBComplete (firmwareOk hbm0 hbm1 clusters0 clusters1 : Bool)
  /-- STAGE_C_COMPLETE (R362): All clusters, routes and Stitch links come up, tick offsets are set and contexts are accepted. -/
  | stageCComplete (fabricOk stitchOk : Bool) (offset : BitVec 64)
  /-- LTR_MESSAGE (R364): A PCIe LTR message sets the host's latency tolerance for idle states. -/
  | ltrMessage (snoop noSnoop : Nat)
  /-- IDLE_ENTRY (R364): A core, cluster, die or device enters the deepest allowed idle state once its condition holds. -/
  | idleEntry (level place : Nat)
  /-- IDLE_WAKE (R364): A wake event ends an idle state and is served after its exit latency. -/
  | idleWake (level place : Nat)
  /-- POWER_CAP_EVALUATION (R365): Every 1 ms firmware recomputes each die's effective cap from measured power. -/
  | powerCapEvaluation (die : Nat) (watts : List Nat)
  /-- TCAP_STEP (R365): The thermal cap rises every 10 ms or falls every 1 ms by one point. -/
  | tcapStep (celsius : Nat)
  /-- THERMAL_CAP_ZERO (R365): A junction at 105 °C or above sets TCAP to 0 at once. -/
  | thermalCapZero (celsius : Nat)
  /-- THERMAL_SHUTDOWN (R365): A junction at 115 °C or above shuts the module down. -/
  | thermalShutdown (celsius : Nat)
  /-- MCTP_CONTROL_MESSAGE (R366): An MCTP base control message over the sideband. -/
  | mctpControlMessage (command : BitVec 8)
  /-- PLDM_SENSOR_READ (R366): A PLDM Type 2 numeric or state sensor request. -/
  | pldmSensorRead (sensor : Nat)
  /-- PLDM_FIRMWARE_UPDATE (R366): A PLDM Type 5 firmware image is staged and verified for the next reset. -/
  | pldmFirmwareUpdate (image : Nat) (signatureOk : Bool)
  /-- GET_VERSION (R366): SPDM GET_VERSION request. -/
  | getVersion
  /-- GET_CAPABILITIES (R366): SPDM GET_CAPABILITIES request. -/
  | getCapabilities
  /-- NEGOTIATE_ALGORITHMS (R366): SPDM NEGOTIATE_ALGORITHMS request. -/
  | negotiateAlgorithms (p384 sha384 : Bool)
  /-- GET_DIGESTS (R366): SPDM GET_DIGESTS request. -/
  | getDigests
  /-- GET_CERTIFICATE (R366): SPDM GET_CERTIFICATE request. -/
  | getCertificate (slot : BitVec 8)
  /-- CHALLENGE (R366): SPDM CHALLENGE request. -/
  | challenge (nonce : BitVec 256)
  /-- GET_MEASUREMENTS (R366): SPDM GET_MEASUREMENTS request. -/
  | getMeasurements (nonce : BitVec 256)
  /-- VENDOR_REGISTER_ACCESS (R366): A Kyoxon vendor message reads or writes a mirrored register. -/
  | vendorRegisterAccess (write : Bool) (offset : Nat) (value : BitVec 64)
  /-- MREG_WRITE (R373): A vendor message writes a metered region entry, subject to its locking rules. -/
  | mregWrite (entry : Nat) (value : BitVec 128)
  /-- METERING_REPORT (R378): A report request returns signed counts and sets REPORTED. -/
  | meteringReport (nonce : BitVec 256) (tenant : BitVec 16)
  /-- FINAL_REPORT (R379): A FINAL report closes the chain and disables every entry. -/
  | finalReport (nonce : BitVec 256)
  /-- ALLOW_LIST_INSTALL (R380): A signed allow-list of measurements is installed or refused. -/
  | allowListInstall (key : Nat) (signatureOk : Bool) (entries : List (BitVec 384))
  /-- ATTMAP_WRITE (R380): A sideband write sets which contexts are attested. -/
  | attmapWrite (value : BitVec 64)
  /-- METER_POWER_ON (R377): At power-on the newest checkpoint of the fused epoch is accepted and the next epoch burned. -/
  | meterPowerOn
  /-- ORDERLY_POWER_DOWN (R377): An orderly power-down writes a final metering checkpoint. -/
  | orderlyPowerDown
  /-- PATROL_SCRUB (R367): The patrol scrubber reads and corrects or poisons granules in idle gaps. -/
  | patrolScrub (die granule : Nat) (outcome : ScrubOutcome)
  /-- ECS_POLL (R369): Once a second firmware reads bank error counts and raises ECS events. -/
  | ecsPoll (stack pch bank count row : Nat)
  /-- FABRIC_HOP_RETRY (R372): A flit failing its CRC is retried; the 8th failure in a row takes the die out of service. -/
  | fabricHopRetry (die loop hop : Nat)
  /-- STITCH_LANES_LOST (R361): A Stitch port or bridge loses lanes and a port below 4 good lanes is taken down. -/
  | stitchLanesLost (port lanes : Nat)
  /-- INJECTION_STARVATION (R273): A stop that has waited 16 fabric cycles to inject marks a slot to come round free. -/
  | injectionStarvation (die stop loop : Nat)
  /-- HOST_CXL_MEM_ACCESS (R356): A host access through CXL.mem is performed at the home slice, or refused and logged if not a host window. -/
  | hostCxlMemAccess (write : Bool) (da : Nat) (data : List (BitVec 8))
  /-- RESET (R291): Assertion of reset returns the device to STAGE 000 with tick counters held at zero and core maps undone. -/
  | reset
  /-- POWER_LOSS (R377): Power is lost without an orderly power-down, so retirements after the last metering checkpoint are lost and the next report carries GAP. -/
  | powerLoss
  /-- DRIVER_CONTEXT_TEARDOWN (R351): The driver tears down a context, ending its migrations, returning its granules and writing no completion words. -/
  | driverContextTeardown (ctx : Nat)
  /-- STITCH_PORT_TRAINED (R361): An enabled Stitch port finishes training and reports its width, peer device and peer port. -/
  | stitchPortTrained (port : Nat) (width : BitVec 2) (peer : BitVec 6) (peerPort : BitVec 4)
  /-- CORE_FAULT_IN_SERVICE (R10): A core develops a fault in service; it stays mapped, and a repair entry is recorded for the next reset. -/
  | coreFaultInService (core physical : Nat)
  deriving DecidableEq, Repr

end Sys2Proof
end

