-- ==== Sys2Proof/WellFormed.lean ====
section
/-!
DEFINITION. Which instructions are well formed: the field values that the rules forbid in a word whatever the
machine's state is (R52, R68, R69, R74, R76, R115, R195, R215, R222), and the places an event may name (R8).
An ill-formed word raises trap 0x01 when it is executed.
-/

namespace Sys2Proof

/-- A register field that names the first of a pair (R68). -/
def even (x : BitVec 6) : Bool := x.toNat % 2 == 0

/-- The B classes a scalar word accepts: all but BC = 01 (R69, R119). -/
def scalarClass (q : BitVec 2) : Bool := q != 1

/-- SADDW: a register B names a pair (R120). -/
def pairB (q : BitVec 2) (b : BitVec 6) : Bool := q != 0 || even b

/-- VADDW: a vector or scalar B names a pair (R129). -/
def widePairB (q : BitVec 2) (b : BitVec 6) : Bool := q == 2 || q == 3 || even b

/-- EQ, NE, LT, LE, GT and GE; ORD and UNO are for FP32 only (R76). -/
def integerCondition (e : BitVec 3) : Bool := decide (e.toNat < 6)

/-- The legal order and scope of a FENCE (R115). -/
def fenceLegal (o : BitVec 2) (e : BitVec 3) : Bool := o != 0 && e != 7 && (e != 6 || o == 1)

/-- The legal order and scope of an ATOM (R74). -/
def orderLegal (o : BitVec 2) (e : BitVec 3) : Bool := e != 7 && (e != 6 || o == 1)

/-- A global ATOM names an even address pair (R158). -/
def globalPair (p : BitVec 1) (a : BitVec 6) : Bool := p == 1 || even a

/-- Data registers a global load format writes (R159). -/
def loadRegs (f : BitVec 4) : Nat :=
  match f.toNat with
  | 5 | 11 | 14 => 2
  | 6 | 12 | 13 => 4
  | _ => 1

/-- Data registers a global store format reads (R159). -/
def storeRegs (f : BitVec 4) : Nat :=
  match f.toNat with
  | 5 | 11 => 2
  | 6 | 12 | 14 => 4
  | _ => 1

def loadAligned (f : BitVec 4) (d : BitVec 6) : Bool := d.toNat % loadRegs f == 0
def storeAligned (f : BitVec 4) (d : BitVec 6) : Bool := d.toNat % storeRegs f == 0

/-- Data registers of a local scratchpad format; `fh` and `fl` are FMT[3] and FMT[1:0] (R76, R166). -/
def scratchRegs (fh : BitVec 1) (fl : BitVec 2) : Nat :=
  if fh == 0 then 1 else match fl.toNat with
  | 1 => 2
  | 2 => 4
  | _ => 1

def scratchAligned (fh : BitVec 1) (fl : BitVec 2) (d : BitVec 6) : Bool := d.toNat % scratchRegs fh fl == 0

/-- Data registers of a remote scratchpad access, by W[1:0] (R72). -/
def wideRegs (g : BitVec 2) : Nat :=
  match g.toNat with
  | 1 => 2
  | 2 => 4
  | _ => 1

def wideAligned (g : BitVec 2) (d : BitVec 6) : Bool := d.toNat % wideRegs g == 0

/-- The last register an MTX word names, of `n` from s(2 SB) on, is s62 or lower (R195). -/
def lastOperand (b : BitVec 5) (n : Nat) : Bool := decide (2 * b.toNat + n - 1 ≤ 62)

/-- The field values that every state accepts. -/
def Instr.wellFormed : Instr → Bool
  | .nop _ _ => true
  | .bra _ _ _ => true
  | .brc _ _ _ _ _ => true
  | .split _ _ _ _ => true
  | .join _ _ => true
  | .call _ _ _ _ => true
  | .calli _ _ _ _ => true
  | .ret _ _ _ => true
  | .exit _ _ => true
  | .trap _ _ _ => true
  | .brk _ _ _ => true
  | .waitcyc _ _ _ => true
  | .yield _ _ => true
  | .prio _ _ _ => true
  | .srd _ _ _ n => decide (n.toNat < 26)
  | .swr _ _ _ n => decide (n.toNat < 26)
  | .trtag _ _ _ _ => true
  | .rett _ _ _ => true
  | .launch _ _ a => even a
  | .spawn _ _ _ e _ => even e
  | .waitc _ _ h _ => h != 7
  | .waitci _ _ h _ => h != 7
  | .bar _ _ _ => true
  | .bara _ _ _ => true
  | .barw _ _ _ => true
  | .fence _ _ o e => fenceLegal o e
  | .qfence _ _ _ => true
  | .spout _ _ _ _ => true
  | .grow _ _ => true
  | .growt _ _ _ => true
  | .shrink _ _ => true
  | .sadd _ _ _ _ _ q => scalarClass q
  | .ssub _ _ _ _ _ q => scalarClass q
  | .smul _ _ _ _ _ q => scalarClass q
  | .smulh _ _ _ _ _ q => scalarClass q
  | .sand _ _ _ _ _ q => scalarClass q
  | .sor _ _ _ _ _ q => scalarClass q
  | .sxor _ _ _ _ _ q => scalarClass q
  | .sshl _ _ _ _ _ q => scalarClass q
  | .sshr _ _ _ _ _ q => scalarClass q
  | .ssra _ _ _ _ _ q => scalarClass q
  | .smin _ _ _ _ _ q => scalarClass q
  | .smax _ _ _ _ _ q => scalarClass q
  | .sminu _ _ _ _ _ q => scalarClass q
  | .smaxu _ _ _ _ _ q => scalarClass q
  | .saddw _ _ d a b q => scalarClass q && even d && even a && pairB q b
  | .scmp _ _ _ e _ _ q => scalarClass q && integerCondition e
  | .saddi _ _ _ _ _ => true
  | .smovi _ _ _ _ => true
  | .ext _ => true
  | .vadd _ _ _ _ _ _ => true
  | .vsub _ _ _ _ _ _ => true
  | .vmul _ _ _ _ _ _ => true
  | .vmulh _ _ _ _ _ _ => true
  | .vmulhu _ _ _ _ _ _ => true
  | .vand _ _ _ _ _ _ => true
  | .vor _ _ _ _ _ _ => true
  | .vxor _ _ _ _ _ _ => true
  | .vshl _ _ _ _ _ _ => true
  | .vshr _ _ _ _ _ _ => true
  | .vsra _ _ _ _ _ _ => true
  | .vmin _ _ _ _ _ _ => true
  | .vmax _ _ _ _ _ _ => true
  | .vminu _ _ _ _ _ _ => true
  | .vmaxu _ _ _ _ _ _ => true
  | .vaddw _ _ d a b q => even d && even a && widePairB q b
  | .vaddi _ _ _ _ _ => true
  | .vmad _ _ _ _ _ _ => true
  | .vmov _ _ _ _ _ => true
  | .vpopc _ _ _ _ _ => true
  | .vclz _ _ _ _ _ => true
  | .vlane _ _ _ => true
  | .vitem _ _ _ => true
  | .vbrev _ _ _ _ _ => true
  | .vnot _ _ _ _ _ => true
  | .vabs _ _ _ _ _ => true
  | .vcvtI2f _ _ _ _ _ => true
  | .vcvtU2f _ _ _ _ _ => true
  | .vcvtF2i _ _ _ _ _ => true
  | .vcvtF2u _ _ _ _ _ => true
  | .vcvtF2h _ _ _ _ _ => true
  | .vcvtH2f _ _ _ _ _ => true
  | .vbfx _ _ _ _ _ _ => true
  | .vfadd _ _ _ _ _ _ => true
  | .vfsub _ _ _ _ _ _ => true
  | .vfmul _ _ _ _ _ _ => true
  | .vfmin _ _ _ _ _ _ => true
  | .vfmax _ _ _ _ _ _ => true
  | .vfneg _ _ _ _ _ => true
  | .vfabs _ _ _ _ _ => true
  | .vfclass _ _ _ _ _ => true
  | .vqfac _ _ d _ _ _ => even d
  | .vqnorm _ _ _ _ _ _ => true
  | .vfma _ _ _ _ _ _ => true
  | .vhadd _ _ _ _ _ _ _ => true
  | .vhsub _ _ _ _ _ _ _ => true
  | .vhmul _ _ _ _ _ _ _ => true
  | .vhmin _ _ _ _ _ _ _ => true
  | .vhmax _ _ _ _ _ _ _ => true
  | .vhdot _ _ _ _ _ _ _ => true
  | .vhneg _ _ _ _ _ _ => true
  | .vhabs _ _ _ _ _ _ => true
  | .vhfmaBf _ _ _ _ _ _ => true
  | .vhfmaHf _ _ _ _ _ _ => true
  | .vcmpS _ _ _ e _ _ _ => integerCondition e
  | .vcmpU _ _ _ e _ _ _ => integerCondition e
  | .vcmpF _ _ _ _ _ _ _ => true
  | .pand _ _ _ _ _ => true
  | .por _ _ _ _ _ => true
  | .pxor _ _ _ _ _ => true
  | .pnot _ _ _ _ => true
  | .vsel _ _ _ _ _ _ _ => true
  | .vrcp _ _ _ _ _ => true
  | .vrsq _ _ _ _ _ => true
  | .vsqrt _ _ _ _ _ => true
  | .vexp2 _ _ _ _ _ => true
  | .vlog2 _ _ _ _ _ => true
  | .vsin _ _ _ _ _ => true
  | .vcos _ _ _ _ _ => true
  | .vtanh _ _ _ _ _ => true
  | .vshfl _ _ _ _ _ _ => true
  | .vshflu _ _ _ _ _ _ => true
  | .vshfld _ _ _ _ _ _ => true
  | .vshflx _ _ _ _ _ _ => true
  | .vbcast _ _ _ _ _ q => q != 0
  | .vballot _ _ _ _ => true
  | .vany _ _ _ _ => true
  | .vall _ _ _ _ => true
  | .vmredAdd _ _ d _ _ _ => even d
  | .vmredMin _ _ d _ _ _ => even d
  | .vmredMax _ _ d _ _ _ => even d
  | .vscanAdd _ _ _ _ _ => true
  | .vscanxAdd _ _ _ _ _ => true
  | .vredgAdd _ _ _ _ _ => true
  | .vredgMax _ _ _ _ _ => true
  | .vmatch _ _ _ _ => true
  | .ldg _ _ d a _ _ f => f != 15 && even a && loadAligned f d
  | .stg _ _ d a _ q f => f != 1 && f != 3 && f != 15 && decide (q.toNat < 2) && even a && storeAligned f d
  | .ldu _ _ d a _ _ f => decide (f.toNat < 7) && even a && loadAligned f d
  | .lds _ _ d _ _ fh fl => !(fh == 1 && fl == 3) && scratchAligned fh fl d
  | .sts _ _ d _ _ fh fl => (if fh == 0 then fl == 0 || fl == 2 else fl != 3) && scratchAligned fh fl d
  | .ldsR _ _ d _ _ _ g => g != 3 && wideAligned g d
  | .stsR _ _ d _ _ _ g => g != 3 && wideAligned g d
  | .atomAdd _ _ _ a o e p _ => orderLegal o e && globalPair p a
  | .atomMin _ _ _ a o e p _ => orderLegal o e && globalPair p a
  | .atomMax _ _ _ a o e p _ => orderLegal o e && globalPair p a
  | .atomMinu _ _ _ a o e p _ => orderLegal o e && globalPair p a
  | .atomMaxu _ _ _ a o e p _ => orderLegal o e && globalPair p a
  | .atomAnd _ _ _ a o e p _ => orderLegal o e && globalPair p a
  | .atomOr _ _ _ a o e p _ => orderLegal o e && globalPair p a
  | .atomXor _ _ _ a o e p _ => orderLegal o e && globalPair p a
  | .atomExch _ _ _ a o e p _ => orderLegal o e && globalPair p a
  | .atomCas _ _ d a o e p _ => orderLegal o e && globalPair p a && even d
  | .atomFaddF32 _ _ _ a o e p _ => orderLegal o e && globalPair p a
  | .atomFaddBf16x2 _ _ _ a o e p _ => orderLegal o e && globalPair p a
  | .atomLd _ _ _ a o e p r => orderLegal o e && globalPair p a && decide (o.toNat < 2) && r == 1
  | .atomSt _ _ _ a o e p r => orderLegal o e && globalPair p a && (o == 0 || o == 2) && r == 0
  | .atomAddW _ _ d a o e p _ => orderLegal o e && globalPair p a && even d
  | .cwb _ _ a _ => even a
  | .cinv _ _ a _ => even a
  | .pf _ _ a _ _ => even a
  | .trans _ _ d t p => even d && even t && p != 7
  | .transS _ _ d t => even d && even t
  | .rsvq _ _ d i => even d && i != 3
  | .blnq _ _ d => even d
  | .pgsurr _ _ _ a _ => even a
  | .blnack _ _ _ => true
  | .blkq _ _ _ a => even a
  | .mzero _ _ i _ _ b => i != 31 && lastOperand b 1
  | .mload _ _ i _ _ b => i != 31 && lastOperand b 2
  | .mloads _ _ i _ _ b => i != 31 && lastOperand b 3
  | .mswap _ _ i _ _ => i != 31
  | .mstream _ _ i _ _ b => i != 31 && lastOperand b 4
  | .mstore _ _ i _ _ b => i != 31 && lastOperand b 4
  | .mscale _ _ i _ _ b => i != 31 && lastOperand b 2
  | .mfence _ _ => true
  | .mwait _ _ b => lastOperand b 1
  | .merrq _ _ b => lastOperand b 1
  | .mstat _ _ _ => true
  | .cpyG2s _ _ q b _ => decide (q.toNat < 2) && even b && decide (b.toNat + 5 ≤ 62)
  | .cpyS2g _ _ q b _ => decide (q.toNat < 2) && even b && decide (b.toNat + 5 ≤ 62)
  | .cpyS2s _ _ q b _ => decide (q.toNat < 2) && even b && decide (b.toNat + 5 ≤ 62)
  | .cpyGth _ _ q b _ => decide (q.toNat < 2) && even b && decide (b.toNat + 5 ≤ 62)
  | .cpySct _ _ q b _ => decide (q.toNat < 2) && even b && decide (b.toNat + 5 ≤ 62)
  | .cpyFill _ _ q b _ => decide (q.toNat < 2) && even b && decide (b.toNat + 5 ≤ 62)
  | .cgrp _ _ b _ => even b && decide (b.toNat + 5 ≤ 62)
  | .cag _ _ b _ => even b && decide (b.toNat + 3 ≤ 62)
  | .crs _ _ b _ => even b && decide (b.toNat + 3 ≤ 62)
  | .car _ _ b _ => even b && decide (b.toNat + 3 ≤ 62)
  | .ca2a _ _ b _ => even b && decide (b.toNat + 3 ≤ 62)
  | .cbar _ _ _ => true
  | .run _ _ _ => true
  | .rstop _ _ => true
  | .qpop _ _ d _ => even d
  | .qpops _ _ d _ => even d
  | .qpush _ _ a _ _ => even a
  | .qstat _ _ _ _ => true
  | .reservedEncoding _ => true
  | .comparatorHit core slot _ cmp => decide (core < 2304) && decide (slot < 16) && decide (cmp < 8)
  | .dispatchCohort die cluster => decide (die < 2) && decide (cluster < 12)
  | .teamExit core slot => decide (core < 2304) && decide (slot < 16)
  | .binTimerExpiry die cluster _ => decide (die < 2) && decide (cluster < 12)
  | .binTeamDispatch die cluster => decide (die < 2) && decide (cluster < 12)
  | .evictTeam core => decide (core < 2304)
  | .returnEvictedTeam core => decide (core < 2304)
  | .growGrant core => decide (core < 2304)
  | .launchCompletion ctx _ => decide (ctx < 64)
  | .operatingPointStable die => decide (die < 2)
  | .loadReturn core _ => decide (core < 2304)
  | .scratchpadLoadReturn core _ => decide (core < 2304)
  | .sfuResultReturn core _ => decide (core < 2304)
  | .storePerformed core _ => decide (core < 2304)
  | .remoteStorePerformed core _ => decide (core < 2304)
  | .atomicPerformed core _ lane => decide (core < 2304) && decide (lane < 1024)
  | .cwbComplete core _ => decide (core < 2304)
  | .cinvComplete core _ => decide (core < 2304)
  | .pgsurrPageDone core _ => decide (core < 2304)
  | .transReturn core _ => decide (core < 2304)
  | .blockWriteback die _ => decide (die < 2)
  | .ladleRefill core slot => decide (core < 2304) && decide (slot < 16)
  | .ladleReturn core ctx => decide (core < 2304) && decide (ctx < 64)
  | .migrationComplete _ => true
  | .migrationFailed _ _ => true
  | .copyOperationComplete core queue => decide (core < 2304) && decide (queue < 2)
  | .collectiveComplete core _ _ => decide (core < 2304)
  | .matrixCommandStart core _ => decide (core < 2304)
  | .matrixCommandRetire core _ => decide (core < 2304)
  | .trapEntry core slot _ _ _ _ => decide (core < 2304) && decide (slot < 16)
  | .yieldSave core slot => decide (core < 2304) && decide (slot < 16)
  | .preemptDeadline ctx => decide (ctx < 64)
  | .saveComplete ctx => decide (ctx < 64)
  | .restoreComplete ctx => decide (ctx < 64)
  | .invalidationDone ctx => decide (ctx < 64)
  | .pcSample core sched => decide (core < 2304) && decide (sched < 2)
  | .debugStepEnd core slot => decide (core < 2304) && decide (slot < 16)
  | .dependenceRecheck ctx _ => decide (ctx < 64)
  | .rootStart ctx => decide (ctx < 64)
  | .preemptRequest ctx => decide (ctx < 64)
  | .preemptWithdraw ctx => decide (ctx < 64)
  | .preemptForce ctx => decide (ctx < 64)
  | .resume ctx => decide (ctx < 64)
  | .functionLevelReset fn => decide (fn < 32)
  | .translationInvalidate ctx _ => decide (ctx < 64)
  | .migrateToCapacityTier die ctx _ => decide (die < 2) && decide (ctx < 64)
  | .migrateToHbm die ctx _ => decide (die < 2) && decide (ctx < 64)
  | .pinPage die ctx _ => decide (die < 2) && decide (ctx < 64)
  | .unpinPage die ctx _ => decide (die < 2) && decide (ctx < 64)
  | .capcfgWrite die _ => decide (die < 2)
  | .balloonRequest ctx _ => decide (ctx < 64)
  | .balloonClose ctx => decide (ctx < 64)
  | .ctxownWrite ctx _ => decide (ctx < 64)
  | .stitchConfigWrite _ _ => true
  | .registerWrite fn _ _ => decide (fn < 32)
  | .trdropClear ctx => decide (ctx < 64)
  | .debugAttach ctx => decide (ctx < 64)
  | .debugDetach ctx => decide (ctx < 64)
  | .debugStep ctx core slot _ => decide (ctx < 64) && decide (core < 2304) && decide (slot < 16)
  | .debugStepToRetire ctx core slot _ => decide (ctx < 64) && decide (core < 2304) && decide (slot < 16)
  | .debugCancelWait ctx core slot _ => decide (ctx < 64) && decide (core < 2304) && decide (slot < 16)
  | .debugResume ctx core slot => decide (ctx < 64) && decide (core < 2304) && decide (slot < 16)
  | .stopArm => true
  | .stopOnTick => true
  | .stopRelease => true
  | .perstRelease => true
  | .stageAComplete => true
  | .stageBComplete _ _ _ _ _ => true
  | .stageCComplete _ _ _ => true
  | .ltrMessage _ _ => true
  | .idleEntry level _ => decide (level < 4)
  | .idleWake level _ => decide (level < 4)
  | .powerCapEvaluation die watts => decide (die < 2) && watts.length == 8
  | .tcapStep _ => true
  | .thermalCapZero _ => true
  | .thermalShutdown _ => true
  | .mctpControlMessage _ => true
  | .pldmSensorRead _ => true
  | .pldmFirmwareUpdate _ _ => true
  | .getVersion => true
  | .getCapabilities => true
  | .negotiateAlgorithms _ _ => true
  | .getDigests => true
  | .getCertificate _ => true
  | .challenge _ => true
  | .getMeasurements _ => true
  | .vendorRegisterAccess _ _ _ => true
  | .mregWrite entry _ => decide (entry < 1024)
  | .meteringReport _ _ => true
  | .finalReport _ => true
  | .allowListInstall _ _ _ => true
  | .attmapWrite _ => true
  | .meterPowerOn => true
  | .meterCheckpoint => true
  | .orderlyPowerDown => true
  | .patrolScrub die _ _ => decide (die < 2)
  | .ecsPoll stack pch bank _ _ => decide (stack < 8) && decide (pch < 384) && decide (bank < 64)
  | .fabricHopRetry die loop _ => decide (die < 2) && decide (loop < 64)
  | .stitchLanesLost port _ => decide (port < 18)
  | .replicationWindowClear => true
  | .injectionStarvation die stop loop => decide (die < 2) && decide (stop < 47) && decide (loop < 64)
  | .hostCxlMemAccess _ _ _ => true
  | .reset => true
  | .powerLoss => true
  | .driverContextTeardown ctx => decide (ctx < 64)
  | .stitchPortTrained port _ _ _ => decide (port < 16)
  | .coreFaultInService core physical => decide (core < 2304) && decide (physical < 100)

/-- The word or event belongs to the table's encoded rows. -/
def Instr.isWord : Instr → Bool
  | .nop _ _ => true
  | .bra _ _ _ => true
  | .brc _ _ _ _ _ => true
  | .split _ _ _ _ => true
  | .join _ _ => true
  | .call _ _ _ _ => true
  | .calli _ _ _ _ => true
  | .ret _ _ _ => true
  | .exit _ _ => true
  | .trap _ _ _ => true
  | .brk _ _ _ => true
  | .waitcyc _ _ _ => true
  | .yield _ _ => true
  | .prio _ _ _ => true
  | .srd _ _ _ _ => true
  | .swr _ _ _ _ => true
  | .trtag _ _ _ _ => true
  | .rett _ _ _ => true
  | .launch _ _ _ => true
  | .spawn _ _ _ _ _ => true
  | .waitc _ _ _ _ => true
  | .waitci _ _ _ _ => true
  | .bar _ _ _ => true
  | .bara _ _ _ => true
  | .barw _ _ _ => true
  | .fence _ _ _ _ => true
  | .qfence _ _ _ => true
  | .spout _ _ _ _ => true
  | .grow _ _ => true
  | .growt _ _ _ => true
  | .shrink _ _ => true
  | .sadd _ _ _ _ _ _ => true
  | .ssub _ _ _ _ _ _ => true
  | .smul _ _ _ _ _ _ => true
  | .smulh _ _ _ _ _ _ => true
  | .sand _ _ _ _ _ _ => true
  | .sor _ _ _ _ _ _ => true
  | .sxor _ _ _ _ _ _ => true
  | .sshl _ _ _ _ _ _ => true
  | .sshr _ _ _ _ _ _ => true
  | .ssra _ _ _ _ _ _ => true
  | .smin _ _ _ _ _ _ => true
  | .smax _ _ _ _ _ _ => true
  | .sminu _ _ _ _ _ _ => true
  | .smaxu _ _ _ _ _ _ => true
  | .saddw _ _ _ _ _ _ => true
  | .scmp _ _ _ _ _ _ _ => true
  | .saddi _ _ _ _ _ => true
  | .smovi _ _ _ _ => true
  | .ext _ => true
  | .vadd _ _ _ _ _ _ => true
  | .vsub _ _ _ _ _ _ => true
  | .vmul _ _ _ _ _ _ => true
  | .vmulh _ _ _ _ _ _ => true
  | .vmulhu _ _ _ _ _ _ => true
  | .vand _ _ _ _ _ _ => true
  | .vor _ _ _ _ _ _ => true
  | .vxor _ _ _ _ _ _ => true
  | .vshl _ _ _ _ _ _ => true
  | .vshr _ _ _ _ _ _ => true
  | .vsra _ _ _ _ _ _ => true
  | .vmin _ _ _ _ _ _ => true
  | .vmax _ _ _ _ _ _ => true
  | .vminu _ _ _ _ _ _ => true
  | .vmaxu _ _ _ _ _ _ => true
  | .vaddw _ _ _ _ _ _ => true
  | .vaddi _ _ _ _ _ => true
  | .vmad _ _ _ _ _ _ => true
  | .vmov _ _ _ _ _ => true
  | .vpopc _ _ _ _ _ => true
  | .vclz _ _ _ _ _ => true
  | .vlane _ _ _ => true
  | .vitem _ _ _ => true
  | .vbrev _ _ _ _ _ => true
  | .vnot _ _ _ _ _ => true
  | .vabs _ _ _ _ _ => true
  | .vcvtI2f _ _ _ _ _ => true
  | .vcvtU2f _ _ _ _ _ => true
  | .vcvtF2i _ _ _ _ _ => true
  | .vcvtF2u _ _ _ _ _ => true
  | .vcvtF2h _ _ _ _ _ => true
  | .vcvtH2f _ _ _ _ _ => true
  | .vbfx _ _ _ _ _ _ => true
  | .vfadd _ _ _ _ _ _ => true
  | .vfsub _ _ _ _ _ _ => true
  | .vfmul _ _ _ _ _ _ => true
  | .vfmin _ _ _ _ _ _ => true
  | .vfmax _ _ _ _ _ _ => true
  | .vfneg _ _ _ _ _ => true
  | .vfabs _ _ _ _ _ => true
  | .vfclass _ _ _ _ _ => true
  | .vqfac _ _ _ _ _ _ => true
  | .vqnorm _ _ _ _ _ _ => true
  | .vfma _ _ _ _ _ _ => true
  | .vhadd _ _ _ _ _ _ _ => true
  | .vhsub _ _ _ _ _ _ _ => true
  | .vhmul _ _ _ _ _ _ _ => true
  | .vhmin _ _ _ _ _ _ _ => true
  | .vhmax _ _ _ _ _ _ _ => true
  | .vhdot _ _ _ _ _ _ _ => true
  | .vhneg _ _ _ _ _ _ => true
  | .vhabs _ _ _ _ _ _ => true
  | .vhfmaBf _ _ _ _ _ _ => true
  | .vhfmaHf _ _ _ _ _ _ => true
  | .vcmpS _ _ _ _ _ _ _ => true
  | .vcmpU _ _ _ _ _ _ _ => true
  | .vcmpF _ _ _ _ _ _ _ => true
  | .pand _ _ _ _ _ => true
  | .por _ _ _ _ _ => true
  | .pxor _ _ _ _ _ => true
  | .pnot _ _ _ _ => true
  | .vsel _ _ _ _ _ _ _ => true
  | .vrcp _ _ _ _ _ => true
  | .vrsq _ _ _ _ _ => true
  | .vsqrt _ _ _ _ _ => true
  | .vexp2 _ _ _ _ _ => true
  | .vlog2 _ _ _ _ _ => true
  | .vsin _ _ _ _ _ => true
  | .vcos _ _ _ _ _ => true
  | .vtanh _ _ _ _ _ => true
  | .vshfl _ _ _ _ _ _ => true
  | .vshflu _ _ _ _ _ _ => true
  | .vshfld _ _ _ _ _ _ => true
  | .vshflx _ _ _ _ _ _ => true
  | .vbcast _ _ _ _ _ _ => true
  | .vballot _ _ _ _ => true
  | .vany _ _ _ _ => true
  | .vall _ _ _ _ => true
  | .vmredAdd _ _ _ _ _ _ => true
  | .vmredMin _ _ _ _ _ _ => true
  | .vmredMax _ _ _ _ _ _ => true
  | .vscanAdd _ _ _ _ _ => true
  | .vscanxAdd _ _ _ _ _ => true
  | .vredgAdd _ _ _ _ _ => true
  | .vredgMax _ _ _ _ _ => true
  | .vmatch _ _ _ _ => true
  | .ldg _ _ _ _ _ _ _ => true
  | .stg _ _ _ _ _ _ _ => true
  | .ldu _ _ _ _ _ _ _ => true
  | .lds _ _ _ _ _ _ _ => true
  | .sts _ _ _ _ _ _ _ => true
  | .ldsR _ _ _ _ _ _ _ => true
  | .stsR _ _ _ _ _ _ _ => true
  | .atomAdd _ _ _ _ _ _ _ _ => true
  | .atomMin _ _ _ _ _ _ _ _ => true
  | .atomMax _ _ _ _ _ _ _ _ => true
  | .atomMinu _ _ _ _ _ _ _ _ => true
  | .atomMaxu _ _ _ _ _ _ _ _ => true
  | .atomAnd _ _ _ _ _ _ _ _ => true
  | .atomOr _ _ _ _ _ _ _ _ => true
  | .atomXor _ _ _ _ _ _ _ _ => true
  | .atomExch _ _ _ _ _ _ _ _ => true
  | .atomCas _ _ _ _ _ _ _ _ => true
  | .atomFaddF32 _ _ _ _ _ _ _ _ => true
  | .atomFaddBf16x2 _ _ _ _ _ _ _ _ => true
  | .atomLd _ _ _ _ _ _ _ _ => true
  | .atomSt _ _ _ _ _ _ _ _ => true
  | .atomAddW _ _ _ _ _ _ _ _ => true
  | .cwb _ _ _ _ => true
  | .cinv _ _ _ _ => true
  | .pf _ _ _ _ _ => true
  | .trans _ _ _ _ _ => true
  | .transS _ _ _ _ => true
  | .rsvq _ _ _ _ => true
  | .blnq _ _ _ => true
  | .pgsurr _ _ _ _ _ => true
  | .blnack _ _ _ => true
  | .blkq _ _ _ _ => true
  | .mzero _ _ _ _ _ _ => true
  | .mload _ _ _ _ _ _ => true
  | .mloads _ _ _ _ _ _ => true
  | .mswap _ _ _ _ _ => true
  | .mstream _ _ _ _ _ _ => true
  | .mstore _ _ _ _ _ _ => true
  | .mscale _ _ _ _ _ _ => true
  | .mfence _ _ => true
  | .mwait _ _ _ => true
  | .merrq _ _ _ => true
  | .mstat _ _ _ => true
  | .cpyG2s _ _ _ _ _ => true
  | .cpyS2g _ _ _ _ _ => true
  | .cpyS2s _ _ _ _ _ => true
  | .cpyGth _ _ _ _ _ => true
  | .cpySct _ _ _ _ _ => true
  | .cpyFill _ _ _ _ _ => true
  | .cgrp _ _ _ _ => true
  | .cag _ _ _ _ => true
  | .crs _ _ _ _ => true
  | .car _ _ _ _ => true
  | .ca2a _ _ _ _ => true
  | .cbar _ _ _ => true
  | .run _ _ _ => true
  | .rstop _ _ => true
  | .qpop _ _ _ _ => true
  | .qpops _ _ _ _ => true
  | .qpush _ _ _ _ _ => true
  | .qstat _ _ _ _ => true
  | .reservedEncoding _ => false
  | .comparatorHit _ _ _ _ => false
  | .dispatchCohort _ _ => false
  | .teamExit _ _ => false
  | .binTimerExpiry _ _ _ => false
  | .binTeamDispatch _ _ => false
  | .evictTeam _ => false
  | .returnEvictedTeam _ => false
  | .growGrant _ => false
  | .launchCompletion _ _ => false
  | .operatingPointStable _ => false
  | .loadReturn _ _ => false
  | .scratchpadLoadReturn _ _ => false
  | .sfuResultReturn _ _ => false
  | .storePerformed _ _ => false
  | .remoteStorePerformed _ _ => false
  | .atomicPerformed _ _ _ => false
  | .cwbComplete _ _ => false
  | .cinvComplete _ _ => false
  | .pgsurrPageDone _ _ => false
  | .transReturn _ _ => false
  | .blockWriteback _ _ => false
  | .ladleRefill _ _ => false
  | .ladleReturn _ _ => false
  | .migrationComplete _ => false
  | .migrationFailed _ _ => false
  | .copyOperationComplete _ _ => false
  | .collectiveComplete _ _ _ => false
  | .matrixCommandStart _ _ => false
  | .matrixCommandRetire _ _ => false
  | .trapEntry _ _ _ _ _ _ => false
  | .yieldSave _ _ => false
  | .preemptDeadline _ => false
  | .saveComplete _ => false
  | .restoreComplete _ => false
  | .invalidationDone _ => false
  | .pcSample _ _ => false
  | .debugStepEnd _ _ => false
  | .dependenceRecheck _ _ => false
  | .rootStart _ => false
  | .preemptRequest _ => false
  | .preemptWithdraw _ => false
  | .preemptForce _ => false
  | .resume _ => false
  | .functionLevelReset _ => false
  | .translationInvalidate _ _ => false
  | .migrateToCapacityTier _ _ _ => false
  | .migrateToHbm _ _ _ => false
  | .pinPage _ _ _ => false
  | .unpinPage _ _ _ => false
  | .capcfgWrite _ _ => false
  | .balloonRequest _ _ => false
  | .balloonClose _ => false
  | .ctxownWrite _ _ => false
  | .stitchConfigWrite _ _ => false
  | .registerWrite _ _ _ => false
  | .trdropClear _ => false
  | .debugAttach _ => false
  | .debugDetach _ => false
  | .debugStep _ _ _ _ => false
  | .debugStepToRetire _ _ _ _ => false
  | .debugCancelWait _ _ _ _ => false
  | .debugResume _ _ _ => false
  | .stopArm => false
  | .stopOnTick => false
  | .stopRelease => false
  | .perstRelease => false
  | .stageAComplete => false
  | .stageBComplete _ _ _ _ _ => false
  | .stageCComplete _ _ _ => false
  | .ltrMessage _ _ => false
  | .idleEntry _ _ => false
  | .idleWake _ _ => false
  | .powerCapEvaluation _ _ => false
  | .tcapStep _ => false
  | .thermalCapZero _ => false
  | .thermalShutdown _ => false
  | .mctpControlMessage _ => false
  | .pldmSensorRead _ => false
  | .pldmFirmwareUpdate _ _ => false
  | .getVersion => false
  | .getCapabilities => false
  | .negotiateAlgorithms _ _ => false
  | .getDigests => false
  | .getCertificate _ => false
  | .challenge _ => false
  | .getMeasurements _ => false
  | .vendorRegisterAccess _ _ _ => false
  | .mregWrite _ _ => false
  | .meteringReport _ _ => false
  | .finalReport _ => false
  | .allowListInstall _ _ _ => false
  | .attmapWrite _ => false
  | .meterPowerOn => false
  | .meterCheckpoint => false
  | .orderlyPowerDown => false
  | .patrolScrub _ _ _ => false
  | .ecsPoll _ _ _ _ _ => false
  | .fabricHopRetry _ _ _ => false
  | .stitchLanesLost _ _ => false
  | .replicationWindowClear => false
  | .injectionStarvation _ _ _ => false
  | .hostCxlMemAccess _ _ _ => false
  | .reset => false
  | .powerLoss => false
  | .driverContextTeardown _ => false
  | .stitchPortTrained _ _ _ _ => false
  | .coreFaultInService _ _ => false

end Sys2Proof
end

