-- ==== Sys2Proof/Decode.lean ====
section
/-!
DEFINITION. The decoder of instruction words (R60, R72, R75, R76) and the encoder of the same tables.

A word decodes to the row of the opcode table whose fixed bits it holds.  A word that holds no row's fixed bits
(a reserved major or function, a bit marked zero that is set, major 0x1F) is rejected by name; the machine then
runs it as RESERVED_ENCODING, which raises trap 0x01 or 0x12 (R75, R78).  Field values that a row's own rules
forbid (R68, R69, R74) decode, and their trap is raised when the word is executed.
-/

namespace Sys2Proof

/-- Why a word is no instruction of the opcode table. -/
inductive Reject where
  /-- Majors 0x1D and 0x1E (R75). -/
  | reservedMajor
  /-- Major 0x1F, firmware only (R75). -/
  | firmwareMajor
  /-- A function value marked reserved (R76). -/
  | reservedFunction
  /-- A bit marked zero that is one (R72, R74). -/
  | nonZeroField
  /-- EXT with C or S non-zero (R71). -/
  | extFlags
  /-- Fewer bytes than one word holds. -/
  | tooShort
  deriving DecidableEq, Repr

/-- The `n` bits of `w` from bit `lo` up (R1). -/
def field (w : Word) (lo n : Nat) : BitVec n := w.extractLsb' lo n

/-- `i`, provided the bits that must be zero are zero. -/
def keep (ok : Bool) (i : Instr) : Except Reject Instr := if ok then .ok i else .error .nonZeroField

/-- CTL words, SUB field (R76, R96). -/
def decodeCtl (w : Word) (c : BitVec 1) (s : BitVec 2) : Except Reject Instr :=
  match (field w 19 5).toNat with
  | 0 => keep (field w 0 19 == 0) (.nop c s)
  | 1 => .ok (.bra c s (field w 0 19))
  | 2 => .ok (.brc c s (field w 18 1) (field w 16 2) (field w 0 16))
  | 3 => .ok (.split c s (field w 16 3) (field w 0 16))
  | 4 => keep (field w 0 19 == 0) (.join c s)
  | 5 => .ok (.call c s (field w 13 6) (field w 0 13))
  | 6 => keep (field w 0 7 == 0) (.calli c s (field w 13 6) (field w 7 6))
  | 7 => keep (field w 0 13 == 0) (.ret c s (field w 13 6))
  | 8 => keep (field w 0 19 == 0) (.exit c s)
  | 9 => keep (field w 8 11 == 0) (.trap c s (field w 0 8))
  | 10 => keep (field w 8 11 == 0) (.brk c s (field w 0 8))
  | 11 => keep (field w 16 3 == 0) (.waitcyc c s (field w 0 16))
  | 12 => keep (field w 0 19 == 0) (.yield c s)
  | 13 => keep (field w 3 16 == 0) (.prio c s (field w 0 3))
  | 14 => keep (field w 8 5 == 0) (.srd c s (field w 13 6) (field w 0 8))
  | 15 => keep (field w 8 5 == 0) (.swr c s (field w 13 6) (field w 0 8))
  | 16 => keep (field w 12 1 == 0) (.trtag c s (field w 13 6) (field w 0 12))
  | 17 => keep (field w 1 18 == 0) (.rett c s (field w 0 1))
  | 18 => keep (field w 0 13 == 0) (.launch c s (field w 13 6))
  | 19 => keep (field w 6 1 == 0) (.spawn c s (field w 13 6) (field w 7 6) (field w 0 6))
  | _ => .error .reservedFunction

/-- SYNC words, SUB field (R76, R97). -/
def decodeSync (w : Word) (c : BitVec 1) (s : BitVec 2) : Except Reject Instr :=
  match (field w 19 5).toNat with
  | 0 => keep (field w 0 10 == 0) (.waitc c s (field w 16 3) (field w 10 6))
  | 1 => keep (field w 6 10 == 0) (.waitci c s (field w 16 3) (field w 0 6))
  | 2 => keep (field w 0 15 == 0) (.bar c s (field w 15 4))
  | 3 => keep (field w 0 15 == 0) (.bara c s (field w 15 4))
  | 4 => keep (field w 0 15 == 0) (.barw c s (field w 15 4))
  | 5 => keep (field w 0 14 == 0) (.fence c s (field w 17 2) (field w 14 3))
  | 6 => keep (field w 5 14 == 0) (.qfence c s (field w 0 5))
  | 7 => keep (field w 0 11 == 0) (.spout c s (field w 17 2) (field w 11 6))
  | 8 => keep (field w 0 19 == 0) (.grow c s)
  | 9 => keep (field w 0 17 == 0) (.growt c s (field w 17 2))
  | 10 => keep (field w 0 19 == 0) (.shrink c s)
  | _ => .error .reservedFunction

/-- SALU words, FN field (R76, R119). -/
def decodeSalu (w : Word) (c : BitVec 1) (s : BitVec 2) : Except Reject Instr :=
  match (field w 0 4).toNat with
  | 0 => .ok (.sadd c s (field w 18 6) (field w 12 6) (field w 6 6) (field w 4 2))
  | 1 => .ok (.ssub c s (field w 18 6) (field w 12 6) (field w 6 6) (field w 4 2))
  | 2 => .ok (.smul c s (field w 18 6) (field w 12 6) (field w 6 6) (field w 4 2))
  | 3 => .ok (.smulh c s (field w 18 6) (field w 12 6) (field w 6 6) (field w 4 2))
  | 4 => .ok (.sand c s (field w 18 6) (field w 12 6) (field w 6 6) (field w 4 2))
  | 5 => .ok (.sor c s (field w 18 6) (field w 12 6) (field w 6 6) (field w 4 2))
  | 6 => .ok (.sxor c s (field w 18 6) (field w 12 6) (field w 6 6) (field w 4 2))
  | 7 => .ok (.sshl c s (field w 18 6) (field w 12 6) (field w 6 6) (field w 4 2))
  | 8 => .ok (.sshr c s (field w 18 6) (field w 12 6) (field w 6 6) (field w 4 2))
  | 9 => .ok (.ssra c s (field w 18 6) (field w 12 6) (field w 6 6) (field w 4 2))
  | 10 => .ok (.smin c s (field w 18 6) (field w 12 6) (field w 6 6) (field w 4 2))
  | 11 => .ok (.smax c s (field w 18 6) (field w 12 6) (field w 6 6) (field w 4 2))
  | 12 => .ok (.sminu c s (field w 18 6) (field w 12 6) (field w 6 6) (field w 4 2))
  | 13 => .ok (.smaxu c s (field w 18 6) (field w 12 6) (field w 6 6) (field w 4 2))
  | 14 => .ok (.saddw c s (field w 18 6) (field w 12 6) (field w 6 6) (field w 4 2))
  | 15 => keep (field w 18 1 == 0) (.scmp c s (field w 22 2) (field w 19 3) (field w 12 6) (field w 6 6) (field w 4 2))
  | _ => .error .reservedFunction

/-- VINT words, FN field (R76, R128). -/
def decodeVint (w : Word) (c : BitVec 1) (s : BitVec 2) : Except Reject Instr :=
  match (field w 0 4).toNat with
  | 0 => .ok (.vadd c s (field w 18 6) (field w 12 6) (field w 6 6) (field w 4 2))
  | 1 => .ok (.vsub c s (field w 18 6) (field w 12 6) (field w 6 6) (field w 4 2))
  | 2 => .ok (.vmul c s (field w 18 6) (field w 12 6) (field w 6 6) (field w 4 2))
  | 3 => .ok (.vmulh c s (field w 18 6) (field w 12 6) (field w 6 6) (field w 4 2))
  | 4 => .ok (.vmulhu c s (field w 18 6) (field w 12 6) (field w 6 6) (field w 4 2))
  | 5 => .ok (.vand c s (field w 18 6) (field w 12 6) (field w 6 6) (field w 4 2))
  | 6 => .ok (.vor c s (field w 18 6) (field w 12 6) (field w 6 6) (field w 4 2))
  | 7 => .ok (.vxor c s (field w 18 6) (field w 12 6) (field w 6 6) (field w 4 2))
  | 8 => .ok (.vshl c s (field w 18 6) (field w 12 6) (field w 6 6) (field w 4 2))
  | 9 => .ok (.vshr c s (field w 18 6) (field w 12 6) (field w 6 6) (field w 4 2))
  | 10 => .ok (.vsra c s (field w 18 6) (field w 12 6) (field w 6 6) (field w 4 2))
  | 11 => .ok (.vmin c s (field w 18 6) (field w 12 6) (field w 6 6) (field w 4 2))
  | 12 => .ok (.vmax c s (field w 18 6) (field w 12 6) (field w 6 6) (field w 4 2))
  | 13 => .ok (.vminu c s (field w 18 6) (field w 12 6) (field w 6 6) (field w 4 2))
  | 14 => .ok (.vmaxu c s (field w 18 6) (field w 12 6) (field w 6 6) (field w 4 2))
  | 15 => .ok (.vaddw c s (field w 18 6) (field w 12 6) (field w 6 6) (field w 4 2))
  | _ => .error .reservedFunction

/-- VUNI words, FN field (R76, R132). -/
def decodeVuni (w : Word) (c : BitVec 1) (s : BitVec 2) : Except Reject Instr :=
  match (field w 0 4).toNat with
  | 0 => keep (field w 12 6 == 0) (.vmov c s (field w 18 6) (field w 6 6) (field w 4 2))
  | 1 => keep (field w 12 6 == 0) (.vpopc c s (field w 18 6) (field w 6 6) (field w 4 2))
  | 2 => keep (field w 12 6 == 0) (.vclz c s (field w 18 6) (field w 6 6) (field w 4 2))
  | 3 => keep (field w 4 14 == 0) (.vlane c s (field w 18 6))
  | 4 => keep (field w 4 14 == 0) (.vitem c s (field w 18 6))
  | 5 => keep (field w 12 6 == 0) (.vbrev c s (field w 18 6) (field w 6 6) (field w 4 2))
  | 6 => keep (field w 12 6 == 0) (.vnot c s (field w 18 6) (field w 6 6) (field w 4 2))
  | 7 => keep (field w 12 6 == 0) (.vabs c s (field w 18 6) (field w 6 6) (field w 4 2))
  | 8 => keep (field w 12 6 == 0) (.vcvtI2f c s (field w 18 6) (field w 6 6) (field w 4 2))
  | 9 => keep (field w 12 6 == 0) (.vcvtU2f c s (field w 18 6) (field w 6 6) (field w 4 2))
  | 10 => keep (field w 12 6 == 0) (.vcvtF2i c s (field w 18 6) (field w 6 6) (field w 4 2))
  | 11 => keep (field w 12 6 == 0) (.vcvtF2u c s (field w 18 6) (field w 6 6) (field w 4 2))
  | 12 => keep (field w 12 6 == 0) (.vcvtF2h c s (field w 18 6) (field w 6 6) (field w 4 2))
  | 13 => keep (field w 12 6 == 0) (.vcvtH2f c s (field w 18 6) (field w 6 6) (field w 4 2))
  | 14 => .ok (.vbfx c s (field w 18 6) (field w 12 6) (field w 6 6) (field w 4 2))
  | _ => .error .reservedFunction

/-- VFP words, FN field (R76, R135). -/
def decodeVfp (w : Word) (c : BitVec 1) (s : BitVec 2) : Except Reject Instr :=
  match (field w 0 4).toNat with
  | 0 => .ok (.vfadd c s (field w 18 6) (field w 12 6) (field w 6 6) (field w 4 2))
  | 1 => .ok (.vfsub c s (field w 18 6) (field w 12 6) (field w 6 6) (field w 4 2))
  | 2 => .ok (.vfmul c s (field w 18 6) (field w 12 6) (field w 6 6) (field w 4 2))
  | 3 => .ok (.vfmin c s (field w 18 6) (field w 12 6) (field w 6 6) (field w 4 2))
  | 4 => .ok (.vfmax c s (field w 18 6) (field w 12 6) (field w 6 6) (field w 4 2))
  | 5 => keep (field w 12 6 == 0) (.vfneg c s (field w 18 6) (field w 6 6) (field w 4 2))
  | 6 => keep (field w 12 6 == 0) (.vfabs c s (field w 18 6) (field w 6 6) (field w 4 2))
  | 7 => keep (field w 12 6 == 0) (.vfclass c s (field w 18 6) (field w 6 6) (field w 4 2))
  | 8 => .ok (.vqfac c s (field w 18 6) (field w 12 6) (field w 6 6) (field w 4 2))
  | 9 => .ok (.vqnorm c s (field w 18 6) (field w 12 6) (field w 6 6) (field w 4 2))
  | _ => .error .reservedFunction

/-- VHP words, FN[2:0] (R76, R140); FN[3] is the format. -/
def decodeVhp (w : Word) (c : BitVec 1) (s : BitVec 2) : Except Reject Instr :=
  match (field w 0 3).toNat with
  | 0 => .ok (.vhadd c s (field w 18 6) (field w 12 6) (field w 6 6) (field w 4 2) (field w 3 1))
  | 1 => .ok (.vhsub c s (field w 18 6) (field w 12 6) (field w 6 6) (field w 4 2) (field w 3 1))
  | 2 => .ok (.vhmul c s (field w 18 6) (field w 12 6) (field w 6 6) (field w 4 2) (field w 3 1))
  | 3 => .ok (.vhmin c s (field w 18 6) (field w 12 6) (field w 6 6) (field w 4 2) (field w 3 1))
  | 4 => .ok (.vhmax c s (field w 18 6) (field w 12 6) (field w 6 6) (field w 4 2) (field w 3 1))
  | 5 => .ok (.vhdot c s (field w 18 6) (field w 12 6) (field w 6 6) (field w 4 2) (field w 3 1))
  | 6 => keep (field w 12 6 == 0) (.vhneg c s (field w 18 6) (field w 6 6) (field w 4 2) (field w 3 1))
  | 7 => keep (field w 12 6 == 0) (.vhabs c s (field w 18 6) (field w 6 6) (field w 4 2) (field w 3 1))
  | _ => .error .reservedFunction

/-- VCMP words, FN field (R76, R143 to R145); FN 8 to 15 are VSEL. -/
def decodeVcmp (w : Word) (c : BitVec 1) (s : BitVec 2) : Except Reject Instr :=
  match (field w 0 4).toNat with
  | 0 => .ok (.vcmpS c s (field w 21 3) (field w 18 3) (field w 12 6) (field w 6 6) (field w 4 2))
  | 1 => .ok (.vcmpU c s (field w 21 3) (field w 18 3) (field w 12 6) (field w 6 6) (field w 4 2))
  | 2 => .ok (.vcmpF c s (field w 21 3) (field w 18 3) (field w 12 6) (field w 6 6) (field w 4 2))
  | 3 => keep (field w 4 2 == 0 && field w 9 3 == 0 && field w 15 6 == 0) (.pand c s (field w 21 3) (field w 12 3) (field w 6 3))
  | 4 => keep (field w 4 2 == 0 && field w 9 3 == 0 && field w 15 6 == 0) (.por c s (field w 21 3) (field w 12 3) (field w 6 3))
  | 5 => keep (field w 4 2 == 0 && field w 9 3 == 0 && field w 15 6 == 0) (.pxor c s (field w 21 3) (field w 12 3) (field w 6 3))
  | 6 => keep (field w 4 2 == 0 && field w 9 12 == 0) (.pnot c s (field w 21 3) (field w 6 3))
  | 8 => .ok (.vsel c s (field w 18 6) (field w 12 6) (field w 6 6) (field w 4 2) (field w 0 3))
  | 9 => .ok (.vsel c s (field w 18 6) (field w 12 6) (field w 6 6) (field w 4 2) (field w 0 3))
  | 10 => .ok (.vsel c s (field w 18 6) (field w 12 6) (field w 6 6) (field w 4 2) (field w 0 3))
  | 11 => .ok (.vsel c s (field w 18 6) (field w 12 6) (field w 6 6) (field w 4 2) (field w 0 3))
  | 12 => .ok (.vsel c s (field w 18 6) (field w 12 6) (field w 6 6) (field w 4 2) (field w 0 3))
  | 13 => .ok (.vsel c s (field w 18 6) (field w 12 6) (field w 6 6) (field w 4 2) (field w 0 3))
  | 14 => .ok (.vsel c s (field w 18 6) (field w 12 6) (field w 6 6) (field w 4 2) (field w 0 3))
  | 15 => .ok (.vsel c s (field w 18 6) (field w 12 6) (field w 6 6) (field w 4 2) (field w 0 3))
  | _ => .error .reservedFunction

/-- VSFU words, FN field (R76, R147). -/
def decodeVsfu (w : Word) (c : BitVec 1) (s : BitVec 2) : Except Reject Instr :=
  match (field w 0 4).toNat with
  | 0 => keep (field w 12 6 == 0) (.vrcp c s (field w 18 6) (field w 6 6) (field w 4 2))
  | 1 => keep (field w 12 6 == 0) (.vrsq c s (field w 18 6) (field w 6 6) (field w 4 2))
  | 2 => keep (field w 12 6 == 0) (.vsqrt c s (field w 18 6) (field w 6 6) (field w 4 2))
  | 3 => keep (field w 12 6 == 0) (.vexp2 c s (field w 18 6) (field w 6 6) (field w 4 2))
  | 4 => keep (field w 12 6 == 0) (.vlog2 c s (field w 18 6) (field w 6 6) (field w 4 2))
  | 5 => keep (field w 12 6 == 0) (.vsin c s (field w 18 6) (field w 6 6) (field w 4 2))
  | 6 => keep (field w 12 6 == 0) (.vcos c s (field w 18 6) (field w 6 6) (field w 4 2))
  | 7 => keep (field w 12 6 == 0) (.vtanh c s (field w 18 6) (field w 6 6) (field w 4 2))
  | _ => .error .reservedFunction

/-- XLN words, FN field (R76, R149 to R156). -/
def decodeXln (w : Word) (c : BitVec 1) (s : BitVec 2) : Except Reject Instr :=
  match (field w 0 4).toNat with
  | 0 => .ok (.vshfl c s (field w 18 6) (field w 12 6) (field w 6 6) (field w 4 2))
  | 1 => .ok (.vshflu c s (field w 18 6) (field w 12 6) (field w 6 6) (field w 4 2))
  | 2 => .ok (.vshfld c s (field w 18 6) (field w 12 6) (field w 6 6) (field w 4 2))
  | 3 => .ok (.vshflx c s (field w 18 6) (field w 12 6) (field w 6 6) (field w 4 2))
  | 4 => .ok (.vbcast c s (field w 18 6) (field w 12 6) (field w 6 6) (field w 4 2))
  | 5 => keep (field w 4 8 == 0 && field w 15 3 == 0) (.vballot c s (field w 18 6) (field w 12 3))
  | 6 => keep (field w 4 8 == 0 && field w 15 7 == 0) (.vany c s (field w 22 2) (field w 12 3))
  | 7 => keep (field w 4 8 == 0 && field w 15 7 == 0) (.vall c s (field w 22 2) (field w 12 3))
  | 8 => .ok (.vmredAdd c s (field w 18 6) (field w 12 6) (field w 6 6) (field w 4 2))
  | 9 => .ok (.vmredMin c s (field w 18 6) (field w 12 6) (field w 6 6) (field w 4 2))
  | 10 => .ok (.vmredMax c s (field w 18 6) (field w 12 6) (field w 6 6) (field w 4 2))
  | 11 => keep (field w 4 2 == 3 && field w 7 5 == 0) (.vscanAdd c s (field w 18 6) (field w 12 6) (field w 6 1))
  | 12 => keep (field w 4 2 == 3 && field w 7 5 == 0) (.vscanxAdd c s (field w 18 6) (field w 12 6) (field w 6 1))
  | 13 => keep (field w 4 2 == 3 && field w 7 5 == 0) (.vredgAdd c s (field w 18 6) (field w 12 6) (field w 6 1))
  | 14 => keep (field w 4 2 == 3 && field w 7 5 == 0) (.vredgMax c s (field w 18 6) (field w 12 6) (field w 6 1))
  | 15 => keep (field w 4 8 == 0) (.vmatch c s (field w 18 6) (field w 12 6))
  | _ => .error .reservedFunction

/-- ATOM words, OP field (R76, R169). -/
def decodeAtom (w : Word) (c : BitVec 1) (s : BitVec 2) : Except Reject Instr :=
  match (field w 8 4).toNat with
  | 0 => keep (field w 0 1 == 0) (.atomAdd c s (field w 18 6) (field w 12 6) (field w 6 2) (field w 3 3) (field w 2 1) (field w 1 1))
  | 1 => keep (field w 0 1 == 0) (.atomMin c s (field w 18 6) (field w 12 6) (field w 6 2) (field w 3 3) (field w 2 1) (field w 1 1))
  | 2 => keep (field w 0 1 == 0) (.atomMax c s (field w 18 6) (field w 12 6) (field w 6 2) (field w 3 3) (field w 2 1) (field w 1 1))
  | 3 => keep (field w 0 1 == 0) (.atomMinu c s (field w 18 6) (field w 12 6) (field w 6 2) (field w 3 3) (field w 2 1) (field w 1 1))
  | 4 => keep (field w 0 1 == 0) (.atomMaxu c s (field w 18 6) (field w 12 6) (field w 6 2) (field w 3 3) (field w 2 1) (field w 1 1))
  | 5 => keep (field w 0 1 == 0) (.atomAnd c s (field w 18 6) (field w 12 6) (field w 6 2) (field w 3 3) (field w 2 1) (field w 1 1))
  | 6 => keep (field w 0 1 == 0) (.atomOr c s (field w 18 6) (field w 12 6) (field w 6 2) (field w 3 3) (field w 2 1) (field w 1 1))
  | 7 => keep (field w 0 1 == 0) (.atomXor c s (field w 18 6) (field w 12 6) (field w 6 2) (field w 3 3) (field w 2 1) (field w 1 1))
  | 8 => keep (field w 0 1 == 0) (.atomExch c s (field w 18 6) (field w 12 6) (field w 6 2) (field w 3 3) (field w 2 1) (field w 1 1))
  | 9 => keep (field w 0 1 == 0) (.atomCas c s (field w 18 6) (field w 12 6) (field w 6 2) (field w 3 3) (field w 2 1) (field w 1 1))
  | 10 => keep (field w 0 1 == 0) (.atomFaddF32 c s (field w 18 6) (field w 12 6) (field w 6 2) (field w 3 3) (field w 2 1) (field w 1 1))
  | 11 => keep (field w 0 1 == 0) (.atomFaddBf16x2 c s (field w 18 6) (field w 12 6) (field w 6 2) (field w 3 3) (field w 2 1) (field w 1 1))
  | 12 => keep (field w 0 1 == 0) (.atomLd c s (field w 18 6) (field w 12 6) (field w 6 2) (field w 3 3) (field w 2 1) (field w 1 1))
  | 13 => keep (field w 0 1 == 0) (.atomSt c s (field w 18 6) (field w 12 6) (field w 6 2) (field w 3 3) (field w 2 1) (field w 1 1))
  | 14 => keep (field w 0 1 == 0) (.atomAddW c s (field w 18 6) (field w 12 6) (field w 6 2) (field w 3 3) (field w 2 1) (field w 1 1))
  | _ => .error .reservedFunction

/-- MEMX words, SUB field (R76, R178). -/
def decodeMemx (w : Word) (c : BitVec 1) (s : BitVec 2) : Except Reject Instr :=
  match (field w 19 5).toNat with
  | 0 => keep (field w 0 7 == 0) (.cwb c s (field w 13 6) (field w 7 6))
  | 1 => keep (field w 0 7 == 0) (.cinv c s (field w 13 6) (field w 7 6))
  | 2 => keep (field w 0 6 == 0) (.pf c s (field w 13 6) (field w 7 6) (field w 6 1))
  | 3 => keep (field w 0 4 == 0) (.trans c s (field w 13 6) (field w 7 6) (field w 4 3))
  | 4 => keep (field w 0 7 == 0) (.transS c s (field w 13 6) (field w 7 6))
  | 5 => keep (field w 0 11 == 0) (.rsvq c s (field w 13 6) (field w 11 2))
  | 6 => keep (field w 0 13 == 0) (.blnq c s (field w 13 6))
  | 7 => keep (field w 0 1 == 0) (.pgsurr c s (field w 13 6) (field w 7 6) (field w 1 6))
  | 8 => keep (field w 0 13 == 0) (.blnack c s (field w 13 6))
  | 9 => keep (field w 0 7 == 0) (.blkq c s (field w 13 6) (field w 7 6))
  | _ => .error .reservedFunction

/-- MTX words, OP field (R76, R195). -/
def decodeMtx (w : Word) (c : BitVec 1) (s : BitVec 2) : Except Reject Instr :=
  match (field w 20 4).toNat with
  | 0 => .ok (.mzero c s (field w 15 5) (field w 10 5) (field w 5 5) (field w 0 5))
  | 1 => .ok (.mload c s (field w 15 5) (field w 10 5) (field w 5 5) (field w 0 5))
  | 2 => .ok (.mloads c s (field w 15 5) (field w 10 5) (field w 5 5) (field w 0 5))
  | 3 => keep (field w 0 5 == 0) (.mswap c s (field w 15 5) (field w 10 5) (field w 5 5))
  | 4 => .ok (.mstream c s (field w 15 5) (field w 10 5) (field w 5 5) (field w 0 5))
  | 5 => .ok (.mstore c s (field w 15 5) (field w 10 5) (field w 5 5) (field w 0 5))
  | 6 => .ok (.mscale c s (field w 15 5) (field w 10 5) (field w 5 5) (field w 0 5))
  | 7 => keep (field w 0 20 == 0) (.mfence c s)
  | 8 => keep (field w 5 15 == 0) (.mwait c s (field w 0 5))
  | 9 => keep (field w 5 15 == 0) (.merrq c s (field w 0 5))
  | 10 => keep (field w 5 15 == 0) (.mstat c s (field w 0 5))
  | _ => .error .reservedFunction

/-- CPY words, OP field (R76, R215). -/
def decodeCpy (w : Word) (c : BitVec 1) (s : BitVec 2) : Except Reject Instr :=
  match (field w 20 4).toNat with
  | 0 => keep (field w 12 6 == 0) (.cpyG2s c s (field w 18 2) (field w 6 6) (field w 0 6))
  | 1 => keep (field w 12 6 == 0) (.cpyS2g c s (field w 18 2) (field w 6 6) (field w 0 6))
  | 2 => keep (field w 12 6 == 0) (.cpyS2s c s (field w 18 2) (field w 6 6) (field w 0 6))
  | 3 => keep (field w 12 6 == 0) (.cpyGth c s (field w 18 2) (field w 6 6) (field w 0 6))
  | 4 => keep (field w 12 6 == 0) (.cpySct c s (field w 18 2) (field w 6 6) (field w 0 6))
  | 5 => keep (field w 12 6 == 0) (.cpyFill c s (field w 18 2) (field w 6 6) (field w 0 6))
  | _ => .error .reservedFunction

/-- COL words, OP field (R76, R222). -/
def decodeCol (w : Word) (c : BitVec 1) (s : BitVec 2) : Except Reject Instr :=
  match (field w 20 4).toNat with
  | 0 => keep (field w 2 4 == 0 && field w 12 8 == 0) (.cgrp c s (field w 6 6) (field w 0 2))
  | 1 => keep (field w 2 4 == 0 && field w 12 8 == 0) (.cag c s (field w 6 6) (field w 0 2))
  | 2 => keep (field w 2 4 == 0 && field w 12 8 == 0) (.crs c s (field w 6 6) (field w 0 2))
  | 3 => keep (field w 2 4 == 0 && field w 12 8 == 0) (.car c s (field w 6 6) (field w 0 2))
  | 4 => keep (field w 2 4 == 0 && field w 12 8 == 0) (.ca2a c s (field w 6 6) (field w 0 2))
  | 5 => keep (field w 2 18 == 0) (.cbar c s (field w 0 2))
  | _ => .error .reservedFunction

/-- RUNQ words, SUB field (R76, R230). -/
def decodeRunq (w : Word) (c : BitVec 1) (s : BitVec 2) : Except Reject Instr :=
  match (field w 19 5).toNat with
  | 0 => keep (field w 16 3 == 0) (.run c s (field w 0 16))
  | 1 => keep (field w 0 19 == 0) (.rstop c s)
  | 2 => keep (field w 0 11 == 0) (.qpop c s (field w 13 6) (field w 11 2))
  | 3 => keep (field w 0 11 == 0) (.qpops c s (field w 13 6) (field w 11 2))
  | 4 => keep (field w 0 10 == 0) (.qpush c s (field w 13 6) (field w 11 2) (field w 10 1))
  | 5 => keep (field w 0 11 == 0) (.qstat c s (field w 13 6) (field w 11 2))
  | _ => .error .reservedFunction

/-- Majors LDS and STS: body bit [2] chooses format M or MR (R73). -/
def decodeScratch (w : Word) (c : BitVec 1) (s : BitVec 2) (store : Bool) : Except Reject Instr :=
  if field w 2 1 == 1 then
    .ok (if store then .stsR c s (field w 18 6) (field w 12 6) (field w 7 5) (field w 3 4) (field w 0 2)
      else .ldsR c s (field w 18 6) (field w 12 6) (field w 7 5) (field w 3 4) (field w 0 2))
  else
    keep (field w 4 2 == 0)
      (if store then .sts c s (field w 18 6) (field w 12 6) (field w 6 6) (field w 3 1) (field w 0 2)
      else .lds c s (field w 18 6) (field w 12 6) (field w 6 6) (field w 3 1) (field w 0 2))

/-- The instruction of one word (R60, R75). -/
def decodeWord (w : Word) : Except Reject Instr :=
  let c := field w 31 1
  let s := field w 29 2
  match (field w 24 5).toNat with
  | 0 => decodeCtl w c s
  | 1 => decodeSync w c s
  | 2 => decodeSalu w c s
  | 3 => .ok (.saddi c s (field w 18 6) (field w 12 6) (field w 0 12))
  | 4 => .ok (.smovi c s (field w 18 6) (field w 0 18))
  | 5 => decodeVint w c s
  | 6 => decodeVuni w c s
  | 7 => .ok (.vmad c s (field w 18 6) (field w 12 6) (field w 6 6) (field w 0 6))
  | 8 => decodeVfp w c s
  | 9 => .ok (.vfma c s (field w 18 6) (field w 12 6) (field w 6 6) (field w 0 6))
  | 10 => decodeVhp w c s
  | 11 => .ok (.vhfmaBf c s (field w 18 6) (field w 12 6) (field w 6 6) (field w 0 6))
  | 12 => .ok (.vhfmaHf c s (field w 18 6) (field w 12 6) (field w 6 6) (field w 0 6))
  | 13 => decodeVcmp w c s
  | 14 => decodeVsfu w c s
  | 15 => decodeXln w c s
  | 16 => .ok (.ldg c s (field w 18 6) (field w 12 6) (field w 6 6) (field w 4 2) (field w 0 4))
  | 17 => .ok (.stg c s (field w 18 6) (field w 12 6) (field w 6 6) (field w 4 2) (field w 0 4))
  | 18 => decodeScratch w c s false
  | 19 => decodeScratch w c s true
  | 20 => decodeAtom w c s
  | 21 => decodeMemx w c s
  | 22 => decodeMtx w c s
  | 23 => decodeCpy w c s
  | 24 => decodeCol w c s
  | 25 => decodeRunq w c s
  | 26 => if c == 0 && s == 0 then .ok (.ext (field w 0 24)) else .error .extFlags
  | 27 => .ok (.vaddi c s (field w 18 6) (field w 12 6) (field w 0 12))
  | 28 => .ok (.ldu c s (field w 18 6) (field w 12 6) (field w 6 6) (field w 4 2) (field w 0 4))
  | 31 => .error .firmwareMajor
  | _ => .error .reservedMajor

/-- Four bytes as the word they store, the first at the lowest address (R1). -/
def wordOfBytes (b0 b1 b2 b3 : Byte) : Word := b3 ++ b2 ++ b1 ++ b0

/-- The instruction at the head of a run of bytes, with the bytes after it. -/
def decodeBytes : List Byte → Except Reject (Instr × List Byte)
  | b0 :: b1 :: b2 :: b3 :: rest => (decodeWord (wordOfBytes b0 b1 b2 b3)).map (·, rest)
  | _ => .error .tooShort

/-- The four bytes that store a word, lowest address first (R1). -/
def bytesOfWord (w : Word) : List Byte :=
  [w.extractLsb' 0 8, w.extractLsb' 8 8, w.extractLsb' 16 8, w.extractLsb' 24 8]

/-- The instruction the decoder reads from a table row's bits: `nbits` of `w`, the bits above them zero. -/
def decodeTableWord (nbits w : Nat) : Option Instr :=
  match decodeBytes (bytesOfWord (BitVec.ofNat 32 (w % 2 ^ nbits))) with
  | .ok (i, _) => some i
  | .error _ => none

/-- The word of an encoded instruction, from the field maps of R72; an operation or event has none. -/
def encode : Instr → Option Word
  | .nop c w => some (BitVec.ofNat 32 (0x0 + c.toNat * 2147483648 + w.toNat * 536870912))
  | .bra c w o => some (BitVec.ofNat 32 (0x80000 + c.toNat * 2147483648 + w.toNat * 536870912 + o.toNat))
  | .brc c w z k o => some (BitVec.ofNat 32 (0x100000 + c.toNat * 2147483648 + w.toNat * 536870912 + z.toNat * 262144 + k.toNat * 65536 + o.toNat))
  | .split c w p o => some (BitVec.ofNat 32 (0x180000 + c.toNat * 2147483648 + w.toNat * 536870912 + p.toNat * 65536 + o.toNat))
  | .join c w => some (BitVec.ofNat 32 (0x200000 + c.toNat * 2147483648 + w.toNat * 536870912))
  | .call c w l o => some (BitVec.ofNat 32 (0x280000 + c.toNat * 2147483648 + w.toNat * 536870912 + l.toNat * 8192 + o.toNat))
  | .calli c w l t => some (BitVec.ofNat 32 (0x300000 + c.toNat * 2147483648 + w.toNat * 536870912 + l.toNat * 8192 + t.toNat * 128))
  | .ret c w t => some (BitVec.ofNat 32 (0x380000 + c.toNat * 2147483648 + w.toNat * 536870912 + t.toNat * 8192))
  | .exit c w => some (BitVec.ofNat 32 (0x400000 + c.toNat * 2147483648 + w.toNat * 536870912))
  | .trap c w k => some (BitVec.ofNat 32 (0x480000 + c.toNat * 2147483648 + w.toNat * 536870912 + k.toNat))
  | .brk c w g => some (BitVec.ofNat 32 (0x500000 + c.toNat * 2147483648 + w.toNat * 536870912 + g.toNat))
  | .waitcyc c w n => some (BitVec.ofNat 32 (0x580000 + c.toNat * 2147483648 + w.toNat * 536870912 + n.toNat))
  | .yield c w => some (BitVec.ofNat 32 (0x600000 + c.toNat * 2147483648 + w.toNat * 536870912))
  | .prio c w p => some (BitVec.ofNat 32 (0x680000 + c.toNat * 2147483648 + w.toNat * 536870912 + p.toNat))
  | .srd c w d n => some (BitVec.ofNat 32 (0x700000 + c.toNat * 2147483648 + w.toNat * 536870912 + d.toNat * 8192 + n.toNat))
  | .swr c w a n => some (BitVec.ofNat 32 (0x780000 + c.toNat * 2147483648 + w.toNat * 536870912 + a.toNat * 8192 + n.toNat))
  | .trtag c w a g => some (BitVec.ofNat 32 (0x800000 + c.toNat * 2147483648 + w.toNat * 536870912 + a.toNat * 8192 + g.toNat))
  | .rett c w k => some (BitVec.ofNat 32 (0x880000 + c.toNat * 2147483648 + w.toNat * 536870912 + k.toNat))
  | .launch c w a => some (BitVec.ofNat 32 (0x900000 + c.toNat * 2147483648 + w.toNat * 536870912 + a.toNat * 8192))
  | .spawn c w a e t => some (BitVec.ofNat 32 (0x980000 + c.toNat * 2147483648 + w.toNat * 536870912 + a.toNat * 8192 + e.toNat * 128 + t.toNat))
  | .waitc c w h a => some (BitVec.ofNat 32 (0x1000000 + c.toNat * 2147483648 + w.toNat * 536870912 + h.toNat * 65536 + a.toNat * 1024))
  | .waitci c w h n => some (BitVec.ofNat 32 (0x1080000 + c.toNat * 2147483648 + w.toNat * 536870912 + h.toNat * 65536 + n.toNat))
  | .bar c w b => some (BitVec.ofNat 32 (0x1100000 + c.toNat * 2147483648 + w.toNat * 536870912 + b.toNat * 32768))
  | .bara c w b => some (BitVec.ofNat 32 (0x1180000 + c.toNat * 2147483648 + w.toNat * 536870912 + b.toNat * 32768))
  | .barw c w b => some (BitVec.ofNat 32 (0x1200000 + c.toNat * 2147483648 + w.toNat * 536870912 + b.toNat * 32768))
  | .fence c w o e => some (BitVec.ofNat 32 (0x1280000 + c.toNat * 2147483648 + w.toNat * 536870912 + o.toNat * 131072 + e.toNat * 16384))
  | .qfence c w m => some (BitVec.ofNat 32 (0x1300000 + c.toNat * 2147483648 + w.toNat * 536870912 + m.toNat))
  | .spout c w n a => some (BitVec.ofNat 32 (0x1380000 + c.toNat * 2147483648 + w.toNat * 536870912 + n.toNat * 131072 + a.toNat * 2048))
  | .grow c w => some (BitVec.ofNat 32 (0x1400000 + c.toNat * 2147483648 + w.toNat * 536870912))
  | .growt c w k => some (BitVec.ofNat 32 (0x1480000 + c.toNat * 2147483648 + w.toNat * 536870912 + k.toNat * 131072))
  | .shrink c w => some (BitVec.ofNat 32 (0x1500000 + c.toNat * 2147483648 + w.toNat * 536870912))
  | .sadd c w d a b q => some (BitVec.ofNat 32 (0x2000000 + c.toNat * 2147483648 + w.toNat * 536870912 + d.toNat * 262144 + a.toNat * 4096 + b.toNat * 64 + q.toNat * 16))
  | .ssub c w d a b q => some (BitVec.ofNat 32 (0x2000001 + c.toNat * 2147483648 + w.toNat * 536870912 + d.toNat * 262144 + a.toNat * 4096 + b.toNat * 64 + q.toNat * 16))
  | .smul c w d a b q => some (BitVec.ofNat 32 (0x2000002 + c.toNat * 2147483648 + w.toNat * 536870912 + d.toNat * 262144 + a.toNat * 4096 + b.toNat * 64 + q.toNat * 16))
  | .smulh c w d a b q => some (BitVec.ofNat 32 (0x2000003 + c.toNat * 2147483648 + w.toNat * 536870912 + d.toNat * 262144 + a.toNat * 4096 + b.toNat * 64 + q.toNat * 16))
  | .sand c w d a b q => some (BitVec.ofNat 32 (0x2000004 + c.toNat * 2147483648 + w.toNat * 536870912 + d.toNat * 262144 + a.toNat * 4096 + b.toNat * 64 + q.toNat * 16))
  | .sor c w d a b q => some (BitVec.ofNat 32 (0x2000005 + c.toNat * 2147483648 + w.toNat * 536870912 + d.toNat * 262144 + a.toNat * 4096 + b.toNat * 64 + q.toNat * 16))
  | .sxor c w d a b q => some (BitVec.ofNat 32 (0x2000006 + c.toNat * 2147483648 + w.toNat * 536870912 + d.toNat * 262144 + a.toNat * 4096 + b.toNat * 64 + q.toNat * 16))
  | .sshl c w d a b q => some (BitVec.ofNat 32 (0x2000007 + c.toNat * 2147483648 + w.toNat * 536870912 + d.toNat * 262144 + a.toNat * 4096 + b.toNat * 64 + q.toNat * 16))
  | .sshr c w d a b q => some (BitVec.ofNat 32 (0x2000008 + c.toNat * 2147483648 + w.toNat * 536870912 + d.toNat * 262144 + a.toNat * 4096 + b.toNat * 64 + q.toNat * 16))
  | .ssra c w d a b q => some (BitVec.ofNat 32 (0x2000009 + c.toNat * 2147483648 + w.toNat * 536870912 + d.toNat * 262144 + a.toNat * 4096 + b.toNat * 64 + q.toNat * 16))
  | .smin c w d a b q => some (BitVec.ofNat 32 (0x200000A + c.toNat * 2147483648 + w.toNat * 536870912 + d.toNat * 262144 + a.toNat * 4096 + b.toNat * 64 + q.toNat * 16))
  | .smax c w d a b q => some (BitVec.ofNat 32 (0x200000B + c.toNat * 2147483648 + w.toNat * 536870912 + d.toNat * 262144 + a.toNat * 4096 + b.toNat * 64 + q.toNat * 16))
  | .sminu c w d a b q => some (BitVec.ofNat 32 (0x200000C + c.toNat * 2147483648 + w.toNat * 536870912 + d.toNat * 262144 + a.toNat * 4096 + b.toNat * 64 + q.toNat * 16))
  | .smaxu c w d a b q => some (BitVec.ofNat 32 (0x200000D + c.toNat * 2147483648 + w.toNat * 536870912 + d.toNat * 262144 + a.toNat * 4096 + b.toNat * 64 + q.toNat * 16))
  | .saddw c w d a b q => some (BitVec.ofNat 32 (0x200000E + c.toNat * 2147483648 + w.toNat * 536870912 + d.toNat * 262144 + a.toNat * 4096 + b.toNat * 64 + q.toNat * 16))
  | .scmp c w k e a b q => some (BitVec.ofNat 32 (0x200000F + c.toNat * 2147483648 + w.toNat * 536870912 + k.toNat * 4194304 + e.toNat * 524288 + a.toNat * 4096 + b.toNat * 64 + q.toNat * 16))
  | .saddi c w d a i => some (BitVec.ofNat 32 (0x3000000 + c.toNat * 2147483648 + w.toNat * 536870912 + d.toNat * 262144 + a.toNat * 4096 + i.toNat))
  | .smovi c w d i => some (BitVec.ofNat 32 (0x4000000 + c.toNat * 2147483648 + w.toNat * 536870912 + d.toNat * 262144 + i.toNat))
  | .ext x => some (BitVec.ofNat 32 (0x1A000000 + x.toNat))
  | .vadd c w d a b q => some (BitVec.ofNat 32 (0x5000000 + c.toNat * 2147483648 + w.toNat * 536870912 + d.toNat * 262144 + a.toNat * 4096 + b.toNat * 64 + q.toNat * 16))
  | .vsub c w d a b q => some (BitVec.ofNat 32 (0x5000001 + c.toNat * 2147483648 + w.toNat * 536870912 + d.toNat * 262144 + a.toNat * 4096 + b.toNat * 64 + q.toNat * 16))
  | .vmul c w d a b q => some (BitVec.ofNat 32 (0x5000002 + c.toNat * 2147483648 + w.toNat * 536870912 + d.toNat * 262144 + a.toNat * 4096 + b.toNat * 64 + q.toNat * 16))
  | .vmulh c w d a b q => some (BitVec.ofNat 32 (0x5000003 + c.toNat * 2147483648 + w.toNat * 536870912 + d.toNat * 262144 + a.toNat * 4096 + b.toNat * 64 + q.toNat * 16))
  | .vmulhu c w d a b q => some (BitVec.ofNat 32 (0x5000004 + c.toNat * 2147483648 + w.toNat * 536870912 + d.toNat * 262144 + a.toNat * 4096 + b.toNat * 64 + q.toNat * 16))
  | .vand c w d a b q => some (BitVec.ofNat 32 (0x5000005 + c.toNat * 2147483648 + w.toNat * 536870912 + d.toNat * 262144 + a.toNat * 4096 + b.toNat * 64 + q.toNat * 16))
  | .vor c w d a b q => some (BitVec.ofNat 32 (0x5000006 + c.toNat * 2147483648 + w.toNat * 536870912 + d.toNat * 262144 + a.toNat * 4096 + b.toNat * 64 + q.toNat * 16))
  | .vxor c w d a b q => some (BitVec.ofNat 32 (0x5000007 + c.toNat * 2147483648 + w.toNat * 536870912 + d.toNat * 262144 + a.toNat * 4096 + b.toNat * 64 + q.toNat * 16))
  | .vshl c w d a b q => some (BitVec.ofNat 32 (0x5000008 + c.toNat * 2147483648 + w.toNat * 536870912 + d.toNat * 262144 + a.toNat * 4096 + b.toNat * 64 + q.toNat * 16))
  | .vshr c w d a b q => some (BitVec.ofNat 32 (0x5000009 + c.toNat * 2147483648 + w.toNat * 536870912 + d.toNat * 262144 + a.toNat * 4096 + b.toNat * 64 + q.toNat * 16))
  | .vsra c w d a b q => some (BitVec.ofNat 32 (0x500000A + c.toNat * 2147483648 + w.toNat * 536870912 + d.toNat * 262144 + a.toNat * 4096 + b.toNat * 64 + q.toNat * 16))
  | .vmin c w d a b q => some (BitVec.ofNat 32 (0x500000B + c.toNat * 2147483648 + w.toNat * 536870912 + d.toNat * 262144 + a.toNat * 4096 + b.toNat * 64 + q.toNat * 16))
  | .vmax c w d a b q => some (BitVec.ofNat 32 (0x500000C + c.toNat * 2147483648 + w.toNat * 536870912 + d.toNat * 262144 + a.toNat * 4096 + b.toNat * 64 + q.toNat * 16))
  | .vminu c w d a b q => some (BitVec.ofNat 32 (0x500000D + c.toNat * 2147483648 + w.toNat * 536870912 + d.toNat * 262144 + a.toNat * 4096 + b.toNat * 64 + q.toNat * 16))
  | .vmaxu c w d a b q => some (BitVec.ofNat 32 (0x500000E + c.toNat * 2147483648 + w.toNat * 536870912 + d.toNat * 262144 + a.toNat * 4096 + b.toNat * 64 + q.toNat * 16))
  | .vaddw c w d a b q => some (BitVec.ofNat 32 (0x500000F + c.toNat * 2147483648 + w.toNat * 536870912 + d.toNat * 262144 + a.toNat * 4096 + b.toNat * 64 + q.toNat * 16))
  | .vaddi c w d a i => some (BitVec.ofNat 32 (0x1B000000 + c.toNat * 2147483648 + w.toNat * 536870912 + d.toNat * 262144 + a.toNat * 4096 + i.toNat))
  | .vmad c w d a b j => some (BitVec.ofNat 32 (0x7000000 + c.toNat * 2147483648 + w.toNat * 536870912 + d.toNat * 262144 + a.toNat * 4096 + b.toNat * 64 + j.toNat))
  | .vmov c w d b q => some (BitVec.ofNat 32 (0x6000000 + c.toNat * 2147483648 + w.toNat * 536870912 + d.toNat * 262144 + b.toNat * 64 + q.toNat * 16))
  | .vpopc c w d b q => some (BitVec.ofNat 32 (0x6000001 + c.toNat * 2147483648 + w.toNat * 536870912 + d.toNat * 262144 + b.toNat * 64 + q.toNat * 16))
  | .vclz c w d b q => some (BitVec.ofNat 32 (0x6000002 + c.toNat * 2147483648 + w.toNat * 536870912 + d.toNat * 262144 + b.toNat * 64 + q.toNat * 16))
  | .vlane c w d => some (BitVec.ofNat 32 (0x6000003 + c.toNat * 2147483648 + w.toNat * 536870912 + d.toNat * 262144))
  | .vitem c w d => some (BitVec.ofNat 32 (0x6000004 + c.toNat * 2147483648 + w.toNat * 536870912 + d.toNat * 262144))
  | .vbrev c w d b q => some (BitVec.ofNat 32 (0x6000005 + c.toNat * 2147483648 + w.toNat * 536870912 + d.toNat * 262144 + b.toNat * 64 + q.toNat * 16))
  | .vnot c w d b q => some (BitVec.ofNat 32 (0x6000006 + c.toNat * 2147483648 + w.toNat * 536870912 + d.toNat * 262144 + b.toNat * 64 + q.toNat * 16))
  | .vabs c w d b q => some (BitVec.ofNat 32 (0x6000007 + c.toNat * 2147483648 + w.toNat * 536870912 + d.toNat * 262144 + b.toNat * 64 + q.toNat * 16))
  | .vcvtI2f c w d b q => some (BitVec.ofNat 32 (0x6000008 + c.toNat * 2147483648 + w.toNat * 536870912 + d.toNat * 262144 + b.toNat * 64 + q.toNat * 16))
  | .vcvtU2f c w d b q => some (BitVec.ofNat 32 (0x6000009 + c.toNat * 2147483648 + w.toNat * 536870912 + d.toNat * 262144 + b.toNat * 64 + q.toNat * 16))
  | .vcvtF2i c w d b q => some (BitVec.ofNat 32 (0x600000A + c.toNat * 2147483648 + w.toNat * 536870912 + d.toNat * 262144 + b.toNat * 64 + q.toNat * 16))
  | .vcvtF2u c w d b q => some (BitVec.ofNat 32 (0x600000B + c.toNat * 2147483648 + w.toNat * 536870912 + d.toNat * 262144 + b.toNat * 64 + q.toNat * 16))
  | .vcvtF2h c w d b q => some (BitVec.ofNat 32 (0x600000C + c.toNat * 2147483648 + w.toNat * 536870912 + d.toNat * 262144 + b.toNat * 64 + q.toNat * 16))
  | .vcvtH2f c w d b q => some (BitVec.ofNat 32 (0x600000D + c.toNat * 2147483648 + w.toNat * 536870912 + d.toNat * 262144 + b.toNat * 64 + q.toNat * 16))
  | .vbfx c w d a b q => some (BitVec.ofNat 32 (0x600000E + c.toNat * 2147483648 + w.toNat * 536870912 + d.toNat * 262144 + a.toNat * 4096 + b.toNat * 64 + q.toNat * 16))
  | .vfadd c w d a b q => some (BitVec.ofNat 32 (0x8000000 + c.toNat * 2147483648 + w.toNat * 536870912 + d.toNat * 262144 + a.toNat * 4096 + b.toNat * 64 + q.toNat * 16))
  | .vfsub c w d a b q => some (BitVec.ofNat 32 (0x8000001 + c.toNat * 2147483648 + w.toNat * 536870912 + d.toNat * 262144 + a.toNat * 4096 + b.toNat * 64 + q.toNat * 16))
  | .vfmul c w d a b q => some (BitVec.ofNat 32 (0x8000002 + c.toNat * 2147483648 + w.toNat * 536870912 + d.toNat * 262144 + a.toNat * 4096 + b.toNat * 64 + q.toNat * 16))
  | .vfmin c w d a b q => some (BitVec.ofNat 32 (0x8000003 + c.toNat * 2147483648 + w.toNat * 536870912 + d.toNat * 262144 + a.toNat * 4096 + b.toNat * 64 + q.toNat * 16))
  | .vfmax c w d a b q => some (BitVec.ofNat 32 (0x8000004 + c.toNat * 2147483648 + w.toNat * 536870912 + d.toNat * 262144 + a.toNat * 4096 + b.toNat * 64 + q.toNat * 16))
  | .vfneg c w d b q => some (BitVec.ofNat 32 (0x8000005 + c.toNat * 2147483648 + w.toNat * 536870912 + d.toNat * 262144 + b.toNat * 64 + q.toNat * 16))
  | .vfabs c w d b q => some (BitVec.ofNat 32 (0x8000006 + c.toNat * 2147483648 + w.toNat * 536870912 + d.toNat * 262144 + b.toNat * 64 + q.toNat * 16))
  | .vfclass c w d b q => some (BitVec.ofNat 32 (0x8000007 + c.toNat * 2147483648 + w.toNat * 536870912 + d.toNat * 262144 + b.toNat * 64 + q.toNat * 16))
  | .vqfac c w d a b q => some (BitVec.ofNat 32 (0x8000008 + c.toNat * 2147483648 + w.toNat * 536870912 + d.toNat * 262144 + a.toNat * 4096 + b.toNat * 64 + q.toNat * 16))
  | .vqnorm c w d a b q => some (BitVec.ofNat 32 (0x8000009 + c.toNat * 2147483648 + w.toNat * 536870912 + d.toNat * 262144 + a.toNat * 4096 + b.toNat * 64 + q.toNat * 16))
  | .vfma c w d a b j => some (BitVec.ofNat 32 (0x9000000 + c.toNat * 2147483648 + w.toNat * 536870912 + d.toNat * 262144 + a.toNat * 4096 + b.toNat * 64 + j.toNat))
  | .vhadd c w d a b q f => some (BitVec.ofNat 32 (0xA000000 + c.toNat * 2147483648 + w.toNat * 536870912 + d.toNat * 262144 + a.toNat * 4096 + b.toNat * 64 + q.toNat * 16 + f.toNat * 8))
  | .vhsub c w d a b q f => some (BitVec.ofNat 32 (0xA000001 + c.toNat * 2147483648 + w.toNat * 536870912 + d.toNat * 262144 + a.toNat * 4096 + b.toNat * 64 + q.toNat * 16 + f.toNat * 8))
  | .vhmul c w d a b q f => some (BitVec.ofNat 32 (0xA000002 + c.toNat * 2147483648 + w.toNat * 536870912 + d.toNat * 262144 + a.toNat * 4096 + b.toNat * 64 + q.toNat * 16 + f.toNat * 8))
  | .vhmin c w d a b q f => some (BitVec.ofNat 32 (0xA000003 + c.toNat * 2147483648 + w.toNat * 536870912 + d.toNat * 262144 + a.toNat * 4096 + b.toNat * 64 + q.toNat * 16 + f.toNat * 8))
  | .vhmax c w d a b q f => some (BitVec.ofNat 32 (0xA000004 + c.toNat * 2147483648 + w.toNat * 536870912 + d.toNat * 262144 + a.toNat * 4096 + b.toNat * 64 + q.toNat * 16 + f.toNat * 8))
  | .vhdot c w d a b q f => some (BitVec.ofNat 32 (0xA000005 + c.toNat * 2147483648 + w.toNat * 536870912 + d.toNat * 262144 + a.toNat * 4096 + b.toNat * 64 + q.toNat * 16 + f.toNat * 8))
  | .vhneg c w d b q f => some (BitVec.ofNat 32 (0xA000006 + c.toNat * 2147483648 + w.toNat * 536870912 + d.toNat * 262144 + b.toNat * 64 + q.toNat * 16 + f.toNat * 8))
  | .vhabs c w d b q f => some (BitVec.ofNat 32 (0xA000007 + c.toNat * 2147483648 + w.toNat * 536870912 + d.toNat * 262144 + b.toNat * 64 + q.toNat * 16 + f.toNat * 8))
  | .vhfmaBf c w d a b j => some (BitVec.ofNat 32 (0xB000000 + c.toNat * 2147483648 + w.toNat * 536870912 + d.toNat * 262144 + a.toNat * 4096 + b.toNat * 64 + j.toNat))
  | .vhfmaHf c w d a b j => some (BitVec.ofNat 32 (0xC000000 + c.toNat * 2147483648 + w.toNat * 536870912 + d.toNat * 262144 + a.toNat * 4096 + b.toNat * 64 + j.toNat))
  | .vcmpS c w p e a b q => some (BitVec.ofNat 32 (0xD000000 + c.toNat * 2147483648 + w.toNat * 536870912 + p.toNat * 2097152 + e.toNat * 262144 + a.toNat * 4096 + b.toNat * 64 + q.toNat * 16))
  | .vcmpU c w p e a b q => some (BitVec.ofNat 32 (0xD000001 + c.toNat * 2147483648 + w.toNat * 536870912 + p.toNat * 2097152 + e.toNat * 262144 + a.toNat * 4096 + b.toNat * 64 + q.toNat * 16))
  | .vcmpF c w p e a b q => some (BitVec.ofNat 32 (0xD000002 + c.toNat * 2147483648 + w.toNat * 536870912 + p.toNat * 2097152 + e.toNat * 262144 + a.toNat * 4096 + b.toNat * 64 + q.toNat * 16))
  | .pand c w p a b => some (BitVec.ofNat 32 (0xD000003 + c.toNat * 2147483648 + w.toNat * 536870912 + p.toNat * 2097152 + a.toNat * 4096 + b.toNat * 64))
  | .por c w p a b => some (BitVec.ofNat 32 (0xD000004 + c.toNat * 2147483648 + w.toNat * 536870912 + p.toNat * 2097152 + a.toNat * 4096 + b.toNat * 64))
  | .pxor c w p a b => some (BitVec.ofNat 32 (0xD000005 + c.toNat * 2147483648 + w.toNat * 536870912 + p.toNat * 2097152 + a.toNat * 4096 + b.toNat * 64))
  | .pnot c w p b => some (BitVec.ofNat 32 (0xD000006 + c.toNat * 2147483648 + w.toNat * 536870912 + p.toNat * 2097152 + b.toNat * 64))
  | .vsel c w d a b q r => some (BitVec.ofNat 32 (0xD000008 + c.toNat * 2147483648 + w.toNat * 536870912 + d.toNat * 262144 + a.toNat * 4096 + b.toNat * 64 + q.toNat * 16 + r.toNat))
  | .vrcp c w d b q => some (BitVec.ofNat 32 (0xE000000 + c.toNat * 2147483648 + w.toNat * 536870912 + d.toNat * 262144 + b.toNat * 64 + q.toNat * 16))
  | .vrsq c w d b q => some (BitVec.ofNat 32 (0xE000001 + c.toNat * 2147483648 + w.toNat * 536870912 + d.toNat * 262144 + b.toNat * 64 + q.toNat * 16))
  | .vsqrt c w d b q => some (BitVec.ofNat 32 (0xE000002 + c.toNat * 2147483648 + w.toNat * 536870912 + d.toNat * 262144 + b.toNat * 64 + q.toNat * 16))
  | .vexp2 c w d b q => some (BitVec.ofNat 32 (0xE000003 + c.toNat * 2147483648 + w.toNat * 536870912 + d.toNat * 262144 + b.toNat * 64 + q.toNat * 16))
  | .vlog2 c w d b q => some (BitVec.ofNat 32 (0xE000004 + c.toNat * 2147483648 + w.toNat * 536870912 + d.toNat * 262144 + b.toNat * 64 + q.toNat * 16))
  | .vsin c w d b q => some (BitVec.ofNat 32 (0xE000005 + c.toNat * 2147483648 + w.toNat * 536870912 + d.toNat * 262144 + b.toNat * 64 + q.toNat * 16))
  | .vcos c w d b q => some (BitVec.ofNat 32 (0xE000006 + c.toNat * 2147483648 + w.toNat * 536870912 + d.toNat * 262144 + b.toNat * 64 + q.toNat * 16))
  | .vtanh c w d b q => some (BitVec.ofNat 32 (0xE000007 + c.toNat * 2147483648 + w.toNat * 536870912 + d.toNat * 262144 + b.toNat * 64 + q.toNat * 16))
  | .vshfl c w d a b q => some (BitVec.ofNat 32 (0xF000000 + c.toNat * 2147483648 + w.toNat * 536870912 + d.toNat * 262144 + a.toNat * 4096 + b.toNat * 64 + q.toNat * 16))
  | .vshflu c w d a b q => some (BitVec.ofNat 32 (0xF000001 + c.toNat * 2147483648 + w.toNat * 536870912 + d.toNat * 262144 + a.toNat * 4096 + b.toNat * 64 + q.toNat * 16))
  | .vshfld c w d a b q => some (BitVec.ofNat 32 (0xF000002 + c.toNat * 2147483648 + w.toNat * 536870912 + d.toNat * 262144 + a.toNat * 4096 + b.toNat * 64 + q.toNat * 16))
  | .vshflx c w d a b q => some (BitVec.ofNat 32 (0xF000003 + c.toNat * 2147483648 + w.toNat * 536870912 + d.toNat * 262144 + a.toNat * 4096 + b.toNat * 64 + q.toNat * 16))
  | .vbcast c w d a b q => some (BitVec.ofNat 32 (0xF000004 + c.toNat * 2147483648 + w.toNat * 536870912 + d.toNat * 262144 + a.toNat * 4096 + b.toNat * 64 + q.toNat * 16))
  | .vballot c w d p => some (BitVec.ofNat 32 (0xF000005 + c.toNat * 2147483648 + w.toNat * 536870912 + d.toNat * 262144 + p.toNat * 4096))
  | .vany c w k p => some (BitVec.ofNat 32 (0xF000006 + c.toNat * 2147483648 + w.toNat * 536870912 + k.toNat * 4194304 + p.toNat * 4096))
  | .vall c w k p => some (BitVec.ofNat 32 (0xF000007 + c.toNat * 2147483648 + w.toNat * 536870912 + k.toNat * 4194304 + p.toNat * 4096))
  | .vmredAdd c w d a b q => some (BitVec.ofNat 32 (0xF000008 + c.toNat * 2147483648 + w.toNat * 536870912 + d.toNat * 262144 + a.toNat * 4096 + b.toNat * 64 + q.toNat * 16))
  | .vmredMin c w d a b q => some (BitVec.ofNat 32 (0xF000009 + c.toNat * 2147483648 + w.toNat * 536870912 + d.toNat * 262144 + a.toNat * 4096 + b.toNat * 64 + q.toNat * 16))
  | .vmredMax c w d a b q => some (BitVec.ofNat 32 (0xF00000A + c.toNat * 2147483648 + w.toNat * 536870912 + d.toNat * 262144 + a.toNat * 4096 + b.toNat * 64 + q.toNat * 16))
  | .vscanAdd c w d a t => some (BitVec.ofNat 32 (0xF00003B + c.toNat * 2147483648 + w.toNat * 536870912 + d.toNat * 262144 + a.toNat * 4096 + t.toNat * 64))
  | .vscanxAdd c w d a t => some (BitVec.ofNat 32 (0xF00003C + c.toNat * 2147483648 + w.toNat * 536870912 + d.toNat * 262144 + a.toNat * 4096 + t.toNat * 64))
  | .vredgAdd c w d a t => some (BitVec.ofNat 32 (0xF00003D + c.toNat * 2147483648 + w.toNat * 536870912 + d.toNat * 262144 + a.toNat * 4096 + t.toNat * 64))
  | .vredgMax c w d a t => some (BitVec.ofNat 32 (0xF00003E + c.toNat * 2147483648 + w.toNat * 536870912 + d.toNat * 262144 + a.toNat * 4096 + t.toNat * 64))
  | .vmatch c w d a => some (BitVec.ofNat 32 (0xF00000F + c.toNat * 2147483648 + w.toNat * 536870912 + d.toNat * 262144 + a.toNat * 4096))
  | .ldg c w d a o q f => some (BitVec.ofNat 32 (0x10000000 + c.toNat * 2147483648 + w.toNat * 536870912 + d.toNat * 262144 + a.toNat * 4096 + o.toNat * 64 + q.toNat * 16 + f.toNat))
  | .stg c w d a o q f => some (BitVec.ofNat 32 (0x11000000 + c.toNat * 2147483648 + w.toNat * 536870912 + d.toNat * 262144 + a.toNat * 4096 + o.toNat * 64 + q.toNat * 16 + f.toNat))
  | .ldu c w d a o q f => some (BitVec.ofNat 32 (0x1C000000 + c.toNat * 2147483648 + w.toNat * 536870912 + d.toNat * 262144 + a.toNat * 4096 + o.toNat * 64 + q.toNat * 16 + f.toNat))
  | .lds c w d a o fh fl => some (BitVec.ofNat 32 (0x12000000 + c.toNat * 2147483648 + w.toNat * 536870912 + d.toNat * 262144 + a.toNat * 4096 + o.toNat * 64 + fh.toNat * 8 + fl.toNat))
  | .sts c w d a o fh fl => some (BitVec.ofNat 32 (0x13000000 + c.toNat * 2147483648 + w.toNat * 536870912 + d.toNat * 262144 + a.toNat * 4096 + o.toNat * 64 + fh.toNat * 8 + fl.toNat))
  | .ldsR c w d a x y g => some (BitVec.ofNat 32 (0x12000004 + c.toNat * 2147483648 + w.toNat * 536870912 + d.toNat * 262144 + a.toNat * 4096 + x.toNat * 128 + y.toNat * 8 + g.toNat))
  | .stsR c w d a x y g => some (BitVec.ofNat 32 (0x13000004 + c.toNat * 2147483648 + w.toNat * 536870912 + d.toNat * 262144 + a.toNat * 4096 + x.toNat * 128 + y.toNat * 8 + g.toNat))
  | .atomAdd c w d a o e p r => some (BitVec.ofNat 32 (0x14000000 + c.toNat * 2147483648 + w.toNat * 536870912 + d.toNat * 262144 + a.toNat * 4096 + o.toNat * 64 + e.toNat * 8 + p.toNat * 4 + r.toNat * 2))
  | .atomMin c w d a o e p r => some (BitVec.ofNat 32 (0x14000100 + c.toNat * 2147483648 + w.toNat * 536870912 + d.toNat * 262144 + a.toNat * 4096 + o.toNat * 64 + e.toNat * 8 + p.toNat * 4 + r.toNat * 2))
  | .atomMax c w d a o e p r => some (BitVec.ofNat 32 (0x14000200 + c.toNat * 2147483648 + w.toNat * 536870912 + d.toNat * 262144 + a.toNat * 4096 + o.toNat * 64 + e.toNat * 8 + p.toNat * 4 + r.toNat * 2))
  | .atomMinu c w d a o e p r => some (BitVec.ofNat 32 (0x14000300 + c.toNat * 2147483648 + w.toNat * 536870912 + d.toNat * 262144 + a.toNat * 4096 + o.toNat * 64 + e.toNat * 8 + p.toNat * 4 + r.toNat * 2))
  | .atomMaxu c w d a o e p r => some (BitVec.ofNat 32 (0x14000400 + c.toNat * 2147483648 + w.toNat * 536870912 + d.toNat * 262144 + a.toNat * 4096 + o.toNat * 64 + e.toNat * 8 + p.toNat * 4 + r.toNat * 2))
  | .atomAnd c w d a o e p r => some (BitVec.ofNat 32 (0x14000500 + c.toNat * 2147483648 + w.toNat * 536870912 + d.toNat * 262144 + a.toNat * 4096 + o.toNat * 64 + e.toNat * 8 + p.toNat * 4 + r.toNat * 2))
  | .atomOr c w d a o e p r => some (BitVec.ofNat 32 (0x14000600 + c.toNat * 2147483648 + w.toNat * 536870912 + d.toNat * 262144 + a.toNat * 4096 + o.toNat * 64 + e.toNat * 8 + p.toNat * 4 + r.toNat * 2))
  | .atomXor c w d a o e p r => some (BitVec.ofNat 32 (0x14000700 + c.toNat * 2147483648 + w.toNat * 536870912 + d.toNat * 262144 + a.toNat * 4096 + o.toNat * 64 + e.toNat * 8 + p.toNat * 4 + r.toNat * 2))
  | .atomExch c w d a o e p r => some (BitVec.ofNat 32 (0x14000800 + c.toNat * 2147483648 + w.toNat * 536870912 + d.toNat * 262144 + a.toNat * 4096 + o.toNat * 64 + e.toNat * 8 + p.toNat * 4 + r.toNat * 2))
  | .atomCas c w d a o e p r => some (BitVec.ofNat 32 (0x14000900 + c.toNat * 2147483648 + w.toNat * 536870912 + d.toNat * 262144 + a.toNat * 4096 + o.toNat * 64 + e.toNat * 8 + p.toNat * 4 + r.toNat * 2))
  | .atomFaddF32 c w d a o e p r => some (BitVec.ofNat 32 (0x14000A00 + c.toNat * 2147483648 + w.toNat * 536870912 + d.toNat * 262144 + a.toNat * 4096 + o.toNat * 64 + e.toNat * 8 + p.toNat * 4 + r.toNat * 2))
  | .atomFaddBf16x2 c w d a o e p r => some (BitVec.ofNat 32 (0x14000B00 + c.toNat * 2147483648 + w.toNat * 536870912 + d.toNat * 262144 + a.toNat * 4096 + o.toNat * 64 + e.toNat * 8 + p.toNat * 4 + r.toNat * 2))
  | .atomLd c w d a o e p r => some (BitVec.ofNat 32 (0x14000C00 + c.toNat * 2147483648 + w.toNat * 536870912 + d.toNat * 262144 + a.toNat * 4096 + o.toNat * 64 + e.toNat * 8 + p.toNat * 4 + r.toNat * 2))
  | .atomSt c w d a o e p r => some (BitVec.ofNat 32 (0x14000D00 + c.toNat * 2147483648 + w.toNat * 536870912 + d.toNat * 262144 + a.toNat * 4096 + o.toNat * 64 + e.toNat * 8 + p.toNat * 4 + r.toNat * 2))
  | .atomAddW c w d a o e p r => some (BitVec.ofNat 32 (0x14000E00 + c.toNat * 2147483648 + w.toNat * 536870912 + d.toNat * 262144 + a.toNat * 4096 + o.toNat * 64 + e.toNat * 8 + p.toNat * 4 + r.toNat * 2))
  | .cwb c w a n => some (BitVec.ofNat 32 (0x15000000 + c.toNat * 2147483648 + w.toNat * 536870912 + a.toNat * 8192 + n.toNat * 128))
  | .cinv c w a n => some (BitVec.ofNat 32 (0x15080000 + c.toNat * 2147483648 + w.toNat * 536870912 + a.toNat * 8192 + n.toNat * 128))
  | .pf c w a n l => some (BitVec.ofNat 32 (0x15100000 + c.toNat * 2147483648 + w.toNat * 536870912 + a.toNat * 8192 + n.toNat * 128 + l.toNat * 64))
  | .trans c w d t p => some (BitVec.ofNat 32 (0x15180000 + c.toNat * 2147483648 + w.toNat * 536870912 + d.toNat * 8192 + t.toNat * 128 + p.toNat * 16))
  | .transS c w d t => some (BitVec.ofNat 32 (0x15200000 + c.toNat * 2147483648 + w.toNat * 536870912 + d.toNat * 8192 + t.toNat * 128))
  | .rsvq c w d i => some (BitVec.ofNat 32 (0x15280000 + c.toNat * 2147483648 + w.toNat * 536870912 + d.toNat * 8192 + i.toNat * 2048))
  | .blnq c w d => some (BitVec.ofNat 32 (0x15300000 + c.toNat * 2147483648 + w.toNat * 536870912 + d.toNat * 8192))
  | .pgsurr c w d a n => some (BitVec.ofNat 32 (0x15380000 + c.toNat * 2147483648 + w.toNat * 536870912 + d.toNat * 8192 + a.toNat * 128 + n.toNat * 2))
  | .blnack c w a => some (BitVec.ofNat 32 (0x15400000 + c.toNat * 2147483648 + w.toNat * 536870912 + a.toNat * 8192))
  | .blkq c w d a => some (BitVec.ofNat 32 (0x15480000 + c.toNat * 2147483648 + w.toNat * 536870912 + d.toNat * 8192 + a.toNat * 128))
  | .mzero c w i p q b => some (BitVec.ofNat 32 (0x16000000 + c.toNat * 2147483648 + w.toNat * 536870912 + i.toNat * 32768 + p.toNat * 1024 + q.toNat * 32 + b.toNat))
  | .mload c w i p q b => some (BitVec.ofNat 32 (0x16100000 + c.toNat * 2147483648 + w.toNat * 536870912 + i.toNat * 32768 + p.toNat * 1024 + q.toNat * 32 + b.toNat))
  | .mloads c w i p q b => some (BitVec.ofNat 32 (0x16200000 + c.toNat * 2147483648 + w.toNat * 536870912 + i.toNat * 32768 + p.toNat * 1024 + q.toNat * 32 + b.toNat))
  | .mswap c w i p q => some (BitVec.ofNat 32 (0x16300000 + c.toNat * 2147483648 + w.toNat * 536870912 + i.toNat * 32768 + p.toNat * 1024 + q.toNat * 32))
  | .mstream c w i p q b => some (BitVec.ofNat 32 (0x16400000 + c.toNat * 2147483648 + w.toNat * 536870912 + i.toNat * 32768 + p.toNat * 1024 + q.toNat * 32 + b.toNat))
  | .mstore c w i p q b => some (BitVec.ofNat 32 (0x16500000 + c.toNat * 2147483648 + w.toNat * 536870912 + i.toNat * 32768 + p.toNat * 1024 + q.toNat * 32 + b.toNat))
  | .mscale c w i p q b => some (BitVec.ofNat 32 (0x16600000 + c.toNat * 2147483648 + w.toNat * 536870912 + i.toNat * 32768 + p.toNat * 1024 + q.toNat * 32 + b.toNat))
  | .mfence c w => some (BitVec.ofNat 32 (0x16700000 + c.toNat * 2147483648 + w.toNat * 536870912))
  | .mwait c w b => some (BitVec.ofNat 32 (0x16800000 + c.toNat * 2147483648 + w.toNat * 536870912 + b.toNat))
  | .merrq c w b => some (BitVec.ofNat 32 (0x16900000 + c.toNat * 2147483648 + w.toNat * 536870912 + b.toNat))
  | .mstat c w b => some (BitVec.ofNat 32 (0x16A00000 + c.toNat * 2147483648 + w.toNat * 536870912 + b.toNat))
  | .cpyG2s c w q b n => some (BitVec.ofNat 32 (0x17000000 + c.toNat * 2147483648 + w.toNat * 536870912 + q.toNat * 262144 + b.toNat * 64 + n.toNat))
  | .cpyS2g c w q b n => some (BitVec.ofNat 32 (0x17100000 + c.toNat * 2147483648 + w.toNat * 536870912 + q.toNat * 262144 + b.toNat * 64 + n.toNat))
  | .cpyS2s c w q b n => some (BitVec.ofNat 32 (0x17200000 + c.toNat * 2147483648 + w.toNat * 536870912 + q.toNat * 262144 + b.toNat * 64 + n.toNat))
  | .cpyGth c w q b n => some (BitVec.ofNat 32 (0x17300000 + c.toNat * 2147483648 + w.toNat * 536870912 + q.toNat * 262144 + b.toNat * 64 + n.toNat))
  | .cpySct c w q b n => some (BitVec.ofNat 32 (0x17400000 + c.toNat * 2147483648 + w.toNat * 536870912 + q.toNat * 262144 + b.toNat * 64 + n.toNat))
  | .cpyFill c w q b n => some (BitVec.ofNat 32 (0x17500000 + c.toNat * 2147483648 + w.toNat * 536870912 + q.toNat * 262144 + b.toNat * 64 + n.toNat))
  | .cgrp c w b g => some (BitVec.ofNat 32 (0x18000000 + c.toNat * 2147483648 + w.toNat * 536870912 + b.toNat * 64 + g.toNat))
  | .cag c w b g => some (BitVec.ofNat 32 (0x18100000 + c.toNat * 2147483648 + w.toNat * 536870912 + b.toNat * 64 + g.toNat))
  | .crs c w b g => some (BitVec.ofNat 32 (0x18200000 + c.toNat * 2147483648 + w.toNat * 536870912 + b.toNat * 64 + g.toNat))
  | .car c w b g => some (BitVec.ofNat 32 (0x18300000 + c.toNat * 2147483648 + w.toNat * 536870912 + b.toNat * 64 + g.toNat))
  | .ca2a c w b g => some (BitVec.ofNat 32 (0x18400000 + c.toNat * 2147483648 + w.toNat * 536870912 + b.toNat * 64 + g.toNat))
  | .cbar c w g => some (BitVec.ofNat 32 (0x18500000 + c.toNat * 2147483648 + w.toNat * 536870912 + g.toNat))
  | .run c w o => some (BitVec.ofNat 32 (0x19000000 + c.toNat * 2147483648 + w.toNat * 536870912 + o.toNat))
  | .rstop c w => some (BitVec.ofNat 32 (0x19080000 + c.toNat * 2147483648 + w.toNat * 536870912))
  | .qpop c w d q => some (BitVec.ofNat 32 (0x19100000 + c.toNat * 2147483648 + w.toNat * 536870912 + d.toNat * 8192 + q.toNat * 2048))
  | .qpops c w d q => some (BitVec.ofNat 32 (0x19180000 + c.toNat * 2147483648 + w.toNat * 536870912 + d.toNat * 8192 + q.toNat * 2048))
  | .qpush c w a q f => some (BitVec.ofNat 32 (0x19200000 + c.toNat * 2147483648 + w.toNat * 536870912 + a.toNat * 8192 + q.toNat * 2048 + f.toNat * 1024))
  | .qstat c w d q => some (BitVec.ofNat 32 (0x19280000 + c.toNat * 2147483648 + w.toNat * 536870912 + d.toNat * 8192 + q.toNat * 2048))
  | .reservedEncoding _ => none
  | .comparatorHit _ _ _ _ => none
  | .dispatchCohort _ _ => none
  | .teamExit _ _ => none
  | .binTimerExpiry _ _ _ => none
  | .binTeamDispatch _ _ => none
  | .evictTeam _ => none
  | .returnEvictedTeam _ => none
  | .growGrant _ => none
  | .launchCompletion _ _ => none
  | .operatingPointStable _ => none
  | .loadReturn _ _ => none
  | .scratchpadLoadReturn _ _ => none
  | .sfuResultReturn _ _ => none
  | .storePerformed _ _ => none
  | .remoteStorePerformed _ _ => none
  | .atomicPerformed _ _ _ => none
  | .cwbComplete _ _ => none
  | .cinvComplete _ _ => none
  | .pgsurrPageDone _ _ => none
  | .transReturn _ _ => none
  | .blockWriteback _ _ => none
  | .ladleRefill _ _ => none
  | .ladleReturn _ _ => none
  | .migrationComplete _ => none
  | .migrationFailed _ _ => none
  | .copyOperationComplete _ _ => none
  | .collectiveComplete _ _ _ => none
  | .matrixCommandStart _ _ => none
  | .matrixCommandRetire _ _ => none
  | .trapEntry _ _ _ _ _ _ => none
  | .yieldSave _ _ => none
  | .preemptDeadline _ => none
  | .saveComplete _ => none
  | .restoreComplete _ => none
  | .invalidationDone _ => none
  | .pcSample _ _ => none
  | .debugStepEnd _ _ => none
  | .dependenceRecheck _ _ => none
  | .rootStart _ => none
  | .preemptRequest _ => none
  | .preemptWithdraw _ => none
  | .preemptForce _ => none
  | .resume _ => none
  | .functionLevelReset _ => none
  | .translationInvalidate _ _ => none
  | .migrateToCapacityTier _ _ _ => none
  | .migrateToHbm _ _ _ => none
  | .pinPage _ _ _ => none
  | .unpinPage _ _ _ => none
  | .capcfgWrite _ _ => none
  | .balloonRequest _ _ => none
  | .balloonClose _ => none
  | .ctxownWrite _ _ => none
  | .stitchConfigWrite _ _ => none
  | .registerWrite _ _ _ => none
  | .trdropClear _ => none
  | .debugAttach _ => none
  | .debugDetach _ => none
  | .debugStep _ _ _ _ => none
  | .debugStepToRetire _ _ _ _ => none
  | .debugCancelWait _ _ _ _ => none
  | .debugResume _ _ _ => none
  | .stopArm => none
  | .stopOnTick => none
  | .stopRelease => none
  | .perstRelease => none
  | .stageAComplete => none
  | .stageBComplete _ _ _ _ _ => none
  | .stageCComplete _ _ _ => none
  | .ltrMessage _ _ => none
  | .idleEntry _ _ => none
  | .idleWake _ _ => none
  | .powerCapEvaluation _ _ => none
  | .tcapStep _ => none
  | .thermalCapZero _ => none
  | .thermalShutdown _ => none
  | .mctpControlMessage _ => none
  | .pldmSensorRead _ => none
  | .pldmFirmwareUpdate _ _ => none
  | .getVersion => none
  | .getCapabilities => none
  | .negotiateAlgorithms _ _ => none
  | .getDigests => none
  | .getCertificate _ => none
  | .challenge _ => none
  | .getMeasurements _ => none
  | .vendorRegisterAccess _ _ _ => none
  | .mregWrite _ _ => none
  | .meteringReport _ _ => none
  | .finalReport _ => none
  | .allowListInstall _ _ _ => none
  | .attmapWrite _ => none
  | .meterPowerOn => none
  | .meterCheckpoint => none
  | .orderlyPowerDown => none
  | .patrolScrub _ _ _ => none
  | .ecsPoll _ _ _ _ _ => none
  | .fabricHopRetry _ _ _ => none
  | .stitchLanesLost _ _ => none
  | .replicationWindowClear => none
  | .injectionStarvation _ _ _ => none
  | .hostCxlMemAccess _ _ _ => none
  | .reset => none
  | .powerLoss => none
  | .driverContextTeardown _ => none
  | .stitchPortTrained _ _ _ _ => none
  | .coreFaultInService _ _ => none

end Sys2Proof
end

