-- ==== Sys2Proof/Config.lean ====
section
/-!
DEFINITION. What one H9 or one run fixes and the spec leaves open: the free values.  None has a body, so no
proof can see a value; each is named in the assumption log.
-/

namespace Sys2Proof.Config

/-- A free choice between two outcomes the spec allows; the argument numbers the choice (log 3). -/
opaque freeBit : Nat → Bool

/-- A free 32-bit value: undefined contents or an unspecified result; the argument numbers it (log 3). -/
opaque freeWord : Nat → BitVec 32

/-- A byte of scratchpad that a cohort was given and nothing has written (R319): cohort, byte address (log 5). -/
opaque scratchByte : Nat → Nat → BitVec 8

/-- The coder's size, before the bounds of R266 are applied, of a block that is not Z, K or P (R266; log 6). -/
opaque coderSize : List (BitVec 8) → Nat

/-- The pattern the SFU delivers, where it lies within the bound of R147: function number, operand (log 7). -/
opaque sfuChoice : Nat → BitVec 32 → BitVec 32

/-- Bytes of a signature, certificate or digest whose keys the spec does not give (R366, R378; log 8). -/
opaque signature : List (BitVec 8) → List (BitVec 8)

/-- A run of tokens of R349 that stands for a section's words (log 21). -/
opaque coded : List (BitVec 8) → List (BitVec 8)

/-- Byte `i` of a part of a save image that is not described: section kind, core, byte (R349; log 21). -/
opaque imageByte : Nat → Nat → Nat → BitVec 8

/-- Raw bytes of a section whose contents are not described: section kind, core (R349; log 21). -/
opaque sectionSize : Nat → Nat → Nat

/-- A value that a physical sensor or a map the spec does not give supplies: what is asked, its argument (log 22). -/
opaque sensor : Nat → Nat → BitVec 32

/-- Loops of a die on which a stop sits, used where the whole membership has the form of R15 and R270: die, stop (log 76). -/
opaque loops : Nat → Nat → List Nat

/-- The place of a stop on a loop of a die: die, loop, stop (R271; log 76). -/
opaque loopPlace : Nat → Nat → Nat → Nat

end Sys2Proof.Config
end

