-- ==== Sys2Proof/Machine/Fp.lean ====
section
/-!
DEFINITION. Number formats and arithmetic (R79 to R95): values are computed exactly on integers and rounded once.
-/

namespace Sys2Proof.Machine

/-- An IEEE-shaped binary format: exponent bits, mantissa bits, bias (R79). -/
structure Fmt where
  eb : Nat
  mb : Nat
  bias : Nat
  deriving DecidableEq, Repr

def Fmt.fp32 : Fmt := ⟨8, 23, 127⟩
def Fmt.fp16 : Fmt := ⟨5, 10, 15⟩
def Fmt.bf16 : Fmt := ⟨8, 7, 127⟩
def Fmt.e5m2 : Fmt := ⟨5, 2, 15⟩
def Fmt.e4m3 : Fmt := ⟨4, 3, 7⟩
def Fmt.e3m2 : Fmt := ⟨3, 2, 3⟩
def Fmt.e2m3 : Fmt := ⟨2, 3, 1⟩
def Fmt.e2m1 : Fmt := ⟨2, 1, 1⟩

/-- The rounding modes of FPMODE.RM (R50). -/
inductive Rm where
  | rn | rz | ru | rd
  deriving DecidableEq, Repr

def Rm.ofBits (x : Nat) : Rm :=
  match x % 4 with
  | 0 => .rn
  | 1 => .rz
  | 2 => .ru
  | _ => .rd

/-- A value: a NaN with its pattern, an infinity, or (−1)^neg × m × 2^e. -/
inductive FVal where
  | nan (pattern : Nat)
  | inf (neg : Bool)
  | fin (neg : Bool) (m : Nat) (e : Int)
  deriving DecidableEq, Repr

/-- Flag bits of FPFLAGS (R51). -/
def flagIV : Nat := 1
def flagDZ : Nat := 2
def flagOF : Nat := 4
def flagUF : Nat := 8
def flagNX : Nat := 16

namespace Fmt

def width (f : Fmt) : Nat := 1 + f.eb + f.mb
def signBit (f : Fmt) : Nat := 2 ^ (f.eb + f.mb)
/-- The pattern of +∞ in a format with infinities; one above the largest finite otherwise-IEEE pattern. -/
def infBits (f : Fmt) : Nat := (2 ^ f.eb - 1) * 2 ^ f.mb
/-- Exponent of the least subnormal's unit. -/
def qmin (f : Fmt) : Int := 1 - (f.bias : Int) - f.mb
def defaultNan (f : Fmt) : Nat := f.infBits + 2 ^ (f.mb - 1)
def neg (f : Fmt) (x : Nat) : Bool := bit x (f.eb + f.mb)
def body (f : Fmt) (x : Nat) : Nat := x % f.signBit
def isNan (f : Fmt) (x : Nat) : Bool := decide (f.infBits < f.body x)
def isInf (f : Fmt) (x : Nat) : Bool := f.body x == f.infBits
def isSnan (f : Fmt) (x : Nat) : Bool := f.isNan x && !bit x (f.mb - 1)
def isSub (f : Fmt) (x : Nat) : Bool := f.body x != 0 && decide (f.body x < 2 ^ f.mb)
/-- The quiet bit set, nothing else changed (R87). -/
def quiet (f : Fmt) (x : Nat) : Nat := if bit x (f.mb - 1) then x else x + 2 ^ (f.mb - 1)
def signed (f : Fmt) (n : Bool) (b : Nat) : Nat := if n then b + f.signBit else b

/-- The value of a pattern without infinities or NaNs (R79). -/
def finite (f : Fmt) (x : Nat) : FVal :=
  let e := f.body x / 2 ^ f.mb
  let m := x % 2 ^ f.mb
  if e = 0 then .fin (f.neg x) m f.qmin else .fin (f.neg x) (m + 2 ^ f.mb) (f.qmin + e - 1)

/-- The value of an IEEE pattern (R79). -/
def value (f : Fmt) (x : Nat) : FVal :=
  if f.isNan x then .nan x else if f.isInf x then .inf (f.neg x) else f.finite x

end Fmt

/-! ### Rounding (R85) -/

/-- `m / 2^k` rounded in a mode, and whether anything was lost. -/
def shiftRound (rm : Rm) (neg : Bool) (m k : Nat) : Nat × Bool :=
  let q := m / 2 ^ k
  let r := m % 2 ^ k
  if r = 0 then (q, false)
  else
    let up := match rm with
      | .rn => decide (2 ^ k < 2 * r) || (2 * r == 2 ^ k && q % 2 == 1)
      | .rz => false
      | .ru => !neg
      | .rd => neg
    (if up then q + 1 else q, true)

/-- `m × 2^e` brought to the unit `2^q`, rounded. -/
def alignRound (rm : Rm) (neg : Bool) (m : Nat) (e q : Int) : Nat × Bool :=
  if q ≤ e then (m * 2 ^ (e - q).toNat, false) else shiftRound rm neg m (q - e).toNat

/-- The magnitude pattern of `m × 2^e`, `m` non-zero, without an upper limit of the exponent, with inexactness. -/
def roundBody (f : Fmt) (rm : Rm) (neg : Bool) (m : Nat) (e : Int) : Nat × Bool :=
  let top := e + Nat.log2 m
  let q := max (top - f.mb) f.qmin
  let r := alignRound rm neg m e q
  (r.1 + (q - f.qmin).toNat * 2 ^ f.mb, r.2)

/-- Tiny after rounding (R127): below the smallest normal with an unbounded exponent. -/
def tiny (f : Fmt) (rm : Rm) (neg : Bool) (m : Nat) (e : Int) : Bool :=
  let top := e + Nat.log2 m
  let emin := f.qmin + f.mb
  let r := (alignRound rm neg m e (top - f.mb)).1
  decide (top < emin) && !(top == emin - 1 && r == 2 ^ (f.mb + 1))

/-- (−1)^neg × m × 2^e in a format with infinities, with its flags (R85, R127). -/
def roundTo (f : Fmt) (rm : Rm) (neg : Bool) (m : Nat) (e : Int) : Nat × Nat :=
  if m = 0 then (f.signed neg 0, 0)
  else
    let r := roundBody f rm neg m e
    if f.infBits ≤ r.1 then
      let b := match rm with
        | .rn => f.infBits
        | .rz => f.infBits - 1
        | .ru => if neg then f.infBits - 1 else f.infBits
        | .rd => if neg then f.infBits else f.infBits - 1
      (f.signed neg b, flagOF + flagNX)
    else (f.signed neg r.1, if r.2 then flagNX + (if tiny f rm neg m e then flagUF else 0) else 0)

/-- The magnitude clamped to a format's largest code: nearest even with no exponent limit, then the clamp (R85). -/
def saturate (f : Fmt) (largest : Nat) (neg : Bool) (m : Nat) (e : Int) : Nat :=
  f.signed neg (if m = 0 then 0 else min (roundBody f .rn neg m e).1 largest)

/-! ### Exact arithmetic -/

/-- Two exact finite values summed; `zneg` is the sign of an exact zero from unlike signs. -/
def exactAdd (zneg : Bool) (an : Bool) (am : Nat) (ae : Int) (bn : Bool) (bm : Nat) (be : Int) : Bool × Nat × Int :=
  let e := min ae be
  let x := am * 2 ^ (ae - e).toNat
  let y := bm * 2 ^ (be - e).toNat
  if an = bn then (an, x + y, e)
  else if x = y then (zneg, 0, e)
  else if y < x then (an, x - y, e) else (bn, y - x, e)

/-- The mode and flush of one operation (R50, R86). -/
structure FpEnv where
  rm : Rm
  ftz : Bool
  deriving DecidableEq, Repr

/-- Round to nearest even with subnormals kept, whatever FPMODE says (R85). -/
def FpEnv.nearest : FpEnv := ⟨.rn, false⟩

/-- FTZ on an input: a subnormal reads as a zero of its sign (R86). -/
def ftzIn (f : Fmt) (v : FpEnv) (x : Nat) : Nat := if v.ftz && f.isSub x then f.signed (f.neg x) 0 else x

/-- FTZ on a result: a subnormal becomes a zero of its sign and raises UF and NX (R86). -/
def ftzOut (f : Fmt) (v : FpEnv) (r : Nat × Nat) : Nat × Nat :=
  if v.ftz && f.isSub r.1 then (f.signed (f.neg r.1) 0, r.2 ||| (flagUF + flagNX)) else r

/-- An exact value rounded in the operation's mode, then flushed: rnd() of R85. -/
def rnd (f : Fmt) (v : FpEnv) (neg : Bool) (m : Nat) (e : Int) : Nat × Nat := ftzOut f v (roundTo f v.rm neg m e)

/-- The first NaN of the operands, quieted, with IV for any signalling one (R87). -/
def propagate (f : Fmt) (xs : List Nat) : Option (Nat × Nat) :=
  (xs.find? f.isNan).map fun x => (f.quiet x, if xs.any f.isSnan then flagIV else 0)

/-- The invalid result: the default NaN, with IV (R87). -/
def invalid (f : Fmt) : Nat × Nat := (f.defaultNan, flagIV)

/-- Sum of two values under R87 and R135. -/
def fadd (f : Fmt) (v : FpEnv) (a0 b0 : Nat) : Nat × Nat :=
  let a := ftzIn f v a0
  let b := ftzIn f v b0
  match propagate f [a, b] with
  | some r => r
  | none =>
    match f.value a, f.value b with
    | .inf x, .inf y => if x = y then (a, 0) else invalid f
    | .inf _, _ => (a, 0)
    | _, .inf _ => (b, 0)
    | .fin an am ae, .fin bn bm be =>
      let s := exactAdd (v.rm == .rd) an am ae bn bm be
      rnd f v s.1 s.2.1 s.2.2
    | _, _ => invalid f

/-- The pattern with its sign inverted. -/
def fneg (f : Fmt) (x : Nat) : Nat := if f.neg x then x - f.signBit else x + f.signBit

/-- Difference of two values: a NaN b keeps its own sign (R87). -/
def fsub (f : Fmt) (v : FpEnv) (a b : Nat) : Nat × Nat :=
  match propagate f [a, b] with
  | some r => r
  | none => fadd f v a (fneg f b)

/-- Product of two values under R87. -/
def fmul (f : Fmt) (v : FpEnv) (a0 b0 : Nat) : Nat × Nat :=
  let a := ftzIn f v a0
  let b := ftzIn f v b0
  match propagate f [a, b] with
  | some r => r
  | none =>
    match f.value a, f.value b with
    | .inf x, .inf y => (f.signed (x != y) f.infBits, 0)
    | .inf x, .fin y m _ => if m = 0 then invalid f else (f.signed (x != y) f.infBits, 0)
    | .fin x m _, .inf y => if m = 0 then invalid f else (f.signed (x != y) f.infBits, 0)
    | .fin an am ae, .fin bn bm be => rnd f v (an != bn) (am * bm) (ae + be)
    | _, _ => invalid f

def isZeroVal : FVal → Bool
  | .fin _ m _ => m == 0
  | _ => false

def isInfVal : FVal → Bool
  | .inf _ => true
  | _ => false

/-- 0 × ∞ in either order. -/
def zeroTimesInf (a b : FVal) : Bool := (isZeroVal a && isInfVal b) || (isInfVal a && isZeroVal b)

/-- a × b + c, rounded once (R85, R87, R137). -/
def ffma (f : Fmt) (v : FpEnv) (a0 b0 c0 : Nat) : Nat × Nat :=
  let a := ftzIn f v a0
  let b := ftzIn f v b0
  let c := ftzIn f v c0
  if zeroTimesInf (f.value a) (f.value b) then (if f.isNan c then f.quiet c else f.defaultNan, flagIV)
  else
    match propagate f [a, b, c] with
    | some r => r
    | none =>
      match f.value a, f.value b, f.value c with
      | .fin an am ae, .fin bn bm be, .fin cn cm ce =>
        let s := exactAdd (v.rm == .rd) (an != bn) (am * bm) (ae + be) cn cm ce
        rnd f v s.1 s.2.1 s.2.2
      | .fin _ _ _, .fin _ _ _, _ => (c, 0)
      | _, _, .inf z => if z = (f.neg a != f.neg b) then (c, 0) else invalid f
      | _, _, _ => (f.signed (f.neg a != f.neg b) f.infBits, 0)

/-- Strictly less, as values with −0 below +0; neither is a NaN. -/
def totalLess (f : Fmt) (a b : Nat) : Bool :=
  match f.neg a, f.neg b with
  | true, false => true
  | false, true => false
  | false, false => decide (f.body a < f.body b)
  | true, true => decide (f.body b < f.body a)

/-- Minimum or maximum of R87: one quiet NaN yields the other input. -/
def fminmax (f : Fmt) (v : FpEnv) (max : Bool) (a0 b0 : Nat) : Nat × Nat :=
  let a := ftzIn f v a0
  let b := ftzIn f v b0
  if f.isSnan a || f.isSnan b || (f.isNan a && f.isNan b) then (propagate f [a, b]).getD (a, 0)
  else if f.isNan a then (b, 0)
  else if f.isNan b then (a, 0)
  else if max then (if totalLess f a b then b else a, 0)
  else (if totalLess f b a then b else a, 0)

/-- Numeric order of two values that are not NaN, −0 equal to +0: less, equal. -/
def fcompare (f : Fmt) (a b : Nat) : Bool × Bool :=
  if f.body a = 0 ∧ f.body b = 0 then (false, true) else (totalLess f a b, a == b)

/-- The magnitude of a quotient with enough bits and a sticky unit, for one rounding. -/
def quotient (am : Nat) (ae : Int) (bm : Nat) (be : Int) : Nat × Int :=
  let k := 80 + Nat.log2 bm
  let n := am * 2 ^ k
  (2 * (n / bm) + (if n % bm = 0 then 0 else 1), ae - be - k - 1)

/-- a / b under R87, flags included. -/
def fdiv (f : Fmt) (v : FpEnv) (a0 b0 : Nat) : Nat × Nat :=
  let a := ftzIn f v a0
  let b := ftzIn f v b0
  match propagate f [a, b] with
  | some r => r
  | none =>
    match f.value a, f.value b with
    | .inf _, .inf _ => invalid f
    | .inf x, .fin y _ _ => (f.signed (x != y) f.infBits, 0)
    | .fin x _ _, .inf y => (f.signed (x != y) 0, 0)
    | .fin an am ae, .fin bn bm be =>
      if bm = 0 then (if am = 0 then invalid f else (f.signed (an != bn) f.infBits, flagDZ))
      else
        let q := quotient am ae bm be
        rnd f v (an != bn) q.1 q.2
    | _, _ => invalid f

/-- The integer square root, one bit of the root at a time from bit `k - 1` down. -/
def isqrtFrom (n : Nat) : Nat → Nat → Nat
  | 0, r => r
  | k + 1, r =>
    let t := r + 2 ^ k
    isqrtFrom n k (if t * t ≤ n then t else r)

def isqrt (n : Nat) : Nat := isqrtFrom n (Nat.log2 n / 2 + 1) 0

/-- The square root's magnitude of `m × 2^e` with a sticky unit. -/
def rootOf (m : Nat) (e : Int) : Nat × Int :=
  let odd := e % 2 != 0
  let m1 := if odd then 2 * m else m
  let e1 := if odd then e - 1 else e
  let n := m1 * 2 ^ 160
  let r := isqrt n
  (2 * r + (if r * r = n then 0 else 1), e1 / 2 - 81)

/-- √a under R87 and R147. -/
def fsqrt (f : Fmt) (v : FpEnv) (a0 : Nat) : Nat × Nat :=
  let a := ftzIn f v a0
  match f.value a with
  | .nan _ => (propagate f [a]).getD (a, 0)
  | .inf n => if n then invalid f else (a, 0)
  | .fin n m e =>
    if m = 0 then (a, 0) else if n then invalid f
    else
      let r := rootOf m e
      rnd f v false r.1 r.2

/-! ### Conversions (R88, R134) -/

/-- A NaN of one format in another: the sign and the top mantissa bits, quieted (R88). -/
def nanTo (f g : Fmt) (x : Nat) : Nat :=
  let m := x % 2 ^ f.mb
  let p := if f.mb ≤ g.mb then m * 2 ^ (g.mb - f.mb) else m / 2 ^ (f.mb - g.mb)
  g.quiet (g.signed (f.neg x) (g.infBits + p))

/-- A conversion between IEEE formats, with flags; narrowing rounds in the given mode. -/
def convert (f g : Fmt) (rm : Rm) (x : Nat) : Nat × Nat :=
  match f.value x with
  | .nan _ => (nanTo f g x, if f.isSnan x then flagIV else 0)
  | .inf n => (g.signed n g.infBits, 0)
  | .fin n m e => roundTo g rm n m e

/-- The value of an E4M3 code: S.1111.111 is its only NaN (R79). -/
def valueE4m3 (x : Nat) : FVal := if x % 128 = 127 then .nan x else Fmt.e4m3.finite x

/-- An exact conversion to FP32 of a value of a narrow format with pattern `x`. -/
def widen (f : Fmt) (x : Nat) : Nat := (convert f .fp32 .rn x).1

/-- An E4M3 code as FP32, or as BF16 (R88). -/
def e4m3To (g : Fmt) (x : Nat) : Nat :=
  match valueE4m3 x with
  | .nan _ => g.signed (Fmt.e4m3.neg x) g.defaultNan
  | .inf n => g.signed n g.infBits
  | .fin n m e => (roundTo g .rn n m e).1

/-- An E2M1 code in a wider format, exactly (R79). -/
def e2m1To (g : Fmt) (x : Nat) : Nat :=
  match Fmt.e2m1.finite x with
  | .fin n m e => (roundTo g .rn n m e).1
  | _ => 0

/-- sat_e4m3 of an FP32 pattern (R85). -/
def satE4m3 (x : Nat) : Nat :=
  match Fmt.fp32.value x with
  | .nan _ => Fmt.e4m3.signed (Fmt.fp32.neg x) 0x7F
  | .inf n => Fmt.e4m3.signed n 0x7E
  | .fin n m e => saturate .e4m3 0x7E n m e

/-- sat_e5m2 of an FP32 pattern (R85). -/
def satE5m2 (x : Nat) : Nat :=
  match Fmt.fp32.value x with
  | .nan _ => Fmt.e5m2.signed (Fmt.fp32.neg x) 0x7E
  | .inf n => Fmt.e5m2.signed n 0x7C
  | .fin n m e => saturate .e5m2 0x7B n m e

/-- sat_e2m1, sat_e3m2, sat_e2m3 of an FP32 pattern: ±∞ the signed maximum, NaN +0 (R85). -/
def satSmall (g : Fmt) (x : Nat) : Nat :=
  match Fmt.fp32.value x with
  | .nan _ => 0
  | .inf n => g.signed n (g.signBit - 1)
  | .fin n m e => saturate g (g.signBit - 1) n m e

/-- sr_e4m3 with the draw `r` (R89). -/
def srE4m3 (x r : Nat) : Nat :=
  match Fmt.fp32.value x with
  | .fin n m e =>
    if m = 0 then Fmt.e4m3.signed n 0
    else
      let lo := roundBody .e4m3 .rz n m e
      let q := max (e + Nat.log2 m - 3) Fmt.e4m3.qmin
      let k := (q - e).toNat
      let t := (m % 2 ^ k) * 2 ^ 24 / 2 ^ k
      Fmt.e4m3.signed n (min (if lo.2 && decide (r / 256 < t) then lo.1 + 1 else lo.1) 0x7E)
  | _ => satE4m3 x

/-- One step of the stochastic generator (R89). -/
def nextRandom (g : Word) : Word :=
  let x := g ^^^ (g <<< 13)
  let y := x ^^^ (x >>> 17)
  y ^^^ (y <<< 5)

/-- The generator's seed for a lane (R89). -/
def seed (launch : Word) (item : DWord) (lane : Nat) : Word :=
  let h := launch * 0x9E3779B1 + item.setWidth 32
  let g := h ^^^ (BitVec.ofNat 32 lane * 0x85EBCA77)
  if g = 0 then 1 else g

/-- An FP32 pattern rounded to an integer in a mode: sign, magnitude, inexactness. -/
def roundInt (rm : Rm) (n : Bool) (m : Nat) (e : Int) : Nat × Bool := alignRound rm n m e 0

/-- VCVT.F2I and VCVT.F2U (R134): the 32-bit result and its flags. -/
def toInt (v : FpEnv) (isSigned : Bool) (x0 : Nat) : Word × Nat :=
  let x := ftzIn .fp32 v x0
  let lim : Bool → Word := fun n =>
    if isSigned then (if n then 0x80000000 else 0x7FFFFFFF) else (if n then 0 else 0xFFFFFFFF)
  match Fmt.fp32.value x with
  | .nan _ => (0, flagIV)
  | .inf n => (lim n, flagIV)
  | .fin n m e =>
    let r := roundInt v.rm n m e
    let big := if isSigned then (if n then decide (2 ^ 31 < r.1) else decide (2 ^ 31 ≤ r.1))
      else (if n then decide (0 < r.1) else decide (2 ^ 32 ≤ r.1))
    if big then (lim n, flagIV)
    else (if n then - BitVec.ofNat 32 r.1 else BitVec.ofNat 32 r.1, if r.2 then flagNX else 0)

/-- An integer as FP32 in a mode (R134). -/
def ofInt (v : FpEnv) (x : Int) : Nat × Nat := rnd .fp32 v (decide (x < 0)) x.natAbs 0

/-! ### Elementary functions: fixed point with 192 fraction bits -/

/-- ln 2 × 2^192, truncated. -/
def ln2Fixed : Nat := 0xb17217f7d1cf79abc9e3b39803f2f6af40f343267298b62d
/-- π × 2^192, truncated. -/
def piFixed : Nat := 0x3243f6a8885a308d313198a2e03707344a4093822299f31d0

/-- Terms of a power series: `t` the current term, `y` the argument, dividing by the rising counter. -/
def expSeries (y : Nat) : Nat → Nat → Nat → Nat → Nat
  | 0, _, _, acc => acc
  | n + 1, k, t, acc =>
    let t' := t * y / 2 ^ 192 / k
    expSeries y n (k + 1) t' (acc + t')

/-- 2^x for a fraction x (192 bits), as fixed point. -/
def exp2Fixed (x : Nat) : Nat := expSeries (x * ln2Fixed / 2 ^ 192) 60 1 (2 ^ 192) (2 ^ 192)

/-- 2^(±m × 2^e) as magnitude and exponent: exact for an integer argument, otherwise with a sticky unit.
Arguments of magnitude 2^10 and above are cut there, beyond every FP32 result (R85). -/
def exp2Of (n : Bool) (m : Nat) (e : Int) : Nat × Int :=
  if m = 0 then (1, 0)
  else if 10 ≤ e + Nat.log2 m then (1, if n then -1024 else 1024)
  else
    let x : Nat := if 0 ≤ e + 192 then m * 2 ^ (e + 192).toNat else m / 2 ^ (- (e + 192)).toNat
    let w : Int := if n then - ((x + 2 ^ 192 - 1) / 2 ^ 192 : Nat) else (x / 2 ^ 192 : Nat)
    let fr : Nat := if n then ((x + 2 ^ 192 - 1) / 2 ^ 192) * 2 ^ 192 - x else x % 2 ^ 192
    if fr = 0 then (1, w) else (2 * exp2Fixed fr + 1, w - 193)

/-- exp2_rn of an FP32 pattern (R85). -/
def exp2Rn (x : Nat) : Nat :=
  match Fmt.fp32.value x with
  | .nan _ => Fmt.fp32.quiet x
  | .inf n => if n then 0 else Fmt.fp32.infBits
  | .fin n m e =>
    let r := exp2Of n m e
    (roundTo .fp32 .rn false r.1 r.2).1

/-- Binary digits of log2 of `m` in [1, 2) (160 fraction bits), most significant first. -/
def log2Digits : Nat → Nat → Nat → Nat
  | 0, _, acc => acc
  | k + 1, m, acc =>
    let s := m * m / 2 ^ 160
    if 2 ^ 161 ≤ s then log2Digits k (s / 2) (2 * acc + 1) else log2Digits k s (2 * acc)

/-- log2 of `m × 2^e`, as sign, magnitude and exponent -100. -/
def log2Of (m : Nat) (e : Int) : Bool × Nat × Int :=
  let top := Nat.log2 m
  let fr := log2Digits 100 (m * 2 ^ 160 / 2 ^ top) 0
  let v : Int := (e + top) * 2 ^ 100 + fr
  (decide (v < 0), v.natAbs, -100)

/-- Alternating series for sine and cosine: term `t`, square `y`, next divisor `k`. -/
def trigSeries (y : Nat) : Nat → Nat → Nat → Int → Int
  | 0, _, _, acc => acc
  | n + 1, k, t, acc =>
    let t' := t * y / 2 ^ 192 / (k * (k + 1))
    trigSeries y n (k + 2) t' (acc + (if n % 2 = 0 then (t' : Int) else - (t' : Int)))

/-- sin or cos of a fixed-point angle in [0, 2π): 39 terms, the first with a minus sign. -/
def trigFixed (cosine : Bool) (x : Nat) : Int :=
  let y := x * x / 2 ^ 192
  if cosine then trigSeries y 60 1 (2 ^ 192) (2 ^ 192) else trigSeries y 60 2 x x

/-- sin or cos of ±m × 2^e for magnitudes to 2^15, with 192 fraction bits. -/
def trigOf (cosine n : Bool) (m : Nat) (e : Int) : Bool × Nat × Int :=
  let x : Nat := if 0 ≤ e + 192 then m * 2 ^ (e + 192).toNat else m / 2 ^ (- (e + 192)).toNat
  let v := trigFixed cosine (x % (2 * piFixed))
  let w := if n && !cosine then -v else v
  (decide (w < 0), w.natAbs, -192)

/-- tanh of m × 2^e, m non-zero, sign apart: x − x³/3 below 2^-13, 1 less a unit above 16. -/
def tanhOf (m : Nat) (e : Int) : Nat × Int :=
  let top := e + Nat.log2 m
  if top < -13 then
    let cube := if 0 ≤ 2 * e + 80 then m ^ 3 * 2 ^ (2 * e + 80).toNat / 3 else m ^ 3 / 2 ^ (- (2 * e + 80)).toNat / 3
    (m * 2 ^ 80 - max 1 cube, e - 80)
  else if 4 ≤ top then (2 ^ 60 - 1, -60)
  else
    let x : Nat := if 0 ≤ e + 192 then m * 2 ^ (e + 192).toNat else m / 2 ^ (- (e + 192)).toNat
    let l := 2 * x * 2 ^ 192 / ln2Fixed
    let t := exp2Fixed (l % 2 ^ 192) * 2 ^ (l / 2 ^ 192)
    ((t - 2 ^ 192) * 2 ^ 100 / (t + 2 ^ 192), -100)

/-! ### Quire arithmetic (R93, R94, R138, R139) -/

/-- RN(a − b) with −∞ − (−∞) read as −∞ (R93). -/
def quireDiff (a b : Nat) : Nat :=
  if a = 0xFF800000 ∧ b = 0xFF800000 then 0xFF800000 else (fsub .fp32 .nearest a b).1

/-- The maximum M and the factor f of a merge, and whether side 1 is the small side (R93): side 1 where they
compare equal, −0 below +0 in the maximum (R87). -/
def quireFactor (m1 m2 : Nat) : Nat × Nat × Bool :=
  match [m1, m2].find? Fmt.fp32.isNan with
  | some q => (Fmt.fp32.quiet q, Fmt.fp32.quiet q, true)
  | none =>
    let same := (fcompare .fp32 m1 m2).2
    let small1 := same || !(totalLess .fp32 m2 m1)
    (if totalLess .fp32 m2 m1 then m1 else m2,
      if same then 0x3F800000 else if small1 then exp2Rn (quireDiff m1 m2) else exp2Rn (quireDiff m2 m1), small1)

/-- The merge of two quire rows (m, l, o...) (R93). -/
def quireMerge (x y : List Nat) : List Nat :=
  match x, y with
  | m1 :: l1 :: o1, m2 :: l2 :: o2 =>
    if Fmt.fp32.isNan m1 || Fmt.fp32.isNan m2 then
      let q := (quireFactor m1 m2).1
      q :: q :: o1.map fun _ => q
    else
      let (hi, f, small1) := quireFactor m1 m2
      let mix := fun a b => if small1 then (ffma .fp32 .nearest a f b).1 else (ffma .fp32 .nearest b f a).1
      hi :: mix l1 l2 :: List.zipWith mix o1 o2
  | _, _ => x

/-- QNORM: o / l, +0 when l = 0, the first NaN of (o, l) quieted (R94, R139). -/
def quireNorm (o l : Nat) : Nat :=
  match [o, l].find? Fmt.fp32.isNan with
  | some q => Fmt.fp32.quiet q
  | none => if Fmt.fp32.body l = 0 then 0 else (fdiv .fp32 .nearest o l).1

end Sys2Proof.Machine
end

