-- ==== Sys2Proof/Machine/State.lean ====
section
/-!
DEFINITION. The state of the H9 package as the spec gives it, as plain data, and its value at reset.

Sparse collections are tables: lists of key and value in rising key order, in which a key that is not listed
stands for the value each accessor names (an idle core, a context's reset registers, an unbacked block).
-/

namespace Sys2Proof.Machine

/-- Key and value pairs in rising key order. -/
abbrev Table (α : Type) := List (Nat × α)

/-- Why the machine stops. -/
inductive Fault where
  /-- Raised by an event whose arguments name no place of the package (R8).  Safe. -/
  | noSuchPlace
  deriving DecidableEq, Repr

/-- Why an instruction has no meaning here. -/
inductive Refusal where
  /-- Raised by exec for an instruction that is not modelled.  Safe. -/
  | notModelled (mnemonic : String)
  deriving DecidableEq, Repr

/-! ### Paths -/

/-- Values of one register in one slice that a fixed-latency result has replaced but that reads before cycle
`ready` still see (R66).  Registers are numbered: scalar n, vector 64 + n, predicate 128 + n, condition 136 + n. -/
structure Lag where
  reg : Nat
  slice : Nat
  mask : Word
  old : List Word
  ready : Nat
  /-- The producing word's packet and place in it (R300). -/
  pc : Nat
  word : Nat
  deriving DecidableEq, Repr

/-- The barrier word at which a path waits (R28, R113): `arrive` BAR or BARA not yet counted. -/
inductive BarWait where
  /-- BAR or BARA waits to arrive, or for its sibling; `stay` is BAR. -/
  | arrive (bar : Nat) (stay : Bool)
  /-- BAR has arrived in the phase and waits until it completes. -/
  | phase (bar num : Nat)
  deriving DecidableEq, Repr

/-- One path of a team (R20, R23, R27). -/
structure Path where
  /-- The path's own number in its team (the model's own): operations name it (R52, R148). -/
  pid : Nat
  pc : Nat
  word : Nat
  mask : List Word
  s : List Word
  cond : List Bool
  fpmode : Word
  fpflags : Word
  tick : Option DWord
  wroteS : List Nat
  wroteC : List Nat
  wroteMode : Bool
  /-- Poisoned scalar registers with the PC of the load that poisoned them (R47). -/
  poison : List (Nat × Nat)
  lag : List Lag
  /-- The cycle before which the next word may not issue (R65, R104). -/
  nextAt : Nat
  /-- The cycle after the last pass of the path's last word (R65, R339). -/
  passesTo : Nat
  /-- X of an EXT that the next word takes (R71). -/
  ext : Option (BitVec 24)
  /-- The cycle at which the chain in progress issued (R63). -/
  chainAt : Option Nat
  /-- The passes of the chain in progress: the one of each slice, the cycles the chain holds its pipes, and its length (R63). -/
  pace : List Nat
  held : Nat
  span : Nat
  /-- The path has reached a JOIN and waits there (R25). -/
  joined : Bool
  bar : Option BarWait
  /-- Paths whose operations, below the number beside each, precede the path's next word in program order, apart from its own:
  those that it comes from, and those that a JOIN has merged into it (R237). -/
  before : List (Nat × Nat)
  /-- Operations that must have been performed before the next word, after a releasing FENCE (R115). -/
  releaseOps : List Nat
  /-- Operations that must have returned before the next load, store or atomic, after an acquire (R115, R171). -/
  acquireOps : List Nat
  /-- Parked on a migration (R191): page number, virtual page address, parking order. -/
  parked : Option (Nat × Nat × Nat)
  /-- Granules asked of each crucible for a parked store; both 0 once they have answered (R175). -/
  refill : Option (Nat × Nat)
  /-- The charge of the parked store, by die (R175). -/
  needs : Nat × Nat
  /-- What the answer came to: `true` with the charge taken from each ladle, `false` with the balances that do not cover it
  (R175). -/
  answer : Option (Bool × Nat × Nat)
  /-- Lanes of a SPAWN that have joined their bins (R34, R111). -/
  spawned : List Nat
  stall : Nat
  /-- The comparator stop before this word has been reported, and the debugger let the path go on (R302). -/
  passed : Bool
  /-- Number of the last matrix, copy or collective command this path issued (R303). -/
  lastCommand : Option Nat
  /-- The cycle at which the path last issued a word (R297, R339). -/
  issuedAt : Option Nat
  /-- The next word is retried after trap 0x03 and is not refused again (R344). -/
  exempt : Bool
  /-- The next word is a replay that was pending when the team was saved (R191, R304). -/
  replay : Bool
  /-- The last word is one whose checks suspend fetch (R341). -/
  checked : Bool
  deriving DecidableEq, Repr

/-- One reconvergence record (R23 to R25). -/
structure Recon where
  /-- Both halves were non-empty. -/
  two : Bool
  /-- For a one-sided record, the slot of its only half; for a two-sided one, the slot the splitting path held. -/
  slot : Bool
  /-- The sibling of the splitting path, suspended while the halves run (R24). -/
  suspended : Option Path
  exitedA : Bool
  exitedB : Bool
  /-- FPFLAGS of the half that has exited (R27). -/
  exitFlags : Word
  /-- Numbers of the paths that exited under this record: flags of their SFU results go here (R148). -/
  gone : List Nat
  /-- The written-sets of the splitting path before the SPLIT (R27). -/
  outerS : List Nat
  outerC : List Nat
  outerMode : Bool
  deriving DecidableEq, Repr

/-! ### In-flight operations (R52) -/

/-- Where a global byte run lies after translation: device memory with its page attributes, or host memory. -/
inductive Loc where
  | dev (da : Nat) (swm uc hw : Bool)
  | host (pa : Nat)
  deriving DecidableEq, Repr

structure Access where
  lane : Nat
  loc : Loc
  size : Nat
  deriving DecidableEq, Repr

/-- One lane of an atomic (R169, R170); `scr` is a scratchpad byte address when the space is scratchpad. -/
structure AtomLane where
  lane : Nat
  loc : Loc
  b : DWord
  old : Option DWord
  deriving DecidableEq, Repr

/-- One row or element of a copy operation (R215). -/
structure CopyRow where
  global : List Access
  scr : Nat
  scr2 : Nat
  len : Nat
  deriving DecidableEq, Repr

inductive CopyKind where
  | g2s | s2g | s2s | gth | sct | fill (value : Word)
  deriving DecidableEq, Repr

/-- What a collective's issuer declared: the terms that matched operations agree on (R224). -/
structure ColTerms where
  op : Nat
  red : Nat
  dim : Nat
  count : Nat
  /-- Members in rank order: device number and package core number. -/
  members : List (Nat × Nat)
  deriving DecidableEq, Repr

inductive OpKind where
  /-- LDG or LDU (R161, R163): format, first register, scalar destination, cached (no .BY). -/
  | load (fmt : Nat) (d : Nat) (scalar : Bool) (cached : Bool) (lanes : List Access)
  /-- A load that has been performed and is held until it may return in order (R52): bytes and poison per lane. -/
  | loaded (fmt : Nat) (d : Nat) (scalar : Bool) (data : List (Nat × List Byte × Bool))
  /-- LDS or LDS.R (R166, R167): target core and region, byte addresses per lane. -/
  | scratch (fmt : Nat) (d : Nat) (core region : Nat) (lanes : List (Nat × Nat)) (size : Nat)
  /-- ATOM (R169): operation, d, RET, ordering release, scratchpad target (core, region) or global. -/
  | atom (op : Nat) (d : Nat) (ret : Bool) (target : Option (Nat × Nat)) (lanes : List AtomLane)
  /-- STG (R164): the bytes of each lane; lane order decides overlaps (R165). -/
  | store (lanes : List (Access × List Byte))
  /-- STS.R (R167), counted nowhere: target core, region, address and bytes per lane. -/
  | remote (core region : Nat) (lanes : List (Nat × List Byte))
  /-- CWB, and with `drop` CINV: runs of lines, each with its first line and its length (R179, R180). -/
  | cwb (runs : List (Nat × Nat)) (drop : Bool)
  | surrender (d : Nat) (pages : List Nat) (freed : Nat)
  /-- TRANS or TRANS.S (R182, R183): resolved address, or none for a replay lane. -/
  | trans (d : Nat) (p : Nat) (scalar : Bool) (res : List (Nat × Option Nat))
  /-- VSFU, VQFAC, VQNORM (R146): values for d and, for VQFAC, d + 1; the flags. -/
  | sfu (d : Nat) (vals : List (Nat × Word × Option Word)) (flags : Word)
  /-- RSVQ, BLNQ, BLKQ (R184, R185, R189). -/
  | rsvq (d die : Nat)
  | blnq (d : Nat)
  | blkq (d : Nat) (da : Option Nat)
  /-- A copy operation (R214): queue, metered launch, target cores and regions of its two scratchpad sides. -/
  | copy (queue : Nat) (kind : CopyKind) (src dst : Nat × Nat) (rows : List CopyRow)
  /-- A collective (R224): group, sequence number, terms, rank, source, destination, the region. -/
  | col (group seq : Nat) (terms : ColTerms) (rank src dst region : Nat)
  deriving DecidableEq, Repr

structure Op where
  id : Nat
  /-- Path code 0 to 6 (R112); 7 for an operation counted nowhere. -/
  code : Nat
  pc : Nat
  word : Nat
  path : Bool
  /-- The path whose registers a scalar result reaches; 0 once that path has exited. -/
  pid : Nat
  /-- The path, or the exited path, whose FPFLAGS an SFU result reaches (R148). -/
  fpid : Nat
  byRunner : Bool
  kind : OpKind
  done : Bool
  /-- A release at core scope or wider follows it (R244). -/
  released : Bool
  /-- An acquire at core.rmt: the promotion of R244 takes place before it completes. -/
  rmt : Bool
  /-- Registers that the program wrote before the operation returned (R67). -/
  clash : List Nat
  /-- Blocks charged and not yet answered (R174, R176). -/
  charged : List Nat
  /-- The cycle of the word's last pass (R64). -/
  issued : Nat
  /-- What the operation has read so far, apart from its completion: by lane or by word, bytes and poison (R67, R218,
  R227, R240). -/
  got : List (Nat × List Byte × Bool)
  /-- Words of its destination that it has written so far (R218, R227). -/
  put : List Nat
  /-- Pages that a PGSURR has emptied while this store was in flight: what it leaves there is undefined (R187). -/
  junk : List Nat
  deriving DecidableEq, Repr

/-! ### Teams -/

/-- Trap handler state (R343, R345). -/
structure Handler where
  /-- The faulting path: false A, true B. -/
  path : Bool
  /-- h0–h4 as loaded at entry. -/
  h : List Word
  bank : List Word
  bankPoison : List (Nat × Nat)
  /-- Operations numbered from here on were issued by the handler. -/
  since : Nat
  image : Nat
  codesz : Nat
  retryPc : Nat
  retryWord : Nat
  faultWord : Nat
  deriving DecidableEq, Repr

/-- A trap that has been taken up to step 5 of R343 and waits for the handler's header page (R345). -/
structure PendingEntry where
  /-- The trapping path. -/
  path : Bool
  cause : BitVec 8
  fault : DWord
  aux : Word
  flags : Nat
  /-- The header's page. -/
  page : Nat
  deriving DecidableEq, Repr

/-- A collective group register (R223). -/
structure Group where
  words : List Word
  rank : Nat
  members : List (Nat × Nat)
  declared : Bool
  /-- Collectives the team has issued on the group (R224). -/
  issued : Nat
  deriving DecidableEq, Repr

/-- One matrix operand-error log entry (R211). -/
structure OperandError where
  opnd : Nat
  id : Nat
  i : Nat
  k : Nat
  n : Nat
  addr : Nat
  deriving DecidableEq, Repr

structure BatchLog where
  batch : Word
  entries : List OperandError
  more : Bool
  deriving DecidableEq, Repr

/-- The team's runner (R231 to R233). -/
structure Runner where
  pc : Nat
  word : Nat
  a : List Word
  poison : List (Nat × Nat)
  cond : List Bool
  ext : Option (BitVec 24)
  running : Bool
  /-- RSTOP has executed while a word of the runner was parked: it stops once that word is done (R231). -/
  stopping : Bool
  exited : Bool
  fault : Bool
  cause : BitVec 8
  parked : Option (Nat × Nat × Nat)
  refill : Option (Nat × Nat)
  /-- As of a path: the charge of the runner's copy, and what the crucibles' answer came to (R175, R217). -/
  needs : Nat × Nat
  answer : Option (Bool × Nat × Nat)
  /-- The cycle at which the runner last issued a word (R339). -/
  issuedAt : Nat
  deriving DecidableEq, Repr

/-- One sprue entry (R46, R234). -/
structure Entry where
  value : DWord
  poison : Bool
  deriving DecidableEq, Repr

structure Team where
  uid : Nat
  nextPid : Nat
  ctx : Nat
  launch : Nat
  item : DWord
  lanes : Nat
  group : Nat
  base : Nat
  extn : Nat
  cohort : Nat
  teamIdx : Nat
  cohortSize : Nat
  age : Nat
  prio : Nat
  /-- The entry's header address, read when the launch was accepted (R54). -/
  image : Nat
  codesz : Nat
  nbar : Nat
  scrb : Nat
  checkSb : Bool
  race : Bool
  extHeld : Bool
  growPending : Bool
  /-- The pending GROW has been granted and completes when it issues again (R31). -/
  granted : Bool
  v : List (List Word)
  p : List (List Bool)
  vpoison : List (Nat × Nat × Nat)
  pathA : Option Path
  pathB : Option Path
  recs : List Recon
  ops : List Op
  /-- Phase of the team's last arrival on each barrier (R113). -/
  arrivals : Table Nat
  groups : List Group
  /-- Mismatched sequence numbers in completion order (R224). -/
  mismatches : List Nat
  colHistory : List (Nat × Nat × ColTerms)
  batch : Word
  operr : Bool
  logovf : Bool
  logs : List BatchLog
  openLog : BatchLog
  /-- Operand errors so far of batches whose logs are no longer kept (R210, R211). -/
  oldErrors : List (Word × Nat)
  /-- Packet and place of the MFENCE that closed each batch (R300). -/
  fences : List (Word × Nat × Nat)
  gen : List Word
  /-- Generations of the race shadow: barrier phases completed, CBARs observed (R301). -/
  gb : Nat
  gc : Nat
  /-- CBARs that have completed and that no WAITC on COL has observed yet (R228, R301). -/
  cbars : Nat
  handler : Option Handler
  /-- A trap entry that waits for the handler's header (R345). -/
  entry : Option PendingEntry
  /-- Stopped by the debugger (R302). -/
  stopped : Bool
  /-- The path of a step command in progress; `true` in the second place is step to retire (R303). -/
  step : Option (Bool × Bool)
  /-- The command that a step to retire waits for (R303). -/
  stepCommand : Option Nat
  runner : Runner
  queues : List (List Entry)
  yielding : Bool
  /-- Parked words of an evicted team whose migration found no room: agent, address, h4; their trap 0x05 is raised as the team
  returns (R358). -/
  denied : List (Option Bool × Nat × Word)
  /-- Offset in the save area and length of an evicted team's section (R32). -/
  spillAt : Nat × Nat
  killed : Bool
  /-- Waits for the operating point (R338). -/
  pointWait : Bool
  lastPath : Bool
  /-- Path of the next sample of a team with two paths (R297). -/
  sampleB : Bool
  /-- Scalar registers of the path that exited last, for its spine slots, and that path's number (R40, R308). -/
  lastS : List Word
  lastPid : Nat
  /-- The number of the newest matrix command the team has issued with each ID (R200). -/
  commandIds : Table Nat
  deriving DecidableEq, Repr

/-! ### Cores -/

/-- One barrier of a cohort (R113). -/
structure Barrier where
  phase : Nat
  arrived : List Nat
  deriving DecidableEq, Repr

/-- A cohort resident on a core with its scratchpad region (R16, R18, R53, R301). -/
structure Cohort where
  id : Nat
  ctx : Nat
  launch : Nat
  size : Nat
  /-- uids of its teams and of those that have exited. -/
  teams : List Nat
  exited : List Nat
  age : Nat
  /-- First byte of the region in the scratchpad region of the core. -/
  base : Nat
  scrb : Nat
  bytes : List Host.Cell
  /-- Byte addresses of words that hold the poison codeword (R219). -/
  poison : List Nat
  /-- Metering tag of each tagged 64-byte unit (R220). -/
  tags : Table Nat
  shadow : Table (BitVec 16)
  bars : Table Barrier
  deriving DecidableEq, Repr

/-- A line of the read-only L1 (R162). -/
structure L1Line where
  /-- The context whose load filled the line. -/
  ctx : Nat
  loc : Loc
  data : List Byte
  /-- How many contents of cached lines the package had kept when the line was filled. -/
  since : Nat
  /-- 1 + the context that held the line's page when the line was filled, or 0 for none (R7). -/
  tag : Nat
  /-- The line reads as poisoned: it was filled so, or a pool word that holds it took the codeword (R161, R367). -/
  bad : Bool
  deriving DecidableEq, Repr

/-- A core's allowances of one context (R173): balances by die, granules charged and not answered. -/
structure Ladle where
  ctx : Nat
  bal0 : Nat
  bal1 : Nat
  transit0 : Nat
  transit1 : Nat
  /-- The core holds no team of the context; the return waits for answers. -/
  returning : Bool
  deriving DecidableEq, Repr

/-- A weight plane (R193): element code, block length, 32 columns of Kt codes, scales, r[k], tags, and the
rows that held an operand error (R211). -/
structure Plane where
  fmt : Nat
  blen : Nat
  cols : List (List Nat)
  scales : List (List Nat)
  r : List Word
  tags : List (Option Nat)
  deriving DecidableEq, Repr

structure MatCmd where
  seq : Nat
  team : Nat
  slot : Nat
  ctx : Nat
  launch : Nat
  op : Nat
  id : Nat
  /-- Sequence numbers of the predecessors it waits for. -/
  preds : List Nat
  operands : List Word
  /-- The 32-byte format block, read at issue (R196). -/
  format : BitVec 256
  batch : Word
  started : Bool
  pc : Nat
  /-- Scratchpad words and accumulator rows that the command has read so far (R201, R202). -/
  got : List (Nat × List Byte × Bool)
  accs : Table (List Word)
  /-- Scratchpad words and rows that the command has written so far. -/
  put : List Nat
  rows : List Nat
  /-- Operand errors that its early writes have met (R211). -/
  errs : List OperandError
  deriving DecidableEq, Repr

structure Matrix where
  /-- The owning launch: context and LAUNCHID (R194). -/
  owner : Option (Nat × Nat)
  /-- Context of the last owner, whose planes and tiles remain. -/
  lastCtx : Option Nat
  active : Plane
  shadow : Plane
  /-- Accumulator rows tile × 256 + row that are not all +0. -/
  acc : Table (List Word)
  /-- Accumulator words that read with an uncorrectable error: tile × 256 + row, column (R211). -/
  accBad : List (Nat × Nat)
  window : List MatCmd
  deriving DecidableEq, Repr

structure Core where
  bndReg : Nat
  bndScr : Nat
  bndL1 : Nat
  /-- Units outside the register region whose dirty bit is set, and units of the register region (R53). -/
  dirty : List Nat
  regDirty : List Nat
  teams : Table Team
  evicted : List (Nat × Team)
  cohorts : List Cohort
  l1 : List L1Line
  ladles : List Ladle
  mtx : Matrix
  /-- Launch whose cohort first filled the L1 (R162). -/
  l1Launch : List (Nat × Nat)
  nextOp : Nat
  /-- Slot after the one each issue scheduler sampled last (R297). -/
  sample0 : Nat
  sample1 : Nat
  /-- The cycles at which the schedulers' next samples are due (R297). -/
  due0 : Nat
  due1 : Nat
  deriving DecidableEq, Repr

/-! ### Launches and contexts -/

/-- A launch record (R56). -/
structure Record where
  entry : Nat
  lanes : Nat
  gw : Nat
  cohort : Nat
  prio : Nat
  dvfs : Nat
  cscope : Nat
  ordered : Bool
  race : Bool
  checkSb : Bool
  nitems : Nat
  args : Nat
  metered : Bool
  breg : Nat
  bscr : Nat
  bl1 : Nat
  spill : Nat
  spilln : Nat
  pany : Bool
  pdie : Nat
  pkx : Nat
  pky : Nat
  px0 : Nat
  py0 : Nat
  pw : Nat
  ph : Nat
  dep0a : Nat
  dep1a : Nat
  cwa : Nat
  dep0v : Word
  dep1v : Word
  cwv : Word
  reservedClear : Bool
  deriving DecidableEq, Repr

/-- One spine slot a header declares (R40, R54). -/
structure SpineSlot where
  declared : Bool
  darg : Nat
  kmax : Nat
  reg : Nat
  deriving DecidableEq, Repr

/-- A kernel header (R54). -/
structure Header where
  magic : Word
  ver : Nat
  bb : Nat
  eb : Nat
  gw : Nat
  lanes : Nat
  cohort : Nat
  nbar : Nat
  ordered : Bool
  race : Bool
  checkSb : Bool
  codesz : Nat
  scrb : Nat
  slots : List SpineSlot
  moff : Nat
  reservedClear : Bool
  deriving DecidableEq, Repr

/-- A published spine value (R40, R42, R43). -/
structure SpineValue where
  item : Nat
  slot : Nat
  value : Word
  poison : Bool
  /-- The cluster whose spine buffer holds the value, or the entry of the spill ring that does (R43). -/
  cluster : Nat
  ring : Option Nat
  deriving DecidableEq, Repr

/-- A placement rectangle (R335). -/
structure Rect where
  die : Nat
  cluster : Nat
  x0 : Nat
  y0 : Nat
  wide : Nat
  high : Nat
  deriving DecidableEq, Repr

/-- A collective of a team that has exited: its core, TEAMIDX, group and number, and the teams that it is matched with (R224). -/
structure LeftCol where
  core : Nat
  idx : Nat
  group : Nat
  seq : Nat
  peers : List Nat
  terms : ColTerms
  deriving DecidableEq, Repr

structure Launch where
  id : Nat
  parent : Option Nat
  depth : Nat
  rcd : Record
  hdr : Header
  /-- Bin key and cluster number of a spawned launch (R36). -/
  spawned : Option (Nat × Nat)
  /-- Default words of the declared slots (R41). -/
  defaults : List Word
  dep0Met : Bool
  dep1Met : Bool
  ready : Bool
  readySeq : Nat
  nextItem : Nat
  /-- Items dispatched and not exited. -/
  live : List Nat
  rect : Option Rect
  /-- Position in the rectangle after the last placement (R336). -/
  scan : Nat
  spine : List SpineValue
  begun : Bool
  gone : List LeftCol
  /-- The page of the completion word has been migrated for the completion (R333). -/
  cwAsked : Bool
  /-- A program has changed the launch's spill ring: later reads of the launch's spine values are unspecified (R43). -/
  ringHit : Bool
  deriving DecidableEq, Repr

/-- A bin (R34). -/
structure Bin where
  ctx : Nat
  key : Nat
  /-- LAUNCHID of the spawned launch and of the launch whose team opened it. -/
  launch : Nat
  opener : Nat
  width : Nat
  args : List Word
  timer : Nat
  /-- Closed, waiting for dispatch (R34), with the core whose SPAWN closed it. -/
  closed : Bool
  closer : Nat
  closedSeq : Nat
  /-- The team and the path whose SPAWN opened the bin with timer 0: the bin closes as that SPAWN ends (R111). -/
  atEnd : Option (Nat × Nat)
  deriving DecidableEq, Repr

/-- A core's content of a saved context (R349). -/
structure SavedCore where
  core : Nat
  teams : Table Team
  evicted : List (Nat × Team)
  cohorts : List Cohort
  bounds : Nat × Nat × Nat
  dirty : List Nat
  mtx : Option Matrix
  deriving DecidableEq, Repr

structure Ctx where
  csrec : Nat
  /-- CSSTAT (R325): ERR, CWF, STATE. -/
  err : BitVec 8
  cwf : Bool
  state : Nat
  root : Word
  cie : Bool
  hnd : Nat
  save : Nat
  saveSize : Word
  /-- PREQCTL (R340). -/
  szerr : Bool
  pstate : Nat
  req : Bool
  deadline : Word
  fpc : Word
  faultReg : DWord
  ptb : Nat
  invReg : DWord
  /-- CTXINV as it was when the invalidation in progress was started (R357). -/
  invRange : DWord
  invDone : Bool
  blnReq : Word
  blnId : Word
  blnCred : Word
  blnRepl : Bool
  blnAck : Bool
  blnOpen : Bool
  trBase : DWord
  trSize : Word
  trWr : Word
  trRd : Word
  trDrop : Word
  trCtl : Word
  /-- Sources that lost records since their last written one (R293). -/
  trLost : List Nat
  allStop : Bool
  attach : Bool
  dbgErr : Bool
  dbgBusy : Bool
  dbgSel : DWord
  launches : List Launch
  nextLaunch : Nat
  /-- Cached translations: virtual base, page bytes, leaf entry (R357). -/
  xlat : List (Nat × Nat × DWord)
  /-- Images that have passed their measurement, by their headers, with their device pages; those written since (R381, R382). -/
  measured : List (Nat × List Nat)
  unmeasured : List Nat
  /-- Handler images that have passed their measurement, with their device pages (R381). -/
  handlerSeen : List (Nat × List Nat)
  saved : List SavedCore
  /-- Cycles since the request and the forced flag (R347). -/
  reqCycle : Nat
  forced : Bool
  /-- Evicted teams that a restore has brought back and that have not been resident since (R347, R350). -/
  awaited : List Nat
  /-- Bins saved with the context: cluster and bin (R337, R349). -/
  bins : List (Nat × Bin)
  /-- Pages that the root start in progress has had migrated (R328). -/
  rootAsked : List Nat
  deriving DecidableEq, Repr

/-! ### Memory side -/

/-- A block's stored copy (R12, R176, R266): class 0 Z, 1 K, 2 P, 3 C, 4 U. -/
structure Block where
  cls : Nat
  slots : Nat
  head : Nat
  poison : Bool
  /-- What poisons the block: granules of its stored copy that hold the codeword, and 16 for its descriptor or a word of a line
  (R367, R368). -/
  bads : List Nat
  deriving DecidableEq, Repr

/-- An image that the device has written for a context (R349, R351): its sections, each with kind, core, slot and raw
bytes, and what they hold. -/
structure SavedImage where
  ctx : Nat
  /-- The firmware that wrote it (R351). -/
  firmware : Nat
  sections : List (Nat × Nat × Nat × List Byte)
  saved : List SavedCore
  bins : List (Nat × Bin)
  launches : List Launch
  deriving DecidableEq, Repr

inductive PageState where
  | unbacked | resident | remote | migrating
  deriving DecidableEq, Repr

/-- What the device keeps of one 64 KiB page (R189, R267, R268, R358). -/
structure Page where
  state : PageState
  ctx : Nat
  pin : Bool
  ref : Bool
  failed : Bool
  short : Bool
  reads : Nat
  writes : Nat
  replicated : Bool
  /-- Direction of the migration in flight. -/
  toTier : Bool
  /-- The page waits for its die's fault unit, in the order of this number (R267). -/
  queued : Option Nat
  /-- A store of another team has been performed on the page while a PGSURR of it was in flight (R187). -/
  torn : Bool
  /-- A host-window page: its blocks are class U (R356). -/
  window : Bool
  deriving DecidableEq, Repr

/-- A line a die's L2 holds apart from the home copy: an SWM copy with its dirty bytes, a dirty COH line, or
a replica (R239, R246). -/
structure L2Line where
  swm : Bool
  replica : Bool
  data : List Byte
  dirty : List Nat
  /-- Byte offsets under the line's poison mark (R219, R367). -/
  bad : List Nat
  deriving DecidableEq, Repr

structure Die where
  tick : DWord
  cycle : Nat
  pool : Nat
  free : Nat
  floor : Nat
  ovc : Nat
  l2 : Table L2Line
  point : Nat
  target : Nat
  effCap : Nat
  migVa : Nat
  migCtx : Nat
  migWhy : Nat
  migSt : Nat
  /-- Page of a driver migration command in progress. -/
  migPage : Option Nat
  /-- Position of the victim clock hand by context (R358). -/
  hand : Table Nat
  withheld : Bool
  deriving DecidableEq, Repr

/-- A metered region entry with its counter (R373, R376). -/
structure Region where
  limit : Nat
  base : Nat
  tenant : BitVec 16
  rid : BitVec 16
  reported : Bool
  en : Bool
  count : DWord
  everOn : Bool
  deriving DecidableEq, Repr

structure Meter where
  regions : Table Region
  epoch : Nat
  fuse : Nat
  seq : Nat
  gap : Option (Nat × DWord)
  /-- The tick of the last checkpoint since the tick counters were released, or 0 (R377). -/
  last : Nat
  /-- The newest checkpoint in secure flash: epoch, tick, entries, sequence, whether a power-down wrote it. -/
  flash : Option (Nat × DWord × Table Region × Nat × Bool)
  final : Bool
  deriving DecidableEq, Repr

structure Ras where
  ue : Bool
  ovf : Bool
  fatal : Bool
  logWr : Word
  logRd : Word
  ecsth : Nat
  ueie : Bool
  sel : Word
  counts : Table Nat
  ceue : Table (Nat × Nat)
  log : Table (BitVec 128)
  /-- Repair record: physical cores by cluster, and worst rows by bank (R10, R369). -/
  coreRepairs : List (Nat × Nat)
  /-- Repairs that the core maps of this start took out: cluster, physical core. -/
  mapped : List (Nat × Nat)
  rowRepairs : List (Nat × Nat)
  /-- The fused test record: cluster, physical core found faulty at test (R10). -/
  fused : List (Nat × Nat)
  /-- Granules of HBM whose stored copy no correction can mend, found at their next read (R161, R367); from 2^36 on, those of the
  descriptor carve-outs. -/
  latent : List Nat
  /-- The counts of each bank that the polls of the last 24 hours read, with their ticks, the latest first (R369). -/
  ecsPast : Table (List (Nat × Nat))
  /-- Good lanes left to each bridge that has lost lanes (R372). -/
  bridgeBad : Table Nat
  deriving DecidableEq, Repr

/-- The PF's device-wide registers (R292, R302, R305, R358, R360, R361, R363, R365, R380). -/
structure Pf where
  ctxOwn : Table Word
  hmRange : Table DWord
  ctBase : Nat
  ctSize : Word
  stDev : Word
  stPort : Table Word
  stRoute : Table Word
  cmps : Table DWord
  stopTick : DWord
  stopped : Bool
  armed : Bool
  /-- The tick of the armed stop: T, or the tick after arming (R305). -/
  due : DWord
  stopAt : DWord
  tcap : Nat
  watts : Nat
  attMap : DWord
  deriving DecidableEq, Repr

/-- The sideband endpoint (R366) and what it has answered. -/
structure Sideband where
  algorithms : Bool
  /-- Firmware image in force, and one staged for the next reset. -/
  running : Nat
  staged : Option Nat
  firmwareErr : BitVec 8
  key : Option Nat
  allow : List (BitVec 384)
  /-- Messages sent, newest first: 0 an event, or the number of the row answered in the order of R366; the bytes. -/
  replies : List (Nat × List Byte)
  /-- Events that the endpoint keeps over a reset until power-on (R365). -/
  kept : List (List Byte)
  deriving DecidableEq, Repr

/-! ### The whole state -/

/-- Which path or runner executes the words (the model's own; log 1). -/
structure Focus where
  core : Nat
  slot : Nat
  path : Bool
  runner : Bool
  deriving DecidableEq, Repr

/-- Which agent moves next (the model's own; log 1). -/
inductive Turn where
  /-- A path issues its next word. -/
  | issue (core slot : Nat) (path : Bool)
  /-- A runner executes its next word. -/
  | runner (core slot : Nat)
  /-- An operation or event happens. -/
  | happen (event : Instr)
  /-- Time passes: ticks, and cycles of each die's arithmetic clock. -/
  | elapse (ticks cycles0 cycles1 : Nat)
  /-- An operation in flight, or a matrix command, reads or writes a part of what it moves (R201, R202, R218, R227, R240). -/
  | part (core op key : Nat) (put : Bool)
  /-- The host writes its own memory (R249). -/
  | hostWrite (pa : Nat) (bytes : List Byte)
  /-- The stop at the end of a crossing of a packet's way cannot take the packet and sends it round (R273). -/
  | refuse (core op key leg : Nat)
  /-- The slot that a starved stop marked comes round free, and the stop injects into it (R273). -/
  | inject (die stop loop : Nat)
  /-- An idle core enters the deepest idle state open to it (R364). -/
  | idle (core : Nat)
  /-- A loop hop that had failed carries its flit (R372). -/
  | hopGood (die loop hop : Nat)
  /-- An error of a memory word (R367): what it is, and two numbers that say where. -/
  | upset (what a b : Nat)
  deriving DecidableEq, Repr

structure State where
  /-- PERST# has been released since reset (R362). -/
  released : Bool
  here : Focus
  agenda : List Turn
  /-- Number of the next free value (the model's own; log 3). -/
  fresh : Nat
  /-- Numbers for teams, cohorts and ages (the model's own; log 1). -/
  serial : Nat
  cores : Table Core
  /-- By core, the cycles from which its pipes are free of earlier passes (two vector pipes, scalar, memory, engine, SFU)
  and its two issue schedulers may issue again (R64, R339). -/
  pipes : Table (List Nat)
  /-- Contents that lines held by an L1 have had, newest first: die, line, 1 + the context that held the page or 0, bytes (R7,
  R162, R245). -/
  past : List (Nat × Nat × Nat × List Byte)
  /-- Bins by cluster number die × 12 + k. -/
  bins : Table (List Bin)
  /-- Teams made so far from bins: cluster, key, parent launch and context with their count (R35). -/
  binTeams : List ((Nat × Nat × Nat × Nat) × Nat)
  ctxs : Table Ctx
  die0 : Die
  die1 : Die
  mem : List Host.Cell
  hostMem : List Host.Cell
  blocks : Table Block
  pages : Table Page
  stage : Nat
  stageErr : BitVec 8
  d0ok : Bool
  d1ok : Bool
  ticksRun : Bool
  tickOffset : DWord
  pf : Pf
  ras : Ras
  meter : Meter
  side : Sideband
  /-- MSI-X vectors raised and not yet taken: function, vector (R326). -/
  msix : List (Nat × Nat)
  /-- Latency tolerance from the last LTR message, in nanoseconds (R364). -/
  ltr : Nat
  /-- Idle places: level × 4096 + place (R364). -/
  idlePlaces : List Nat
  /-- Consecutive failures of a loop hop: die, loop, hop (R372). -/
  hopFails : List ((Nat × Nat × Nat) × Nat)
  /-- The window of 2^20 ticks whose replication counters are running (R268). -/
  window : Nat
  /-- Slots marked to come round free: die, stop, loop (R273). -/
  starved : List (Nat × Nat × Nat)
  /-- Loop number fixed for each source stop, destination stop and hash lane of the dies (R271); empty before stage C. -/
  routes : List (List Nat)
  /-- Packets that a stop has sent round: core, operation, the packet's key, the crossing of its way at whose end it circles, and its
  arrivals there so far (R273). -/
  circling : List (Nat × Nat × Nat × Nat × Nat)
  /-- Charged blocks that an operation in flight has performed in part: core, operation, block, granules of the charge that are
  left (R176). -/
  halves : List (Nat × Nat × Nat × Nat)
  /-- Leaves that contexts' tables have held since the last invalidation of their pages: context, virtual base, size, entry, 0
  for none (R357). -/
  former : List (Nat × Nat × Nat × Nat)
  /-- The bytes that the host's last CXL.mem read returned (R249, R356). -/
  hostRead : List Byte
  /-- Images that the device has written (R349, R351). -/
  images : List SavedImage
  shutdown : Bool
  deriving DecidableEq, Repr
/-! ### Reset -/

/-- A plane never loaded: an all-zero BF16 plane with r[k] = 1 and no tags (R194, R206). -/
def Plane.zero : Plane := ⟨1, 0, [], [], [], []⟩

/-- A free engine with cleared planes and tiles (R194). -/
def Matrix.free : Matrix := ⟨none, none, Plane.zero, Plane.zero, [], [], []⟩

/-- A core with no team (R19, R53): boundary registers 0 (log 4). -/
def Core.idle : Core :=
  ⟨0, 0, 0, [], [], [], [], [], [], [], Matrix.free, [], 0, 0, 0, 0, 0⟩

/-- A context's registers after reset (R325, R340, R352, R357, R359); registers without a stated value 0 (log 4). -/
def Ctx.reset : Ctx where
  csrec := 0
  err := 0
  cwf := false
  state := 0
  root := 0
  cie := false
  hnd := 0
  save := 0
  saveSize := 0
  szerr := false
  pstate := 0
  req := false
  deadline := 0x00100000
  fpc := 0
  faultReg := 0
  ptb := 0
  invReg := 0
  invRange := 0
  invDone := true
  blnReq := 0
  blnId := 0
  blnCred := 0
  blnRepl := false
  blnAck := false
  blnOpen := false
  trBase := 0
  trSize := 0
  trWr := 0
  trRd := 0
  trDrop := 0
  trCtl := 0x000C0000
  trLost := []
  allStop := false
  attach := false
  dbgErr := false
  dbgBusy := false
  dbgSel := 0
  launches := []
  nextLaunch := 1
  xlat := []
  measured := []
  unmeasured := []
  handlerSeen := []
  saved := []
  reqCycle := 0
  forced := false
  awaited := []
  bins := []
  rootAsked := []

/-- A page that nothing has written (R189). -/
def Page.fresh : Page := ⟨.unbacked, 0, false, false, false, false, 0, 0, false, false, none, false, false⟩

/-- An unbacked block reads Z with no granules (R189). -/
def Block.fresh : Block := ⟨0, 0, 0, false, []⟩

/-- A die before stage C: no pool yet (R14), overcommit 2.0, operating point 5 (log 4). -/
def Die.reset : Die where
  tick := 0
  cycle := 0
  pool := 0
  free := 0
  floor := 0
  ovc := 512
  l2 := []
  point := 5
  target := 0
  effCap := 7
  migVa := 0
  migCtx := 0
  migWhy := 0
  migSt := 0
  migPage := none
  hand := []
  withheld := false

/-- A region entry after reset: disabled, REPORTED set (R373). -/
def Region.reset : Region := ⟨0, 0, 0, 0, true, false, 0, false⟩

def Meter.reset : Meter := ⟨[], 0, 0, 0, none, 0, none, false⟩

def Ras.reset : Ras := ⟨false, false, false, 0, 0, 64, false, 0, [], [], [], [], [], [], [], [], [], []⟩

def Pf.reset : Pf := ⟨[], [], 0, 0, 0, [], [], [], 0, false, false, 0, 0, 7, 2800, 0⟩

def Sideband.reset : Sideband := ⟨false, 0, none, 0, none, [], [], []⟩

/-- The device after reset: stage 000, ticks held at zero, every context and core idle, memory with nothing
listed (R291, R362, R363). -/
def State.reset : State where
  released := false
  here := ⟨0, 0, false, false⟩
  agenda := []
  fresh := 0
  serial := 0
  cores := []
  pipes := []
  past := []
  bins := []
  binTeams := []
  ctxs := []
  die0 := Die.reset
  die1 := Die.reset
  mem := []
  hostMem := []
  blocks := []
  pages := []
  stage := 0
  stageErr := 0
  d0ok := false
  d1ok := false
  ticksRun := false
  tickOffset := 0
  pf := Pf.reset
  ras := Ras.reset
  meter := Meter.reset
  side := Sideband.reset
  msix := []
  ltr := 0
  idlePlaces := []
  hopFails := []
  window := 0
  starved := []
  routes := []
  circling := []
  halves := []
  former := []
  hostRead := []
  images := []
  shutdown := false

end Sys2Proof.Machine
end

