-- ==== Sys2Proof/Machine/Access.lean ====
section
/-!
DEFINITION. Reading and replacing the parts of the state: cores, teams, paths, contexts, launches, dies; the
places and their numbers (R8, R9); time (log 2); the trace ring's registers and MSI-X (R326).
-/

namespace Sys2Proof.Machine

abbrev Result := Host.Outcome State Fault Refusal

/-! ### Places (R8, R9) -/

def dieOf (core : Nat) : Nat := core / 1152
/-- Cluster number of the package: die × 12 + k. -/
def clusterOf (core : Nat) : Nat := core / 96
def coreIndex (core : Nat) : Nat := core % 96
def coreX (core : Nat) : Nat := core % 96 % 12
def coreY (core : Nat) : Nat := core % 96 / 12
def clusterX (core : Nat) : Nat := core / 96 % 12 % 4
def clusterY (core : Nat) : Nat := core / 96 % 12 / 4
/-- The home die of a device address (R12). -/
def homeDie (da : Nat) : Nat := da / 2 ^ 40 % 2
def blockOf (da : Nat) : Nat := da / 512
def lineOf (da : Nat) : Nat := da / 128
def pageOf (da : Nat) : Nat := da / 65536

/-- The core at a place offset in the same cluster (R11); none outside the cluster. -/
def placeAt (core : Nat) (dx dy : Int) : Option Nat :=
  let x : Int := coreX core + dx
  let y : Int := coreY core + dy
  if 0 ≤ x ∧ x < 12 ∧ 0 ≤ y ∧ y < 8 then some (clusterOf core * 96 + y.toNat * 12 + x.toNat) else none

/-! ### Parts of the state -/

def State.core (s : State) (c : Nat) : Core := (Table.get s.cores c).getD Core.idle
def State.setCore (s : State) (c : Nat) (k : Core) : State := { s with cores := Table.put s.cores c k }
def State.team (s : State) (c i : Nat) : Option Team := Table.get (s.core c).teams i
def State.setTeam (s : State) (c i : Nat) (t : Team) : State :=
  s.setCore c { s.core c with teams := Table.put (s.core c).teams i t }
def State.dropTeam (s : State) (c i : Nat) : State :=
  s.setCore c { s.core c with teams := Table.drop (s.core c).teams i }
def State.ctx (s : State) (x : Nat) : Ctx := (Table.get s.ctxs x).getD Ctx.reset
def State.setCtx (s : State) (x : Nat) (k : Ctx) : State := { s with ctxs := Table.put s.ctxs x k }
def State.launch (s : State) (x id : Nat) : Option Launch := (s.ctx x).launches.find? fun l => l.id == id
def State.setLaunch (s : State) (x : Nat) (l : Launch) : State :=
  s.setCtx x { s.ctx x with launches := (s.ctx x).launches.map fun m => if m.id = l.id then l else m }
def State.die (s : State) (d : Nat) : Die := if d = 0 then s.die0 else s.die1
def State.setDie (s : State) (d : Nat) (k : Die) : State :=
  if d = 0 then { s with die0 := k } else { s with die1 := k }
def State.block (s : State) (b : Nat) : Block := (Table.get s.blocks b).getD Block.fresh
def State.setBlock (s : State) (b : Nat) (k : Block) : State := { s with blocks := Table.put s.blocks b k }
def State.page (s : State) (p : Nat) : Page := (Table.get s.pages p).getD Page.fresh
def State.setPage (s : State) (p : Nat) (k : Page) : State := { s with pages := Table.put s.pages p k }
def State.cluster (s : State) (k : Nat) : List Bin := (Table.get s.bins k).getD []
def State.setCluster (s : State) (k : Nat) (b : List Bin) : State := { s with bins := Table.put s.bins k b }

/-- Cores of the package that hold a team or a cohort. -/
def State.coreNumbers (s : State) : List Nat := s.cores.map (·.1)

/-- Resident teams: core, slot, team. -/
def State.resident (s : State) : List (Nat × Nat × Team) :=
  s.cores.flatMap fun e => e.2.teams.map fun t => (e.1, t.1, t.2)

/-- Resident and evicted teams with their cores. -/
def State.allTeams (s : State) : List (Nat × Team) :=
  s.cores.flatMap fun e => (e.2.teams.map fun t => (e.1, t.2)) ++ (e.2.evicted.map fun t => (e.1, t.2))

/-- The operating state of a core's cohort. -/
def State.cohort (s : State) (c id : Nat) : Option Cohort := (s.core c).cohorts.find? fun h => h.id == id
def State.setCohort (s : State) (c : Nat) (h : Cohort) : State :=
  s.setCore c { s.core c with cohorts := (s.core c).cohorts.map fun g => if g.id = h.id then h else g }

def Team.at (t : Team) (side : Bool) : Option Path := if side then t.pathB else t.pathA
def Team.setAt (t : Team) (side : Bool) (p : Option Path) : Team :=
  if side then { t with pathB := p } else { t with pathA := p }
/-- Both paths are live. -/
def Team.two (t : Team) : Bool := t.pathA.isSome && t.pathB.isSome

/-- Records that hold a suspended path, with the path. -/
def Team.suspended (t : Team) : List Path := t.recs.filterMap fun r => r.suspended

/-! ### Time (log 2) -/

/-- The tick that programs, records and registers report (R291). -/
def State.tick (s : State) : DWord := s.die0.tick + s.tickOffset
def State.cycle (s : State) (core : Nat) : Nat := (s.die (dieOf core)).cycle

/-- `n` ticks pass on both dies once stage A has released the counters (R291), none beyond the tick of an armed stop
(R305). -/
def State.passTicks (s : State) (n : Nat) : State :=
  if s.ticksRun && !s.pf.stopped then
    let n := if s.pf.armed then min n (s.pf.due.toNat - s.tick.toNat) else n
    { s with die0 := { s.die0 with tick := s.die0.tick + BitVec.ofNat 64 n },
             die1 := { s.die1 with tick := s.die1.tick + BitVec.ofNat 64 n } }
  else s

/-- `n` cycles pass on a die. -/
def State.passCycles (s : State) (d n : Nat) : State :=
  s.setDie d { s.die d with cycle := (s.die d).cycle + n }

/-- The next free choice's number, and the state after taking it (log 3). -/
def State.draw (s : State) : Nat × State := (s.fresh, { s with fresh := s.fresh + 1 })

/-- The next number for a team, cohort or order of arrival. -/
def State.number (s : State) : Nat × State := (s.serial, { s with serial := s.serial + 1 })

/-! ### The package -/

/-- The device number within the Stitch group (R48, R361). -/
def State.device (s : State) : Nat := if bits s.pf.stDev.toNat 14 8 = 0 then 0 else bits s.pf.stDev.toNat 5 0

/-! ### Lanes -/

/-- Bit `l` of a path's masks (R20): word ⌊l / 32⌋, bit l mod 32. -/
def laneOn (mask : List Word) (l : Nat) : Bool := (wordAt mask (l / 32)).getLsbD (l % 32)

/-- The active lanes in ascending order. -/
def activeLanes (mask : List Word) (lanes : Nat) : List Nat := (List.range lanes).filter (laneOn mask)

/-- The summary word (R20). -/
def summary (mask : List Word) : Word :=
  BitVec.ofNat 32 (mask.zipIdx.foldl (fun n e => if e.1 = 0 then n else n + 2 ^ e.2) 0)

/-- Passes of a vector word: slices whose summary bit is set (R21). -/
def passes (mask : List Word) : Nat := (mask.filter (· != 0)).length

/-- The place of a slice among the passes. -/
def passOf (mask : List Word) (slice : Nat) : Nat := passes (mask.take slice)

/-- A mask of the lanes a list names. -/
def maskOf (slices : Nat) (on : Nat → Bool) : List Word :=
  (List.range slices).map fun i =>
    BitVec.ofNat 32 ((List.range 32).foldl (fun n j => if on (32 * i + j) then n + 2 ^ j else n) 0)

/-- All lanes of a team of `n` lanes. -/
def fullMask (n : Nat) : List Word := List.replicate (n / 32) 0xFFFFFFFF

/-! ### MSI-X (R326) -/

/-- The owning function and the place of a context within it (R325, R360). -/
def State.owner (s : State) (x : Nat) : Option (Nat × Nat) :=
  match Table.get s.pf.ctxOwn x with
  | some w => if w.getLsbD 31 then some (bits w.toNat 20 16, bits w.toNat 5 0) else none
  | none => none

/-- A vector of a function raised. -/
def State.raise (s : State) (fn vec : Nat) : State := { s with msix := s.msix ++ [(fn, vec)] }

/-- An event of a context, which raises its vector while CSCTL.CIE = 1. -/
def State.contextEvent (s : State) (x : Nat) : State :=
  if (s.ctx x).cie then
    match s.owner x with
    | some (fn, n) => s.raise fn (1 + n % (if fn = 0 then 63 else 7))
    | none => s
  else s

/-- A message the sideband sends: what it answers, its bytes (R366).  It sends from stage A on. -/
def State.reply (s : State) (what : Nat) (bytes : List Byte) : State :=
  if s.stage = 0 then s else { s with side := { s.side with replies := (what, bytes) :: s.side.replies } }

/-- An event of the RAS log (R370, R371): written unless 256 entries wait, OVF set otherwise; an uncorrectable one
sets UE and raises vector 0 of the PF while UEIE = 1; every event also goes out over the sideband (R366). -/
def State.rasLog (s : State) (kind unit detail : Nat) : State :=
  let r := s.ras
  let hard := kind == 2 || kind == 5
  let entry := s.tick.toNat * 2 ^ 64 + kind * 2 ^ 56 + unit % 4096 * 2 ^ 44 + detail % 2 ^ 44
  let s :=
    if r.logWr - r.logRd = 256 then { s with ras := { r with ovf := true } }
    else { s with ras := { r with
      ue := r.ue || hard, logWr := r.logWr + 1
      log := Table.put r.log (r.logWr.toNat % 256) (BitVec.ofNat 128 entry) } }
  let s := s.reply 0 (leBytes 16 entry)
  if hard && r.ueie then s.raise 0 0 else s

/-- Poison consumed (R371): `what` 0 trap 0x06, 1 a host read, 2 a matrix operand. -/
def State.poisonUsed (s : State) (unit x what : Nat) : State := s.rasLog 0x0A unit (x * 2 ^ 38 + what)

/-- DEVSTAT changed: vector 0 of the PF, and of each VF that reads the mirror (R326, R363). -/
def State.devstatEvent (s : State) : State :=
  (List.range 32).foldl (fun s fn => s.raise fn 0) s

end Sys2Proof.Machine
end

