-- ==== Sys2Proof/Machine/Memory.lean ====
section
/-!
DEFINITION. Address translation (R352 to R358), global memory behind L1, L2 and the compression layer (R161,
R162, R165, R177, R239, R246, R266 to R269), the capacity accounts (R172 to R177) and scratchpads (R166, R219,
R220, R301).
-/

namespace Sys2Proof.Machine

/-! ### Page tables -/

/-- A die's addressable limit A (R13). -/
def State.limit (s : State) (d : Nat) : Nat := (s.die d).ovc * 2 ^ 30 / 2 ^ 21 * 2 ^ 21

/-- 8 bytes of device memory read at L2.  A table may lie at or above the limit A, where the spec does not say what a walk reads: it
reads memory as elsewhere (DESIGN CHOICE, log 83). -/
def State.entryAt (s : State) (da : Nat) : Nat := leNat (Memory.readList s.mem da 8)

/-- A table entry that names the next table: valid, and not malformed (R353). -/
def tableEntry (e : Nat) : Bool :=
  bit e 0 && !bit e 1 && bits e 11 10 == 0 && !bit e 5 && decide (e < 2 ^ 41) && !(bit e 6 && bit e 4) &&
    !(bit e 7 && !bit e 6)

/-- The address an entry holds. -/
def entryAddr (e : Nat) : Nat := e / 4096 * 4096

/-- A leaf that maps a page of `size` bytes: valid, and not malformed (R353). -/
def State.leafEntry (s : State) (e size : Nat) : Bool :=
  let a := entryAddr e
  bit e 0 && bit e 1 && bits e 11 10 == 0 && a % size == 0 && !(bit e 6 && (bit e 5 || bit e 4)) &&
    !(bit e 7 && !(bit e 6 || bit e 5)) && (bit e 5 || (decide (a < 2 ^ 41) && decide (a % 2 ^ 40 < s.limit (homeDie a))))

/-- The walk of R352: the leaf for a virtual address, with its page's size. -/
def State.walk (s : State) (x va : Nat) : Option (Nat × Nat) :=
  let root := (s.ctx x).ptb
  if root = 0 then none
  else
    let e3 := s.entryAt (root + 8 * bits va 47 39)
    if !tableEntry e3 then none
    else
      let e2 := s.entryAt (entryAddr e3 + 8 * bits va 38 30)
      if !tableEntry e2 then none
      else
        let e1 := s.entryAt (entryAddr e2 + 8 * bits va 29 21)
        if bit e1 1 then (if s.leafEntry e1 (2 ^ 21) then some (e1, 2 ^ 21) else none)
        else if !tableEntry e1 then none
        else
          let e0 := s.entryAt (entryAddr e1 + 8 * bits va 20 16)
          if s.leafEntry e0 65536 then some (e0, 65536) else none

/-- Addresses of the entries of a table that hold a byte other than 0. -/
def State.tableCells (s : State) (table size : Nat) : List Nat :=
  ((s.mem.filter fun e => decide (table ≤ e.1) && decide (e.1 < table + size)).map fun e => e.1 / 8 * 8).eraseDups

/-- The leaves under a table at a level, for addresses from `va` on: virtual base, page size, entry. -/
def State.leaves (s : State) (table va : Nat) : Nat → List (Nat × Nat × Nat)
  | 0 => (s.tableCells table 256).filterMap fun a =>
      let e := s.entryAt a
      if s.leafEntry e 65536 then some (va + (a - table) / 8 * 65536, 65536, e) else none
  | n + 1 => (s.tableCells table 4096).flatMap fun a =>
      let e := s.entryAt a
      let at' := va + (a - table) / 8 * 2 ^ (21 + 9 * n)
      if n = 0 && bit e 1 then (if s.leafEntry e (2 ^ 21) then [(at', 2 ^ 21, e)] else [])
      else if tableEntry e then s.leaves (entryAddr e) at' n
      else []

/-- The leaves of a created context's tables. -/
def State.leavesOf (s : State) (x : Nat) : List (Nat × Nat × Nat) :=
  if (s.ctx x).ptb = 0 then [] else s.leaves (s.ctx x).ptb 0 3

/-- The leaves of every created context that map device memory: entry, page size. -/
def State.deviceLeaves (s : State) : List (Nat × Nat) :=
  s.ctxs.flatMap fun e => ((s.leavesOf e.1).filter fun l => !bit l.2.2 5).map fun l => (l.2.2, l.2.1)

/-- A page lookup: the table's entry, or one that differs from it and that the table has held, or a cache holds, since the last
invalidation; unspecified per lookup (R357). -/
def State.lookup (s : State) (x va : Nat) : Option (Nat × Nat) :=
  let w := s.walk x va
  let cached := (s.ctx x).xlat.filterMap fun e =>
    if e.1 ≤ va ∧ va < e.1 + e.2.1 then some (some (e.2.2.toNat, e.2.1)) else none
  let former := s.former.filterMap fun e =>
    if e.1 = x ∧ e.2.1 ≤ va ∧ va < e.2.1 + e.2.2.1 then some (if e.2.2.2 = 0 then none else some (e.2.2.2, e.2.2.1)) else none
  let old := (cached ++ former).filter (· != w)
  if old.isEmpty then w
  else (old[(Config.freeWord (s.fresh + va)).toNat % (old.length + 1)]?).getD w

/-- The leaves of a context that a change of memory has replaced, and for each base page that a new leaf maps and none did before, an
entry 0. -/
def formerLeaves (x : Nat) (old new : List (Nat × Nat × Nat)) : List (Nat × Nat × Nat × Nat) :=
  ((old.filter fun l => !new.contains l).map fun l => (x, l)) ++
    (new.filter fun l => !old.contains l).flatMap fun l => (List.range (l.2.1 / 65536)).filterMap fun i =>
      let va := l.1 + 65536 * i
      if old.any fun k => decide (k.1 ≤ va) && decide (va < k.1 + k.2.1) then none else some (x, va, 65536, 0)

/-- The translations that lookups of some addresses give: virtual base, page size, entry. -/
def State.found (s : State) (x : Nat) (addrs : List (Nat × Nat)) : List (Nat × Nat × DWord) :=
  (addrs.filterMap fun e => (s.lookup x e.2).map fun f => (e.2 / f.2 * f.2, f.2, BitVec.ofNat 64 f.1)).eraseDups

/-- Translations that accesses used are cached (R357). -/
def State.keepXlat (s : State) (x : Nat) (found : List (Nat × Nat × DWord)) : State :=
  let k := s.ctx x
  let new := found.filter fun e => !k.xlat.contains e
  if new.isEmpty then s else s.setCtx x { k with xlat := new ++ k.xlat }

/-- Where an address lies through a leaf. -/
def locOf (e size va : Nat) : Loc :=
  let a := entryAddr e + va % size
  if bit e 5 then .host a else .dev a (bit e 4) (bit e 7) (bit e 6)

/-- A host physical address lies in one of the owning function's host ranges (R354, R360). -/
def State.inHostRange (s : State) (x pa : Nat) : Bool :=
  match s.owner x with
  | none => false
  | some (fn, _) => (List.range 4).any fun i =>
    let b := ((Table.get s.pf.hmRange (2 * (4 * fn + i))).getD 0).toNat / 65536
    let l := ((Table.get s.pf.hmRange (2 * (4 * fn + i) + 1)).getD 0).toNat / 65536
    decide (b ≤ pa / 65536) && decide (pa / 65536 ≤ l)

/-- The enabled region that holds a device address, the lowest entry of several (R373, R375). -/
def State.regionOf (s : State) (da : Nat) : Option Nat :=
  (s.meter.regions.find? fun e => e.2.en && decide (e.2.base ≤ pageOf da) && decide (pageOf da ≤ e.2.limit)).map (·.1)

/-! ### Access checks (R160 rows 5 and 6) -/

/-- What an access means to do: the kind of R294, writing, reading code, and reading for a metered copy (R374). -/
structure Intent where
  kind : Nat
  write : Bool
  code : Bool
  metered : Bool
  deriving DecidableEq, Repr

def Intent.load : Intent := ⟨0, false, false, false⟩
def Intent.store : Intent := ⟨1, true, false, false⟩
def Intent.trans : Intent := ⟨2, false, false, false⟩
def Intent.other : Intent := ⟨3, false, false, false⟩
/-- An atomic that writes: access kind other (R294). -/
def Intent.atomic : Intent := ⟨3, true, false, false⟩
def Intent.fetch : Intent := ⟨3, false, true, false⟩

inductive Look where
  /-- Trap 0x04 with this h4. -/
  | fault (aux : Word)
  /-- The page is remote or migrating. -/
  | away (page : Nat)
  /-- Trap 0x05: the page is marked short (R383). -/
  | short (page : Nat)
  | found (loc : Loc)
  deriving DecidableEq, Repr

def permBit : Word := 8

/-- The fault address of a translation fault at an address: the page's for a failed migration (R191, R324). -/
def failVa (aux : Word) (va : Nat) : DWord := BitVec.ofNat 64 (if aux.getLsbD 4 then va / 65536 * 65536 else va)

/-- Granules that the blocks of a page hold, or held when it left HBM (R189, R267). -/
def State.pageGranules (s : State) (pg : Nat) : Nat :=
  (List.range 128).foldl (fun n i => n + (s.block (128 * pg + i)).slots + (s.block (128 * pg + i)).head) 0

/-- The check of one global address.  A page that bears both the mark of a failed migration and that of a short one raises trap 0x04 and
keeps the second (log 82). -/
def State.check (s : State) (x : Nat) (i : Intent) (va : Nat) : Look :=
  let k := BitVec.ofNat 32 i.kind
  if 2 ^ 48 ≤ va then .fault (k ||| 4)
  else
    match s.lookup x va with
    | none => .fault k
    | some (e, size) =>
      if (i.write && !bit e 2) || (i.code && !bit e 3) then .fault (k ||| permBit)
      else
        match locOf e size va with
        | .host pa => if s.inHostRange x pa && !bit e 8 then .found (.host pa) else .fault (k ||| permBit)
        | .dev da swm uc hw =>
          if s.limit (homeDie da) ≤ da % 2 ^ 40 then .fault k
          else if bit e 8 && !(i.metered && (s.regionOf da).isSome) then .fault (k ||| permBit)
          else
            let p := s.page (pageOf da)
            if p.state != .remote && p.state != .migrating then .found (.dev da swm uc hw)
            else if p.failed then .fault (k ||| 16)
            else if p.short then .short (pageOf da)
            else .away (pageOf da)

/-- Migrations that a die's fault unit runs (R267). -/
def State.migrating (s : State) (d : Nat) : Nat :=
  (s.pages.filter fun e => e.2.state == .migrating && homeDie (65536 * e.1) == d).length

/-- A migration of a remote page into HBM starts, or waits while 32 are in progress; a page has at most one (R191, R267). -/
def State.startMigration (s : State) (x pg : Nat) : State :=
  let p := s.page pg
  match p.state with
  | .remote =>
    if p.queued.isSome then s
    else if s.migrating (homeDie (65536 * pg)) < 32 then s.setPage pg { p with state := .migrating, toTier := false, ctx := x }
    else s.number.2.setPage pg { p with queued := some s.number.1, toTier := false, ctx := x }
  | _ => s

/-! ### Lines and blocks -/

/-- A line held by a die's L2. -/
def State.line (s : State) (d l : Nat) : Option L2Line := Table.get (s.die d).l2 l
def State.setLine (s : State) (d l : Nat) (k : L2Line) : State :=
  s.setDie d { s.die d with l2 := Table.put (s.die d).l2 l k }
def State.dropLine (s : State) (d l : Nat) : State :=
  s.setDie d { s.die d with l2 := Table.drop (s.die d).l2 l }

/-- A line of the block is dirty in an L2. -/
def State.blockDirty (s : State) (b : Nat) : Bool :=
  (List.range 2).any fun d => (List.range 4).any fun i =>
    match s.line d (4 * b + i) with
    | some k => !k.dirty.isEmpty
    | none => false

/-- An L2 fill from a resident page, or a writeback to it, sets its reference bit (R358). -/
def State.refer (s : State) (pg : Nat) : State :=
  if (s.page pg).state = .resident then s.setPage pg { s.page pg with ref := true } else s

/-- A read of a home line at L2: where the L2 does not hold it, as may be the case for every clean line, it is filled from the
page (R358; log 18). -/
def State.fillHome (s : State) (da : Nat) : State :=
  let p := s.page (pageOf da)
  if (s.line (homeDie da) (lineOf da)).isNone && p.state = .resident then
    s.setPage (pageOf da) { p with ref := p.ref || Config.freeBit (s.fresh * 2 ^ 20 + da % 2 ^ 19) }
  else s

/-- An SWM line missing from a die's L2 is fetched from the home copy (R246). -/
def State.fillSwm (s : State) (d l : Nat) : State :=
  match s.line d l with
  | some _ => s
  | none => (s.setLine d l ⟨true, false, Memory.readList s.mem (128 * l) 128, [], []⟩).refer (l / 512)

/-- The SWM, HW, UC and MET bits with which mappings name a page of device memory (R355): those of every context's tables, and
translations that a cache still holds (log 64). -/
def State.mappingsOf (s : State) (pg : Nat) : List Nat :=
  (s.deviceLeaves ++ s.ctxs.flatMap fun e => e.2.xlat.map fun k => (k.2.2.toNat, k.2.1)).filterMap fun k =>
    let leaf := k.1
    let base := pageOf (entryAddr leaf)
    if !bit leaf 5 && decide (base ≤ pg) && decide (pg < base + k.2 / 65536) then
      some ((bit leaf 4).toNat + (bit leaf 6).toNat * 2 + (bit leaf 7).toNat * 4 + (bit leaf 8).toNat * 8)
    else none

/-- Two mappings of the page differ: accesses through either return unspecified values (R355). -/
def State.mixed (s : State) (pg : Nat) : Bool :=
  match s.mappingsOf pg with
  | [] => false
  | a :: rest => rest.any (· != a)

/-- The bytes that the location holds, as an agent of a die reads it at L2. -/
def State.bytesAt (s : State) (d : Nat) (loc : Loc) (n : Nat) : List Byte :=
  match loc with
  | .host pa => Memory.readList s.hostMem pa n
  | .dev da swm _ _ =>
    match (if swm then s.line d (lineOf da) else none) with
    | some k => (k.data.drop (da % 128)).take n
    | none => Memory.readList s.mem da n

/-- `n` free bytes: contents or a result that the spec leaves undefined (log 3). -/
def freeBytes (key n : Nat) : List Byte := (List.range n).map fun i => (Config.freeWord (key + i)).setWidth 8

/-- The bytes that a read of a run returns: those of the location, or unspecified ones where two mappings of its page
differ (R355). -/
def State.readLoc (s : State) (d : Nat) (loc : Loc) (n : Nat) : List Byte :=
  match loc with
  | .dev da _ _ _ => if s.mixed (pageOf da) then freeBytes (s.fresh * 2 ^ 20 + da % 2 ^ 19) n else s.bytesAt d loc n
  | .host _ => s.bytesAt d loc n

/-- The key of a location's line: device lines by number, host lines beyond them. -/
def Loc.lineKey : Loc → Nat
  | .dev da _ _ _ => lineOf da
  | .host pa => 2 ^ 34 + pa / 128

/-- The byte offset of a location in its line. -/
def Loc.offset : Loc → Nat
  | .dev da _ _ _ => da % 128
  | .host pa => pa % 128

/-- The line of a location. -/
def Loc.line : Loc → Loc
  | .dev da swm uc hw => .dev (da / 128 * 128) swm uc hw
  | .host pa => .host (pa / 128 * 128)

/-- The location `n` bytes on. -/
def Loc.plus : Loc → Nat → Loc
  | .dev da swm uc hw, n => .dev (da + n) swm uc hw
  | .host pa, n => .host (pa + n)

/-- The context that holds a location's page, and 0 for none: 1 + its number (R7, R186). -/
def State.ownerTag (s : State) (loc : Loc) : Nat :=
  match loc with
  | .host _ => 0
  | .dev da _ _ _ => if (s.page (pageOf da)).state = .unbacked then 0 else (s.page (pageOf da)).ctx + 1

/-- The contents that the cached lines of a set have on each die are kept, before or after they change, with the context that
holds the page (R7, R162, R245). -/
def State.keepPast (s : State) (keys : List Nat) : State :=
  let held := (s.cores.flatMap fun e => e.2.l1.map fun l => (dieOf e.1, l.loc)).eraseDups.filter fun e => keys.contains e.2.lineKey
  { s with past := held.map (fun e => (e.1, e.2.lineKey, s.ownerTag e.2, s.bytesAt e.1 e.2 128)) ++ s.past }

/-- The die at whose L2 a die reads a line of a page: its own where it holds an SWM page's line or a replica, else the home die. -/
def State.servedBy (s : State) (d da : Nat) (swm : Bool) : Nat :=
  if swm then d else match s.line d (lineOf da) with
    | some k => if k.replica then d else homeDie da
    | none => homeDie da

/-- The run lies in a block that holds a poisoned granule, or in a line under its poison mark in the L2 at which the die reads it
(R161, R367). -/
def State.poisonedLoc (s : State) (d : Nat) (loc : Loc) : Bool :=
  match loc with
  | .host _ => false
  | .dev da swm _ _ => (s.block (blockOf da)).poison || (match s.line (s.servedBy d da swm) (lineOf da) with
    | some k => !k.bad.isEmpty
    | none => false)

/-- A block poisoned by a granule of its stored copy, or, 16, by its descriptor or a word of a line (R367). -/
def Block.spoil (k : Block) (i : Nat) : Block := { k with poison := true, bads := (i :: k.bads).eraseDups }

/-- Granules of a block's stored copy written whole: the codeword there is gone (R368). -/
def Block.heal (k : Block) (gone : List Nat) : Block :=
  let bads := if (List.range 16).all gone.contains then [] else k.bads.filter fun i => !gone.contains i
  { k with bads := bads, poison := k.poison && !bads.isEmpty }

/-! ### Errors of device memory (R8, R161, R367, R370) -/

/-- The L2 slice of a device address within its die (R12). -/
def sliceOf (da : Nat) : Nat :=
  (BitVec.ofNat 7 (bits da 13 7) ^^^ BitVec.ofNat 7 (bits da 20 14) ^^^ BitVec.ofNat 7 (bits da 27 21) ^^^
    BitVec.ofNat 7 (bits da 34 28) ^^^ BitVec.ofNat 7 (bits da 39 35)).toNat

/-- The HBM stack that a slice's granules lie in (R8). -/
def stackOf (da : Nat) : Nat := 4 * homeDie da + bits (sliceOf da) 6 5

/-- One granule counted for a stack: corrected, or uncorrectable, saturating (R370). -/
def State.countGranule (s : State) (stack : Nat) (bad : Bool) : State :=
  let c := (Table.get s.ras.ceue stack).getD (0, 0)
  let up := fun n => min (n + 1) 0xFFFFFFFF
  { s with ras := { s.ras with ceue := Table.put s.ras.ceue stack (if bad then (c.1, up c.2) else (up c.1, c.2)) } }

/-- Where a granule lies, as the RAS log gives it (R371): a pseudo-channel of its slice (R8); which of the twelve, and its
bank, row and place, are free (log 26). -/
def granuleDetail (da : Nat) (scrub : Bool) : Nat :=
  (12 * (sliceOf da % 32) + (Config.sensor 1 (da / 32)).toNat % 12) * 2 ^ 35 +
    ((Config.sensor 2 (da / 32)).toNat * 4 + (Config.sensor 1 (da / 32)).toNat / 2 ^ 30) * 2 + scrub.toNat

/-- A granule found uncorrectable by a scrub or a demand read: it takes the poison codeword, its block reads as poisoned,
and the find is logged (R161, R367). -/
def State.poisonGranule (s : State) (g : Nat) (scrub : Bool) : State :=
  let s := if g % 16 < (s.block (g / 16)).slots then s.setBlock (g / 16) ((s.block (g / 16)).spoil (g % 16)) else s
  let s := { s with ras := { s.ras with latent := s.ras.latent.filter (· != g) } }
  (s.countGranule (stackOf (32 * g)) true).rasLog 0x02 (0xA00 + stackOf (32 * g)) (granuleDetail (32 * g) scrub)

/-- The number of a granule of a die's descriptor carve-out; granule j holds the 8-byte descriptors of blocks 4 j to 4 j + 3 (R14,
R367). -/
def carveGranule (die j : Nat) : Nat := 2 ^ 36 + die * 2 ^ 30 + j

/-- A stack of a die that holds a granule of its descriptor carve-out, and where: which is free (R14; log 26). -/
def carveStack (die j : Nat) : Nat := 4 * die + (Config.sensor 3 (2 ^ 36 + 2 * j + die)).toNat % 4
def carveDetail (die j : Nat) (scrub : Bool) : Nat :=
  (Config.sensor 1 (2 ^ 36 + 2 * j + die)).toNat % 384 * 2 ^ 35 + ((Config.sensor 2 (2 ^ 36 + 2 * j + die)).toNat * 4 +
    (Config.sensor 4 (2 ^ 36 + 2 * j + die)).toNat % 4) * 2 + scrub.toNat

/-- A granule of the carve-out found uncorrectable: a poisoned descriptor poisons its block, and the find is logged (R367). -/
def State.poisonCarve (s : State) (die j : Nat) (scrub : Bool) : State :=
  let s := (List.range 4).foldl (fun (s : State) i =>
    let b := die * 2 ^ 31 + 4 * j + i
    s.setBlock b ((s.block b).spoil 16)) s
  let s := { s with ras := { s.ras with latent := s.ras.latent.filter (· != carveGranule die j) } }
  (s.countGranule (carveStack die j) true).rasLog 0x02 (0xA00 + carveStack die j) (carveDetail die j scrub)

/-- A demand read of the block of a location meets the granule of its descriptor and those of its stored copy that no correction
mends. -/
def State.demand (s : State) (loc : Loc) : State :=
  match loc with
  | .host _ => s
  | .dev da _ _ _ =>
    let b := blockOf da
    let s := if s.ras.latent.contains (carveGranule (b / 2 ^ 31) (b % 2 ^ 31 / 4)) then s.poisonCarve (b / 2 ^ 31) (b % 2 ^ 31 / 4) false else s
    (s.ras.latent.filter fun g => g / 16 == b && decide (g % 16 < (s.block b).slots)).foldl
      (fun s g => s.poisonGranule g false) s

/-- The entries that a walk reads (R352). -/
def State.walkCells (s : State) (x va : Nat) : List Nat :=
  let a3 := (s.ctx x).ptb + 8 * bits va 47 39
  let a2 := entryAddr (s.entryAt a3) + 8 * bits va 38 30
  let a1 := entryAddr (s.entryAt a2) + 8 * bits va 29 21
  a3 :: (if tableEntry (s.entryAt a3) then a2 :: (if tableEntry (s.entryAt a2) then a1 ::
    (if tableEntry (s.entryAt a1) then [entryAddr (s.entryAt a1) + 8 * bits va 20 16] else []) else []) else [])

/-- An atomic's access at L2: a line of an SWM page is held there, and one of a COH page at its home (R246, R358). -/
def State.touch (s : State) (d : Nat) (loc : Loc) : State :=
  match loc with
  | .host _ => s
  | .dev da swm _ _ =>
    if swm then s.fillSwm d (lineOf da) else s.fillHome da

/-- A read of a COH page's line performed at its home slice for a die: from the non-home die it counts, and may make the page
replicated (R268, R269). -/
def State.readHome (s : State) (d da : Nat) (uc : Bool) : State :=
  let s := s.fillHome da
  if homeDie da = d then s
  else
    let p := s.page (pageOf da)
    let r := min 63 (p.reads + 1)
    s.setPage (pageOf da) { p with reads := r, replicated := !uc && (p.replicated || (decide (32 ≤ r) && decide (p.writes ≤ 2))) }

/-- What a read leaves behind at L2: a line of an SWM page is held; a read from the non-home die of a COH page hits its replica there,
or is performed at the home slice and, of a replicated page, fills a replica with the home line's poison marks (R246, R268, R269,
R367). -/
def State.noteRead (s : State) (d : Nat) (loc : Loc) : State :=
  match loc with
  | .host _ => s
  | .dev da swm uc _ =>
    if swm then s.fillSwm d (lineOf da)
    else if homeDie da = d then s.readHome d da uc
    else
      match s.line d (lineOf da) with
      | some _ => s
      | none =>
        if (s.page (pageOf da)).replicated && !uc then
          (s.readHome d da uc).setLine d (lineOf da)
            ⟨false, true, [], [], ((s.line (homeDie da) (lineOf da)).map (·.bad)).getD []⟩
        else s.readHome d da uc

/-- A read performed at the home slice, whatever the reading die's L2 holds: an ATOM.LD's (R169, R268). -/
def State.readAtHome (s : State) (d : Nat) (loc : Loc) : State :=
  match loc with
  | .dev da false uc _ => s.readHome d da uc
  | _ => s.noteRead d loc

/-- One line read by an agent of a die that keeps no L1 line of it: bad granules are found, and the read counts (R268, R367). -/
def State.readAt (s : State) (d : Nat) (loc : Loc) : State := (s.demand loc).noteRead d loc

/-- A walk reads its entries (R352). -/
def State.walkDemand (s : State) (d x va : Nat) : State :=
  (s.walkCells x va).foldl (fun s a => s.readAt d (.dev a false false false)) s

/-- The walks of some addresses, one for each page: none where a cache holds the translation (whether it still does is free, log 18). -/
def State.walkAll (s : State) (d x : Nat) (addrs : List (Nat × Nat)) : State :=
  let held := fun (va : Nat) => ((s.found x [(0, va)]).all fun e => (s.ctx x).xlat.contains e) && Config.freeBit (s.fresh * 2 ^ 20 + va % 2 ^ 19)
  ((addrs.map fun e => e.2 / 65536 * 65536).eraseDups.filter fun va => !held va).foldl (fun s va => s.walkDemand d x va) s

/-- The translations of an access, which its lookups have given, are walked and enter the context's translation caches (R352,
R357). -/
def State.cacheAll (s : State) (d x : Nat) (addrs : List (Nat × Nat)) : State := (s.walkAll d x addrs).keepXlat x (s.found x addrs)

/-- A run of a context's addresses read line by line by an agent of a die that keeps no L1 line of it: a fetch of a header, a record, an
image (R268, R352, R367; log 79). -/
def State.readRun (s : State) (d x va n : Nat) : State :=
  (List.range ((va % 128 + n + 127) / 128)).foldl (fun (s : State) i =>
    let a := if i = 0 then va else va / 128 * 128 + 128 * i
    match s.check x Intent.other a with
    | .found loc => (s.cacheAll d x [(0, a)]).readAt d loc
    | _ => s) s

/-- What a write to a COH page does to its replicas and counters (R239, R268, R269). -/
def State.noteWrite (s : State) (da : Nat) : State :=
  let pg := pageOf da
  let p := s.page pg
  if p.replicated then
    let away := 1 - homeDie da
    let k := s.die away
    let s := s.setDie away { k with l2 := k.l2.filter fun e => !(e.2.replica && e.1 / 512 == pg) }
    s.setPage pg { p with replicated := false, reads := 0, writes := 1 }
  else s.setPage pg { p with writes := min 63 (p.writes + 1) }

/-- The page of a location is replicated: a write to it counts afresh and invalidates its replicas (R239, R269). -/
def State.replicatedAt (s : State) : Loc → Bool
  | .dev da _ _ _ => (s.page (pageOf da)).replicated
  | .host _ => false

/-- A write to a page holding packets of measured images marks those images (R382). -/
def State.noteImage (s : State) (da : Nat) : State :=
  { s with ctxs := s.ctxs.map fun e =>
      let hit := (e.2.measured.filter fun m => m.2.contains (pageOf da)).map (·.1)
      if hit.isEmpty then e else (e.1, { e.2 with unmeasured := (hit ++ e.2.unmeasured).eraseDups }) }

/-- A driver's command on a page ends: done, or refused for a reason (R358). -/
def State.commandPage (s : State) (pg why : Nat) : State :=
  (List.range 2).foldl (fun (s : State) d =>
    let k := s.die d
    if k.migPage = some pg then s.setDie d { k with migSt := if why = 0 then 2 else 3, migWhy := why, migPage := none }
    else s) s

/-- Granules that the blocks of a page hold in HBM (R172). -/
def State.heldGranules (s : State) (pg : Nat) : Nat :=
  let p := s.page pg
  if p.state = .remote ∨ (p.state = .migrating ∧ ¬ p.toTier) then 0 else s.pageGranules pg

/-- A page that becomes a host-window page of a context is backed whole, as class U, if its die has the granules; a migration of it
is over (R172, R356; log 12). -/
def State.windowPage (s : State) (x pg : Nat) : State :=
  let p := s.page pg
  let d := homeDie (65536 * pg)
  let need := 2048 - s.heldGranules pg
  if p.window || decide ((s.die d).free < need) then s
  else
    let s := s.setPage pg { p with
      window := true, state := .resident, queued := none, toTier := false, ctx := if p.state = .unbacked then x else p.ctx }
    let s := (List.range 128).foldl (fun (s : State) i =>
      s.setBlock (128 * pg + i) { s.block (128 * pg + i) with cls := 4, slots := 16, head := 0 }) s
    (s.setDie d { s.die d with free := (s.die d).free - need }).commandPage pg (if p.toTier then 1 else 0)

/-- A page that no mapping makes a host window any more is an ordinary page (R356). -/
def State.closeWindows (s : State) : State :=
  (s.pages.filter fun e => e.2.window && !((s.mappingsOf e.1).any fun m => m / 2 % 2 == 1)).foldl (fun (s : State) e =>
    s.setPage e.1 { s.page e.1 with window := false }) s

/-- The host-window pages of a context's leaves are backed (R356; log 12). -/
def State.backWindows (s : State) (x : Nat) (leaves : List (Nat × Nat × Nat)) : State :=
  (leaves.filter fun l => bit l.2.2 6 && !bit l.2.2 5).foldl (fun s l =>
    (List.range (l.2.1 / 65536)).foldl (fun s i => s.windowPage x (pageOf (entryAddr l.2.2) + i)) s) s

/-- A change of memory may be one of a context's tables: leaves that it has replaced are kept, new host-window pages are backed, and
pages that are host windows no more are closed (R356, R357). -/
def State.tableChange (s old : State) : State :=
  s.ctxs.foldl (fun t e =>
    if e.2.ptb = 0 then t
    else
      let before := old.leavesOf e.1
      let after := s.leavesOf e.1
      if before = after then t
      else
        { (t.backWindows e.1 (after.filter fun l => !before.contains l)).closeWindows with former := formerLeaves e.1 before after ++ t.former }) s

/-- Granules of a class U block's stored copy that a run covers whole are replaced (R368). -/
def State.healAt (s : State) (da n : Nat) : State :=
  let b := blockOf da
  let gone := (List.range 16).filter fun i => decide (da ≤ 512 * b + 32 * i) && decide (512 * b + 32 * i + 32 ≤ da + n)
  if gone.isEmpty then s
  else { s.setBlock b ((s.block b).heal gone) with
    ras := { s.ras with latent := s.ras.latent.filter fun g => !(g / 16 == b && gone.contains (g % 16)) } }

/-- Bytes stored at L2 by an agent of a die (R165, R239, R246, R356); `count` says whether they come with a line request
of their own (R268).  A line of a UC page is written through, and granules written whole hold no codeword any more (R368). -/
def State.storeLoc (s : State) (d : Nat) (loc : Loc) (bytes : List Byte) (count : Bool) : State :=
  match loc with
  | .host pa => { s with hostMem := Memory.writeList s.hostMem pa bytes }
  | .dev da swm uc hw =>
    let offs := (List.range bytes.length).map fun i => da % 128 + i
    let s := s.noteImage da
    let s := if hw then s.windowPage (s.page (pageOf da)).ctx (pageOf da) else s
    if swm then
      let s := s.fillSwm d (lineOf da)
      match s.line d (lineOf da) with
      | none => s
      | some k =>
        let data := k.data.zipIdx.map fun e => if offs.contains e.2 then bytes.getD (e.2 - da % 128) 0 else e.1
        s.setLine d (lineOf da) { k with
          data := data, dirty := (k.dirty ++ offs).eraseDups, bad := k.bad.filter fun o => !offs.contains o }
    else
      let s := if count then s.noteWrite da else s
      let s := { s with mem := Memory.writeList s.mem da bytes }
      if uc then s.healAt da bytes.length
      else
        let old := (s.line (homeDie da) (lineOf da)).getD ⟨false, false, [], [], []⟩
        s.setLine (homeDie da) (lineOf da)
          ⟨false, false, [], (old.dirty ++ offs).eraseDups, old.bad.filter fun o => !offs.contains o⟩

/-- The lines of a run. -/
def Loc.keys (loc : Loc) (n : Nat) : List Nat :=
  let off := loc.offset
  (List.range ((off + n + 127) / 128)).map (loc.lineKey + ·)

/-- Bytes written by an agent of a die, performed at L2; L1s that hold the line may give either value from here on. -/
def State.writeLoc (s : State) (d : Nat) (loc : Loc) (bytes : List Byte) : State :=
  ((s.storeLoc d loc bytes true).keepPast (loc.keys bytes.length)).tableChange s

/-- The lanes of a store written in lane order: each pass sends one request for each distinct line, which is one write of its
page (R165, R264, R268; log 79). -/
def State.writeLanes (s : State) (d : Nat) (lanes : List (Access × List Byte)) : State :=
  (lanes.foldl (fun (r : State × List (Nat × Loc)) e =>
    let q := (e.1.lane / 32, e.1.loc.line)
    ((r.1.storeLoc d e.1.loc e.2 (!r.2.contains q)).keepPast (e.1.loc.keys e.2.length), q :: r.2)) (s, [])).1.tableChange s

/-- A word written as poison: its block reads as poisoned, and the line keeps the mark (R219, R367). -/
def State.poisonLoc (s : State) (d : Nat) (loc : Loc) : State :=
  match loc with
  | .host _ => s
  | .dev da swm uc _ =>
    let s := s.setBlock (blockOf da) ((s.block (blockOf da)).spoil (if uc then da % 512 / 32 else 16))
    if uc then s
    else
      let h := if swm then d else homeDie da
      match s.line h (lineOf da) with
      | some k => s.setLine h (lineOf da) { k with bad := (k.bad ++ (List.range 4).map (da % 128 + ·)).eraseDups }
      | none => s

/-! ### Compression and the reserve (R172, R176, R177, R266) -/

/-- The reserve R of a die (R172). -/
def State.reserve (s : State) (d : Nat) : Int := ((s.die d).free : Int) - (s.die d).floor

def State.addFree (s : State) (d n : Nat) : State := s.setDie d { s.die d with free := (s.die d).free + n }
def State.takeFree (s : State) (d n : Nat) : State := s.setDie d { s.die d with free := (s.die d).free - n }

/-- The class and the slot granules of a block's 512 bytes (R266; the coder's size is free, log 6). -/
def sizeBlock (bytes : List Byte) : Nat × Nat :=
  if bytes.all (· == 0) then (0, 0)
  else if bytes.zipIdx.all fun e => e.1 == bytes.getD (e.2 % 4) 0 then (1, 0)
  else if bytes.zipIdx.all fun e => e.1 == bytes.getD (e.2 % 32) 0 then (2, 1)
  else
    let n := Config.coderSize bytes
    if 2 ≤ n ∧ n ≤ 15 then (3, n) else (4, 16)

/-- A page leaves the unbacked state when a block of it first holds headroom or a slot (R189). -/
def State.touchPage (s : State) (x pg : Nat) : State :=
  match (s.page pg).state with
  | .unbacked => s.setPage pg { s.page pg with state := .resident, ctx := x }
  | _ => s

/-- A write by a context gives the block of a location its first headroom: its page is the context's before the bytes are stored. -/
def State.touchLoc (s : State) (x : Nat) (loc : Loc) : State :=
  match loc with
  | .host _ => s
  | .dev da _ _ _ => s.touchPage x (pageOf da)

/-- What is left of the charge of 16 granules for a block of an operation (R174, R176). -/
def State.chargeLeft (s : State) (c id b : Nat) : Nat :=
  ((s.halves.find? fun e => e.1 == c && e.2.1 == id && e.2.2.1 == b).map (·.2.2.2)).getD 16

/-- The charge of a block of an operation that is performed in part; of none, with `n` none. -/
def State.keepCharge (s : State) (c id b : Nat) (n : Option Nat) : State :=
  let rest := s.halves.filter fun e => !(e.1 == c && e.2.1 == id && e.2.2.1 == b)
  { s with halves := match n with
    | some n => (c, id, b, n) :: rest
    | none => rest }

/-- The block is written back: sized, given its slot, the rest returned to free (R177, R368). -/
def State.sizeBlockAt (s : State) (b : Nat) (clean : Bool) : State :=
  let k := s.block b
  let r := if (s.page (b / 128)).window then (4, 16) else sizeBlock (Memory.readList s.mem (512 * b) 512)
  let held := k.slots + k.head
  let d := homeDie (512 * b)
  let slots := min r.2 (held + (s.die d).free)
  let s := s.setBlock b ⟨r.1, slots, 0, k.poison && !clean, if clean then [] else k.bads⟩
  let s := if slots = 0 then s else s.touchPage (s.page (b / 128)).ctx (b / 128)
  let s := if clean then { s with ras := { s.ras with latent := s.ras.latent.filter fun g => g / 16 != b } } else s
  (s.addFree d (held - slots)).takeFree d (slots - held)

/-- The device's own uncharged write of a run takes the headroom of its blocks from the die's free granules (R172;
log 34). -/
def State.roomFor (s : State) (x : Nat) (loc : Loc) (n : Nat) : State :=
  match loc with
  | .host _ => s
  | .dev da _ _ _ =>
    (List.range ((da % 512 + n + 511) / 512)).foldl (fun s i =>
      let b := blockOf da + i
      let k := s.block b
      if k.slots + k.head = 0 || (!s.blockDirty b && k.head = 0) then
        let more := min (16 - (k.slots + k.head)) (s.die (homeDie da)).free
        ((s.setBlock b { k with head := k.head + more }).takeFree (homeDie da) more).touchPage x (b / 128)
      else s) s

/-- A line's dirty bytes reach the home copy, its poison mark with those that bear it, and the line becomes clean (R177, R179, R246,
R367).  The second value
says whether all 128 bytes came from L2. -/
def State.cleanLine (s : State) (d l : Nat) : State :=
  match s.line d l with
  | none => s
  | some k =>
    if k.dirty.isEmpty then s
    else
      let mem := if k.swm then k.dirty.foldl (fun m o => Memory.write m (128 * l + o) (k.data.getD o 0)) s.mem else s.mem
      let gone := if k.swm then k.bad.filter k.dirty.contains else k.bad
      let s := if gone.isEmpty then s else s.setBlock (l / 4) ((s.block (l / 4)).spoil 16)
      (({ s with mem := mem }).setLine d l { k with dirty := [], bad := k.bad.filter fun o => !gone.contains o }).keepPast (if k.swm then [l] else [])

/-- Every byte of the block is dirty in L2 (R368). -/
def State.blockWhole (s : State) (b : Nat) : Bool :=
  (List.range 4).all fun i => (List.range 2).any fun d =>
    match s.line d (4 * b + i) with
    | some k => k.dirty.length == 128 && k.bad.isEmpty
    | none => false

/-- Some lines of a block written back; the block is sized once no line of it is dirty (R177), and where not every byte comes from L2
the stored copy is read (R367, R368). -/
def State.writeback (s : State) (b : Nat) (lines : List (Nat × Nat)) : State :=
  if !s.blockDirty b then s
  else
    let whole := s.blockWhole b
    let s := if whole then s else s.demand (.dev (512 * b) false false false)
    let s' := (lines.foldl (fun s e => s.cleanLine e.1 e.2) s).refer (b / 128)
    (if s'.blockDirty b then s' else s'.sizeBlockAt b whole).tableChange s

/-! ### Ladles (R173 to R176) -/

def State.ladle (s : State) (c x : Nat) : Option Ladle := (s.core c).ladles.find? fun l => l.ctx == x
def State.setLadle (s : State) (c : Nat) (l : Ladle) : State :=
  s.setCore c { s.core c with ladles := l :: ((s.core c).ladles.filter fun m => m.ctx != l.ctx) }

def Ladle.bal (l : Ladle) (d : Nat) : Nat := if d = 0 then l.bal0 else l.bal1
def Ladle.addBal (l : Ladle) (d : Nat) (n : Int) : Ladle :=
  if d = 0 then { l with bal0 := (l.bal0 + n).toNat } else { l with bal1 := (l.bal1 + n).toNat }
def Ladle.addTransit (l : Ladle) (d : Nat) (n : Int) : Ladle :=
  if d = 0 then { l with transit0 := (l.transit0 + n).toNat } else { l with transit1 := (l.transit1 + n).toNat }

/-- The ladles after a charge on each (R174): it is in transit until it is answered. -/
def Ladle.charged (l : Ladle) (n0 n1 : Nat) : Ladle :=
  { l with bal0 := l.bal0 - n0, bal1 := l.bal1 - n1, transit0 := l.transit0 + n0, transit1 := l.transit1 + n1 }

/-- What a crucible grants for a shortfall (R173 with 4,096, R175). -/
def grantOf (r : Int) (short : Nat) : Nat :=
  let big := 4096 * ((short + 4095) / 4096)
  let small := 16 * ((short + 15) / 16)
  if (big : Int) ≤ r then big else if (small : Int) ≤ r then small else 0

/-- The opening draw of one die (R173). -/
def drawOf (r : Int) : Nat := if 4096 ≤ r then 4096 else if 16 ≤ r then 16 * (r.toNat / 16) else 0

/-- A team of a context becomes resident on a core: the ladles are drawn, or kept ones continue (R173). -/
def State.drawLadles (s : State) (c x : Nat) : State :=
  match s.ladle c x with
  | some l => s.setLadle c { l with returning := false }
  | none =>
    let g0 := drawOf (s.reserve 0)
    let g1 := drawOf (s.reserve 1)
    ((s.takeFree 0 g0).takeFree 1 g1).setLadle c ⟨x, g0, g1, 0, 0, false⟩

/-- A balance above 8,192 returns to the crucible down to 8,192 (R173). -/
def State.excess (s : State) (c x d : Nat) : State :=
  match s.ladle c x with
  | none => s
  | some l =>
    if 8192 < l.bal d then (s.addFree d (l.bal d - 8192)).setLadle c (l.addBal d (8192 - (l.bal d : Int))) else s

/-- Refunds of one charged block of 16 granules reach the ladle that paid (R176). -/
def State.refund (s : State) (c x d n : Nat) : State :=
  match s.ladle c x with
  | none => s.addFree d n
  | some l => (s.setLadle c ((l.addBal d n).addTransit d (-16))).excess c x d

/-- Both ladles return once every charge has been answered and the core holds no team of the context (R173). -/
def State.returnLadle (s : State) (c x : Nat) : State :=
  match s.ladle c x with
  | none => s
  | some l =>
    if l.transit0 = 0 ∧ l.transit1 = 0 ∧ !((s.core c).teams.any fun t => t.2.ctx == x) then
      let s := (s.addFree 0 l.bal0).addFree 1 l.bal1
      s.setCore c { s.core c with ladles := (s.core c).ladles.filter fun m => m.ctx != x }
    else s.setLadle c { l with returning := true }

/-- The block a location lies in, with the die whose ladle pays; host memory is charged to die 0 (R174, R354). -/
def Loc.block : Loc → Nat × Nat
  | .dev da _ _ _ => (blockOf da, homeDie da)
  | .host pa => (2 ^ 32 + blockOf pa, 0)

/-- The charged blocks in the order of the lowest lane that touches each (R174). -/
def chargedBlocks (accs : List Access) : List Nat :=
  (accs.flatMap fun a => (List.range ((a.size + 511) / 512 + 1)).filterMap fun i =>
    let b := a.loc.block.1 + i
    let base := match a.loc with | .dev da _ _ _ => da | .host pa => 2 ^ 41 + pa
    if decide (512 * b < base + a.size) then some b else none).eraseDups

/-- The die whose ladle pays for a charged block. -/
def payDie (b : Nat) : Nat := if 2 ^ 32 ≤ b then 0 else homeDie (512 * b)

/-- Granules charged to a die. -/
def chargeOn (d : Nat) (blocks : List Nat) : Nat := 16 * (blocks.filter fun b => payDie b == d).length

/-- The first block, in order, at which the running total of 16 exceeds its die's balance (R175). -/
def firstUncovered (bal : Nat → Nat) : List Nat → Nat → Nat → Option Nat
  | [], _, _ => none
  | b :: rest, t0, t1 =>
    let d := payDie b
    let t := (if d = 0 then t0 else t1) + 16
    if bal d < t then some b else firstUncovered bal rest (if d = 0 then t else t0) (if d = 0 then t1 else t)

/-- The home slice's answer for one charged block of an operation, of which a part has been performed (R176): a newly dirty block
takes its headroom from the charge, and what is left is refunded once no part of the block is outstanding (`more`).  No block is
written back or surrendered between two parts of one operation (State.finishHalves), so headroom is taken once. -/
def State.answer (s : State) (c x id b : Nat) (wasDirty more : Bool) : State :=
  if 2 ^ 32 ≤ b then (if more then s else s.refund c x 0 16)
  else
    let left := s.chargeLeft c id b
    let k := s.block b
    let h := if !s.blockDirty b || wasDirty || k.head != 0 then 0 else 16 - k.slots
    let s := if h = 0 then s else (s.setBlock b { k with head := h }).touchPage x (b / 128)
    if more then s.keepCharge c id b (some (left - h)) else (s.keepCharge c id b none).refund c x (payDie b) (left - h)

/-! ### The read-only L1 (R162, R245) -/

/-- A line filled into a core's L1 for a context. -/
def State.fillL1 (s : State) (c x : Nat) (line : Loc) : State :=
  s.setCore c { s.core c with
    l1 := ⟨x, line, s.readLoc (dieOf c) line 128, s.past.length, s.ownerTag line, s.poisonedLoc (dieOf c) line⟩ ::
      ((s.core c).l1.filter fun l => !(l.ctx == x && l.loc == line)) }

/-- Contents kept under an owner may reach a line: they are of nobody, of the page's holder at the fill, or, where nobody held it
then, of the filling context (R7). -/
def L1Line.admits (l : L1Line) (tag : Nat) : Bool := tag == 0 || tag == l.tag || (l.tag == 0 && tag == l.ctx + 1)

/-- Contents that a line of an L1 has had since it was filled, among which a hit returns any (R162, R245); never another
context's (R7). -/
def State.since (s : State) (c : Nat) (l : L1Line) : List (List Byte) :=
  l.data :: (s.past.take (s.past.length - l.since)).filterMap fun e =>
    if e.1 = dieOf c ∧ e.2.1 = l.loc.lineKey ∧ l.admits e.2.2.1 then some e.2.2.2 else none

/-- A cached load of a context: a hit, if the L1 still holds a line that the context filled (whether it does is a free
choice, log 18), else the line is read and filled.  The first value says whether a request left the core (R264), the third whether the
data are poisoned: on a hit, as the line is, or as the location has become since. -/
def State.cachedRead (s : State) (c x : Nat) (loc : Loc) (n key : Nat) : Bool × List Byte × Bool × State :=
  let off := loc.offset
  match (if Config.freeBit key then (s.core c).l1.find? fun l => l.ctx == x && l.loc == loc.line else none) with
  | some l =>
    let vals := s.since c l
    (false, ((vals.getD ((Config.freeWord key).toNat % vals.length) l.data).drop off).take n,
      l.bad || (Config.freeBit (key + 100000) && s.poisonedLoc (dieOf c) loc), s)
  | none =>
    let s := s.demand loc
    (true, ((s.readLoc (dieOf c) loc.line 128).drop off).take n, s.poisonedLoc (dieOf c) loc, s.fillL1 c x loc.line)

/-! ### Scratchpads -/

/-- A byte of a cohort's region; unwritten bytes are undefined contents (R319; free, log 5). -/
def Cohort.byte (h : Cohort) (a : Nat) : Byte := (Table.get h.bytes a).getD (Config.scratchByte h.id a)

def Cohort.read (h : Cohort) (a n : Nat) : List Byte := (List.range n).map fun i => h.byte (a + i)
def Cohort.word (h : Cohort) (a : Nat) : Word := BitVec.ofNat 32 (leNat (h.read a 4))

/-- Bytes stored: the poison codeword of a whole overwritten word goes, and the unit's metering tag goes (R219, R220). -/
def Cohort.write (h : Cohort) (a : Nat) (bytes : List Byte) : Cohort :=
  let n := bytes.length
  { h with
    bytes := bytes.zipIdx.foldl (fun m e => Table.put m (a + e.2) e.1) h.bytes
    poison := h.poison.filter fun w => !(decide (a ≤ w) && decide (w + 4 ≤ a + n))
    tags := h.tags.filter fun t => !(decide (64 * t.1 < a + n) && decide (a < 64 * t.1 + 64) && decide (0 < n)) }

/-- A word of the range holds the poison codeword (R219). -/
def Cohort.poisoned (h : Cohort) (a n : Nat) : Bool :=
  h.poison.any fun w => decide (w < a + n) && decide (a < w + 4)

/-- The poison codeword written into one word. -/
def Cohort.setPoison (h : Cohort) (a : Nat) : Cohort := { h with poison := (a :: h.poison).eraseDups }

/-- 16 KiB units of the pool that a byte range of a region touches become dirty (R53). -/
def State.dirtyUnits (s : State) (c start n : Nat) : State :=
  let k := s.core c
  let us := (List.range (n / 16384 + 2)).map fun i => start / 16384 + i
  let us := us.filter fun u => decide (0 < n) && decide (16384 * u < start + n)
  s.setCore c { k with dirty := (k.dirty ++ us).eraseDups }

/-- Bytes stored into a cohort's region on a core. -/
def State.scratchWrite (s : State) (c id a : Nat) (bytes : List Byte) : State :=
  match s.cohort c id with
  | none => s
  | some h => (s.setCohort c (h.write a bytes)).dirtyUnits c (16384 * (s.core c).bndReg + h.base + a) bytes.length

/-- The race shadow's entry of a word (R301). -/
def Cohort.entry (h : Cohort) (w : Nat) : BitVec 16 := (Table.get h.shadow w).getD 0x00FF

/-- The words of a byte range. -/
def wordsOf (a n : Nat) : List Nat := (List.range (n / 4 + 2)).filterMap fun i =>
  let w := a / 4 + i
  if decide (4 * w < a + n) && decide (0 < n) then some w else none

/-- The access of generation g by (slot, index) to a word is a race (R301). -/
def racy (e : BitVec 16) (g slot idx : Nat) : Bool :=
  bits e.toNat 7 0 != 0xFF && bits e.toNat 15 12 == g % 16 && !(bits e.toNat 11 8 == slot && bits e.toNat 7 0 == idx)

def shadowEntry (g slot idx : Nat) : BitVec 16 := BitVec.ofNat 16 (g % 16 * 4096 + slot * 256 + idx)

end Sys2Proof.Machine
end

