-- ==== Sys2Proof/Machine/Transfer.lean ====
section
/-!
DEFINITION. Rows of the copy engine (R214, R215, R218 to R220): reading and writing a row or a word of one, in scratchpads and in
global memory.
-/

namespace Sys2Proof.Machine

/-- Bytes of a cohort's region with the words under poison. -/
def State.scratchRow (s : State) (side : Nat × Nat) (a n key : Nat) : List Byte × List Nat :=
  match s.cohort side.1 side.2 with
  | some h => (h.read a n, (List.range (n / 4)).filter fun i => h.poisoned (a + 4 * i) 4)
  | none => ((List.range n).map fun i => (Config.freeWord (key + i)).setWidth 8, [])

/-- A row stored into a region, its poisoned words marked. -/
def State.scratchPut (s : State) (side : Nat × Nat) (a : Nat) (bytes : List Byte) (bad : List Nat) : State :=
  let s := s.scratchWrite side.1 side.2 a bytes
  match s.cohort side.1 side.2 with
  | some h => s.setCohort side.1 (bad.foldl (fun (h : Cohort) i => h.setPoison (a + 4 * i)) h)
  | none => s

/-- One global row read at L2, a request for each line (R214, R268): bytes, poisoned words and the metered region of each
word. -/
def State.readRow (s : State) (c : Nat) (row : CopyRow) : (List Byte × List Nat × List (Option Nat)) × State :=
  row.global.foldl (fun (r : (List Byte × List Nat × List (Option Nat)) × State) a =>
    let s := r.2.readAt (dieOf c) a.loc
    let first := r.1.1.length / 4
    let words := List.range (a.size / 4)
    let region := match a.loc with
      | .dev da _ _ _ => s.regionOf da
      | .host _ => none
    ((r.1.1 ++ s.readLoc (dieOf c) a.loc a.size, r.1.2.1 ++ (if s.poisonedLoc (dieOf c) a.loc then words.map (first + ·) else []),
      r.1.2.2 ++ words.map fun _ => region), s)) (([], [], []), s)

/-- One piece of a row, within one line, written to global memory but for the words that `skip` names; word numbers count
from `first`, and `before` are those that the operation has written: the line's words are one write of its page (R268). -/
def State.writePiece (s : State) (c : Nat) (a : Access) (first : Nat) (bytes : List Byte) (bad skip before : List Nat) : State :=
  let all := List.range (a.size / 4)
  let words := all.filter fun i => !skip.contains (first + i)
  let more := all.any fun i => before.contains (first + i)
  let s := if words.length = a.size / 4 then s.writeLoc (dieOf c) a.loc bytes
    else ((words.foldl (fun (r : Bool × State) i =>
      (true, r.2.storeLoc (dieOf c) (a.loc.plus (4 * i)) ((bytes.drop (4 * i)).take 4) (!r.1 || r.2.replicatedAt a.loc))) (more, s)).2.keepPast
        (a.loc.keys a.size)).tableChange s
  (words.filter fun i => bad.contains (first + i)).foldl (fun (s : State) i => s.poisonLoc (dieOf c) (a.loc.plus (4 * i))) s

/-- One row written to global memory, but for the words that `skip` names. -/
def State.writeRow (s : State) (c : Nat) (row : CopyRow) (bytes : List Byte) (bad skip before : List Nat) : State :=
  (row.global.foldl (fun (r : Nat × State) a =>
    (r.1 + a.size, r.2.writePiece c a (r.1 / 4) ((bytes.drop r.1).take a.size) bad skip before)) (0, s)).2

/-- One row stored into a region, but for the words that `skip` names. -/
def State.putRow (s : State) (side : Nat × Nat) (a : Nat) (bytes : List Byte) (bad skip : List Nat) : State :=
  if skip.isEmpty then s.scratchPut side a bytes bad
  else ((List.range (bytes.length / 4)).filter fun i => !skip.contains i).foldl (fun s i =>
    s.scratchPut side (a + 4 * i) ((bytes.drop (4 * i)).take 4) (if bad.contains i then [0] else [])) s

/-- The metering tags of units that the words filled from one region make up whole (R220). -/
def Cohort.tagUnits (h : Cohort) (fills : List (Nat × Option Nat)) : Cohort :=
  let units := (fills.map fun e => e.1 / 64).eraseDups
  units.foldl (fun h u =>
    let mine := fills.filter fun e => e.1 / 64 == u
    let whole := (List.range 16).all fun i => mine.any fun e => e.1 == 64 * u + 4 * i
    match (mine.head?.bind (·.2)) with
    | some t => if whole && mine.all (fun e => e.2 == some t) then { h with tags := Table.put h.tags u t } else h
    | none => h) h

/-- Source and destination rows of an S2S share bytes (R215). -/
def copyOverlap (src dst : Nat × Nat) (rows : List CopyRow) : Bool :=
  src == dst && rows.any fun a => rows.any fun b => decide (a.scr < b.scr2 + b.len) && decide (b.scr2 < a.scr + a.len)

/-- The number of a word of a row among the words of its operation. -/
def copyKey (i j : Nat) : Nat := i * 2 ^ 20 + j

/-- What is read of a row now: bytes, poisoned words and the metered region of each word. -/
def State.copySource (s : State) (c : Nat) (kind : CopyKind) (src : Nat × Nat) (row : CopyRow) :
    (List Byte × List Nat × List (Option Nat)) × State :=
  let scratch := fun (_ : Unit) =>
    let q := s.scratchRow src row.scr row.len (s.fresh * 2 ^ 20)
    ((q.1, q.2, []), s)
  match kind with
  | .g2s => s.readRow c row
  | .gth => s.readRow c row
  | .fill value => (((List.range (row.len / 4)).flatMap fun _ => leBytes 4 value.toNat, [], []), s)
  | .s2g => scratch ()
  | .sct => scratch ()
  | .s2s => scratch ()

/-- A row with the words that the operation has read before now in their places (R218). -/
def Op.overlay (o : Op) (i : Nat) (bytes : List Byte) (bad : List Nat) : List Byte × List Nat :=
  o.got.foldl (fun r e =>
    let j := e.1 % 2 ^ 20
    if e.1 / 2 ^ 20 = i then
      (r.1.take (4 * j) ++ e.2.1 ++ r.1.drop (4 * j + 4), if e.2.2 then j :: r.2 else r.2.filter (· != j))
    else r) (bytes, bad)

def CopyKind.global : CopyKind → Bool
  | .s2g => true
  | .sct => true
  | _ => false

/-- The first byte of a row's scratchpad destination. -/
def CopyRow.target (row : CopyRow) : CopyKind → Nat
  | .s2s => row.scr2
  | _ => row.scr

/-- A row's bytes reach their destination, but for the words that are there already. -/
def State.copyPut (s : State) (c : Nat) (kind : CopyKind) (dst : Nat × Nat) (row : CopyRow) (bytes : List Byte)
    (bad skip before : List Nat) : State :=
  if kind.global then s.writeRow c row bytes bad skip before else s.putRow dst (row.target kind) bytes bad skip

/-- Words of a row that the operation has written before now. -/
def Op.putIn (o : Op) (i : Nat) : List Nat := (o.put.filter fun k => k / 2 ^ 20 == i).map (· % 2 ^ 20)

/-- The rows of a copy executed in order.  Where the source and the destination overlap, the destination holds undefined
contents (R215). -/
def State.copyRows (s : State) (c : Nat) (o : Op) (kind : CopyKind) (src dst : Nat × Nat) (rows : List CopyRow) : State :=
  let free := kind == .s2s && copyOverlap src dst rows
  let r := rows.zipIdx.foldl (fun (r : List (Nat × Option Nat) × State) e =>
    let q := r.2.copySource c kind src e.1
    let w := if free then (freeBytes (q.2.fresh * 2 ^ 20) e.1.len, []) else o.overlay e.2 q.1.1 q.1.2.1
    let s := if free then { q.2 with fresh := q.2.fresh + 2 } else q.2
    (r.1 ++ q.1.2.2.zipIdx.map fun k => (e.1.scr + 4 * k.2, k.1), s.copyPut c kind dst e.1 w.1 w.2 (o.putIn e.2) (o.putIn e.2))) ([], s)
  match r.2.cohort dst.1 dst.2 with
  | some h => if r.1.isEmpty then r.2 else r.2.setCohort dst.1 (h.tagUnits r.1)
  | none => r.2

/-- Where a word of a row's global side lies. -/
def CopyRow.globalWord (row : CopyRow) (j : Nat) : Option Loc :=
  (row.global.foldl (fun (r : Nat × Option Loc) a =>
    (r.1 + a.size, if r.1 ≤ 4 * j ∧ 4 * j < r.1 + a.size then some (a.loc.plus (4 * j - r.1)) else r.2)) (0, none)).2

/-- Where a word of a row is stored: a global location, or a byte address of the target region. -/
def CopyRow.place (row : CopyRow) (kind : CopyKind) (j : Nat) : Option Loc × Nat :=
  if kind.global then (row.globalWord j, 0) else (none, row.target kind + 4 * j)

/-- An earlier row's word of the same place is still to be written: it comes first (R215). -/
def Op.rowWaits (o : Op) (kind : CopyKind) (rows : List CopyRow) (i j : Nat) (row : CopyRow) : Bool :=
  (rows.take i).zipIdx.any fun e => (List.range (e.1.len / 4)).any fun k =>
    e.1.place kind k == row.place kind j && !o.put.contains (copyKey e.2 k)

/-- One word of a row read now, and with `put` written (R218), after the words of earlier rows that are stored in its place. -/
def State.copyWordPart (s : State) (c : Nat) (o : Op) (kind : CopyKind) (src dst : Nat × Nat) (rows : List CopyRow) (i j : Nat)
    (put : Bool) : Op × State :=
  match rows[i]? with
  | none => (o, s)
  | some row =>
    let k := copyKey i j
    if row.len ≤ 4 * j ∨ o.put.contains k ∨ (kind == .s2s && copyOverlap src dst rows) then (o, s)
    else
      let s := if kind.global then s else row.global.foldl (fun s a => s.demand a.loc) s
      let q := (s.copySource c kind src row).1
      let w := o.overlay i q.1 q.2.1
      let o := if o.got.any (·.1 == k) then o
        else { o with got := (k, (w.1.drop (4 * j)).take 4, w.2.contains j) :: o.got }
      if put && !o.rowWaits kind rows i j row then
        ({ o with put := k :: o.put },
          s.copyPut c kind dst row w.1 w.2 ((List.range (row.len / 4)).filter (· != j)) (o.putIn i))
      else (o, s)

/-- The global runs of rows. -/
def globalRuns (rows : List CopyRow) : List (Loc × Nat) := rows.flatMap fun r => r.global.map fun a => (a.loc, a.size)

/-- Words of a copy's rows whose global side satisfies a test: row and word. -/
def globalWords (rows : List CopyRow) (which : Loc → Bool) : List (Nat × Nat) :=
  rows.zipIdx.flatMap fun e => ((List.range (e.1.len / 4)).filter fun j => match e.1.globalWord j with
    | some l => which l
    | none => false).map fun j => (e.2, j)

/-- Words of a copy read now, and with `put` written, row by row. -/
def State.copyWords (s : State) (c : Nat) (o : Op) (which : Loc → Bool) (put : Bool) : Op × State :=
  match o.kind with
  | .copy _ kind src dst rows =>
    (globalWords rows which).foldl (fun r e => r.2.copyWordPart c r.1 kind src dst rows e.1 e.2 put) (o, s)
  | _ => (o, s)

end Sys2Proof.Machine
end

