-- ==== Sys2Proof/Machine/Inflight.lean ====
section
/-!
DEFINITION. The operations in flight of a core, what a load reads of a line (R161, R162, R264), the reads in flight that a write to
a replicated page serves first (R269), and the device's own writes.
-/

namespace Sys2Proof.Machine

/-! ### Operations of a core -/

/-- The team of a core, resident or evicted, with a number. -/
def State.teamUid (s : State) (c uid : Nat) : Option Team :=
  match (s.core c).teams.find? fun e => e.2.uid == uid with
  | some e => some e.2
  | none => ((s.core c).evicted.find? fun e => e.2.uid == uid).map (·.2)

def State.setUid (s : State) (c : Nat) (t : Team) : State :=
  let k := s.core c
  s.setCore c { k with
    teams := k.teams.map fun e => if e.2.uid = t.uid then (e.1, t) else e
    evicted := k.evicted.map fun e => if e.2.uid = t.uid then (e.1, t) else e }

def insertOp (e : Nat × Op) : List (Nat × Op) → List (Nat × Op)
  | [] => [e]
  | f :: rest => if e.2.id < f.2.id then e :: f :: rest else f :: insertOp e rest

/-- Every operation of a core's teams, in the order of issue. -/
def State.coreOps (s : State) (c : Nat) : List (Nat × Op) :=
  let k := s.core c
  ((k.teams ++ k.evicted).flatMap fun e => e.2.ops.map fun o => (e.2.uid, o)).foldr insertOp []

/-- The operation an event names, with its team. -/
def State.opAt (s : State) (c id : Nat) : Option (Team × Op) :=
  let k := s.core c
  (k.teams ++ k.evicted).findSome? fun e => (e.2.ops.find? fun o => o.id == id).map fun o => (e.2, o)

/-- The lane of a load has been read already. -/
def Op.has (o : Op) (lane : Nat) : Bool := o.got.any fun e => e.1 == lane

/-- Runs of lines that an operation not yet performed will access, in the order its words entered the core's port. -/
def Op.lineRuns (o : Op) : List (Nat × Nat) :=
  if o.done then []
  else match o.kind with
    | .load _ _ _ _ lanes => (lanes.filter fun a => !o.has a.lane).map fun a => (a.loc.lineKey, 1)
    | .store lanes => lanes.map fun a => (a.1.loc.lineKey, 1)
    | .atom _ _ _ none lanes => (lanes.filter (·.old.isNone)).map fun a => (a.loc.lineKey, 1)
    | .cwb runs _ => runs
    | .surrender _ pages _ => pages.map fun pg => (512 * pg, 512)
    | _ => []

/-- An operation that reads lines and changes none of them. -/
def Op.reads (o : Op) : Bool :=
  match o.kind with
  | .load _ _ _ _ _ => true
  | .atom op _ _ none _ => op == 12
  | _ => false

def meets (a b : List (Nat × Nat)) : Bool :=
  a.any fun p => b.any fun q => decide (p.1 < q.1 + q.2) && decide (q.1 < p.1 + p.2)

/-- A released write that the promotion cannot perform yet: a surrender of a page that migrates (R187, R244). -/
def State.promoteHeld (s : State) : Bool :=
  s.coreNumbers.any fun c => (s.coreOps c).any fun e => e.2.released && !e.2.done && (match e.2.kind with
    | .surrender _ pages _ => pages.any fun pg => (s.page pg).state == .migrating
    | _ => false)

/-! ### Lines read -/

/-- The context of a team in flight. -/
def State.ctxOf (s : State) (c uid : Nat) : Nat := ((s.teamUid c uid).map (·.ctx)).getD 0

/-- The sectors of a line that runs of bytes use: offset in the line, length (R264). -/
def sectorMask (runs : List (Nat × Nat)) : BitVec 4 :=
  BitVec.ofNat 4 ((List.range 4).foldl (fun n i =>
    if runs.any fun r => decide (r.1 < 32 * i + 32) && decide (32 * i < r.1 + r.2) then n + 2 ^ i else n) 0)

/-- What L2 returns of a line: the sectors that a request names (R264). -/
def maskedLine (mask : BitVec 4) (bytes : List Byte) : List Byte := bytes.zipIdx.map fun e => if mask.getLsbD (e.2 / 32) then e.1 else 0

/-- One line read by an agent of a core for a context: a load that misses the L1 fetches it whole, and one that bypasses the L1
the sectors that it uses (R161, R162, R264, R268); its bytes, and whether it is poisoned. -/
def State.readLine (s : State) (c x : Nat) (cached : Bool) (loc : Loc) (mask : BitVec 4) (key : Nat) : (List Byte × Bool) × State :=
  if cached then
    let r := s.cachedRead c x loc.line 128 key
    ((r.2.1, r.2.2.1), if r.1 then r.2.2.2.noteRead (dieOf c) loc else r.2.2.2)
  else
    let s := s.readAt (dieOf c) loc
    ((maskedLine mask (s.readLoc (dieOf c) loc.line 128), s.poisonedLoc (dieOf c) loc), s)

/-- Every lane of a load read, in lane order: one line request for every distinct line of a pass (R264). -/
def State.readLanes (s : State) (c x : Nat) (cached : Bool) (lanes : List Access) (key : Nat) :
    List (Nat × List Byte × Bool) × State :=
  let r := lanes.foldl (fun (r : List (Nat × List Byte × Bool) × List ((Nat × Loc) × List Byte × Bool) × State) a =>
    let q := (a.lane / 32, a.loc.line)
    let x : (List Byte × Bool) × List ((Nat × Loc) × List Byte × Bool) × State := match r.2.1.find? fun e => e.1 == q with
      | some e => (e.2, r.2.1, r.2.2)
      | none =>
        let mask := sectorMask ((lanes.filter fun b => (b.lane / 32, b.loc.line) == q).map fun b => (b.loc.offset, b.size))
        let l := r.2.2.readLine c x cached a.loc mask (key + a.lane)
        (l.1, (q, l.1) :: r.2.1, l.2)
    (r.1 ++ [(a.lane, (x.1.1.drop a.loc.offset).take a.size, x.1.2)], x.2)) ([], [], s)
  (r.1, r.2.2)

/-! ### Reads in flight from the other die (R269) -/

/-- The lanes of a load that lie in one line and belong to the passes up to one read now; the load keeps them until it is
performed. -/
def State.loadLine (s : State) (c uid : Nat) (o : Op) (line pass : Nat) : Op × State :=
  match o.kind with
  | .load _ _ _ cached lanes =>
    let r := s.readLanes c (s.ctxOf c uid) cached (lanes.filter fun a => a.loc.lineKey == line && decide (a.lane / 32 ≤ pass) && !o.has a.lane)
      (s.fresh * 2 ^ 20 + 900000)
    ({ o with got := o.got ++ r.1 }, { r.2 with fresh := r.2.fresh + 1 })
  | _ => (o, s)

/-- Lanes of an ATOM.LD read at the home slice, a request for each distinct line of a pass (R169, R264, R268). -/
def State.atomRead (s : State) (c : Nat) (o : Op) (which : AtomLane → Bool) : Op × State :=
  match o.kind with
  | .atom 12 d ret none lanes =>
    lanes.foldl (fun (r : Op × State) e =>
      if e.old.isSome || !which e then r
      else
        let now := match r.1.kind with | .atom _ _ _ _ l => l | _ => []
        let first := !(now.any fun q => q.old.isSome && q.lane / 32 == e.lane / 32 && q.loc.line == e.loc.line)
        let s := if first then (r.2.demand e.loc).readAtHome (dieOf c) e.loc else r.2
        let old := BitVec.ofNat 64 (leNat (s.readLoc (dieOf c) e.loc 4))
        ({ r.1 with kind := .atom 12 d ret none (now.map fun f => if f.lane = e.lane then { f with old := some old } else f) }, s)) (o, s)
  | _ => (o, s)

/-- An operation replaced in its team. -/
def Team.swapOp (t : Team) (uid : Nat) (o : Op) : Team :=
  if t.uid = uid then { t with ops := t.ops.map fun q => if q.id = o.id then o else q } else t
def State.swapOp (s : State) (c uid : Nat) (o : Op) : State :=
  let k := s.core c
  s.setCore c { k with
    teams := k.teams.map fun e => (e.1, e.2.swapOp uid o), evicted := k.evicted.map fun e => (e.1, e.2.swapOp uid o) }

/-- What an operation reads in flight of a line, read now: a load's lanes, an ATOM.LD's, words of the copy at the head of its queue
that it has asked for (which of them is free, log 44). -/
def State.readInFlight (s : State) (c uid : Nat) (o : Op) (line : Nat) : Op × State :=
  match o.kind with
  | .load _ _ _ _ _ => s.loadLine c uid o line 32
  | .atom 12 _ _ none _ => s.atomRead c o fun e => e.loc.lineKey == line
  | .copy _ kind _ _ _ =>
    if kind.global || o.done || !Config.freeBit (s.fresh * 2 ^ 20 + line % 2 ^ 19) then (o, s)
    else
      let r := s.copyWords c o (fun l => l.lineKey == line) false
      (r.1, { r.2 with fresh := r.2.fresh + 1 })
  | _ => (o, s)

/-- Before a write to a replicated page, the other die's reads in flight of the line read the value that it has. -/
def State.serveLine (s : State) (line : Nat) : State :=
  if !(s.page (line / 512)).replicated then s
  else
    (s.coreNumbers.filter fun c => dieOf c != homeDie (128 * line)).foldl (fun s c =>
      ((s.coreOps c).foldl (fun (r : List (Nat × Nat) × State) e =>
        let engine : Bool := match e.2.kind with | .copy _ _ _ _ _ => true | _ => false
        if engine || (!(meets r.1 [(line, 1)]) && meets e.2.lineRuns [(line, 1)] && e.2.reads) then
          let q := r.2.readInFlight c e.1 e.2 line
          (r.1, q.2.swapOp c e.1 q.1)
        else (r.1 ++ e.2.lineRuns, r.2)) ([], s)).2) s

def State.serveLines (s : State) (lines : List Nat) : State := lines.eraseDups.foldl State.serveLine s

/-! ### The device's own writes -/

/-- A device's own write of bytes for a context, performed at the home die (log 34). -/
def State.ownWrite (s : State) (x : Nat) (loc : Loc) (bytes : List Byte) : State :=
  ((s.roomFor x loc bytes.length).serveLines (loc.keys bytes.length)).writeLoc (match loc with | .dev da _ _ _ => homeDie da | .host _ => 0) loc bytes

end Sys2Proof.Machine
end

