-- ==== Sys2Proof/Machine/Ops.lean ====
section
/-!
DEFINITION. The named operations that the instructions share: the executing agent and its view, trace records
(R293 to R296), fetching a word (R61, R62, R345), taking an exception (R343 to R346) and returning from one
(R103, R345), the end of a team's lanes and the spine's values (R29, R40 to R44).
-/

namespace Sys2Proof.Machine

/-! ### The executing agent -/

/-- What a word executes in: the agent of the focus, its team and its path.  A runner is seen as a path whose
scalar registers are a0–a15 (R77). -/
structure View where
  core : Nat
  slot : Nat
  side : Bool
  run : Bool
  team : Team
  path : Path
  /-- The cycle at which the word issues. -/
  time : Nat
  /-- First number of the word's free choices (log 3). -/
  key : Nat
  /-- The pass of each slice, where it is not one cycle after the pass before (R21, R264), and the cycles that such a word
  holds its pipe. -/
  starts : List Nat
  cycles : Nat
  /-- The passes that the chain of the word takes, and from its first pass to its last the cycles (R63); 0 for a word alone. -/
  pace : List Nat
  span : Nat
  deriving DecidableEq, Repr

/-- A path at packet 0 with every register zero (R46, R50, R51). -/
def Path.fresh (mask : List Word) : Path where
  pid := 1
  pc := 0
  word := 0
  mask := mask
  s := List.replicate 64 0
  cond := [false, false, false, false]
  fpmode := 0
  fpflags := 0
  tick := none
  wroteS := []
  wroteC := []
  wroteMode := false
  poison := []
  lag := []
  nextAt := 0
  passesTo := 0
  ext := none
  chainAt := none
  pace := []
  held := 0
  span := 0
  joined := false
  bar := none
  before := []
  releaseOps := []
  acquireOps := []
  parked := none
  refill := none
  needs := (0, 0)
  answer := none
  spawned := []
  stall := 0
  passed := false
  lastCommand := none
  issuedAt := none
  exempt := false
  replay := false
  checked := false

/-- A runner's registers as a path (R232). -/
def Runner.asPath (r : Runner) : Path :=
  { Path.fresh [] with
    pc := r.pc, word := r.word, s := r.a, cond := r.cond, poison := r.poison, ext := r.ext, parked := r.parked, refill := r.refill,
    needs := r.needs, answer := r.answer, issuedAt := some r.issuedAt }

def Runner.ofPath (r : Runner) (p : Path) : Runner :=
  { r with
    pc := p.pc, word := p.word, a := p.s, cond := p.cond, poison := p.poison, ext := p.ext, parked := p.parked, refill := p.refill,
    needs := p.needs, answer := p.answer, issuedAt := p.issuedAt.getD r.issuedAt }

/-- The view of the agent that a focus names, if it is live. -/
def State.viewAt (s : State) (f : Focus) : Option View :=
  match s.team f.core f.slot with
  | none => none
  | some t =>
    if f.runner then
      if t.runner.running then some ⟨f.core, f.slot, false, true, t, t.runner.asPath, s.cycle f.core, s.fresh * 2 ^ 20, [], 0, [], 0⟩ else none
    else
      match t.at f.path with
      | none => none
      | some p => some ⟨f.core, f.slot, f.path, false, t, p, match p.chainAt with
          | some c => c
          | none => max (s.cycle f.core) p.nextAt, s.fresh * 2 ^ 20, [], 0, [], 0⟩

def State.view (s : State) : Option View := s.viewAt s.here

/-- The team's current form, as other effects may have left it. -/
def State.teamOf (s : State) (v : View) : Team := (s.team v.core v.slot).getD v.team

/-- The executing path's current form. -/
def State.pathOf (s : State) (v : View) : Path :=
  let t := s.teamOf v
  if v.run then t.runner.asPath else (t.at v.side).getD v.path

/-- The executing path replaced. -/
def State.putPath (s : State) (v : View) (p : Path) : State :=
  let t := s.teamOf v
  s.setTeam v.core v.slot (if v.run then { t with runner := t.runner.ofPath p } else t.setAt v.side (some p))

def State.modPath (s : State) (v : View) (f : Path → Path) : State := s.putPath v (f (s.pathOf v))
def State.modTeam (s : State) (v : View) (f : Team → Team) : State := s.setTeam v.core v.slot (f (s.teamOf v))

/-- What a word's own meaning comes to, once nothing holds or stops it beforehand. -/
inductive Effect where
  /-- The word is done; the path goes on at the next word. -/
  | done (s : State)
  /-- Control transfers to word 0 of a packet (R62). -/
  | jump (s : State) (pc : Nat)
  /-- The word has had no effect and traps. -/
  | trap (cause : BitVec 8) (fault : DWord) (aux : Word)
  /-- Trap 0x11 with the flags it raised (R51). -/
  | trapFp (flags : Nat)
  /-- The word waits, with a stall reason, and is issued again. -/
  | wait (s : State) (reason : Nat)
  /-- The path has ended, stopped or been placed by the word itself. -/
  | ended (s : State)

/-- A trap without fault address or auxiliary word. -/
def Effect.plain (cause : BitVec 8) : Effect := .trap cause 0 0

/-! ### Trace records -/

def coreSrc (c : Nat) : Nat := c
def schedSrc (d : Nat) : Nat := 0x900 + d
def faultSrc (d : Nat) : Nat := 0x910 + d
def crucibleSrc (d : Nat) : Nat := 0x920 + d

/-- A record of a kind for a context (R293, R295): written to the ring, or dropped and counted. -/
def State.trace (s : State) (x kind src team word : Nat) (path : Bool) (pc payload : Nat) : State :=
  let k := s.ctx x
  if !(k.trCtl.getLsbD 0 && k.trCtl.getLsbD kind) then s
  else
    let dropped := s.setCtx x { k with
      trDrop := if k.trDrop = 0xFFFFFFFF then k.trDrop else k.trDrop + 1, trLost := (src :: k.trLost).eraseDups }
    if k.trWr - k.trRd = k.trSize then dropped
    else
      let va := k.trBase.toNat + 32 * (k.trWr.toNat % k.trSize.toNat)
      match s.check x Intent.store va with
      | .found loc =>
        let lost := if k.trLost.contains src then 1 else 0
        let rec0 := s.tick.toNat + kind * 2 ^ 64 + lost * 2 ^ 72 + path.toNat * 2 ^ 73 + word * 2 ^ 74 +
          src * 2 ^ 80 + team * 2 ^ 92 + pc * 2 ^ 96 + payload * 2 ^ 128
        let s' := s.ownWrite x loc (leBytes 32 rec0)
        s'.setCtx x { s'.ctx x with trWr := k.trWr + 1, trLost := k.trLost.filter (· != src) }
      | _ => dropped

/-- A migration of a remote page into HBM starts, with its record (R191, R294). -/
def State.beginMigration (s : State) (x pg : Nat) : State :=
  match (s.page pg).state, ((s.startMigration x pg).page pg).state with
  | .remote, .migrating =>
    (s.startMigration x pg).trace x 6 (faultSrc (homeDie (65536 * pg))) 0 0 false 0 (65536 * pg * 2 ^ 32 + x * 2 ^ 96)
  | _, _ => s.startMigration x pg

/-- A record of a word of a team. -/
def State.traceWord (s : State) (c slot : Nat) (side : Bool) (kind payload : Nat) : State :=
  match s.team c slot with
  | none => s
  | some t =>
    let p := t.at side
    s.trace t.ctx kind (coreSrc c) slot ((p.map (·.word)).getD 0) side ((p.map (·.pc)).getD 0) payload

/-! ### Fetch -/

inductive Fetched where
  | word (w : Word)
  | trap (cause : BitVec 8) (fault : DWord) (aux : Word)
  | away (page va : Nat)
  deriving DecidableEq, Repr

/-- The code image that a path executes, with its code bytes: the team's, or the handler's (R345). -/
def codeOf (t : Team) (side run : Bool) : Nat × Nat :=
  match t.handler with
  | some h => if !run && h.path == side then (h.image, h.codesz) else (t.image, t.codesz)
  | none => (t.image, t.codesz)

/-- Word `w` of the packet at `pc`, at header + 64 + 12 pc + 4 w (R61, R62, R353, R382). -/
def State.fetch (s : State) (v : View) (pc w : Nat) : Fetched :=
  let img := codeOf v.team v.side v.run
  if img.2 / 12 ≤ pc then .trap 0x01 (BitVec.ofNat 64 pc) 0
  else
    let va := img.1 + 64 + 12 * pc + 4 * w
    match s.check v.team.ctx Intent.fetch va with
    | .fault aux => .trap 0x04 (failVa aux va) aux
    | .short _ => .trap 0x05 (BitVec.ofNat 64 (va / 65536 * 65536)) 0x80000000
    | .away pg => .away pg (va / 65536 * 65536)
    | .found loc =>
      if s.pf.attMap.getLsbD v.team.ctx && (s.ctx v.team.ctx).unmeasured.contains img.1 then .trap 0x13 0 0
      else .word (BitVec.ofNat 32 (leNat (s.readLoc (dieOf v.core) loc 4)))

/-! ### The spine (R40 to R44) -/

/-- A value published for an item of a launch, held in a cluster's spine buffer or in a spill-ring entry; a slot already
published keeps its value. -/
def Launch.publish (l : Launch) (item slot : Nat) (value : Word) (poison : Bool) (cluster : Nat) (ring : Option Nat) : Launch :=
  if l.spine.any fun e => e.item == item && e.slot == slot then l
  else { l with spine := ⟨item, slot, value, poison, cluster, ring⟩ :: l.spine }

/-- The item and every item that can read its values have exited: they are no longer kept (R40, R43). -/
def Launch.spent (l : Launch) (item : Nat) : Bool :=
  !l.live.contains item && decide (min (item + 17) l.rcd.nitems ≤ l.nextItem) && l.live.all fun m => decide (m ≤ item) || decide (item + 16 < m)

def Launch.prune (l : Launch) : Launch := { l with spine := l.spine.filter fun e => !l.spent e.item }

/-- Values in the spine buffer of a cluster (R43). -/
def State.spineHeld (s : State) (cluster : Nat) : Nat :=
  s.ctxs.foldl (fun n e => e.2.launches.foldl (fun n l =>
    n + (l.spine.filter fun v => v.cluster == cluster && v.ring.isNone).length) n) 0

/-- The lowest number that a list does not hold. -/
def lowestFree (used : List Nat) : Nat := ((List.range (used.length + 1)).find? fun i => !used.contains i).getD 0

/-- A spill-ring entry's 16 bytes (R43). -/
def SpineValue.bytes (e : SpineValue) : List Byte :=
  leBytes 16 (e.item % 2 ^ 32 + e.value.toNat * 2 ^ 32 + e.slot * 2 ^ 64 + 2 ^ 96 + e.poison.toNat * 2 ^ 97)

def Launch.ringAt (l : Launch) (i : Nat) : Nat := l.rcd.spill + 16 * i

/-- The declared slots. -/
def Launch.slots (l : Launch) : List Nat := (List.range 4).filter fun i => ((l.hdr.slots[i]?).map (·.declared)).getD false

def Launch.slotInfo (l : Launch) (i : Nat) : SpineSlot := (l.hdr.slots[i]?).getD ⟨false, 0, 0, 0⟩

/-- A run of a location lies in the part of a launch's spill ring that the device uses (R43). -/
def Launch.ringTouched (l : Launch) (s : State) (x : Nat) (runs : List (Loc × Nat)) : Bool :=
  let n := 16 * (l.slots.length * (16 * ((l.rcd.pw + 1) * (l.rcd.ph + 1)) + 16))
  let a := l.rcd.spill
  l.rcd.ordered && a != 0 && (List.range ((a % 65536 + n + 65535) / 65536)).any fun i =>
    let va := if i = 0 then a else a / 65536 * 65536 + 65536 * i
    let len := min (a + n) (a / 65536 * 65536 + 65536 * (i + 1)) - va
    match (s.lookup x va).map fun e => locOf e.1 e.2 va with
    | some (.dev da _ _ _) => runs.any fun r => match r.1 with
      | .dev db _ _ _ => decide (db < da + len) && decide (da < db + r.2)
      | .host _ => false
    | some (.host pa) => runs.any fun r => match r.1 with
      | .host pb => decide (pb < pa + len) && decide (pa < pb + r.2)
      | .dev _ _ _ _ => false
    | none => false

/-- A program's writes to the spill ring of a launch, which leave its later spine reads unspecified (R43). -/
def State.noteRing (s : State) (runs : List (Loc × Nat)) : State :=
  { s with ctxs := s.ctxs.map fun e => (e.1, { e.2 with
      launches := e.2.launches.map fun l => if l.ringTouched s e.1 runs then { l with ringHit := true } else l }) }

/-- Records of a context's trace ring that runs of bytes reach (R295). -/
def State.ringRecords (s : State) (x : Nat) (runs : List (Loc × Nat)) : List Loc :=
  let k := s.ctx x
  let n := 32 * min k.trWr.toNat k.trSize.toNat
  let a := k.trBase.toNat
  if n = 0 then []
  else (List.range ((a % 65536 + n + 65535) / 65536)).flatMap fun i =>
    let va := if i = 0 then a else a / 65536 * 65536 + 65536 * i
    let len := min (a + n) (a / 65536 * 65536 + 65536 * (i + 1)) - va
    match (s.lookup x va).map fun e => locOf e.1 e.2 va with
    | some loc => ((List.range (len / 32)).filter fun j => runs.any fun r => match loc, r.1 with
        | .dev da _ _ _, .dev db _ _ _ => decide (db < da + 32 * j + 32) && decide (da + 32 * j < db + r.2)
        | .host pa, .host pb => decide (pb < pa + 32 * j + 32) && decide (pa + 32 * j < pb + r.2)
        | _, _ => false).map fun j => loc.plus (32 * j)
    | none => []

/-- What a program's writes leave of the records of its context's trace ring that they reach: undefined contents (R295; free, log
3). -/
def State.tearTrace (s : State) (d x : Nat) (runs : List (Loc × Nat)) : State :=
  let locs := s.ringRecords x runs
  if locs.isEmpty then s
  else
    let s' := locs.zipIdx.foldl (fun (s : State) e =>
      (s.storeLoc d e.1 (freeBytes (s.fresh * 2 ^ 20 + 32 * e.2) 32) false).keepPast (e.1.keys 32)) s
    { s' with fresh := s'.fresh + 1 }

/-- One slot of an item published (R40, R43): into the cluster's spine buffer while it has room, else into the launch's
spill ring, whose entry is written in device memory (log 41). -/
def State.publish (s : State) (x : Nat) (l : Launch) (cluster item slot : Nat) (value : Word) (poison : Bool) : State :=
  let l := l.prune
  if l.spine.any fun e => e.item == item && e.slot == slot then s.setLaunch x l
  else if s.spineHeld cluster < 2048 then s.setLaunch x (l.publish item slot value poison cluster none)
  else
    let i := lowestFree (l.spine.filterMap (·.ring))
    let s := s.setLaunch x (l.publish item slot value poison cluster (some i))
    match s.check x Intent.store (l.ringAt i) with
    | .found loc => s.ownWrite x loc (SpineValue.bytes ⟨item, slot, value, poison, cluster, some i⟩)
    | _ => s

/-- Every slot that the item of a team on a core has not published is published from `value`, or poisoned. -/
def State.publishAll (s : State) (c : Nat) (t : Team) (value : Nat → Word) (poison : Bool) : State :=
  match s.launch t.ctx t.launch with
  | none => s
  | some l => l.slots.foldl (fun (s : State) i => match s.launch t.ctx t.launch with
    | none => s
    | some m =>
      if m.spine.any fun e => e.item == t.item.toNat && e.slot == i then s
      else s.publish t.ctx m (clusterOf c) t.item.toNat i (value (l.slotInfo i).reg) poison) s

/-! ### SFU results and the end of a path -/

/-- Vector registers that a team holds: its base block, and its extended block while it holds that (R30). -/
def Team.held (t : Team) : Nat := t.base + if t.extHeld then t.extn else 0

/-- Bytes of the register region that a team's frames take. -/
def Team.frameBytes (t : Team) : Nat := t.lanes * t.held * 4

/-- The units of the register region in which lanes of v(r) lie, `first` the first byte of the team's frames: the frames of the base
block, then those of the extended one, each G lanes of eight registers (R19); their order, and that of a frame's registers, are free
(log 33). -/
def Team.frameUnits (t : Team) (first r : Nat) (lanes : List Nat) : List Nat :=
  ((lanes.map (· / max 1 t.group)).eraseDups.flatMap fun g =>
    let frame := if r < t.base then g * (t.base / 8) + r / 8 else t.lanes / max 1 t.group * (t.base / 8) + g * (t.extn / 8) + (r - t.base) / 8
    let a := first + 32 * t.group * frame + 4 * t.group * (r % 8)
    [a / 16384, (a + 4 * t.group - 1) / 16384]).eraseDups

/-- A write of lanes of v(r) sets the dirty bits of the units in which they lie; the frames of the resident teams lie one after
another in slot order (R53; log 33). -/
def State.dirtyFrame (s : State) (c slot r : Nat) (lanes : List Nat) : State :=
  let k := s.core c
  match Table.get k.teams slot with
  | none => s
  | some t =>
    let first := (k.teams.filter fun e => decide (e.1 < slot)).foldl (fun n e => n + e.2.frameBytes) 0
    s.setCore c { k with regDirty := (t.frameUnits first r lanes ++ k.regDirty).eraseDups }

/-- The lanes that an operation's result writes. -/
def Op.lanesOut (o : Op) : List Nat :=
  match o.kind with
  | .loaded _ _ _ data => data.map (·.1)
  | .atom _ _ _ _ lanes => lanes.map (·.lane)
  | .sfu _ vals _ => vals.map (·.1)
  | .trans _ _ _ res => (res.filter (·.2.isSome)).map (·.1)
  | _ => []

/-- The vector registers that the SFU and TRANS words in flight of a team write, marked as written (R53, R343). -/
def State.dirtyPending (s : State) (c slot : Nat) : State :=
  match s.team c slot with
  | none => s
  | some t => (t.ops.flatMap fun o => match o.kind with
    | .sfu d vals _ => (if vals.any fun e => e.2.2.isSome then [d, d + 1] else [d]).map fun r => (r, o)
    | .trans d _ false _ => [(d, o), (d + 1, o)]
    | _ => []).foldl (fun s e => s.dirtyFrame c slot e.1 e.2.lanesOut) s

/-- A vector register replaced in the lanes a list names. -/
def Team.setLanes (t : Team) (r : Nat) (vals : List (Nat × Word)) : Team :=
  { t with v := t.v.set r (vals.foldl (fun col e => col.set e.1 e.2) (t.v.getD r [])) }

/-- FPFLAGS of a returned SFU word: the issuing path's copy, the merged path's, or what an exited path
contributes (R148). -/
def Team.orFlags (t : Team) (fpid : Nat) (flags : Word) : Team :=
  let add := fun (p : Path) => if p.pid = fpid then { p with fpflags := p.fpflags ||| flags } else p
  { t with
    pathA := t.pathA.map add
    pathB := t.pathB.map add
    recs := t.recs.map fun r => { r with
      suspended := r.suspended.map add
      exitFlags := if r.gone.contains fpid then r.exitFlags ||| flags else r.exitFlags } }

/-! ### Results reaching registers (R52, R67, R192) -/

/-- The path of a number, live or suspended, replaced. -/
def Team.mapPid (t : Team) (pid : Nat) (f : Path → Path) : Team :=
  let g := fun (p : Path) => if p.pid = pid then f p else p
  { t with pathA := t.pathA.map g, pathB := t.pathB.map g,
           recs := t.recs.map fun r => { r with suspended := r.suspended.map g } }

/-- A result arriving does not count where the program wrote the register first and that value stays: either may (R67). -/
def Op.yields (o : Op) (reg lane : Nat) : Bool := o.clash.contains reg && Config.freeBit (o.id * 1024 + lane)

/-- One scalar result reaches the issuing path's copy, the runner's a-register, or the bank of a handler (R345).  A load issued
before a SPLIT that returns after it writes the copy of the half that keeps the path's number, that in slot A, and no other (DESIGN
CHOICE, log 68). -/
def Team.putScalar (t : Team) (o : Op) (n : Nat) (w : Word) (bad : Bool) : Team :=
  let keep := fun (q : List (Nat × Nat)) => (q.filter fun e => e.1 != n) ++ (if bad then [(n, o.pc)] else [])
  if o.byRunner then { t with runner := { t.runner with a := t.runner.a.set n w, poison := keep t.runner.poison } }
  else if n = 63 ∨ o.yields n n then t
  else
    let banked : Option Handler := match t.handler with
      | some h => if decide (48 ≤ n) && decide (n < 56) && decide (o.id < h.since) && ((t.at h.path).map (·.pid)) == some o.pid
          then some h else none
      | none => none
    match banked with
    | some h => { t with handler := some { h with bank := h.bank.set (n - 48) w, bankPoison := keep h.bankPoison } }
    | none =>
      let t := if t.lastPid = o.pid then { t with lastS := t.lastS.set n w } else t
      t.mapPid o.pid fun p =>
        { p with s := p.s.set n w, poison := keep p.poison, wroteS := (n :: p.wroteS).eraseDups }

/-- Vector results reach their lanes, with poison; a lane whose register was overwritten early keeps either value (R67).
A result on its way to an extended register when SHRINK gives the block back, and returning after a later grant, is written into
the block granted then: R31 does not say (DESIGN CHOICE, log 86). -/
def Team.putLanes (t : Team) (o : Op) (r : Nat) (vals : List (Nat × Word × Bool)) : Team :=
  let vals := vals.filter fun e => !o.yields (64 + r) e.1
  let t := t.setLanes r (vals.map fun e => (e.1, e.2.1))
  let gone := vals.map (·.1)
  { t with vpoison := (t.vpoison.filter fun q => !(q.1 == r && gone.contains q.2.1)) ++
      (vals.filter fun e => e.2.2).map fun e => (r, e.1, o.pc) }

/-- Predicate results reach their lanes; one that was overwritten early keeps either value (R67). -/
def Team.putPreds (t : Team) (o : Op) (n : Nat) (vals : List (Nat × Bool)) : Team :=
  let vals := vals.filter fun e => !o.yields (128 + n) e.1
  { t with p := t.p.set n (vals.foldl (fun (c : List Bool) (e : Nat × Bool) => c.set e.1 e.2) (t.p.getD n [])) }

/-- TRANS or TRANS.S writes its pairs, and the replay mask (R182, R183). -/
def Team.transWrite (t : Team) (o : Op) (d p : Nat) (scalar : Bool) (res : List (Nat × Option Nat)) : Team :=
  if scalar then
    match res with
    | (_, some x) :: _ => (t.putScalar o d (BitVec.ofNat 32 x) false).putScalar o (d + 1) (BitVec.ofNat 32 (x / 2 ^ 32)) false
    | _ => t
  else
    let done := res.filterMap fun e => e.2.map fun x => (e.1, x)
    let t := t.putLanes o d (done.map fun e => (e.1, BitVec.ofNat 32 e.2, false))
    let t := t.putLanes o (d + 1) (done.map fun e => (e.1, BitVec.ofNat 32 (e.2 / 2 ^ 32), false))
    t.putPreds o p (res.map fun e => (e.1, e.2.isNone))

/-- The TRANS words in flight write their lanes; they keep their counters until they return (R192, R285). -/
def Team.landTrans (t : Team) : Team :=
  let t' := t.ops.foldl (fun t o => match o.kind with
    | .trans d p scalar res => t.transWrite o d p scalar res
    | _ => t) t
  { t' with ops := t'.ops.map fun o => match o.kind with
    | .trans d p scalar _ => { o with kind := .trans d p scalar [] }
    | _ => o }

/-- An SFU result written (R146, R148); a lane whose register was overwritten early keeps either value (R67). -/
def Team.sfuWrite (t : Team) (o : Op) (d : Nat) (vals : List (Nat × Word × Option Word)) (flags : Word) : Team :=
  let early := fun r l => o.yields (64 + r) l
  let first := (vals.filter fun e => !early d e.1).map fun e => (e.1, e.2.1)
  let second := vals.filterMap fun e => match e.2.2 with
    | some w => if early (d + 1) e.1 then none else some (e.1, w)
    | none => none
  let t := t.setLanes d first
  let t := if second.isEmpty then t else t.setLanes (d + 1) second
  let gone := first.map fun e => (d, e.1)
  let gone2 := second.map fun e => (d + 1, e.1)
  ({ t with vpoison := t.vpoison.filter fun q => !(gone.contains (q.1, q.2.1) || gone2.contains (q.1, q.2.1)) }).orFlags
    o.fpid flags

/-- The SFU queue of a team drained into its destinations (R126, R343). -/
def Team.drainSfu (t : Team) : Team :=
  let t' := t.ops.foldl (fun t o => match o.kind with
    | .sfu d vals flags => t.sfuWrite o d vals flags
    | _ => t) t
  { t' with ops := t'.ops.filter fun o => match o.kind with
    | .sfu _ _ _ => false
    | _ => true }

/-- A change of every path of a team, the suspended ones too. -/
def Team.mapPaths (t : Team) (f : Path → Path) : Team :=
  { t with pathA := t.pathA.map f, pathB := t.pathB.map f, recs := t.recs.map fun r => { r with suspended := r.suspended.map f } }

/-- Fixed-latency results complete (R343). -/
def Team.settle (t : Team) : Team := t.mapPaths fun p => { p with lag := [], chainAt := none }

/-! ### A charge that no store takes -/

/-- A path of a team, or its runner as one. -/
def Team.agent (t : Team) : Option Bool → Option Path
  | some side => t.at side
  | none => some t.runner.asPath
def Team.setAgent (t : Team) (who : Option Bool) (p : Path) : Team :=
  match who with
  | some side => t.setAt side (some p)
  | none => { t with runner := t.runner.ofPath p }

/-- The agent of a view. -/
def View.who (v : View) : Option Bool := if v.run then none else some v.side

/-- The charge that a refill has taken for a parked store goes back to its ladles: the store does not issue (R173, R175; DEDUCED, log 93). -/
def State.uncharge (s : State) (c slot : Nat) (who : Option Bool) : State :=
  match s.team c slot with
  | none => s
  | some t => match t.agent who with
    | none => s
    | some p =>
      let s := s.setTeam c slot (t.setAgent who { p with refill := none, answer := none })
      match p.answer, s.ladle c t.ctx with
      | some (true, n0, n1), some l => s.setLadle c ((((l.addBal 0 n0).addBal 1 n1).addTransit 0 (-n0)).addTransit 1 (-n1))
      | _, _ => s

/-- No agent of a team takes the charge that it has asked for (log 93). -/
def State.unchargeAll (s : State) (c slot : Nat) : State := ((s.uncharge c slot (some false)).uncharge c slot (some true)).uncharge c slot none

/-! ### Killing a team (R346) -/

/-- The first killed team of the context is recorded (R340, R346). -/
def State.recordFault (s : State) (x launch core slot : Nat) (cause : BitVec 8) (pc : Nat) (hpc nhdl : Bool) : State :=
  let k := s.ctx x
  if k.faultReg.getLsbD 0 then s
  else
    (s.setCtx x { k with
      fpc := BitVec.ofNat 32 pc
      faultReg := BitVec.ofNat 64 (launch * 2 ^ 32 + core * 2 ^ 20 + slot * 2 ^ 16 + cause.toNat * 256 +
        nhdl.toNat * 4 + hpc.toNat * 2 + 1) }).contextEvent x

/-- Every path of the team ends and its unpublished spine slots are poisoned; it exits under R29 (R346).  Its timer-0 bins
of a SPAWN that still waits stay open until they are full or the launch is drained: R111 does not say (DESIGN CHOICE, log 89). -/
def State.kill (s : State) (c slot : Nat) (cause : BitVec 8) (pc : Nat) (hpc nhdl : Bool) : State :=
  match s.team c slot with
  | none => s
  | some t =>
    let s := (s.unchargeAll c slot).publishAll c t (fun _ => 0) true
    let t' := t
    let t := { t with entry := none, pathA := none, pathB := none, recs := [], handler := none, killed := true, growPending := false, granted := false,
                      yielding := false, stopped := false, step := none, runner := { t.runner with running := false } }
    let s := if t'.step.isSome then s.setCtx t.ctx { s.ctx t.ctx with dbgBusy := false } else s
    (s.setTeam c slot t).recordFault t.ctx t.launch c slot cause pc hpc nhdl

/-! ### Taking an exception (R343 to R346) -/

/-- The location of a mapped address, wherever its contents are now (R248). -/
def State.locate (s : State) (x va : Nat) : Option Loc :=
  if 2 ^ 48 ≤ va then none else (s.lookup x va).map fun e => locOf e.1 e.2 va

/-- The device pages that hold a code image. -/
def State.imagePages (s : State) (x entry codesz : Nat) : List Nat :=
  (List.range ((codesz + 63 + entry % 65536) / 65536 + 1)).filterMap fun i => match s.locate x (entry + 65536 * i) with
    | some (.dev da _ _ _) => some (pageOf da)
    | _ => none

/-- A code image that has passed its measurement is watched for writes (R382). -/
def State.watchImage (s : State) (x entry codesz : Nat) : State :=
  if !(s.pf.attMap.getLsbD x) then s
  else
    let k := s.ctx x
    s.setCtx x { k with
      measured := (entry, s.imagePages x entry codesz) :: k.measured.filter fun m => m.1 != entry
      unmeasured := k.unmeasured.filter (· != entry) }

/-- A run of code bytes read by a die, line by line; or the first page that keeps it from being read. -/
inductive Run where
  | bytes (l : List Byte)
  | away (page va : Nat)
  | short (va : Nat)
  /-- A page whose migration has failed (R324). -/
  | lost (va : Nat) (aux : Word)
  | fault
  deriving DecidableEq, Repr

def State.codeRun (s : State) (d x va n : Nat) : Run :=
  let pieces := (List.range ((va % 128 + n + 127) / 128)).map fun i =>
    let a := if i = 0 then va else va / 128 * 128 + 128 * i
    (a, min (va + n) (va / 128 * 128 + 128 * (i + 1)) - a, s.check x Intent.fetch a)
  match pieces.findSome? fun e => match e.2.2 with
    | .found _ => none
    | .away pg => some (Run.away pg (e.1 / 65536 * 65536))
    | .short _ => some (Run.short (e.1 / 65536 * 65536))
    | .fault aux => some (if aux.getLsbD 4 then Run.lost e.1 aux else Run.fault) with
  | some r => r
  | none => .bytes (pieces.flatMap fun e => match e.2.2 with
    | .found loc => s.readLoc d loc e.2.1
    | _ => [])

/-- What the measurement of an image comes to (R381). -/
inductive Measured where
  | passes | fails
  | away (page va : Nat)
  | short (va : Nat)
  | lost (va : Nat) (aux : Word)
  deriving DecidableEq, Repr

/-- Whether an attested context accepts an image: its SHA-384 is the one stored, and is on the allow-list (R381).  A page of the
image that is away is migrated first (R328; log 81). -/
def State.measure (s : State) (d x va codesz moff : Nat) : Measured :=
  if !(s.pf.attMap.getLsbD x) then .passes
  else match s.codeRun d x va (64 + codesz), s.codeRun d x (va + moff) 48 with
    | .bytes image, .bytes stored =>
      let sum := sha384 image
      if moff != 0 && sum == stored && s.side.allow.contains (BitVec.ofNat 384 (leNat sum)) then .passes else .fails
    | .away pg va, _ => .away pg va
    | _, .away pg va => .away pg va
    | .short va, _ => .short va
    | _, .short va => .short va
    | .lost va aux, _ => .lost va aux
    | _, .lost va aux => .lost va aux
    | _, _ => .fails

/-- The reads of a measurement: the image, and the 48 bytes stored after it (R381). -/
def State.readImage (s : State) (d x va codesz moff : Nat) : State :=
  if s.pf.attMap.getLsbD x then (s.readRun d x va (64 + codesz)).readRun d x (va + moff) 48 else s

inductive Image where
  | usable (va codesz : Nat)
  | none
  /-- The image failed its measurement (R381). -/
  | rejected
  | away (page : Nat)
  deriving DecidableEq, Repr

/-- The handler image at CTXHND as it stands now, read by a die (R345); it is measured until it has passed once (R381). -/
def State.handlerImage (s : State) (d x : Nat) : Image :=
  let va := (s.ctx x).hnd
  if va = 0 then .none
  else
    match s.check x Intent.fetch va with
    | .away pg => .away pg
    | .found loc =>
      let h := leNat (s.readLoc d loc 64)
      let codesz := bits h 95 64
      if bits h 31 0 = 0x5A484B39 ∧ bits h 39 32 = 1 ∧ codesz ≠ 0 ∧ codesz % 12 = 0 then
        (if (s.ctx x).handlerSeen.contains (va, s.imagePages x va codesz) then .usable va codesz
        else match s.measure d x va codesz (bits h 223 192) with
          | .passes => .usable va codesz
          | .away pg _ => .away pg
          | _ => .rejected)
      else .none
    | _ => .none

/-- The reads of a trap entry: the header at CTXHND, and the image's where it is to be measured (R343, R381). -/
def State.readHandler (s : State) (d x : Nat) : State :=
  let va := (s.ctx x).hnd
  if va = 0 then s
  else
    let s := s.readRun d x va 64
    match s.check x Intent.fetch va with
    | .found loc =>
      let h := leNat (s.readLoc d loc 64)
      if (s.ctx x).handlerSeen.contains (va, s.imagePages x va (bits h 95 64)) then s
      else s.readImage d x va (bits h 95 64) (bits h 223 192)
    | _ => s

/-- A handler image of an attested context that has passed is not measured again, and is watched for writes (R381, R382). -/
def State.handlerPassed (s : State) (x va codesz : Nat) : State :=
  let image := (va, s.imagePages x va codesz)
  if !(s.pf.attMap.getLsbD x) || (s.ctx x).handlerSeen.contains image then s
  else
    let s := s.watchImage x va codesz
    s.setCtx x { s.ctx x with handlerSeen := image :: (s.ctx x).handlerSeen }

/-- The enabled comparator that matches the path's next word (R302); the lowest one, where several do (log 20). -/
def State.comparator (s : State) (v : View) : Option Nat :=
  if v.run || v.path.passed then none
  else
    (s.pf.cmps.find? fun e =>
      let w := e.2.toNat
      bit w 63 && bits w 55 50 == v.team.ctx && bits w 49 48 == v.path.word && bits w 31 0 == v.path.pc &&
        (bits w 47 32 == 0 || bit (bits w 47 32) v.slot)).map (·.1)

/-- Why a stop at a path's next word is reported: 0 its BRK, 1 a comparator, else what the step came to (R303). -/
def State.stopReason (s : State) (c slot : Nat) (side : Bool) (step : Nat) : Nat × Nat :=
  match s.viewAt ⟨c, slot, side, false⟩ with
  | none => (step, 0)
  | some u =>
    let brk : Bool := match s.fetch u u.path.pc u.path.word with
      | .word w => (match decodeWord w with | .ok (.brk _ _ _) => true | _ => false)
      | _ => false
    if brk then (0, 0)
    else match s.comparator u with
      | some n => (1, n)
      | none => (step, 0)

/-- A team stopped at a path; a stop at the path's next word is marked there (R302). -/
def Team.halt (t : Team) (side : Bool) (reason : Nat) : Team :=
  { t.setAt side ((t.at side).map fun p => if reason ≤ 1 then { p with passed := true } else p) with
    stopped := true, step := none, stepCommand := none }

/-- A team of a launch stopped by ALLSTOP. -/
def Team.haltWith (x launch : Nat) (t : Team) : Team := if t.ctx = x ∧ t.launch = launch then { t with stopped := true } else t

/-- Every team of a launch stopped, the evicted and the saved ones too (R302). -/
def State.stopLaunch (s : State) (x launch : Nat) : State :=
  let teams := fun (l : List (Nat × Team)) => l.map fun e => (e.1, e.2.haltWith x launch)
  let k := s.ctx x
  let s := s.setCtx x { k with saved := k.saved.map fun e => { e with teams := teams e.teams, evicted := teams e.evicted } }
  { s with cores := s.cores.map fun e => (e.1, { e.2 with teams := teams e.2.teams, evicted := teams e.2.evicted }) }

/-- A team stopped by the debugger, with its stop record; a BRK or comparator stop before a word is reported once (log 20); ALLSTOP
stops the launch's other teams (R302, R303). -/
def State.debugStop (s : State) (c slot : Nat) (side : Bool) (reason comparator : Nat) : State :=
  let s := s.traceWord c slot side 12 (reason + 8 * comparator)
  match s.team c slot with
  | none => s
  | some t =>
    let k := s.ctx t.ctx
    let s := (s.setTeam c slot (t.halt side reason)).setCtx t.ctx { k with dbgBusy := t.step.isNone && k.dbgBusy }
    if k.allStop then s.stopLaunch t.ctx t.launch else s

/-- A step that has ended at a path's next word: one stop is reported (R303). -/
def State.stopHere (s : State) (c slot : Nat) (side : Bool) (step : Nat) : State :=
  s.debugStop c slot side (s.stopReason c slot side step).1 (s.stopReason c slot side step).2

/-- The registers h0–h7 at entry (R343). -/
def handlerWords (p : Path) (side : Bool) (cause : BitVec 8) (fault : DWord) (aux : Word) (flags : Nat) : List Word :=
  [BitVec.ofNat 32 (cause.toNat + p.word * 256 + side.toNat * 1024 + flags * 65536), BitVec.ofNat 32 p.pc,
   fault.setWidth 32, (fault >>> 32).setWidth 32, aux, summary p.mask, 0, 0]

/-- The path starts the handler image: s48–s55 banked, h0–h7 in their place, packet 0 (R343, R345). -/
def Team.enterHandler (t : Team) (side : Bool) (image codesz since : Nat) (p : Path) (hs : List Word) : Team :=
  let h : Handler := ⟨side, hs.take 5, (p.s.drop 48).take 8, p.poison.filter fun q => decide (48 ≤ q.1) && decide (q.1 < 56),
    since, image, codesz, p.pc, if p.ext.isSome then p.word - 1 else p.word, p.word⟩
  let p' := { p with
    pc := 0, word := 0, s := p.s.take 48 ++ hs ++ p.s.drop 56, ext := none, chainAt := none, lag := [],
    poison := p.poison.filter (fun q => !(decide (48 ≤ q.1) && decide (q.1 < 56))), parked := none, refill := none,
    joined := false, bar := none, spawned := [], passed := false, exempt := false, replay := false, checked := false, needs := (0, 0), answer := none }
  { t.setAt side (some p') with handler := some h, entry := none }

/-- A trap of a runner stops it and is recorded in its status; the team does not trap (R233). -/
def State.runnerFault (s : State) (c slot : Nat) (cause : BitVec 8) (fault : DWord) : State :=
  match s.team c slot with
  | none => s
  | some t =>
    let s := (if cause = 6 then s.poisonUsed c t.ctx 0 else s).uncharge c slot none
    let s := s.trace t.ctx 4 (coreSrc c) slot t.runner.word false t.runner.pc
      (cause.toNat + 256 + fault.toNat % 2 ^ 48 * 2 ^ 32 + t.launch * 2 ^ 96)
    s.setTeam c slot { t with runner := { t.runner with running := false, stopping := false, fault := true, cause := cause, parked := none, refill := none, answer := none } }

/-- Step 6 of trap entry (R343, R345): the header is read; the path starts the handler image, the team is killed, or the
entry waits for the header's page. -/
def State.enterTrap (s : State) (c slot : Nat) (e : PendingEntry) : State :=
  match s.team c slot with
  | none => s
  | some t =>
    match t.at e.path with
    | none => s
    | some p =>
      let s := s.readHandler (dieOf c) t.ctx
      match s.handlerImage (dieOf c) t.ctx with
      | .away pg => (s.beginMigration t.ctx pg).setTeam c slot { t with entry := some { e with page := pg } }
      | .none => s.kill c slot e.cause p.pc false true
      | .rejected => s.kill c slot 0x13 p.pc false true
      | .usable va codesz =>
        let s := s.handlerPassed t.ctx va codesz
        let s := s.setTeam c slot (t.enterHandler e.path va codesz (s.core c).nextOp p (handlerWords p e.path e.cause e.fault e.aux e.flags))
        match t.step with
        | some (_, false) => s.stopHere c slot e.path 2
        | _ => s

/-- A team at trap entry: its SFU queue and the TRANS words in flight have reached their destinations, and fixed-latency results
are complete (R285, R343). -/
def Team.landed (t : Team) : Team := ((t.drainSfu).landTrans).settle

/-- Steps 1 to 5 of trap entry (R343): the team's results in flight land, and the record is written. -/
def State.beforeHeader (s : State) (c slot : Nat) (side : Bool) (cause : BitVec 8) (fault : DWord) (t : Team) : State :=
  ((s.dirtyPending c slot).setTeam c slot t.landed).traceWord c slot side 4
    (cause.toNat + fault.toNat % 2 ^ 48 * 2 ^ 32 + t.launch * 2 ^ 96)

/-- Trap entry (R343), shared by every word that traps and by TRAP_ENTRY: the other path is held, results in flight land, the
record is written, then the header is read. -/
def State.takeTrap (s : State) (c slot : Nat) (side : Bool) (cause : BitVec 8) (fault : DWord) (aux : Word)
    (flags : Nat) : State :=
  match s.team c slot with
  | none => s
  | some t =>
    match t.at side with
    | none => s
    | some p =>
      if cause = 0x0D ∧ (s.ctx t.ctx).attach then
        let cmp := 0x100 ≤ fault.toNat
        (s.setTeam c slot t.settle).debugStop c slot side (if cmp then 1 else 0) (if cmp then fault.toNat - 0x100 else 0)
      else
      let s := (if cause = 6 then s.poisonUsed c t.ctx 0 else s).uncharge c slot (some side)
      if t.handler.isSome then s.kill c slot cause p.pc true false
      else (s.beforeHeader c slot side cause fault ((s.team c slot).getD t)).enterTrap c slot ⟨side, cause, fault, aux, flags, 0⟩

/-- A migration without room reported at a virtual address (R344, R358, R383): the shortfall, and the state with the
capacity record written (R294) and the page's short mark cleared. -/
def State.noRoom (s : State) (x va : Nat) : Nat × State :=
  match s.lookup x va with
  | none => (0, s)
  | some (e, size) =>
    let pg := pageOf (entryAddr e + va % size)
    let d := homeDie (65536 * pg)
    let short := ((s.pageGranules pg : Int) - s.reserve d).toNat
    let s := s.setPage pg { s.page pg with short := false }
    (short, s.trace x 7 (crucibleSrc d) 0 0 false 0
      ((BitVec.ofInt 64 (s.reserve d)).toNat + min short 0xFFFFFFFF * 2 ^ 64 + x * 2 ^ 96 + 2 ^ 104))

/-- Trap 0x05 of an agent of a team. -/
def State.trapAgent (s : State) (c slot : Nat) (who : Option Bool) (va : Nat) (aux : Word) : State :=
  match who with
  | some side => s.takeTrap c slot side 0x05 (BitVec.ofNat 64 va) aux 0
  | none => s.runnerFault c slot 0x05 (BitVec.ofNat 64 va)

/-- The trap of the agent of a view. -/
def State.trapView (s : State) (v : View) (cause : BitVec 8) (fault : DWord) (aux : Word) (flags : Nat) : State :=
  let r := if cause = 5 && aux.getLsbD 31 then s.noRoom v.team.ctx fault.toNat else (0, s)
  let s := r.2
  let aux := if cause = 5 && aux.getLsbD 31 then 0x80000000 ||| BitVec.ofNat 32 (min r.1 0x7FFFFFFF) else aux
  if v.run then s.runnerFault v.core v.slot cause fault else s.takeTrap v.core v.slot v.side cause fault aux flags

/-- The return from an exception (R103, R345): s48–s55 restored, the held path released, the faulting word retried
from its EXT or passed over. -/
def Team.returnFrom (t : Team) (h : Handler) (skip : Bool) : Team :=
  match t.at h.path with
  | none => { t with handler := none }
  | some p =>
    let at1 := if skip then (if h.faultWord = 2 then (h.retryPc + 1, 0) else (h.retryPc, h.faultWord + 1)) else (h.retryPc, h.retryWord)
    let p' := { p with
      pc := at1.1, word := at1.2, exempt := !skip && wordAt h.h 0 &&& 0xFF == 3, s := p.s.take 48 ++ h.bank ++ p.s.drop 56, ext := none,
      poison := p.poison.filter (fun q => !(decide (48 ≤ q.1) && decide (q.1 < 56))) ++ h.bankPoison,
      lag := p.lag.filter fun g => !(decide (48 ≤ g.reg) && decide (g.reg < 56)) }
    { t.setAt h.path (some p') with handler := none }

end Sys2Proof.Machine
end

