-- ==== Sys2Proof/Machine/Operands.lean ====
section
/-!
DEFINITION. Operand forms (R68 to R71): reading registers under R66 and R67, immediates, the B operand's four
classes, spine operands (R41), and writing results.  Registers are numbered: scalar n, vector 64 + n,
predicate 128 + n, condition 136 + n.
-/

namespace Sys2Proof.Machine

/-! ### Formats of loads and stores (R76, R88, R161, R164) -/

/-- The footprint of a load format in bytes (R76). -/
def loadSize (fmt : Nat) : Nat :=
  match fmt with
  | 0 => 1 | 1 => 1 | 2 => 2 | 3 => 2 | 4 => 4 | 5 => 8 | 6 => 16 | 7 => 2 | 8 => 2 | 9 => 1 | 10 => 1 | _ => 4

/-- The footprint of a store format in bytes (R76). -/
def storeSize (fmt : Nat) : Nat :=
  match fmt with
  | 0 => 1 | 2 => 2 | 4 => 4 | 5 => 8 | 6 => 16 | 7 => 2 | 8 => 2 | 9 => 1 | 10 => 1 | 13 => 1 | 14 => 2 | _ => 4

def pairUp (lo hi : Nat) : Word := BitVec.ofNat 32 (lo + hi * 65536)

/-- The registers that the bytes of a footprint fill (R161). -/
def loadWords (fmt : Nat) (bs : List Byte) : List Word :=
  let x := leNat bs
  let byte := fun i => bits x (8 * i + 7) (8 * i)
  match fmt with
  | 1 => [(BitVec.ofNat 8 x).signExtend 32]
  | 3 => [(BitVec.ofNat 16 x).signExtend 32]
  | 5 => [BitVec.ofNat 32 x, BitVec.ofNat 32 (x / 2 ^ 32)]
  | 6 => (List.range 4).map fun i => BitVec.ofNat 32 (x / 2 ^ (32 * i))
  | 7 => [BitVec.ofNat 32 (widen .bf16 x)]
  | 8 => [BitVec.ofNat 32 (widen .fp16 x)]
  | 9 => [BitVec.ofNat 32 (e4m3To .fp32 x)]
  | 10 => [BitVec.ofNat 32 (widen .e5m2 x)]
  | 11 => [BitVec.ofNat 32 (widen .bf16 (x % 65536)), BitVec.ofNat 32 (widen .bf16 (x / 65536))]
  | 12 => (List.range 4).map fun i => BitVec.ofNat 32 (e4m3To .fp32 (byte i))
  | 13 => (List.range 4).map fun k => pairUp (e2m1To .bf16 (byte k % 16)) (e2m1To .bf16 (byte k / 16))
  | 14 => [pairUp (e4m3To .bf16 (byte 0)) (e4m3To .bf16 (byte 1)), pairUp (e4m3To .bf16 (byte 2)) (e4m3To .bf16 (byte 3))]
  | _ => [BitVec.ofNat 32 x]

/-- The bytes a store format writes from its registers; `r` is the lane's stochastic draw (R164, R88, R89). -/
def storeBytes (fmt : Nat) (ws : List Word) (r : Word) : List Byte :=
  let w := fun i => (wordAt ws i).toNat
  let nb := fun (g : Fmt) i => (convert .fp32 g .rn (w i)).1
  match fmt with
  | 0 => leBytes 1 (w 0)
  | 2 => leBytes 2 (w 0)
  | 5 => leBytes 4 (w 0) ++ leBytes 4 (w 1)
  | 6 => (List.range 4).flatMap fun i => leBytes 4 (w i)
  | 7 => leBytes 2 (nb .bf16 0)
  | 8 => leBytes 2 (nb .fp16 0)
  | 9 => leBytes 1 (satE4m3 (w 0))
  | 10 => leBytes 1 (satE5m2 (w 0))
  | 11 => leBytes 2 (nb .bf16 0) ++ leBytes 2 (nb .bf16 1)
  | 12 => (List.range 4).flatMap fun i => leBytes 1 (satE4m3 (w i))
  | 13 => leBytes 1 (srE4m3 (w 0) r.toNat)
  | 14 => leBytes 2 ((List.range 4).foldl (fun n i => n + satSmall .e2m1 (w i) * 16 ^ i) 0)
  | _ => leBytes 4 (w 0)

/-! ### Destinations of operations in flight -/

/-- Registers a load format fills (R159). -/
def loadCount (fmt : Nat) : Nat := loadRegs (BitVec.ofNat 4 fmt)

/-- The registers an operation writes when it returns. -/
def Op.dests (o : Op) : List Nat :=
  let from' := fun base n => (List.range n).map (base + ·)
  match o.kind with
  | .load fmt d scalar _ _ => from' (if scalar then d else 64 + d) (loadCount fmt)
  | .loaded fmt d scalar _ => from' (if scalar then d else 64 + d) (loadCount fmt)
  | .scratch fmt d _ _ _ _ => from' (64 + d) (loadCount fmt)
  | .atom op d ret _ _ => if ret then from' (64 + d) (if op = 14 then 2 else 1) else []
  | .surrender d _ _ => [d]
  | .trans d p scalar _ => if scalar then [d, d + 1] else [64 + d, 65 + d, 128 + p]
  | .sfu d vals _ => from' (64 + d) (if vals.any fun e => e.2.2.isSome then 2 else 1)
  | .rsvq d _ => [d, d + 1]
  | .blnq d => [d, d + 1]
  | .blkq d _ => [d]
  | _ => []

/-- The lanes whose registers an operation writes; a scalar result counts as lane 0. -/
def Op.lanes (o : Op) : List Nat :=
  match o.kind with
  | .load _ _ scalar _ lanes => if scalar then [0] else lanes.map (·.lane)
  | .loaded _ _ scalar data => if scalar then [0] else data.map (·.1)
  | .scratch _ _ _ _ lanes _ => lanes.map (·.1)
  | .atom _ _ _ _ lanes => lanes.map (·.lane)
  | .trans _ _ scalar res => if scalar && !res.isEmpty then [0] else res.map (·.1)
  | .sfu _ vals _ => vals.map (·.1)
  | _ => [0]

/-- The operation will write this register in this lane of the view's path. -/
def Op.hits (o : Op) (v : View) (reg lane : Nat) : Bool :=
  o.byRunner == v.run && o.dests.contains reg &&
    (if 64 ≤ reg then o.lanes.contains lane
     else (v.run || o.pid == v.path.pid) && !(match v.team.handler with
       | some h => decide (48 ≤ reg) && decide (reg < 56) && decide (o.id < h.since)
       | none => false))

/-! ### Reading registers (R66, R67, R68) -/

/-- The value before the latest producer, when that producer is not ready at cycle `t` (R66). -/
def Path.lagged (p : Path) (reg slice l t : Nat) : Option Word :=
  match p.lag.find? fun g => g.reg == reg && g.slice == slice && g.mask.getLsbD l with
  | some g => if t < g.ready then some (g.old.getD l 0) else none
  | none => none

/-- The value that an operation in flight will return to a register, once it has read it. -/
def Op.returned (o : Op) (reg lane : Nat) : Option Word :=
  let from' := fun (fmt d : Nat) (scalar : Bool) (data : List (Nat × List Byte × Bool)) =>
    (data.find? fun e => scalar || e.1 == lane).bind fun e => (loadWords fmt e.2.1)[reg - (if scalar then d else 64 + d)]?
  match o.kind with
  | .load fmt d scalar _ _ => from' fmt d scalar o.got
  | .loaded fmt d scalar data => from' fmt d scalar data
  | .scratch fmt d _ _ _ _ => from' fmt d false o.got
  | .atom _ d _ _ lanes => (lanes.find? fun e => e.lane == lane).bind fun e =>
      e.old.map fun (w : DWord) => if reg = 64 + d then w.setWidth 32 else (w >>> 32).setWidth 32
  | .trans d p scalar res => (res.find? fun e => scalar || e.1 == lane).bind fun e =>
      if reg = 128 + p ∧ !scalar then some (if e.2.isNone then 1 else 0)
      else e.2.map fun x => BitVec.ofNat 32 (if reg = (if scalar then d else 64 + d) then x else x / 2 ^ 32)
  | .sfu d vals _ => (vals.find? fun e => e.1 == lane).bind fun e => if reg = 64 + d then some e.2.1 else e.2.2
  | _ => none

/-- An early read of a counted result gives the value before or the returned one, unspecified (R67; log 9): the returned
one only once the operation has read it, which it may do at any moment after it issues. -/
def View.early (v : View) (reg lane : Nat) (now : Word) : Word :=
  match v.team.ops.find? fun o => o.hits v reg lane with
  | none => now
  | some o => if Config.freeBit (v.key + reg * 1024 + lane) then now else (o.returned reg lane).getD now

/-- s(n) as read at pass `k` of the word (R66); s63 reads zero (R46). -/
def View.s (v : View) (n k : Nat) : Word :=
  if !v.run && n == 63 then 0
  else v.early n 0 ((v.path.lagged n 0 0 (v.time + k)).getD (wordAt v.path.s n))

/-- The pass of a slice, in cycles after the word's first. -/
def View.passOfSlice (v : View) (i : Nat) : Nat := (v.starts[i]?).getD (passOf v.path.mask i)

/-- The pass of a lane's slice. -/
def View.passAt (v : View) (lane : Nat) : Nat := v.passOfSlice (lane / 32)

/-- v(r) in a lane. -/
def View.v (v : View) (r lane : Nat) : Word :=
  v.early (64 + r) lane
    ((v.path.lagged (64 + r) (lane / 32) (lane % 32) (v.time + v.passAt lane)).getD (wordAt (v.team.v.getD r []) lane))

/-- p(n) in a lane; p7 is true (R46). -/
def View.p (v : View) (n lane : Nat) : Bool :=
  if n = 7 then true
  else
    let now : Word := if (v.team.p.getD n []).getD lane false then 1 else 0
    v.early (128 + n) lane ((v.path.lagged (128 + n) (lane / 32) (lane % 32) (v.time + v.passAt lane)).getD now) != 0

/-- Condition c(n) of the path's copy. -/
def View.c (v : View) (n : Nat) : Bool :=
  (v.path.lagged (136 + n) 0 0 v.time).getD (if v.path.cond.getD n false then 1 else 0) != 0

/-- The pair s(n), s(n + 1). -/
def View.sPair (v : View) (n k : Nat) : DWord := (v.s (n + 1) k).append (v.s n k)
/-- The pair v(r), v(r + 1) in a lane. -/
def View.vPair (v : View) (r lane : Nat) : DWord := (v.v (r + 1) lane).append (v.v r lane)

/-- Cycles from the word's first pass to its last one (R21, R63). -/
def View.lastPass (v : View) : Nat :=
  (List.range v.path.mask.length).foldl (fun n i => if wordAt v.path.mask i = 0 then n else max n (v.passOfSlice i)) 0

def View.active (v : View) : List Nat := activeLanes v.path.mask v.team.lanes
/-- The word's operand values in every active lane. -/
def View.each (v : View) (f : Nat → Word) : List (Nat × Word) := v.active.map fun l => (l, f l)

/-! ### Immediates (R70) -/

/-- An integer immediate: sign-extended, or formed with EXT's X. -/
def immInt (ext : Option (BitVec 24)) {n : Nat} (field : BitVec n) : Word :=
  match ext with
  | none => field.signExtend 32
  | some x => (x.append field).signExtend 32

/-- OFF6: zero-extended without EXT. -/
def immOff (ext : Option (BitVec 24)) (field : BitVec 6) : Word :=
  match ext with
  | none => field.setWidth 32
  | some _ => immInt ext field

/-- A floating-point immediate in a format of `width` bits, in both halves of a packed one. -/
def immFp (f : Fmt) (ext : Option (BitVec 24)) (field : BitVec 6) : Word :=
  match ext with
  | some x => (x.append field).append (0 : BitVec 2)
  | none =>
    let r := (roundTo f .rn field.msb field.toInt.natAbs 0).1
    BitVec.ofNat 32 (if f.width = 32 then r else r + r * 65536)

/-! ### Spine operands (R41 to R43) -/

inductive SpineRead where
  | value (w : Word)
  | poison (item : Nat)
  | absent (item : Nat)
  deriving DecidableEq, Repr

def spineSlotOf (b : BitVec 6) : Nat := b.toNat % 4
def spineDistance (b : BitVec 6) : Nat := b.toNat / 4 + 1

/-- What a spine read gives, a default word and a poisoned value too, once a program has written the launch's spill ring: unspecified
(R43; free, log 41). -/
def State.ringRead (s : State) (item slot : Nat) (poison : Bool) : SpineRead :=
  let key := s.fresh * 2 ^ 20 + 2 ^ 19 + item % 2 ^ 17 * 4 + slot
  if poison && Config.freeBit key then .poison item else .value (Config.freeWord key)

/-- The value of `sp<slot>.<k>` for the team's item. -/
def State.spineRead (s : State) (t : Team) (slot k : Nat) : SpineRead :=
  match s.launch t.ctx t.launch with
  | none => .absent 0
  | some l =>
    let n := t.item.toNat
    if n < k then (if l.ringHit then s.ringRead (2 ^ 17 - k) slot false else .value (wordAt l.defaults slot))
    else
      match l.spine.find? fun e => e.item == n - k && e.slot == slot with
      | some e => if l.ringHit then s.ringRead (n - k) slot true else if e.poison then .poison (n - k) else .value e.value
      | none => .absent (n - k)

/-- A spine operand is legal: ordered launch, declared slot, k within kmax (R41). -/
def State.spineLegal (s : State) (t : Team) (slot k : Nat) : Bool :=
  match s.launch t.ctx t.launch with
  | none => false
  | some l => l.rcd.ordered && (l.slotInfo slot).declared && decide (k ≤ (l.slotInfo slot).kmax)

/-! ### Global addresses and the memory pipe (R158, R264) -/

/-- An offset in footprints added as a 64-bit sum (R158). -/
def address (base : DWord) (off : Word) (size : Nat) : Nat := (base + off.signExtend 64 * BitVec.ofNat 64 size).toNat

/-- The view of a global access whose lanes have the given addresses: each pass sends one request for every distinct line
that its active lanes touch and holds the memory pipe for as many cycles (R264). -/
def View.byLines (v : View) (addr : View → Nat → Nat) : View :=
  (List.range v.path.mask.length).foldl (fun u i =>
    let w := { u with starts := u.starts ++ [u.cycles] }
    { w with cycles := u.cycles + (((v.active.filter fun l => l / 32 == i).map fun l => addr w l / 128).eraseDups).length }) v

/-- The view of a control word, which takes one pass (R21). -/
def View.onePass (v : View) : View := { v with starts := List.replicate v.path.mask.length 0 }

/-! ### The B operand (R69) -/

/-- How a major reads its B operand. -/
inductive Kind where
  | int | fp (f : Fmt)
  deriving DecidableEq, Repr

def immOf (kind : Kind) (ext : Option (BitVec 24)) (b : BitVec 6) : Word :=
  match kind with
  | .int => immInt ext b
  | .fp f => immFp f ext b

def State.spineWord (s : State) (v : View) (b : BitVec 6) : Word :=
  match s.spineRead v.team (spineSlotOf b) (spineDistance b) with
  | .value w => w
  | _ => 0

/-- B of a scalar word. -/
def State.bS (s : State) (v : View) (q : BitVec 2) (b : BitVec 6) : Word :=
  match q.toNat with
  | 0 => v.s b.toNat 0
  | 2 => s.spineWord v b
  | _ => immInt v.path.ext b

/-- B of SADDW: a pair, or the 32-bit operand sign-extended (R120). -/
def State.bSPair (s : State) (v : View) (q : BitVec 2) (b : BitVec 6) : DWord :=
  match q.toNat with
  | 0 => v.sPair b.toNat 0
  | _ => (s.bS v q b).signExtend 64

/-- B of a vector word in a lane. -/
def State.bV (s : State) (v : View) (kind : Kind) (q : BitVec 2) (b : BitVec 6) (lane : Nat) : Word :=
  match q.toNat with
  | 0 => v.v b.toNat lane
  | 1 => v.s b.toNat (v.passAt lane)
  | 2 => s.spineWord v b
  | _ => immOf kind v.path.ext b

/-- B of VADDW in a lane (R129). -/
def State.bVPair (s : State) (v : View) (q : BitVec 2) (b : BitVec 6) (lane : Nat) : DWord :=
  match q.toNat with
  | 0 => v.vPair b.toNat lane
  | 1 => v.sPair b.toNat (v.passAt lane)
  | _ => (s.bV v .int q b lane).signExtend 64

/-! ### Writing results -/

/-- The newest producer of a register in the lanes of a mask; one of latency 1 or less is always read new (R66). -/
def Path.pushLag (p : Path) (reg slice : Nat) (mask : Word) (old : List Word) (ready now : Nat) : Path :=
  let kept := (p.lag.map fun g => if g.reg = reg ∧ g.slice = slice then { g with mask := g.mask &&& ~~~ mask } else g).filter
    fun g => g.mask != 0 && decide (now < g.ready)
  { p with lag := if now + 1 < ready then ⟨reg, slice, mask, old, ready, p.pc, p.word⟩ :: kept else kept }

/-- s(n) written with latency `lat`: the poison bit goes, the write is recorded for the JOIN (R27, R47); s63 of a
team discards it (R46). -/
def View.setS (v : View) (p : Path) (n : Nat) (w : Word) (lat : Nat) : Path :=
  if !v.run && n == 63 then p
  else
    let banked := v.team.handler.isSome && decide (48 ≤ n) && decide (n < 56)
    { p.pushLag n 0 1 [wordAt p.s n] (v.time + lat) v.time with
      s := p.s.set n w
      poison := p.poison.filter fun q => q.1 != n
      wroteS := if v.run || banked then p.wroteS else (n :: p.wroteS).eraseDups }

/-- The pair s(n), s(n + 1) written. -/
def View.setSPair (v : View) (p : Path) (n : Nat) (w : DWord) (lat : Nat) : Path :=
  v.setS (v.setS p n (w.setWidth 32) lat) (n + 1) ((w >>> 32).setWidth 32) lat

/-- Condition c(n) written, readable from cycle `ready`. -/
def View.setC (v : View) (p : Path) (n : Nat) (b : Bool) (ready : Nat) : Path :=
  { p.pushLag (136 + n) 0 1 [if p.cond.getD n false then 1 else 0] ready v.time with
    cond := p.cond.set n b
    wroteC := if v.run then p.wroteC else (n :: p.wroteC).eraseDups }

/-- An early write of a register that a counted operation will write leaves either value (R67; free, log 9). -/
def Team.clash (t : Team) (v : View) (reg : Nat) (lanes : List Nat) : Team :=
  if t.ops.isEmpty then t
  else { t with ops := t.ops.map fun o => if lanes.any fun l => o.hits v reg l then { o with clash := reg :: o.clash } else o }

/-- Lag of a vector or predicate result in every slice: `lat` cycles after the slice's pass, or after the last
pass for a cross-lane word (R21, R149). -/
def View.lagSlices (v : View) (p : Path) (reg lat : Nat) (fromLast : Bool) (old : Nat → Word) : Path :=
  (List.range p.mask.length).foldl (fun p i =>
    let m := wordAt v.path.mask i
    if m = 0 then p
    else
      let pass := v.time + (if fromLast then v.lastPass else v.passOfSlice i)
      p.pushLag reg i m ((List.range 32).map fun j => old (32 * i + j)) (pass + lat) v.time) p

/-- v(r) written in the lanes listed. -/
def State.setV (s : State) (v : View) (r : Nat) (vals : List (Nat × Word)) (lat : Nat) (fromLast : Bool) : State :=
  let t := s.teamOf v
  let p := s.pathOf v
  let col := t.v.getD r []
  let p := if lat ≤ 1 then p else v.lagSlices p (64 + r) lat fromLast (wordAt col)
  let t := (t.setLanes r vals).clash v (64 + r) (vals.map (·.1))
  let gone := vals.map (·.1)
  ((s.setTeam v.core v.slot { t with vpoison := t.vpoison.filter fun q => !(q.1 == r && gone.contains q.2.1) }).putPath v p).dirtyFrame v.core v.slot r gone

/-- p(n) written in the lanes listed; a write to p7 is discarded (R68). -/
def State.setP (s : State) (v : View) (n : Nat) (vals : List (Nat × Bool)) (lat : Nat) : State :=
  if n = 7 then s
  else
    let t := s.teamOf v
    let col := t.p.getD n []
    let p := v.lagSlices (s.pathOf v) (128 + n) lat false fun l => if col.getD l false then 1 else 0
    let t := Team.clash { t with p := t.p.set n (vals.foldl (fun (c : List Bool) (e : Nat × Bool) => c.set e.1 e.2) col) } v
      (128 + n) (vals.map (·.1))
    (s.setTeam v.core v.slot t).putPath v p

/-- One scalar result. -/
def State.setS (s : State) (v : View) (n : Nat) (w : Word) (lat : Nat) : State :=
  let s := s.putPath v (v.setS (s.pathOf v) n w lat)
  if (s.teamOf v).ops.isEmpty then s else s.modTeam v fun t => t.clash v n [0]

def State.setSPair (s : State) (v : View) (n : Nat) (w : DWord) (lat : Nat) : State :=
  (s.setS v n (w.setWidth 32) lat).setS v (n + 1) ((w >>> 32).setWidth 32) lat

def State.setC (s : State) (v : View) (n : Nat) (b : Bool) (ready : Nat) : State :=
  s.putPath v (v.setC (s.pathOf v) n b ready)

end Sys2Proof.Machine
end

