-- ==== Sys2Proof/Machine/Legal.lean ====
section
/-!
DEFINITION. What each word is to the issue rules: its pipe and latency (R64), the registers it reads and writes,
implicit ones included (R63), and whether it transfers control
(R62, R63); the decode-order checks of R78 and the legality of chains, EXT, spine operands and runner code.
-/

namespace Sys2Proof.Machine

/-- The pipes of R64. -/
inductive Pipe where
  | scalar | vector | sfu | memory | engine | none
  deriving DecidableEq, Repr

structure Info where
  pipe : Pipe
  reads : List Nat
  writes : List Nat
  lat : Nat
  ctl : Bool
  deriving DecidableEq, Repr

def runOf (r n : Nat) : List Nat := (List.range n).map (r + ·)
def pairOf (r : Nat) : List Nat := [r, r + 1]
/-- The scalar registers of a run that exist: TRANS may name s62, whose run ends with s63 (log 67). -/
def sRun (r n : Nat) : List Nat := (runOf r n).filter (· < 64)

/-- Registers that a B operand of `n` registers names (R69). -/
def bRegs (vector : Bool) (q : BitVec 2) (b : BitVec 6) (n : Nat) : List Nat :=
  match q.toNat with
  | 0 => runOf (if vector then 64 + b.toNat else b.toNat) n
  | 1 => if vector then runOf b.toNat n else []
  | _ => []

/-- A word's place in the issue rules. -/
def infoOf : Instr → Info
  | .nop _ _ => ⟨.scalar, [], [], 0, false⟩
  | .bra _ _ _ => ⟨.scalar, [], [], 1, true⟩
  | .brc _ _ _ k _ => ⟨.scalar, [136 + k.toNat], [], 1, true⟩
  | .split _ _ p _ => ⟨.scalar, [128 + p.toNat], [], 1, true⟩
  | .join _ _ => ⟨.scalar, [], [], 1, true⟩
  | .call _ _ l _ => ⟨.scalar, [], [l.toNat], 1, true⟩
  | .calli _ _ l t => ⟨.scalar, [t.toNat], [l.toNat], 1, true⟩
  | .ret _ _ t => ⟨.scalar, [t.toNat], [], 1, true⟩
  | .exit _ _ => ⟨.scalar, [], [], 1, true⟩
  | .trap _ _ _ => ⟨.scalar, [], [], 1, true⟩
  | .brk _ _ _ => ⟨.scalar, [], [], 1, true⟩
  | .waitcyc _ _ _ => ⟨.scalar, [], [], 0, false⟩
  | .yield _ _ => ⟨.scalar, [], [], 0, false⟩
  | .prio _ _ _ => ⟨.scalar, [], [], 0, false⟩
  | .srd _ _ d _ => ⟨.scalar, [], [d.toNat], 1, false⟩
  | .swr _ _ a _ => ⟨.scalar, [a.toNat], [], 1, false⟩
  | .trtag _ _ a _ => ⟨.scalar, [a.toNat], [], 1, false⟩
  | .rett _ _ _ => ⟨.scalar, [], [], 1, true⟩
  | .launch _ _ a => ⟨.scalar, pairOf a.toNat, [], 1, false⟩
  | .spawn _ _ a e t => ⟨.scalar, (64 + a.toNat) :: pairOf (64 + e.toNat) ++ [t.toNat], [], 1, false⟩
  | .waitc _ _ _ a => ⟨.scalar, [a.toNat], [], 1, false⟩
  | .waitci _ _ _ _ => ⟨.scalar, [], [], 0, false⟩
  | .bar _ _ _ => ⟨.scalar, [], [], 0, false⟩
  | .bara _ _ _ => ⟨.scalar, [], [], 0, false⟩
  | .barw _ _ _ => ⟨.scalar, [], [], 0, false⟩
  | .fence _ _ _ _ => ⟨.scalar, [], [], 0, false⟩
  | .qfence _ _ _ => ⟨.scalar, [], [], 0, false⟩
  | .spout _ _ _ a => ⟨.scalar, [a.toNat], [], 1, false⟩
  | .grow _ _ => ⟨.scalar, [], [], 0, false⟩
  | .growt _ _ k => ⟨.scalar, [], [136 + k.toNat], 1, false⟩
  | .shrink _ _ => ⟨.scalar, [], [], 0, false⟩
  | .sadd _ _ d a b q => ⟨.scalar, a.toNat :: bRegs false q b 1, [d.toNat], 1, false⟩
  | .ssub _ _ d a b q => ⟨.scalar, a.toNat :: bRegs false q b 1, [d.toNat], 1, false⟩
  | .smul _ _ d a b q => ⟨.scalar, a.toNat :: bRegs false q b 1, [d.toNat], 1, false⟩
  | .smulh _ _ d a b q => ⟨.scalar, a.toNat :: bRegs false q b 1, [d.toNat], 1, false⟩
  | .sand _ _ d a b q => ⟨.scalar, a.toNat :: bRegs false q b 1, [d.toNat], 1, false⟩
  | .sor _ _ d a b q => ⟨.scalar, a.toNat :: bRegs false q b 1, [d.toNat], 1, false⟩
  | .sxor _ _ d a b q => ⟨.scalar, a.toNat :: bRegs false q b 1, [d.toNat], 1, false⟩
  | .sshl _ _ d a b q => ⟨.scalar, a.toNat :: bRegs false q b 1, [d.toNat], 1, false⟩
  | .sshr _ _ d a b q => ⟨.scalar, a.toNat :: bRegs false q b 1, [d.toNat], 1, false⟩
  | .ssra _ _ d a b q => ⟨.scalar, a.toNat :: bRegs false q b 1, [d.toNat], 1, false⟩
  | .smin _ _ d a b q => ⟨.scalar, a.toNat :: bRegs false q b 1, [d.toNat], 1, false⟩
  | .smax _ _ d a b q => ⟨.scalar, a.toNat :: bRegs false q b 1, [d.toNat], 1, false⟩
  | .sminu _ _ d a b q => ⟨.scalar, a.toNat :: bRegs false q b 1, [d.toNat], 1, false⟩
  | .smaxu _ _ d a b q => ⟨.scalar, a.toNat :: bRegs false q b 1, [d.toNat], 1, false⟩
  | .saddw _ _ d a b q => ⟨.scalar, pairOf a.toNat ++ bRegs false q b 2, pairOf d.toNat, 1, false⟩
  | .scmp _ _ k _ a b q => ⟨.scalar, a.toNat :: bRegs false q b 1, [136 + k.toNat], 1, false⟩
  | .saddi _ _ d a _ => ⟨.scalar, [a.toNat], [d.toNat], 1, false⟩
  | .smovi _ _ d _ => ⟨.scalar, [], [d.toNat], 1, false⟩
  | .ext _ => ⟨.none, [], [], 0, false⟩
  | .vadd _ _ d a b q => ⟨.vector, (64 + a.toNat) :: bRegs true q b 1, [64 + d.toNat], 2, false⟩
  | .vsub _ _ d a b q => ⟨.vector, (64 + a.toNat) :: bRegs true q b 1, [64 + d.toNat], 2, false⟩
  | .vmul _ _ d a b q => ⟨.vector, (64 + a.toNat) :: bRegs true q b 1, [64 + d.toNat], 2, false⟩
  | .vmulh _ _ d a b q => ⟨.vector, (64 + a.toNat) :: bRegs true q b 1, [64 + d.toNat], 2, false⟩
  | .vmulhu _ _ d a b q => ⟨.vector, (64 + a.toNat) :: bRegs true q b 1, [64 + d.toNat], 2, false⟩
  | .vand _ _ d a b q => ⟨.vector, (64 + a.toNat) :: bRegs true q b 1, [64 + d.toNat], 2, false⟩
  | .vor _ _ d a b q => ⟨.vector, (64 + a.toNat) :: bRegs true q b 1, [64 + d.toNat], 2, false⟩
  | .vxor _ _ d a b q => ⟨.vector, (64 + a.toNat) :: bRegs true q b 1, [64 + d.toNat], 2, false⟩
  | .vshl _ _ d a b q => ⟨.vector, (64 + a.toNat) :: bRegs true q b 1, [64 + d.toNat], 2, false⟩
  | .vshr _ _ d a b q => ⟨.vector, (64 + a.toNat) :: bRegs true q b 1, [64 + d.toNat], 2, false⟩
  | .vsra _ _ d a b q => ⟨.vector, (64 + a.toNat) :: bRegs true q b 1, [64 + d.toNat], 2, false⟩
  | .vmin _ _ d a b q => ⟨.vector, (64 + a.toNat) :: bRegs true q b 1, [64 + d.toNat], 2, false⟩
  | .vmax _ _ d a b q => ⟨.vector, (64 + a.toNat) :: bRegs true q b 1, [64 + d.toNat], 2, false⟩
  | .vminu _ _ d a b q => ⟨.vector, (64 + a.toNat) :: bRegs true q b 1, [64 + d.toNat], 2, false⟩
  | .vmaxu _ _ d a b q => ⟨.vector, (64 + a.toNat) :: bRegs true q b 1, [64 + d.toNat], 2, false⟩
  | .vaddw _ _ d a b q => ⟨.vector, pairOf (64 + a.toNat) ++ bRegs true q b 2, pairOf (64 + d.toNat), 2, false⟩
  | .vaddi _ _ d a _ => ⟨.vector, [64 + a.toNat], [64 + d.toNat], 2, false⟩
  | .vmad _ _ d a b j => ⟨.vector, [64 + a.toNat, 64 + b.toNat, 64 + j.toNat], [64 + d.toNat], 2, false⟩
  | .vmov _ _ d b q => ⟨.vector, bRegs true q b 1, [64 + d.toNat], 2, false⟩
  | .vpopc _ _ d b q => ⟨.vector, bRegs true q b 1, [64 + d.toNat], 2, false⟩
  | .vclz _ _ d b q => ⟨.vector, bRegs true q b 1, [64 + d.toNat], 2, false⟩
  | .vlane _ _ d => ⟨.vector, [], [64 + d.toNat], 2, false⟩
  | .vitem _ _ d => ⟨.vector, [], [64 + d.toNat], 2, false⟩
  | .vbrev _ _ d b q => ⟨.vector, bRegs true q b 1, [64 + d.toNat], 2, false⟩
  | .vnot _ _ d b q => ⟨.vector, bRegs true q b 1, [64 + d.toNat], 2, false⟩
  | .vabs _ _ d b q => ⟨.vector, bRegs true q b 1, [64 + d.toNat], 2, false⟩
  | .vcvtI2f _ _ d b q => ⟨.vector, bRegs true q b 1, [64 + d.toNat], 4, false⟩
  | .vcvtU2f _ _ d b q => ⟨.vector, bRegs true q b 1, [64 + d.toNat], 4, false⟩
  | .vcvtF2i _ _ d b q => ⟨.vector, bRegs true q b 1, [64 + d.toNat], 4, false⟩
  | .vcvtF2u _ _ d b q => ⟨.vector, bRegs true q b 1, [64 + d.toNat], 4, false⟩
  | .vcvtF2h _ _ d b q => ⟨.vector, bRegs true q b 1, [64 + d.toNat], 4, false⟩
  | .vcvtH2f _ _ d b q => ⟨.vector, bRegs true q b 1, [64 + d.toNat], 4, false⟩
  | .vbfx _ _ d a b q => ⟨.vector, (64 + a.toNat) :: bRegs true q b 1, [64 + d.toNat], 2, false⟩
  | .vfadd _ _ d a b q => ⟨.vector, (64 + a.toNat) :: bRegs true q b 1, [64 + d.toNat], 4, false⟩
  | .vfsub _ _ d a b q => ⟨.vector, (64 + a.toNat) :: bRegs true q b 1, [64 + d.toNat], 4, false⟩
  | .vfmul _ _ d a b q => ⟨.vector, (64 + a.toNat) :: bRegs true q b 1, [64 + d.toNat], 4, false⟩
  | .vfmin _ _ d a b q => ⟨.vector, (64 + a.toNat) :: bRegs true q b 1, [64 + d.toNat], 4, false⟩
  | .vfmax _ _ d a b q => ⟨.vector, (64 + a.toNat) :: bRegs true q b 1, [64 + d.toNat], 4, false⟩
  | .vfneg _ _ d b q => ⟨.vector, bRegs true q b 1, [64 + d.toNat], 4, false⟩
  | .vfabs _ _ d b q => ⟨.vector, bRegs true q b 1, [64 + d.toNat], 4, false⟩
  | .vfclass _ _ d b q => ⟨.vector, bRegs true q b 1, [64 + d.toNat], 4, false⟩
  | .vqfac _ _ d a b q => ⟨.sfu, (64 + a.toNat) :: bRegs true q b 1, pairOf (64 + d.toNat), 0, false⟩
  | .vqnorm _ _ d a b q => ⟨.sfu, (64 + a.toNat) :: bRegs true q b 1, [64 + d.toNat], 0, false⟩
  | .vfma _ _ d a b j => ⟨.vector, [64 + a.toNat, 64 + b.toNat, 64 + j.toNat], [64 + d.toNat], 4, false⟩
  | .vhadd _ _ d a b q _ => ⟨.vector, (64 + a.toNat) :: bRegs true q b 1, [64 + d.toNat], 4, false⟩
  | .vhsub _ _ d a b q _ => ⟨.vector, (64 + a.toNat) :: bRegs true q b 1, [64 + d.toNat], 4, false⟩
  | .vhmul _ _ d a b q _ => ⟨.vector, (64 + a.toNat) :: bRegs true q b 1, [64 + d.toNat], 4, false⟩
  | .vhmin _ _ d a b q _ => ⟨.vector, (64 + a.toNat) :: bRegs true q b 1, [64 + d.toNat], 4, false⟩
  | .vhmax _ _ d a b q _ => ⟨.vector, (64 + a.toNat) :: bRegs true q b 1, [64 + d.toNat], 4, false⟩
  | .vhdot _ _ d a b q _ => ⟨.vector, (64 + d.toNat) :: (64 + a.toNat) :: bRegs true q b 1, [64 + d.toNat], 4, false⟩
  | .vhneg _ _ d b q _ => ⟨.vector, bRegs true q b 1, [64 + d.toNat], 4, false⟩
  | .vhabs _ _ d b q _ => ⟨.vector, bRegs true q b 1, [64 + d.toNat], 4, false⟩
  | .vhfmaBf _ _ d a b j => ⟨.vector, [64 + a.toNat, 64 + b.toNat, 64 + j.toNat], [64 + d.toNat], 4, false⟩
  | .vhfmaHf _ _ d a b j => ⟨.vector, [64 + a.toNat, 64 + b.toNat, 64 + j.toNat], [64 + d.toNat], 4, false⟩
  | .vcmpS _ _ p _ a b q => ⟨.vector, (64 + a.toNat) :: bRegs true q b 1, [128 + p.toNat], 2, false⟩
  | .vcmpU _ _ p _ a b q => ⟨.vector, (64 + a.toNat) :: bRegs true q b 1, [128 + p.toNat], 2, false⟩
  | .vcmpF _ _ p _ a b q => ⟨.vector, (64 + a.toNat) :: bRegs true q b 1, [128 + p.toNat], 2, false⟩
  | .pand _ _ p a b => ⟨.vector, [128 + a.toNat, 128 + b.toNat], [128 + p.toNat], 2, false⟩
  | .por _ _ p a b => ⟨.vector, [128 + a.toNat, 128 + b.toNat], [128 + p.toNat], 2, false⟩
  | .pxor _ _ p a b => ⟨.vector, [128 + a.toNat, 128 + b.toNat], [128 + p.toNat], 2, false⟩
  | .pnot _ _ p b => ⟨.vector, [128 + b.toNat], [128 + p.toNat], 2, false⟩
  | .vsel _ _ d a b q r => ⟨.vector, (128 + r.toNat) :: (64 + a.toNat) :: bRegs true q b 1, [64 + d.toNat], 2, false⟩
  | .vrcp _ _ d b q => ⟨.sfu, bRegs true q b 1, [64 + d.toNat], 0, false⟩
  | .vrsq _ _ d b q => ⟨.sfu, bRegs true q b 1, [64 + d.toNat], 0, false⟩
  | .vsqrt _ _ d b q => ⟨.sfu, bRegs true q b 1, [64 + d.toNat], 0, false⟩
  | .vexp2 _ _ d b q => ⟨.sfu, bRegs true q b 1, [64 + d.toNat], 0, false⟩
  | .vlog2 _ _ d b q => ⟨.sfu, bRegs true q b 1, [64 + d.toNat], 0, false⟩
  | .vsin _ _ d b q => ⟨.sfu, bRegs true q b 1, [64 + d.toNat], 0, false⟩
  | .vcos _ _ d b q => ⟨.sfu, bRegs true q b 1, [64 + d.toNat], 0, false⟩
  | .vtanh _ _ d b q => ⟨.sfu, bRegs true q b 1, [64 + d.toNat], 0, false⟩
  | .vshfl _ _ d a b q => ⟨.vector, (64 + a.toNat) :: bRegs true q b 1, [64 + d.toNat], 6, false⟩
  | .vshflu _ _ d a b q => ⟨.vector, (64 + a.toNat) :: bRegs true q b 1, [64 + d.toNat], 6, false⟩
  | .vshfld _ _ d a b q => ⟨.vector, (64 + a.toNat) :: bRegs true q b 1, [64 + d.toNat], 6, false⟩
  | .vshflx _ _ d a b q => ⟨.vector, (64 + a.toNat) :: bRegs true q b 1, [64 + d.toNat], 6, false⟩
  | .vbcast _ _ d a b q => ⟨.vector, (64 + a.toNat) :: bRegs true q b 1, [64 + d.toNat], 6, false⟩
  | .vballot _ _ d p => ⟨.vector, [128 + p.toNat], [64 + d.toNat], 6, false⟩
  | .vany _ _ k p => ⟨.vector, [128 + p.toNat], [136 + k.toNat], 6, false⟩
  | .vall _ _ k p => ⟨.vector, [128 + p.toNat], [136 + k.toNat], 6, false⟩
  | .vmredAdd _ _ d a b q => ⟨.vector, (64 + a.toNat) :: bRegs true q b 1, pairOf (64 + d.toNat), 6, false⟩
  | .vmredMin _ _ d a b q => ⟨.vector, (64 + a.toNat) :: bRegs true q b 1, pairOf (64 + d.toNat), 6, false⟩
  | .vmredMax _ _ d a b q => ⟨.vector, (64 + a.toNat) :: bRegs true q b 1, pairOf (64 + d.toNat), 6, false⟩
  | .vscanAdd _ _ d a _ => ⟨.vector, [64 + a.toNat], [64 + d.toNat], 6, false⟩
  | .vscanxAdd _ _ d a _ => ⟨.vector, [64 + a.toNat], [64 + d.toNat], 6, false⟩
  | .vredgAdd _ _ d a _ => ⟨.vector, [64 + a.toNat], [64 + d.toNat], 6, false⟩
  | .vredgMax _ _ d a _ => ⟨.vector, [64 + a.toNat], [64 + d.toNat], 6, false⟩
  | .vmatch _ _ d a => ⟨.vector, [64 + a.toNat], [64 + d.toNat], 6, false⟩
  | .ldg _ _ d a _ _ f => ⟨.memory, pairOf (64 + a.toNat), runOf (64 + d.toNat) (loadRegs f), 0, false⟩
  | .stg _ _ d a _ _ f => ⟨.memory, pairOf (64 + a.toNat) ++ runOf (64 + d.toNat) (storeRegs f), [], 0, false⟩
  | .ldu _ _ d a _ _ f => ⟨.memory, pairOf a.toNat, runOf d.toNat (loadRegs f), 0, false⟩
  | .lds _ _ d a _ fh fl => ⟨.memory, [64 + a.toNat], runOf (64 + d.toNat) (scratchRegs fh fl), 0, false⟩
  | .sts _ _ d a _ fh fl => ⟨.memory, (64 + a.toNat) :: runOf (64 + d.toNat) (scratchRegs fh fl), [], 0, false⟩
  | .ldsR _ _ d a _ _ g => ⟨.memory, [64 + a.toNat], runOf (64 + d.toNat) (wideRegs g), 0, false⟩
  | .stsR _ _ d a _ _ g => ⟨.memory, (64 + a.toNat) :: runOf (64 + d.toNat) (wideRegs g), [], 0, false⟩
  | .atomAdd _ _ d a _ _ p r => ⟨.memory, (if p == 1 then [64 + a.toNat] else pairOf (64 + a.toNat)) ++ runOf (64 + d.toNat) 1, if r == 1 then runOf (64 + d.toNat) 1 else [], 0, false⟩
  | .atomMin _ _ d a _ _ p r => ⟨.memory, (if p == 1 then [64 + a.toNat] else pairOf (64 + a.toNat)) ++ runOf (64 + d.toNat) 1, if r == 1 then runOf (64 + d.toNat) 1 else [], 0, false⟩
  | .atomMax _ _ d a _ _ p r => ⟨.memory, (if p == 1 then [64 + a.toNat] else pairOf (64 + a.toNat)) ++ runOf (64 + d.toNat) 1, if r == 1 then runOf (64 + d.toNat) 1 else [], 0, false⟩
  | .atomMinu _ _ d a _ _ p r => ⟨.memory, (if p == 1 then [64 + a.toNat] else pairOf (64 + a.toNat)) ++ runOf (64 + d.toNat) 1, if r == 1 then runOf (64 + d.toNat) 1 else [], 0, false⟩
  | .atomMaxu _ _ d a _ _ p r => ⟨.memory, (if p == 1 then [64 + a.toNat] else pairOf (64 + a.toNat)) ++ runOf (64 + d.toNat) 1, if r == 1 then runOf (64 + d.toNat) 1 else [], 0, false⟩
  | .atomAnd _ _ d a _ _ p r => ⟨.memory, (if p == 1 then [64 + a.toNat] else pairOf (64 + a.toNat)) ++ runOf (64 + d.toNat) 1, if r == 1 then runOf (64 + d.toNat) 1 else [], 0, false⟩
  | .atomOr _ _ d a _ _ p r => ⟨.memory, (if p == 1 then [64 + a.toNat] else pairOf (64 + a.toNat)) ++ runOf (64 + d.toNat) 1, if r == 1 then runOf (64 + d.toNat) 1 else [], 0, false⟩
  | .atomXor _ _ d a _ _ p r => ⟨.memory, (if p == 1 then [64 + a.toNat] else pairOf (64 + a.toNat)) ++ runOf (64 + d.toNat) 1, if r == 1 then runOf (64 + d.toNat) 1 else [], 0, false⟩
  | .atomExch _ _ d a _ _ p r => ⟨.memory, (if p == 1 then [64 + a.toNat] else pairOf (64 + a.toNat)) ++ runOf (64 + d.toNat) 1, if r == 1 then runOf (64 + d.toNat) 1 else [], 0, false⟩
  | .atomCas _ _ d a _ _ p r => ⟨.memory, (if p == 1 then [64 + a.toNat] else pairOf (64 + a.toNat)) ++ runOf (64 + d.toNat) 2, if r == 1 then runOf (64 + d.toNat) 1 else [], 0, false⟩
  | .atomFaddF32 _ _ d a _ _ p r => ⟨.memory, (if p == 1 then [64 + a.toNat] else pairOf (64 + a.toNat)) ++ runOf (64 + d.toNat) 1, if r == 1 then runOf (64 + d.toNat) 1 else [], 0, false⟩
  | .atomFaddBf16x2 _ _ d a _ _ p r => ⟨.memory, (if p == 1 then [64 + a.toNat] else pairOf (64 + a.toNat)) ++ runOf (64 + d.toNat) 1, if r == 1 then runOf (64 + d.toNat) 1 else [], 0, false⟩
  | .atomLd _ _ d a _ _ p r => ⟨.memory, (if p == 1 then [64 + a.toNat] else pairOf (64 + a.toNat)) ++ [], if r == 1 then runOf (64 + d.toNat) 1 else [], 0, false⟩
  | .atomSt _ _ d a _ _ p r => ⟨.memory, (if p == 1 then [64 + a.toNat] else pairOf (64 + a.toNat)) ++ runOf (64 + d.toNat) 1, if r == 1 then runOf (64 + d.toNat) 1 else [], 0, false⟩
  | .atomAddW _ _ d a _ _ p r => ⟨.memory, (if p == 1 then [64 + a.toNat] else pairOf (64 + a.toNat)) ++ runOf (64 + d.toNat) 2, if r == 1 then runOf (64 + d.toNat) 2 else [], 0, false⟩
  | .cwb _ _ a n => ⟨.memory, pairOf a.toNat ++ [n.toNat], [], 0, false⟩
  | .cinv _ _ a n => ⟨.memory, pairOf a.toNat ++ [n.toNat], [], 0, false⟩
  | .pf _ _ a n _ => ⟨.memory, pairOf a.toNat ++ [n.toNat], [], 0, false⟩
  | .trans _ _ d t p => ⟨.memory, sRun t.toNat 4 ++ pairOf (64 + d.toNat), pairOf (64 + d.toNat) ++ [128 + p.toNat], 0, false⟩
  | .transS _ _ d t => ⟨.memory, sRun t.toNat 4 ++ pairOf d.toNat, pairOf d.toNat, 0, false⟩
  | .rsvq _ _ d _ => ⟨.memory, [], pairOf d.toNat, 0, false⟩
  | .blnq _ _ d => ⟨.memory, [], pairOf d.toNat, 0, false⟩
  | .pgsurr _ _ d a n => ⟨.memory, pairOf a.toNat ++ [n.toNat], [d.toNat], 0, false⟩
  | .blnack _ _ a => ⟨.memory, [a.toNat], [], 0, false⟩
  | .blkq _ _ d a => ⟨.memory, pairOf a.toNat, [d.toNat], 0, false⟩
  | .mzero _ _ _ _ _ b => ⟨.engine, runOf (2 * b.toNat) 1, [], 0, false⟩
  | .mload _ _ _ _ _ b => ⟨.engine, runOf (2 * b.toNat) 2, [], 0, false⟩
  | .mloads _ _ _ _ _ b => ⟨.engine, runOf (2 * b.toNat) 3, [], 0, false⟩
  | .mswap _ _ _ _ _ => ⟨.engine, [], [], 0, false⟩
  | .mstream _ _ _ _ _ b => ⟨.engine, runOf (2 * b.toNat) 4, [], 0, false⟩
  | .mstore _ _ _ _ _ b => ⟨.engine, runOf (2 * b.toNat) 4, [], 0, false⟩
  | .mscale _ _ _ _ _ b => ⟨.engine, runOf (2 * b.toNat) 2, [], 0, false⟩
  | .mfence _ _ => ⟨.engine, [], [], 0, false⟩
  | .mwait _ _ b => ⟨.engine, runOf (2 * b.toNat) 1, [], 0, false⟩
  | .merrq _ _ b => ⟨.engine, [2 * b.toNat], pairOf (2 * b.toNat), 2, false⟩
  | .mstat _ _ b => ⟨.engine, [], pairOf (2 * b.toNat), 2, false⟩
  | .cpyG2s _ _ _ b _ => ⟨.engine, runOf b.toNat 6, [], 0, false⟩
  | .cpyS2g _ _ _ b _ => ⟨.engine, runOf b.toNat 6, [], 0, false⟩
  | .cpyS2s _ _ _ b _ => ⟨.engine, runOf b.toNat 6, [], 0, false⟩
  | .cpyGth _ _ _ b _ => ⟨.engine, runOf b.toNat 6, [], 0, false⟩
  | .cpySct _ _ _ b _ => ⟨.engine, runOf b.toNat 6, [], 0, false⟩
  | .cpyFill _ _ _ b _ => ⟨.engine, runOf b.toNat 6, [], 0, false⟩
  | .cgrp _ _ b _ => ⟨.engine, runOf b.toNat 4, pairOf (b.toNat + 4), 1, false⟩
  | .cag _ _ b _ => ⟨.engine, runOf b.toNat 4, [], 0, false⟩
  | .crs _ _ b _ => ⟨.engine, runOf b.toNat 4, [], 0, false⟩
  | .car _ _ b _ => ⟨.engine, runOf b.toNat 4, [], 0, false⟩
  | .ca2a _ _ b _ => ⟨.engine, runOf b.toNat 4, [], 0, false⟩
  | .cbar _ _ _ => ⟨.engine, [], [], 0, false⟩
  | .run _ _ _ => ⟨.scalar, runOf 0 16, [], 0, false⟩
  | .rstop _ _ => ⟨.scalar, [], [], 0, false⟩
  | .qpop _ _ d _ => ⟨.scalar, [], pairOf (64 + d.toNat), 2, false⟩
  | .qpops _ _ d _ => ⟨.scalar, [], pairOf d.toNat, 2, false⟩
  | .qpush _ _ a _ _ => ⟨.scalar, pairOf a.toNat, [], 0, false⟩
  | .qstat _ _ d _ => ⟨.scalar, [], [d.toNat], 1, false⟩
  | .reservedEncoding _ => ⟨.none, [], [], 0, false⟩
  | .comparatorHit _ _ _ _ => ⟨.none, [], [], 0, false⟩
  | .dispatchCohort _ _ => ⟨.none, [], [], 0, false⟩
  | .teamExit _ _ => ⟨.none, [], [], 0, false⟩
  | .binTimerExpiry _ _ _ => ⟨.none, [], [], 0, false⟩
  | .binTeamDispatch _ _ => ⟨.none, [], [], 0, false⟩
  | .evictTeam _ => ⟨.none, [], [], 0, false⟩
  | .returnEvictedTeam _ => ⟨.none, [], [], 0, false⟩
  | .growGrant _ => ⟨.none, [], [], 0, false⟩
  | .launchCompletion _ _ => ⟨.none, [], [], 0, false⟩
  | .operatingPointStable _ => ⟨.none, [], [], 0, false⟩
  | .loadReturn _ _ => ⟨.none, [], [], 0, false⟩
  | .scratchpadLoadReturn _ _ => ⟨.none, [], [], 0, false⟩
  | .sfuResultReturn _ _ => ⟨.none, [], [], 0, false⟩
  | .storePerformed _ _ => ⟨.none, [], [], 0, false⟩
  | .remoteStorePerformed _ _ => ⟨.none, [], [], 0, false⟩
  | .atomicPerformed _ _ _ => ⟨.none, [], [], 0, false⟩
  | .cwbComplete _ _ => ⟨.none, [], [], 0, false⟩
  | .cinvComplete _ _ => ⟨.none, [], [], 0, false⟩
  | .pgsurrPageDone _ _ => ⟨.none, [], [], 0, false⟩
  | .transReturn _ _ => ⟨.none, [], [], 0, false⟩
  | .blockWriteback _ _ => ⟨.none, [], [], 0, false⟩
  | .ladleRefill _ _ => ⟨.none, [], [], 0, false⟩
  | .ladleReturn _ _ => ⟨.none, [], [], 0, false⟩
  | .migrationComplete _ => ⟨.none, [], [], 0, false⟩
  | .migrationFailed _ _ => ⟨.none, [], [], 0, false⟩
  | .copyOperationComplete _ _ => ⟨.none, [], [], 0, false⟩
  | .collectiveComplete _ _ _ => ⟨.none, [], [], 0, false⟩
  | .matrixCommandStart _ _ => ⟨.none, [], [], 0, false⟩
  | .matrixCommandRetire _ _ => ⟨.none, [], [], 0, false⟩
  | .trapEntry _ _ _ _ _ _ => ⟨.none, [], [], 0, false⟩
  | .yieldSave _ _ => ⟨.none, [], [], 0, false⟩
  | .preemptDeadline _ => ⟨.none, [], [], 0, false⟩
  | .saveComplete _ => ⟨.none, [], [], 0, false⟩
  | .restoreComplete _ => ⟨.none, [], [], 0, false⟩
  | .invalidationDone _ => ⟨.none, [], [], 0, false⟩
  | .pcSample _ _ => ⟨.none, [], [], 0, false⟩
  | .debugStepEnd _ _ => ⟨.none, [], [], 0, false⟩
  | .dependenceRecheck _ _ => ⟨.none, [], [], 0, false⟩
  | .stopOnTick => ⟨.none, [], [], 0, false⟩
  | .replicationWindowClear => ⟨.none, [], [], 0, false⟩
  | .meterCheckpoint => ⟨.none, [], [], 0, false⟩
  | .rootStart _ => ⟨.none, [], [], 0, false⟩
  | .preemptRequest _ => ⟨.none, [], [], 0, false⟩
  | .preemptWithdraw _ => ⟨.none, [], [], 0, false⟩
  | .preemptForce _ => ⟨.none, [], [], 0, false⟩
  | .resume _ => ⟨.none, [], [], 0, false⟩
  | .functionLevelReset _ => ⟨.none, [], [], 0, false⟩
  | .translationInvalidate _ _ => ⟨.none, [], [], 0, false⟩
  | .migrateToCapacityTier _ _ _ => ⟨.none, [], [], 0, false⟩
  | .migrateToHbm _ _ _ => ⟨.none, [], [], 0, false⟩
  | .pinPage _ _ _ => ⟨.none, [], [], 0, false⟩
  | .unpinPage _ _ _ => ⟨.none, [], [], 0, false⟩
  | .capcfgWrite _ _ => ⟨.none, [], [], 0, false⟩
  | .balloonRequest _ _ => ⟨.none, [], [], 0, false⟩
  | .balloonClose _ => ⟨.none, [], [], 0, false⟩
  | .ctxownWrite _ _ => ⟨.none, [], [], 0, false⟩
  | .stitchConfigWrite _ _ => ⟨.none, [], [], 0, false⟩
  | .registerWrite _ _ _ => ⟨.none, [], [], 0, false⟩
  | .trdropClear _ => ⟨.none, [], [], 0, false⟩
  | .debugAttach _ => ⟨.none, [], [], 0, false⟩
  | .debugDetach _ => ⟨.none, [], [], 0, false⟩
  | .debugStep _ _ _ _ => ⟨.none, [], [], 0, false⟩
  | .debugStepToRetire _ _ _ _ => ⟨.none, [], [], 0, false⟩
  | .debugCancelWait _ _ _ _ => ⟨.none, [], [], 0, false⟩
  | .debugResume _ _ _ => ⟨.none, [], [], 0, false⟩
  | .stopArm => ⟨.none, [], [], 0, false⟩
  | .stopRelease => ⟨.none, [], [], 0, false⟩
  | .perstRelease => ⟨.none, [], [], 0, false⟩
  | .stageAComplete => ⟨.none, [], [], 0, false⟩
  | .stageBComplete _ _ _ _ _ => ⟨.none, [], [], 0, false⟩
  | .stageCComplete _ _ _ => ⟨.none, [], [], 0, false⟩
  | .ltrMessage _ _ => ⟨.none, [], [], 0, false⟩
  | .idleEntry _ _ => ⟨.none, [], [], 0, false⟩
  | .idleWake _ _ => ⟨.none, [], [], 0, false⟩
  | .powerCapEvaluation _ _ => ⟨.none, [], [], 0, false⟩
  | .tcapStep _ => ⟨.none, [], [], 0, false⟩
  | .thermalCapZero _ => ⟨.none, [], [], 0, false⟩
  | .thermalShutdown _ => ⟨.none, [], [], 0, false⟩
  | .mctpControlMessage _ => ⟨.none, [], [], 0, false⟩
  | .pldmSensorRead _ => ⟨.none, [], [], 0, false⟩
  | .pldmFirmwareUpdate _ _ => ⟨.none, [], [], 0, false⟩
  | .getVersion => ⟨.none, [], [], 0, false⟩
  | .getCapabilities => ⟨.none, [], [], 0, false⟩
  | .negotiateAlgorithms _ _ => ⟨.none, [], [], 0, false⟩
  | .getDigests => ⟨.none, [], [], 0, false⟩
  | .getCertificate _ => ⟨.none, [], [], 0, false⟩
  | .challenge _ => ⟨.none, [], [], 0, false⟩
  | .getMeasurements _ => ⟨.none, [], [], 0, false⟩
  | .vendorRegisterAccess _ _ _ => ⟨.none, [], [], 0, false⟩
  | .mregWrite _ _ => ⟨.none, [], [], 0, false⟩
  | .meteringReport _ _ => ⟨.none, [], [], 0, false⟩
  | .finalReport _ => ⟨.none, [], [], 0, false⟩
  | .allowListInstall _ _ _ => ⟨.none, [], [], 0, false⟩
  | .attmapWrite _ => ⟨.none, [], [], 0, false⟩
  | .meterPowerOn => ⟨.none, [], [], 0, false⟩
  | .orderlyPowerDown => ⟨.none, [], [], 0, false⟩
  | .patrolScrub _ _ _ => ⟨.none, [], [], 0, false⟩
  | .ecsPoll _ _ _ _ _ => ⟨.none, [], [], 0, false⟩
  | .fabricHopRetry _ _ _ => ⟨.none, [], [], 0, false⟩
  | .stitchLanesLost _ _ => ⟨.none, [], [], 0, false⟩
  | .injectionStarvation _ _ _ => ⟨.none, [], [], 0, false⟩
  | .hostCxlMemAccess _ _ _ => ⟨.none, [], [], 0, false⟩
  | .reset => ⟨.none, [], [], 0, false⟩
  | .powerLoss => ⟨.none, [], [], 0, false⟩
  | .driverContextTeardown _ => ⟨.none, [], [], 0, false⟩
  | .stitchPortTrained _ _ _ _ => ⟨.none, [], [], 0, false⟩
  | .coreFaultInService _ _ => ⟨.none, [], [], 0, false⟩

/-- C and S of a word (R60). -/
def chainOf : Instr → BitVec 1 × BitVec 2
  | .nop c w => (c, w)
  | .bra c w _ => (c, w)
  | .brc c w _ _ _ => (c, w)
  | .split c w _ _ => (c, w)
  | .join c w => (c, w)
  | .call c w _ _ => (c, w)
  | .calli c w _ _ => (c, w)
  | .ret c w _ => (c, w)
  | .exit c w => (c, w)
  | .trap c w _ => (c, w)
  | .brk c w _ => (c, w)
  | .waitcyc c w _ => (c, w)
  | .yield c w => (c, w)
  | .prio c w _ => (c, w)
  | .srd c w _ _ => (c, w)
  | .swr c w _ _ => (c, w)
  | .trtag c w _ _ => (c, w)
  | .rett c w _ => (c, w)
  | .launch c w _ => (c, w)
  | .spawn c w _ _ _ => (c, w)
  | .waitc c w _ _ => (c, w)
  | .waitci c w _ _ => (c, w)
  | .bar c w _ => (c, w)
  | .bara c w _ => (c, w)
  | .barw c w _ => (c, w)
  | .fence c w _ _ => (c, w)
  | .qfence c w _ => (c, w)
  | .spout c w _ _ => (c, w)
  | .grow c w => (c, w)
  | .growt c w _ => (c, w)
  | .shrink c w => (c, w)
  | .sadd c w _ _ _ _ => (c, w)
  | .ssub c w _ _ _ _ => (c, w)
  | .smul c w _ _ _ _ => (c, w)
  | .smulh c w _ _ _ _ => (c, w)
  | .sand c w _ _ _ _ => (c, w)
  | .sor c w _ _ _ _ => (c, w)
  | .sxor c w _ _ _ _ => (c, w)
  | .sshl c w _ _ _ _ => (c, w)
  | .sshr c w _ _ _ _ => (c, w)
  | .ssra c w _ _ _ _ => (c, w)
  | .smin c w _ _ _ _ => (c, w)
  | .smax c w _ _ _ _ => (c, w)
  | .sminu c w _ _ _ _ => (c, w)
  | .smaxu c w _ _ _ _ => (c, w)
  | .saddw c w _ _ _ _ => (c, w)
  | .scmp c w _ _ _ _ _ => (c, w)
  | .saddi c w _ _ _ => (c, w)
  | .smovi c w _ _ => (c, w)
  | .ext _ => (0, 0)
  | .vadd c w _ _ _ _ => (c, w)
  | .vsub c w _ _ _ _ => (c, w)
  | .vmul c w _ _ _ _ => (c, w)
  | .vmulh c w _ _ _ _ => (c, w)
  | .vmulhu c w _ _ _ _ => (c, w)
  | .vand c w _ _ _ _ => (c, w)
  | .vor c w _ _ _ _ => (c, w)
  | .vxor c w _ _ _ _ => (c, w)
  | .vshl c w _ _ _ _ => (c, w)
  | .vshr c w _ _ _ _ => (c, w)
  | .vsra c w _ _ _ _ => (c, w)
  | .vmin c w _ _ _ _ => (c, w)
  | .vmax c w _ _ _ _ => (c, w)
  | .vminu c w _ _ _ _ => (c, w)
  | .vmaxu c w _ _ _ _ => (c, w)
  | .vaddw c w _ _ _ _ => (c, w)
  | .vaddi c w _ _ _ => (c, w)
  | .vmad c w _ _ _ _ => (c, w)
  | .vmov c w _ _ _ => (c, w)
  | .vpopc c w _ _ _ => (c, w)
  | .vclz c w _ _ _ => (c, w)
  | .vlane c w _ => (c, w)
  | .vitem c w _ => (c, w)
  | .vbrev c w _ _ _ => (c, w)
  | .vnot c w _ _ _ => (c, w)
  | .vabs c w _ _ _ => (c, w)
  | .vcvtI2f c w _ _ _ => (c, w)
  | .vcvtU2f c w _ _ _ => (c, w)
  | .vcvtF2i c w _ _ _ => (c, w)
  | .vcvtF2u c w _ _ _ => (c, w)
  | .vcvtF2h c w _ _ _ => (c, w)
  | .vcvtH2f c w _ _ _ => (c, w)
  | .vbfx c w _ _ _ _ => (c, w)
  | .vfadd c w _ _ _ _ => (c, w)
  | .vfsub c w _ _ _ _ => (c, w)
  | .vfmul c w _ _ _ _ => (c, w)
  | .vfmin c w _ _ _ _ => (c, w)
  | .vfmax c w _ _ _ _ => (c, w)
  | .vfneg c w _ _ _ => (c, w)
  | .vfabs c w _ _ _ => (c, w)
  | .vfclass c w _ _ _ => (c, w)
  | .vqfac c w _ _ _ _ => (c, w)
  | .vqnorm c w _ _ _ _ => (c, w)
  | .vfma c w _ _ _ _ => (c, w)
  | .vhadd c w _ _ _ _ _ => (c, w)
  | .vhsub c w _ _ _ _ _ => (c, w)
  | .vhmul c w _ _ _ _ _ => (c, w)
  | .vhmin c w _ _ _ _ _ => (c, w)
  | .vhmax c w _ _ _ _ _ => (c, w)
  | .vhdot c w _ _ _ _ _ => (c, w)
  | .vhneg c w _ _ _ _ => (c, w)
  | .vhabs c w _ _ _ _ => (c, w)
  | .vhfmaBf c w _ _ _ _ => (c, w)
  | .vhfmaHf c w _ _ _ _ => (c, w)
  | .vcmpS c w _ _ _ _ _ => (c, w)
  | .vcmpU c w _ _ _ _ _ => (c, w)
  | .vcmpF c w _ _ _ _ _ => (c, w)
  | .pand c w _ _ _ => (c, w)
  | .por c w _ _ _ => (c, w)
  | .pxor c w _ _ _ => (c, w)
  | .pnot c w _ _ => (c, w)
  | .vsel c w _ _ _ _ _ => (c, w)
  | .vrcp c w _ _ _ => (c, w)
  | .vrsq c w _ _ _ => (c, w)
  | .vsqrt c w _ _ _ => (c, w)
  | .vexp2 c w _ _ _ => (c, w)
  | .vlog2 c w _ _ _ => (c, w)
  | .vsin c w _ _ _ => (c, w)
  | .vcos c w _ _ _ => (c, w)
  | .vtanh c w _ _ _ => (c, w)
  | .vshfl c w _ _ _ _ => (c, w)
  | .vshflu c w _ _ _ _ => (c, w)
  | .vshfld c w _ _ _ _ => (c, w)
  | .vshflx c w _ _ _ _ => (c, w)
  | .vbcast c w _ _ _ _ => (c, w)
  | .vballot c w _ _ => (c, w)
  | .vany c w _ _ => (c, w)
  | .vall c w _ _ => (c, w)
  | .vmredAdd c w _ _ _ _ => (c, w)
  | .vmredMin c w _ _ _ _ => (c, w)
  | .vmredMax c w _ _ _ _ => (c, w)
  | .vscanAdd c w _ _ _ => (c, w)
  | .vscanxAdd c w _ _ _ => (c, w)
  | .vredgAdd c w _ _ _ => (c, w)
  | .vredgMax c w _ _ _ => (c, w)
  | .vmatch c w _ _ => (c, w)
  | .ldg c w _ _ _ _ _ => (c, w)
  | .stg c w _ _ _ _ _ => (c, w)
  | .ldu c w _ _ _ _ _ => (c, w)
  | .lds c w _ _ _ _ _ => (c, w)
  | .sts c w _ _ _ _ _ => (c, w)
  | .ldsR c w _ _ _ _ _ => (c, w)
  | .stsR c w _ _ _ _ _ => (c, w)
  | .atomAdd c w _ _ _ _ _ _ => (c, w)
  | .atomMin c w _ _ _ _ _ _ => (c, w)
  | .atomMax c w _ _ _ _ _ _ => (c, w)
  | .atomMinu c w _ _ _ _ _ _ => (c, w)
  | .atomMaxu c w _ _ _ _ _ _ => (c, w)
  | .atomAnd c w _ _ _ _ _ _ => (c, w)
  | .atomOr c w _ _ _ _ _ _ => (c, w)
  | .atomXor c w _ _ _ _ _ _ => (c, w)
  | .atomExch c w _ _ _ _ _ _ => (c, w)
  | .atomCas c w _ _ _ _ _ _ => (c, w)
  | .atomFaddF32 c w _ _ _ _ _ _ => (c, w)
  | .atomFaddBf16x2 c w _ _ _ _ _ _ => (c, w)
  | .atomLd c w _ _ _ _ _ _ => (c, w)
  | .atomSt c w _ _ _ _ _ _ => (c, w)
  | .atomAddW c w _ _ _ _ _ _ => (c, w)
  | .cwb c w _ _ => (c, w)
  | .cinv c w _ _ => (c, w)
  | .pf c w _ _ _ => (c, w)
  | .trans c w _ _ _ => (c, w)
  | .transS c w _ _ => (c, w)
  | .rsvq c w _ _ => (c, w)
  | .blnq c w _ => (c, w)
  | .pgsurr c w _ _ _ => (c, w)
  | .blnack c w _ => (c, w)
  | .blkq c w _ _ => (c, w)
  | .mzero c w _ _ _ _ => (c, w)
  | .mload c w _ _ _ _ => (c, w)
  | .mloads c w _ _ _ _ => (c, w)
  | .mswap c w _ _ _ => (c, w)
  | .mstream c w _ _ _ _ => (c, w)
  | .mstore c w _ _ _ _ => (c, w)
  | .mscale c w _ _ _ _ => (c, w)
  | .mfence c w => (c, w)
  | .mwait c w _ => (c, w)
  | .merrq c w _ => (c, w)
  | .mstat c w _ => (c, w)
  | .cpyG2s c w _ _ _ => (c, w)
  | .cpyS2g c w _ _ _ => (c, w)
  | .cpyS2s c w _ _ _ => (c, w)
  | .cpyGth c w _ _ _ => (c, w)
  | .cpySct c w _ _ _ => (c, w)
  | .cpyFill c w _ _ _ => (c, w)
  | .cgrp c w _ _ => (c, w)
  | .cag c w _ _ => (c, w)
  | .crs c w _ _ => (c, w)
  | .car c w _ _ => (c, w)
  | .ca2a c w _ _ => (c, w)
  | .cbar c w _ => (c, w)
  | .run c w _ => (c, w)
  | .rstop c w => (c, w)
  | .qpop c w _ _ => (c, w)
  | .qpops c w _ _ => (c, w)
  | .qpush c w _ _ _ => (c, w)
  | .qstat c w _ _ => (c, w)
  | .reservedEncoding _ => (0, 0)
  | .comparatorHit _ _ _ _ => (0, 0)
  | .dispatchCohort _ _ => (0, 0)
  | .teamExit _ _ => (0, 0)
  | .binTimerExpiry _ _ _ => (0, 0)
  | .binTeamDispatch _ _ => (0, 0)
  | .evictTeam _ => (0, 0)
  | .returnEvictedTeam _ => (0, 0)
  | .growGrant _ => (0, 0)
  | .launchCompletion _ _ => (0, 0)
  | .operatingPointStable _ => (0, 0)
  | .loadReturn _ _ => (0, 0)
  | .scratchpadLoadReturn _ _ => (0, 0)
  | .sfuResultReturn _ _ => (0, 0)
  | .storePerformed _ _ => (0, 0)
  | .remoteStorePerformed _ _ => (0, 0)
  | .atomicPerformed _ _ _ => (0, 0)
  | .cwbComplete _ _ => (0, 0)
  | .cinvComplete _ _ => (0, 0)
  | .pgsurrPageDone _ _ => (0, 0)
  | .transReturn _ _ => (0, 0)
  | .blockWriteback _ _ => (0, 0)
  | .ladleRefill _ _ => (0, 0)
  | .ladleReturn _ _ => (0, 0)
  | .migrationComplete _ => (0, 0)
  | .migrationFailed _ _ => (0, 0)
  | .copyOperationComplete _ _ => (0, 0)
  | .collectiveComplete _ _ _ => (0, 0)
  | .matrixCommandStart _ _ => (0, 0)
  | .matrixCommandRetire _ _ => (0, 0)
  | .trapEntry _ _ _ _ _ _ => (0, 0)
  | .yieldSave _ _ => (0, 0)
  | .preemptDeadline _ => (0, 0)
  | .saveComplete _ => (0, 0)
  | .restoreComplete _ => (0, 0)
  | .invalidationDone _ => (0, 0)
  | .pcSample _ _ => (0, 0)
  | .debugStepEnd _ _ => (0, 0)
  | .dependenceRecheck _ _ => (0, 0)
  | .stopOnTick => (0, 0)
  | .replicationWindowClear => (0, 0)
  | .meterCheckpoint => (0, 0)
  | .rootStart _ => (0, 0)
  | .preemptRequest _ => (0, 0)
  | .preemptWithdraw _ => (0, 0)
  | .preemptForce _ => (0, 0)
  | .resume _ => (0, 0)
  | .functionLevelReset _ => (0, 0)
  | .translationInvalidate _ _ => (0, 0)
  | .migrateToCapacityTier _ _ _ => (0, 0)
  | .migrateToHbm _ _ _ => (0, 0)
  | .pinPage _ _ _ => (0, 0)
  | .unpinPage _ _ _ => (0, 0)
  | .capcfgWrite _ _ => (0, 0)
  | .balloonRequest _ _ => (0, 0)
  | .balloonClose _ => (0, 0)
  | .ctxownWrite _ _ => (0, 0)
  | .stitchConfigWrite _ _ => (0, 0)
  | .registerWrite _ _ _ => (0, 0)
  | .trdropClear _ => (0, 0)
  | .debugAttach _ => (0, 0)
  | .debugDetach _ => (0, 0)
  | .debugStep _ _ _ _ => (0, 0)
  | .debugStepToRetire _ _ _ _ => (0, 0)
  | .debugCancelWait _ _ _ _ => (0, 0)
  | .debugResume _ _ _ => (0, 0)
  | .stopArm => (0, 0)
  | .stopRelease => (0, 0)
  | .perstRelease => (0, 0)
  | .stageAComplete => (0, 0)
  | .stageBComplete _ _ _ _ _ => (0, 0)
  | .stageCComplete _ _ _ => (0, 0)
  | .ltrMessage _ _ => (0, 0)
  | .idleEntry _ _ => (0, 0)
  | .idleWake _ _ => (0, 0)
  | .powerCapEvaluation _ _ => (0, 0)
  | .tcapStep _ => (0, 0)
  | .thermalCapZero _ => (0, 0)
  | .thermalShutdown _ => (0, 0)
  | .mctpControlMessage _ => (0, 0)
  | .pldmSensorRead _ => (0, 0)
  | .pldmFirmwareUpdate _ _ => (0, 0)
  | .getVersion => (0, 0)
  | .getCapabilities => (0, 0)
  | .negotiateAlgorithms _ _ => (0, 0)
  | .getDigests => (0, 0)
  | .getCertificate _ => (0, 0)
  | .challenge _ => (0, 0)
  | .getMeasurements _ => (0, 0)
  | .vendorRegisterAccess _ _ _ => (0, 0)
  | .mregWrite _ _ => (0, 0)
  | .meteringReport _ _ => (0, 0)
  | .finalReport _ => (0, 0)
  | .allowListInstall _ _ _ => (0, 0)
  | .attmapWrite _ => (0, 0)
  | .meterPowerOn => (0, 0)
  | .orderlyPowerDown => (0, 0)
  | .patrolScrub _ _ _ => (0, 0)
  | .ecsPoll _ _ _ _ _ => (0, 0)
  | .fabricHopRetry _ _ _ => (0, 0)
  | .stitchLanesLost _ _ => (0, 0)
  | .injectionStarvation _ _ _ => (0, 0)
  | .hostCxlMemAccess _ _ _ => (0, 0)
  | .reset => (0, 0)
  | .powerLoss => (0, 0)
  | .driverContextTeardown _ => (0, 0)
  | .stitchPortTrained _ _ _ _ => (0, 0)
  | .coreFaultInService _ _ => (0, 0)

/-- The spine operand a word names: its B field (R69). -/
def spineOf : Instr → Option (BitVec 6)
  | .sadd _ _ _ _ b q => if q == 2 then some b else none
  | .ssub _ _ _ _ b q => if q == 2 then some b else none
  | .smul _ _ _ _ b q => if q == 2 then some b else none
  | .smulh _ _ _ _ b q => if q == 2 then some b else none
  | .sand _ _ _ _ b q => if q == 2 then some b else none
  | .sor _ _ _ _ b q => if q == 2 then some b else none
  | .sxor _ _ _ _ b q => if q == 2 then some b else none
  | .sshl _ _ _ _ b q => if q == 2 then some b else none
  | .sshr _ _ _ _ b q => if q == 2 then some b else none
  | .ssra _ _ _ _ b q => if q == 2 then some b else none
  | .smin _ _ _ _ b q => if q == 2 then some b else none
  | .smax _ _ _ _ b q => if q == 2 then some b else none
  | .sminu _ _ _ _ b q => if q == 2 then some b else none
  | .smaxu _ _ _ _ b q => if q == 2 then some b else none
  | .saddw _ _ _ _ b q => if q == 2 then some b else none
  | .scmp _ _ _ _ _ b q => if q == 2 then some b else none
  | .vadd _ _ _ _ b q => if q == 2 then some b else none
  | .vsub _ _ _ _ b q => if q == 2 then some b else none
  | .vmul _ _ _ _ b q => if q == 2 then some b else none
  | .vmulh _ _ _ _ b q => if q == 2 then some b else none
  | .vmulhu _ _ _ _ b q => if q == 2 then some b else none
  | .vand _ _ _ _ b q => if q == 2 then some b else none
  | .vor _ _ _ _ b q => if q == 2 then some b else none
  | .vxor _ _ _ _ b q => if q == 2 then some b else none
  | .vshl _ _ _ _ b q => if q == 2 then some b else none
  | .vshr _ _ _ _ b q => if q == 2 then some b else none
  | .vsra _ _ _ _ b q => if q == 2 then some b else none
  | .vmin _ _ _ _ b q => if q == 2 then some b else none
  | .vmax _ _ _ _ b q => if q == 2 then some b else none
  | .vminu _ _ _ _ b q => if q == 2 then some b else none
  | .vmaxu _ _ _ _ b q => if q == 2 then some b else none
  | .vaddw _ _ _ _ b q => if q == 2 then some b else none
  | .vmov _ _ _ b q => if q == 2 then some b else none
  | .vpopc _ _ _ b q => if q == 2 then some b else none
  | .vclz _ _ _ b q => if q == 2 then some b else none
  | .vbrev _ _ _ b q => if q == 2 then some b else none
  | .vnot _ _ _ b q => if q == 2 then some b else none
  | .vabs _ _ _ b q => if q == 2 then some b else none
  | .vcvtI2f _ _ _ b q => if q == 2 then some b else none
  | .vcvtU2f _ _ _ b q => if q == 2 then some b else none
  | .vcvtF2i _ _ _ b q => if q == 2 then some b else none
  | .vcvtF2u _ _ _ b q => if q == 2 then some b else none
  | .vcvtF2h _ _ _ b q => if q == 2 then some b else none
  | .vcvtH2f _ _ _ b q => if q == 2 then some b else none
  | .vbfx _ _ _ _ b q => if q == 2 then some b else none
  | .vfadd _ _ _ _ b q => if q == 2 then some b else none
  | .vfsub _ _ _ _ b q => if q == 2 then some b else none
  | .vfmul _ _ _ _ b q => if q == 2 then some b else none
  | .vfmin _ _ _ _ b q => if q == 2 then some b else none
  | .vfmax _ _ _ _ b q => if q == 2 then some b else none
  | .vfneg _ _ _ b q => if q == 2 then some b else none
  | .vfabs _ _ _ b q => if q == 2 then some b else none
  | .vfclass _ _ _ b q => if q == 2 then some b else none
  | .vqfac _ _ _ _ b q => if q == 2 then some b else none
  | .vqnorm _ _ _ _ b q => if q == 2 then some b else none
  | .vhadd _ _ _ _ b q _ => if q == 2 then some b else none
  | .vhsub _ _ _ _ b q _ => if q == 2 then some b else none
  | .vhmul _ _ _ _ b q _ => if q == 2 then some b else none
  | .vhmin _ _ _ _ b q _ => if q == 2 then some b else none
  | .vhmax _ _ _ _ b q _ => if q == 2 then some b else none
  | .vhdot _ _ _ _ b q _ => if q == 2 then some b else none
  | .vhneg _ _ _ b q _ => if q == 2 then some b else none
  | .vhabs _ _ _ b q _ => if q == 2 then some b else none
  | .vcmpS _ _ _ _ _ b q => if q == 2 then some b else none
  | .vcmpU _ _ _ _ _ b q => if q == 2 then some b else none
  | .vcmpF _ _ _ _ _ b q => if q == 2 then some b else none
  | .vsel _ _ _ _ b q _ => if q == 2 then some b else none
  | .vrcp _ _ _ b q => if q == 2 then some b else none
  | .vrsq _ _ _ b q => if q == 2 then some b else none
  | .vsqrt _ _ _ b q => if q == 2 then some b else none
  | .vexp2 _ _ _ b q => if q == 2 then some b else none
  | .vlog2 _ _ _ b q => if q == 2 then some b else none
  | .vsin _ _ _ b q => if q == 2 then some b else none
  | .vcos _ _ _ b q => if q == 2 then some b else none
  | .vtanh _ _ _ b q => if q == 2 then some b else none
  | .vshfl _ _ _ _ b q => if q == 2 then some b else none
  | .vshflu _ _ _ _ b q => if q == 2 then some b else none
  | .vshfld _ _ _ _ b q => if q == 2 then some b else none
  | .vshflx _ _ _ _ b q => if q == 2 then some b else none
  | .vbcast _ _ _ _ b q => if q == 2 then some b else none
  | .vmredAdd _ _ _ _ b q => if q == 2 then some b else none
  | .vmredMin _ _ _ _ b q => if q == 2 then some b else none
  | .vmredMax _ _ _ _ b q => if q == 2 then some b else none
  | _ => none

/-- A runner may execute the word, its register fields naming a0–a15 (R77, R68). -/
def runnerMay : Instr → Bool
  | .bra _ _ _ => true
  | .brc _ _ _ _ _ => true
  | .exit _ _ => true
  | .sadd _ _ d a b q => decide (d.toNat < 16) && decide (a.toNat < 16) && (q != 0 || decide (b.toNat < 16))
  | .ssub _ _ d a b q => decide (d.toNat < 16) && decide (a.toNat < 16) && (q != 0 || decide (b.toNat < 16))
  | .smul _ _ d a b q => decide (d.toNat < 16) && decide (a.toNat < 16) && (q != 0 || decide (b.toNat < 16))
  | .smulh _ _ d a b q => decide (d.toNat < 16) && decide (a.toNat < 16) && (q != 0 || decide (b.toNat < 16))
  | .sand _ _ d a b q => decide (d.toNat < 16) && decide (a.toNat < 16) && (q != 0 || decide (b.toNat < 16))
  | .sor _ _ d a b q => decide (d.toNat < 16) && decide (a.toNat < 16) && (q != 0 || decide (b.toNat < 16))
  | .sxor _ _ d a b q => decide (d.toNat < 16) && decide (a.toNat < 16) && (q != 0 || decide (b.toNat < 16))
  | .sshl _ _ d a b q => decide (d.toNat < 16) && decide (a.toNat < 16) && (q != 0 || decide (b.toNat < 16))
  | .sshr _ _ d a b q => decide (d.toNat < 16) && decide (a.toNat < 16) && (q != 0 || decide (b.toNat < 16))
  | .ssra _ _ d a b q => decide (d.toNat < 16) && decide (a.toNat < 16) && (q != 0 || decide (b.toNat < 16))
  | .smin _ _ d a b q => decide (d.toNat < 16) && decide (a.toNat < 16) && (q != 0 || decide (b.toNat < 16))
  | .smax _ _ d a b q => decide (d.toNat < 16) && decide (a.toNat < 16) && (q != 0 || decide (b.toNat < 16))
  | .sminu _ _ d a b q => decide (d.toNat < 16) && decide (a.toNat < 16) && (q != 0 || decide (b.toNat < 16))
  | .smaxu _ _ d a b q => decide (d.toNat < 16) && decide (a.toNat < 16) && (q != 0 || decide (b.toNat < 16))
  | .saddw _ _ d a b q => decide (d.toNat < 16) && decide (a.toNat < 16) && (q != 0 || decide (b.toNat < 16))
  | .scmp _ _ _ _ a b q => decide (a.toNat < 16) && (q != 0 || decide (b.toNat < 16))
  | .saddi _ _ d a _ => decide (d.toNat < 16) && decide (a.toNat < 16)
  | .smovi _ _ d _ => decide (d.toNat < 16)
  | .ext _ => true
  | .ldu _ _ d a _ _ f => decide (d.toNat + loadRegs f ≤ 16) && decide (a.toNat < 16)
  | .transS _ _ d t => decide (d.toNat < 16) && decide (t.toNat + 3 < 16)
  | .cpyG2s _ _ _ b _ => decide (b.toNat + 5 < 16)
  | .cpyS2g _ _ _ b _ => decide (b.toNat + 5 < 16)
  | .cpyS2s _ _ _ b _ => decide (b.toNat + 5 < 16)
  | .cpyGth _ _ _ b _ => decide (b.toNat + 5 < 16)
  | .cpySct _ _ _ b _ => decide (b.toNat + 5 < 16)
  | .cpyFill _ _ _ b _ => decide (b.toNat + 5 < 16)
  | .qpush _ _ a _ _ => decide (a.toNat < 16)
  | _ => false

/-- A word's place in the issue rules for a team of groups of `g` lanes: at 64, VBALLOT and VMATCH write a pair (R125,
R149). -/
def infoIn (g : Nat) (i : Instr) : Info :=
  match i with
  | .vballot _ _ d _ => if g = 64 then { infoOf i with writes := pairOf (64 + d.toNat) } else infoOf i
  | .vmatch _ _ d _ => if g = 64 then { infoOf i with writes := pairOf (64 + d.toNat) } else infoOf i
  | _ => infoOf i

def View.info (v : View) (i : Instr) : Info := infoIn v.team.group i

/-! ### Chains and EXT (R63, R71) -/

/-- The word at a place of the packet, if it can be fetched and decodes. -/
def State.wordAhead (s : State) (v : View) (w : Nat) : Option Instr :=
  if 3 ≤ w then none
  else match s.fetch v v.path.pc w with
    | .word x => match decodeWord x with
      | .ok i => some i
      | .error _ => none
    | _ => none

/-- The words after word `w` that chain on from it, EXT words passed over. -/
def State.chainAfter (s : State) (v : View) : Nat → Nat → List (Nat × Instr)
  | 0, _ => []
  | fuel + 1, w =>
    match s.wordAhead v (w + 1) with
    | none => []
    | some (.ext _) => s.chainAfter v fuel (w + 1)
    | some i => (w + 1, i) :: (if (chainOf i).1 = 1 then s.chainAfter v fuel (w + 1) else [])

/-- Writes that a later word of the chain may not name; discarded ones do not count (R68). -/
def chainWrites (g : Nat) (i : Instr) : List Nat := (infoIn g i).writes.filter fun r => r != 63 && r != 135

def usesPipe (i : Instr) : List Pipe := if (infoOf i).pipe = .none then [] else [(infoOf i).pipe]

/-- A later word names a register, predicate or condition that an earlier one writes, or two share a pipe. -/
def chainClash (g : Nat) : List Instr → List Nat → List Pipe → Bool
  | [], _, _ => false
  | i :: rest, ws, ps =>
    ((infoIn g i).reads ++ (infoIn g i).writes).any (ws.contains ·) || (usesPipe i).any (ps.contains ·) ||
      chainClash g rest (ws ++ chainWrites g i) (ps ++ usesPipe i)

/-- The chain that begins at this word is illegal (R63). -/
def State.chainIllegal (s : State) (v : View) (i : Instr) : Bool :=
  if (chainOf i).1 = 0 ∨ v.path.chainAt.isSome then false
  else
    let ws := (v.path.word, i) :: s.chainAfter v 2 v.path.word
    ws.any (fun j => (chainOf j.2).1 == 1 && ((infoOf j.2).ctl || (chainOf j.2).2 != 0 || j.1 == 2)) ||
      chainClash v.team.group (ws.map (·.2)) [] []

/-- The word has an immediate field, whatever else it breaks (R70, R71, R96, R230): an A-format word with BC = 11, SADDI,
VINTI, SMOVI, LDG, STG, LDU, local LDS or STS, BRA, BRC, SPLIT, CALL, RUN. -/
def immediateField (x : Word) : Bool :=
  let maj := bits x.toNat 28 24
  if [2, 5, 6, 8, 10, 13, 14, 15].contains maj then bits x.toNat 5 4 == 3
  else if [18, 19].contains maj then !bit x.toNat 2
  else if maj = 0 then [1, 2, 3, 5].contains (bits x.toNat 23 19)
  else if maj = 25 then bits x.toNat 23 19 == 0
  else [3, 4, 16, 17, 27, 28].contains maj

/-- EXT misused: last in its packet, or before a word without an immediate field (R71). -/
def State.extIllegal (s : State) (v : View) : Bool :=
  if v.path.word = 2 then true
  else match s.fetch v v.path.pc (v.path.word + 1) with
    | .word x => !immediateField x
    | _ => false

/-- A type-code word extended to an immediate other than 0 or 1 (R125). -/
def typeCode : Instr → Bool
  | .vscanAdd _ _ _ _ _ => true
  | .vscanxAdd _ _ _ _ _ => true
  | .vredgAdd _ _ _ _ _ => true
  | .vredgMax _ _ _ _ _ => true
  | _ => false

/-- VBALLOT and VMATCH name a pair when G = 64 (R125). -/
def maskPair (g : Nat) : Instr → Bool
  | .vballot _ _ d _ => g == 64 && d.toNat % 2 == 1
  | .vmatch _ _ d _ => g == 64 && d.toNat % 2 == 1
  | _ => false

/-! ### Decode order (R78) -/

def barrierOf : Instr → Option Nat
  | .bar _ _ b => some b.toNat
  | .bara _ _ b => some b.toNat
  | .barw _ _ b => some b.toNat
  | _ => none

/-- Reserved values, chain and EXT misuse, odd pairs, operand classes, spine operands, and words a runner may not
execute: row 2 of R78. -/
def State.malformed (s : State) (v : View) (i : Instr) : Bool :=
  !i.wellFormed || (v.run && (!runnerMay i || (chainOf i).1 == 1)) || s.chainIllegal v i ||
    (match i with | .ext _ => s.extIllegal v | _ => false) ||
    maskPair v.team.group i || (typeCode i && (match v.path.ext with | some x => x != 0 | none => false)) ||
    (match spineOf i with
     | some b => !s.spineLegal v.team (spineSlotOf b) (spineDistance b)
     | none => false)

/-- The first trap of rows 2 to 5 of R78. -/
def State.decodeTrap (s : State) (v : View) (i : Instr) : Option (BitVec 8 × DWord × Word) :=
  if s.malformed v i then some (0x01, 0, 0)
  else if (match i with | .swr _ _ _ n => n != 19 && n != 20 | _ => false) then some (0x12, 0, 0)
  else
    match ((v.info i).reads ++ (v.info i).writes).find? fun r => decide (64 + v.team.held ≤ r) && decide (r < 128) with
    | some r => some (0x02, BitVec.ofNat 64 (r - 64), 0)
    | none =>
      match barrierOf i with
      | some b => if v.team.nbar ≤ b then some (0x0A, BitVec.ofNat 64 b, 0) else none
      | none => none

/-- The number of a register within its class. -/
def classNumber (r : Nat) : Nat := if r < 64 then r else if r < 128 then r - 64 else if r < 136 then r - 128 else r - 136

/-- The lanes in which a register of a word is read or written: lane 0 for team-uniform ones. -/
def View.lanesOf (v : View) (r : Nat) : List Nat := if 64 ≤ r ∧ r < 136 then v.active else [0]

/-- A fixed-latency read, or a read or write of a counted register, comes too early (R66, R67).  A write that names s63 or p7 counts
though it is discarded (log 9). -/
def View.tooEarly (v : View) (i : Instr) : Option Nat :=
  let info := v.info i
  match info.reads.find? fun r => r != 63 && r != 135 && ((v.lanesOf r).any fun l =>
      (v.path.lagged r (l / 32) (l % 32) (v.time + if 64 ≤ r ∧ r < 136 then v.passAt l else 0)).isSome ||
        v.team.ops.any fun o => o.hits v r l) with
  | some r => some r
  | none => info.writes.find? fun r => (v.lanesOf r).any fun l => v.team.ops.any fun o => o.hits v r l

/-- QPUSH takes a poisoned pair as a poisoned entry (R234). -/
def takesPoison : Instr → Bool
  | .qpush _ _ _ _ _ => true
  | _ => false

/-- The first poisoned source: its number as R344 gives it, and the PC of its load (R47). -/
def View.poisoned (v : View) (i : Instr) : Option (Nat × Nat) :=
  if takesPoison i then none
  else
    (infoOf i).reads.findSome? fun r =>
      if r < 64 then (if r = 63 ∧ !v.run then none else (v.path.poison.find? fun q => q.1 == r).map fun q => (r, q.2))
      else if r < 128 then
        (v.team.vpoison.find? fun q => q.1 == r - 64 && laneOn v.path.mask q.2.1).map fun q => (r, q.2.2)
      else none

/-- A runner's word waits until every register it names has returned: its results are interlocked (R232). -/
def View.interlocked (v : View) (i : Instr) : Bool :=
  v.run && ((infoOf i).reads ++ (infoOf i).writes).any fun r => v.team.ops.any fun o => o.hits v r 0

end Sys2Proof.Machine
end

