-- ==== Sys2Proof/Machine/Hold.lean ====
section
/-!
DEFINITION. What holds a path from issuing its next word: the stall reasons of R298, for every word, from the
state alone.  The lowest that holds is the one reported (R63, R299).
-/

namespace Sys2Proof.Machine

/-- Outstanding operations on a counter (R52). -/
def Team.count (t : Team) (code : Nat) : Nat := (t.ops.filter fun o => o.code == code).length

/-- The counter an issued word raises (R52, R112). -/
def counterOf (run : Bool) : Instr → Option Nat
  | .ldg _ _ _ _ _ _ _ => some 0
  | .ldu _ _ _ _ _ _ _ => if run then none else some 0
  | .rsvq _ _ _ _ => some 0
  | .blnq _ _ _ => some 0
  | .blkq _ _ _ _ => some 0
  | .lds _ _ _ _ _ _ _ => some 1
  | .ldsR _ _ _ _ _ _ _ => some 1
  | .trans _ _ _ _ _ => some 4
  | .transS _ _ _ _ => if run then none else some 4
  | .stg _ _ _ _ _ _ _ => some 6
  | .cwb _ _ _ _ => some 6
  | .cinv _ _ _ _ => some 6
  | .pgsurr _ _ _ _ _ => some 6
  | .cag _ _ _ _ => some 5
  | .crs _ _ _ _ => some 5
  | .car _ _ _ _ => some 5
  | .ca2a _ _ _ _ => some 5
  | .cbar _ _ _ => some 5
  | i => if (infoOf i).pipe = .sfu then some 2 else none

/-- The order, scope and space of an atomic. -/
def atomicOf : Instr → Option (Nat × Nat × Nat)
  | .atomAdd _ _ _ _ o e p _ => some (o.toNat, e.toNat, p.toNat)
  | .atomMin _ _ _ _ o e p _ => some (o.toNat, e.toNat, p.toNat)
  | .atomMax _ _ _ _ o e p _ => some (o.toNat, e.toNat, p.toNat)
  | .atomMinu _ _ _ _ o e p _ => some (o.toNat, e.toNat, p.toNat)
  | .atomMaxu _ _ _ _ o e p _ => some (o.toNat, e.toNat, p.toNat)
  | .atomAnd _ _ _ _ o e p _ => some (o.toNat, e.toNat, p.toNat)
  | .atomOr _ _ _ _ o e p _ => some (o.toNat, e.toNat, p.toNat)
  | .atomXor _ _ _ _ o e p _ => some (o.toNat, e.toNat, p.toNat)
  | .atomExch _ _ _ _ o e p _ => some (o.toNat, e.toNat, p.toNat)
  | .atomCas _ _ _ _ o e p _ => some (o.toNat, e.toNat, p.toNat)
  | .atomFaddF32 _ _ _ _ o e p _ => some (o.toNat, e.toNat, p.toNat)
  | .atomFaddBf16x2 _ _ _ _ o e p _ => some (o.toNat, e.toNat, p.toNat)
  | .atomLd _ _ _ _ o e p _ => some (o.toNat, e.toNat, p.toNat)
  | .atomSt _ _ _ _ o e p _ => some (o.toNat, e.toNat, p.toNat)
  | .atomAddW _ _ _ _ o e p _ => some (o.toNat, e.toNat, p.toNat)
  | _ => none

/-- The address register and the space of an atomic. -/
def atomicBase : Instr → Option (BitVec 6 × BitVec 1)
  | .atomAdd _ _ _ a _ _ p _ => some (a, p)
  | .atomMin _ _ _ a _ _ p _ => some (a, p)
  | .atomMax _ _ _ a _ _ p _ => some (a, p)
  | .atomMinu _ _ _ a _ _ p _ => some (a, p)
  | .atomMaxu _ _ _ a _ _ p _ => some (a, p)
  | .atomAnd _ _ _ a _ _ p _ => some (a, p)
  | .atomOr _ _ _ a _ _ p _ => some (a, p)
  | .atomXor _ _ _ a _ _ p _ => some (a, p)
  | .atomExch _ _ _ a _ _ p _ => some (a, p)
  | .atomCas _ _ _ a _ _ p _ => some (a, p)
  | .atomFaddF32 _ _ _ a _ _ p _ => some (a, p)
  | .atomFaddBf16x2 _ _ _ a _ _ p _ => some (a, p)
  | .atomLd _ _ _ a _ _ p _ => some (a, p)
  | .atomSt _ _ _ a _ _ p _ => some (a, p)
  | .atomAddW _ _ _ a _ _ p _ => some (a, p)
  | _ => none

/-- A control word takes one pass, whatever it reads (R21). -/
def takesOnePass : Instr → Bool
  | .split _ _ _ _ => true
  | .spawn _ _ _ _ _ => true
  | .qpop _ _ _ _ => true
  | _ => false

/-- The view with the passes that the word takes by itself (R21, R264). -/
def View.alone (v : View) (i : Instr) : View :=
  if takesOnePass i then v.onePass
  else match i with
  | .ldg _ _ _ a o _ f => v.byLines fun u l => address (u.vPair a.toNat l) (immOff v.path.ext o) (loadSize f.toNat)
  | .stg _ _ _ a o _ f => v.byLines fun u l => address (u.vPair a.toNat l) (immOff v.path.ext o) (storeSize f.toNat)
  | i => match atomicBase i with
    | some (a, p) => if p = 0 then v.byLines fun u l => (u.vPair a.toNat l).toNat else v
    | none => v

/-- Cycles from a word's first pass to its last, the last one counted: one pass per active slice where it works on lanes
(R21), each as long as its lines for a global access (R264); those of the chain for a word of one (R63). -/
def View.passCount (v : View) (i : Instr) : Nat :=
  let info := infoOf i
  if v.span ≠ 0 then v.span
  else if v.cycles ≠ 0 then (v.starts.zip v.path.mask).foldl (fun n e => if e.2 = 0 then n else e.1 + 1) 1
  else if info.pipe = .vector ∨ info.pipe = .sfu ∨
      (info.pipe = .memory ∧ (info.reads ++ info.writes).any fun r => decide (64 ≤ r) && decide (r < 136)) then
    max 1 (passes v.path.mask)
  else 1

/-- The X that an EXT before a word of the packet gives it (R71). -/
def State.extAhead (s : State) (v : View) (w : Nat) : Option (BitVec 24) :=
  match s.wordAhead v (w - 1) with
  | some (.ext x) => some x
  | _ => none

/-- The view of a word of a chain: the passes of the chain run in step, so each slice's pass comes when the slowest word's does
(R63). -/
def View.inStep (v : View) (i : Instr) (pace : List Nat) (held span : Nat) : View :=
  let u := v.alone i
  { u with starts := if takesOnePass i || pace.isEmpty then u.starts else pace, cycles := held, pace := pace, span := span }

/-- The view with the passes that the word takes (R21, R63, R264). -/
def State.paced (s : State) (v : View) (i : Instr) : View :=
  if v.path.chainAt.isSome then v.inStep i v.path.pace v.path.held v.path.span
  else if (chainOf i).1 = 1 then
    let later := (s.chainAfter v 2 v.path.word).map fun j =>
      (j.2, ({ v with path := { v.path with ext := s.extAhead v j.1 } }).alone j.2)
    let words := (i, v.alone i) :: later
    v.inStep i (((words.find? fun e => e.2.cycles != 0).map (·.2.starts)).getD []) (words.foldl (fun n e => max n e.2.cycles) 0)
      (words.foldl (fun n e => max n (e.2.passCount e.1)) 1)
  else v.alone i

/-- Copy words: the queue they enter. -/
def copyOf : Instr → Option Nat
  | .cpyG2s _ _ q _ _ => some q.toNat
  | .cpyS2g _ _ q _ _ => some q.toNat
  | .cpyS2s _ _ q _ _ => some q.toNat
  | .cpyGth _ _ q _ _ => some q.toNat
  | .cpySct _ _ q _ _ => some q.toNat
  | .cpyFill _ _ q _ _ => some q.toNat
  | _ => none

/-- The commands that enter the matrix graph, OP 0 to 6 (R194). -/
def matrixOf : Instr → Bool
  | .mzero _ _ _ _ _ _ => true
  | .mload _ _ _ _ _ _ => true
  | .mloads _ _ _ _ _ _ => true
  | .mswap _ _ _ _ _ => true
  | .mstream _ _ _ _ _ _ => true
  | .mstore _ _ _ _ _ _ => true
  | .mscale _ _ _ _ _ _ => true
  | _ => false

/-- A word that reads or writes memory: what an acquire holds (R115, R171, R243). -/
def accessWord : Instr → Bool
  | .ldg _ _ _ _ _ _ _ => true
  | .stg _ _ _ _ _ _ _ => true
  | .ldu _ _ _ _ _ _ _ => true
  | .lds _ _ _ _ _ _ _ => true
  | .sts _ _ _ _ _ _ _ => true
  | .ldsR _ _ _ _ _ _ _ => true
  | .stsR _ _ _ _ _ _ _ => true
  | .launch _ _ _ => true
  | .cwb _ _ _ _ => true
  | .cinv _ _ _ _ => true
  | .trans _ _ _ _ _ => true
  | .transS _ _ _ _ => true
  | .pgsurr _ _ _ _ _ => true
  | .spawn _ _ _ _ _ => true
  | .cgrp _ _ _ _ => true
  | i => (atomicOf i).isSome

/-- Reads that a release waits for, and writes it waits for (R115, R243); engine operations are not covered (R247). -/
def Op.isRead (o : Op) : Bool := o.code == 0 || o.code == 1
def Op.isWrite (o : Op) : Bool :=
  match o.kind with
  | .remote _ _ _ => true
  | _ => o.code == 6

/-- Whether a release at a scope still waits for this operation: a global write counts as performed at team and core
scope once it has issued, a remote scratchpad write only at its bank (R241); CWB and CINV are waited for at every scope
(R246). -/
def Op.blocksRelease (o : Op) (scope : Nat) : Bool :=
  let always : Bool := match o.kind with
    | .remote _ _ _ => true
    | .cwb _ _ => true
    | _ => false
  !o.byRunner && (o.isRead || (o.isWrite && (always || decide (2 ≤ scope))))

/-- The scope of a release that a word performs at issue. -/
def releaseScope (v : View) : Instr → Option Nat
  | .launch _ _ _ => some 4
  | .spawn _ _ _ _ _ => some 2
  | .cbar _ _ g => match v.team.groups[g.toNat]? with
    | some k => if (wordAt k.words 1).toNat % 128 ≠ 0 then some 5 else
        if (wordAt k.words 0).getLsbD 26 then some 4 else
        if bits (wordAt k.words 0).toNat 23 22 = 0 ∧ bits (wordAt k.words 0).toNat 25 24 = 0 then some 2 else some 3
    | none => some 2
  | i => match atomicOf i with
    | some (o, e, p) => if o = 2 ∨ o = 3 then some (if p = 1 ∧ 3 ≤ e then 2 else e) else none
    | none => none

/-- An operation of the team precedes the next word of a path in program order (R237); those of a path that has exited count. -/
def Op.precedes (o : Op) (p : Path) : Bool :=
  o.pid == p.pid || o.pid == 0 || p.before.any fun e => e.1 == o.pid && decide (o.id < e.2)

/-- The release that a word performs at issue waits for this operation of its team (R243): LAUNCH's and SPAWN's await their own
path's accesses only (R242, R330). -/
def View.releaseOp (v : View) (i : Instr) (o : Op) : Bool :=
  match releaseScope v i with
  | some e => o.blocksRelease e && (match i with
    | .launch _ _ _ => o.precedes v.path
    | .spawn _ _ _ _ _ => o.precedes v.path
    | _ => true)
  | none => false

/-- Writes of the core's other teams that a release of theirs has placed first: a release at cluster scope or wider waits for them too,
since they happen before it where its team has acquired from those releases (R243; DEDUCED, log 84). -/
def State.pastReleases (s : State) (v : View) (scope : Nat) : List Nat :=
  if scope < 2 then []
  else ((s.coreOps v.core).filter fun e => e.1 != v.team.uid && e.2.released && e.2.isWrite && !e.2.done).map (·.2.id)

/-- The release that a word performs at issue still waits. -/
def State.releaseHeld (s : State) (v : View) (i : Instr) : Bool :=
  (v.team.ops.any fun o => v.releaseOp i o) || (match releaseScope v i with
    | some e => !(s.pastReleases v e).isEmpty
    | none => false)

/-- The path's phase of a barrier has not completed. -/
def State.phaseOpen (s : State) (v : View) (b n : Nat) : Bool :=
  match s.cohort v.core v.team.cohort with
  | none => false
  | some h => decide (((Table.get h.bars b).getD ⟨0, []⟩).phase ≤ n)

/-- The team's unretired matrix commands. -/
def State.commandsOf (s : State) (c uid : Nat) : List MatCmd := (s.core c).mtx.window.filter fun m => m.team == uid

/-- Batches that MWAIT with operand `w` waits for hold an unretired command (R209). -/
def State.batchOpen (s : State) (v : View) (w : Word) : Bool :=
  (s.commandsOf v.core v.team.uid).any fun m => m.batch != v.team.batch && decide ((w - m.batch).toNat < 2 ^ 31)

/-! ### Register blocks and pipes -/

/-- Bytes of a core's register region that resident teams hold (R19, R30). -/
def Core.regBytes (k : Core) : Nat := k.teams.foldl (fun n e => n + e.2.frameBytes) 0

/-- The extended block of a team can be granted: its frames are free and no older team's GROW is pending (R31). -/
def State.canGrow (s : State) (c : Nat) (t : Team) : Bool :=
  let k := s.core c
  decide (k.regBytes + t.lanes * t.extn * 4 ≤ 16384 * k.bndReg) &&
    !(k.teams.any fun e => e.2.growPending && decide (e.2.age < t.age))

/-- The place of a core's pipe in State.pipes: the two vector pipes, scalar, memory, engine, SFU (R64); the schedulers
follow at 6 and 7. -/
def pipeIndex (slot : Nat) : Pipe → Option Nat
  | .vector => some (slot % 2)
  | .scalar => some 2
  | .memory => some 3
  | .engine => some 4
  | .sfu => some 5
  | .none => none

/-- The cycle from which a pipe or scheduler of a core is free (R339). -/
def State.freeAt (s : State) (c i : Nat) : Nat := ((Table.get s.pipes c).getD []).getD i 0

/-- The pipe that a word needs is taken by earlier passes (R339). -/
def State.pipeBusy (s : State) (v : View) (i : Instr) : Bool :=
  match pipeIndex v.slot (infoOf i).pipe with
  | some n => decide (v.time < s.freeAt v.core n)
  | none => false

/-- The page that parks this path or runner is still to come, or an earlier parked one replays first (R191, R267). -/
def State.pageHolds (s : State) (q : Option (Nat × Nat × Nat)) : Bool :=
  match q with
  | none => false
  | some (pg, _, n) =>
    (s.page pg).state == .migrating || ((s.page pg).state == .remote && (s.page pg).queued.isSome) ||
      s.resident.any fun e => [e.2.2.pathA.bind (·.parked), e.2.2.pathB.bind (·.parked), e.2.2.runner.parked].any fun r =>
        match r with
        | some (pg', _, n') => pg' == pg && decide (n' < n)
        | none => false

/-- A command of a team is still in its queue or its window. -/
def State.commandOut (s : State) (c : Nat) (t : Team) (id : Nat) : Bool :=
  (t.ops.any fun o => o.id == id && !o.done) || (s.core c).mtx.window.any fun m => m.seq == id && m.team == t.uid

/-- The command that a step to retire names has retired, or the path has issued none (R303). -/
def State.retiredStep (s : State) (v : View) : Bool :=
  match v.team.step with
  | some (_, true) => match v.team.stepCommand with
    | some id => !s.commandOut v.core v.team id
    | none => true
  | _ => false

/-- A path is parked, or was when its team was saved: the access replays before a stop takes effect (R191, R304). -/
def Path.pending (p : Path) : Bool := p.parked.isSome || p.replay

/-- A path waits for a crucible's grant (R175). -/
def Path.asking (p : Path) : Bool :=
  match p.refill with
  | some (a, b) => a + b != 0
  | none => false

/-- Reasons that hold the path whatever its next word is.  A parked access of a stopped team replays first (R304); the runner of a
stopped team goes on (log 20). -/
def State.pathReasons (s : State) (v : View) : List Nat :=
  let t := v.team
  let held : Bool := match t.handler with
    | some h => !v.run && h.path != v.side
    | none => false
  let step : Bool := match t.step with
    | some (side, false) => side != v.side && !v.run
    | _ => false
  let mate := if v.run then none else t.at (!v.side)
  let park := s.pageHolds v.path.parked || (mate.any fun p => p.parked.isSome)
  let stop := (t.stopped && !v.path.pending) || t.entry.isSome || s.retiredStep v
  (if !v.run && (stop || held || step) then [23] else []) ++ (if t.yielding then [21] else []) ++
    (if park then [20] else []) ++ (if t.pointWait then [24] else []) ++
    (if v.path.joined then [15] else []) ++
    (if !v.path.releaseOps.isEmpty && (s.coreOps v.core).any (fun e => v.path.releaseOps.contains e.2.id) then [9] else []) ++
    (if v.path.asking || mate.any Path.asking then [18] else [])

/-- Counters on which an earlier acquire of the path holds this word (R115, R171). -/
def View.acquireReasons (v : View) (i : Instr) : List Nat :=
  let pend := fun code => v.team.ops.any fun o => v.path.acquireOps.contains o.id && o.code == code
  if accessWord i then (if pend 0 then [3] else []) ++ (if pend 1 then [4] else []) else []

/-- What a queue of the sprue keeps a word waiting for (R234, R235). -/
def View.queueReasons (v : View) : Instr → List Nat
  | .qpop _ _ _ q =>
    let t := v.team
    if t.runner.running && decide ((t.queues.getD q.toNat []).length < v.active.length) && decide (v.active.length ≤ 32) then [12] else []
  | .qpops _ _ _ q => if v.team.runner.running && (v.team.queues.getD q.toNat []).isEmpty then [12] else []
  | .qpush _ _ _ q _ => if 32 ≤ (v.team.queues.getD q.toNat []).length then [16] else []
  | _ => []

/-- A FENCE of core.rmt waits for the team's earlier reads, and where the promotion cannot yet be made (R115, R244). -/
def State.rmtReasons (s : State) (v : View) (o : BitVec 2) (e : BitVec 3) : List Nat :=
  if (o == 1 || o == 3) && e == 6 then
    (if v.team.ops.any fun o => !o.byRunner && o.code == 0 then [3] else []) ++
      (if v.team.ops.any fun o => !o.byRunner && o.code == 1 then [4] else []) ++ (if s.promoteHeld then [9] else [])
  else []

/-- A BAR waits for the phase in which it has arrived (R113). -/
def State.barReasons (s : State) (v : View) (b : BitVec 4) : List Nat :=
  match v.path.bar with
  | some (.phase b' n) => if b' = b.toNat ∧ s.phaseOpen v b' n then [10] else []
  | _ => []

/-- What holds a word that may have begun to wait: its phase, its block, its acquire. -/
def State.begunReasons (s : State) (v : View) : Instr → List Nat
  | .bar _ _ b => s.barReasons v b
  | .grow _ _ => if v.team.growPending then [14] else []
  | .fence _ _ o e => s.rmtReasons v o e
  | _ => []

/-- What holds a later word of a chain that has issued: an access, a release or a queue that an earlier word of the chain, or what
has happened while one of them was checked, concerns, and what it waits for itself (R63, R234, R235, R243). -/
def State.chainReasons (s : State) (v : View) (i : Instr) : List Nat :=
  v.acquireReasons i ++ (if s.releaseHeld v i then [9] else []) ++ v.queueReasons i ++ s.begunReasons v i

/-- What a FENCE of a chain would hold a later word of it for: the chain waits until it holds it no more (R63, R115). -/
def State.fenceReasons (s : State) (v : View) (f i : Instr) : List Nat :=
  match f with
  | .fence _ _ o e =>
    (if (o == 2 || o == 3) && ((v.team.ops.any fun o => o.blocksRelease e.toNat) || !(s.pastReleases v e.toNat).isEmpty) then [9] else []) ++
      (if (o == 1 || o == 3) && accessWord i then
        (if v.team.ops.any fun o => !o.byRunner && o.code == 0 then [3] else []) ++
          (if v.team.ops.any fun o => !o.byRunner && o.code == 1 then [4] else [])
      else [])
  | _ => []

/-- The same over the words of a chain. -/
def State.fencedChain (s : State) (v : View) : List Instr → List Nat
  | [] => []
  | f :: rest => rest.flatMap (s.fenceReasons v f) ++ s.fencedChain v rest

/-- Reasons that hold this word. -/
def State.wordReasons (s : State) (v : View) (i : Instr) : List Nat :=
  let t := v.team
  let acq := v.acquireReasons i
  let full := match counterOf v.run i with
    | some k => if 63 ≤ t.count k then [16] else []
    | none => []
  let atomFull := match atomicOf i with
    | some (_, _, p) => if 63 ≤ t.count (if p = 1 then 1 else 0) then [16] else []
    | none => []
  let cpy := match copyOf i with
    | some q =>
      let n := ((s.core v.core).teams ++ (s.core v.core).evicted).foldl (fun n e => n + (e.2.ops.filter fun o => match o.kind with
        | .copy q' _ _ _ _ => q' == q && !o.done
        | _ => false).length) 0
      if 16 ≤ n ∨ 63 ≤ t.count 3 then [16] else []
    | none => []
  let mtx := if matrixOf i then
      (if 32 ≤ (s.core v.core).mtx.window.length || (match (s.core v.core).mtx.owner with
        | some o => o != (t.ctx, t.launch)
        | none => (s.ctx t.ctx).saved.any fun e => e.core == v.core && e.mtx.isSome) then [16] else [])
    else []
  let rel := if s.releaseHeld v i then [9] else []
  let spine := match spineOf i with
    | some b => match s.spineRead t (spineSlotOf b) (spineDistance b) with
      | .absent _ => [13]
      | _ => []
    | none => []
  let lock := if v.interlocked i then [16] else []
  let own := match i with
    | .waitc _ _ h a =>
      if h = 5 ∧ !t.mismatches.isEmpty then [] else
      if (v.s a.toNat 0).toNat < t.count h.toNat then [3 + h.toNat] else []
    | .waitci _ _ h n =>
      if h = 5 ∧ !t.mismatches.isEmpty then [] else if n.toNat < t.count h.toNat then [3 + h.toNat] else []
    | .qfence _ _ m =>
      if m.getLsbD 3 && !t.mismatches.isEmpty then [] else
      let copies := fun q => t.ops.any fun o => match o.kind with
        | .copy q' _ _ _ _ => q' == q && !o.done
        | _ => false
      (if (m.getLsbD 0 && copies 0) || (m.getLsbD 1 && copies 1) then [6] else []) ++
        (if m.getLsbD 2 && t.count 4 != 0 then [7] else []) ++ (if m.getLsbD 3 && t.count 5 != 0 then [8] else []) ++
        (if m.getLsbD 4 && !(s.commandsOf v.core t.uid).isEmpty then [11] else [])
    | .barw _ _ b => match Table.get t.arrivals b.toNat with
      | some n => if s.phaseOpen v b.toNat n then [10] else []
      | none => []
    | .bar _ _ b => match v.path.bar with
      | some (.phase _ _) => s.barReasons v b
      | _ => match Table.get t.arrivals b.toNat with
        | some n => if s.phaseOpen v b.toNat n then [10] else []
        | none => []
    | .bara _ _ b => match v.path.bar with
      | some (.phase _ _) => []
      | _ => match Table.get t.arrivals b.toNat with
        | some n => if s.phaseOpen v b.toNat n then [10] else []
        | none => []
    | .mwait _ _ b => if s.batchOpen v (v.s (2 * b.toNat) 0) then [11] else []
    | .qpush _ _ _ _ f =>
      let copies := t.ops.any fun o => o.byRunner == v.run && !o.done && (match o.kind with
        | .copy _ _ _ _ _ => true
        | _ => false)
      if f == 1 && copies then [16] else []
    | .fence _ _ o e => s.rmtReasons v o e
    | .launch _ _ _ => if 1024 ≤ (s.ctx t.ctx).launches.length then [16] else []
    | .grow _ _ => if t.growPending then [14] else []
    | .pgsurr _ _ _ _ n => if v.s n.toNat 0 != 0 && t.ops.any fun o => o.blocksRelease 4 then [9] else []
    | _ => []
  v.queueReasons i ++ acq ++ full ++ atomFull ++ cpy ++ mtx ++ rel ++ spine ++ lock ++ own ++ (if s.pipeBusy v i then [16] else [])

/-- The lowest of the reasons; the whole-team ones come first, in the order 23, 21, 20, 24 (R299). -/
def leastReason (rs : List Nat) : Option Nat :=
  match [23, 21, 20, 24].find? rs.contains with
  | some r => some r
  | none => rs.foldl (fun m r => match m with
    | none => some r
    | some k => some (min k r)) none

/-- A later word of a chain waits for its block if it is a GROW that does not trap (R28, R30, R31, R63). -/
def State.growReasons (s : State) (v : View) : Instr → List Nat
  | .grow _ _ => if v.team.granted || v.team.extHeld || v.team.extn == 0 || v.team.two || s.canGrow v.core v.team then [] else [14]
  | _ => []

/-- What holds a word, or the words of the chain that begins with it; once a chain has issued, its later words wait only for what
its own words, and the time of their checks, have brought (R63).  A CPY before a QPUSH.F of one chain is no earlier copy of it
(log 28). -/
def State.reasons (s : State) (v : View) (i : Instr) : List Nat :=
  if v.path.chainAt.isSome then s.chainReasons v i
  else
    let rest := if (chainOf i).1 = 1 then s.chainAfter v 2 v.path.word else []
    s.wordReasons v i ++ (rest.flatMap fun j => s.wordReasons v j.2 ++ s.growReasons v j.2) ++ s.fencedChain v (i :: rest.map (·.2))

def State.holds (s : State) (v : View) (i : Instr) : Option Nat := leastReason (s.pathReasons v ++ s.reasons v i)

end Sys2Proof.Machine
end

