-- ==== Sys2Proof/Machine/Issue.lean ====
section
/-!
DEFINITION. Issuing a word: the decode-order checks, what holds it, its effect, and where its path stands
afterwards (R61 to R66, R78, R264, R339, R341).
-/

namespace Sys2Proof.Machine

/-- Time reaches the word's issue cycle (R65; log 2). -/
def State.reach (s : State) (v : View) : State :=
  let n := v.time - s.cycle v.core
  if n = 0 then s else (s.passCycles (dieOf v.core) n).passTicks n

/-- One more word has used its free choices (log 3). -/
def State.used (s : State) : State := { s with fresh := s.fresh + 1 }

/-- The path issues again at once: the rest of a chain, or the word an EXT extends (R63, R71). -/
def State.again (s : State) (v : View) : State :=
  { s with agenda := (if v.run then Turn.runner v.core v.slot else Turn.issue v.core v.slot v.side) :: s.agenda }

/-- A word waits one cycle with its stall reason (R298). -/
def State.waiting (s : State) (v : View) (reason : Nat) : State :=
  (((s.modPath v fun p => { p with stall := reason }).passCycles (dieOf v.core) 1).passTicks 1).used

/-- A word whose own effect waits, or asks for what it needs: its path is held from now on, with its stall reason (R298). -/
def State.held (s : State) (v : View) (reason : Nat) : State := (s.modPath v fun p => { p with stall := reason }).used

/-- The word has taken its pipe from its issue cycle on, and its scheduler for that cycle; a runner's word has taken the scalar
pipe (R232, R264, R339). -/
def State.occupy (s : State) (v : View) (i : Instr) : State :=
  let now := (Table.get s.pipes v.core).getD (List.replicate 8 0)
  let now := match pipeIndex v.slot (infoOf i).pipe with
    | some n => now.set n (v.time + max v.cycles (v.passCount i))
    | none => now
  let now := if v.run then now.set 2 (max (now.getD 2 0) (v.time + 1)) else now.set (6 + v.slot % 2) (v.time + 1)
  { s with pipes := Table.put s.pipes v.core now }

/-- A step of the debugger ends with the word (R303). -/
def State.endStep (s : State) (v : View) : State :=
  match (s.teamOf v).step with
  | some (side, false) =>
    if !v.run && side == v.side then s.stopHere v.core v.slot v.side 2 else s
  | _ => s

/-- A command that a stepped word issued is the one that a step to retire names (R292). -/
def State.noteCommand (s : State) (v : View) (id : Nat) : State :=
  match (s.teamOf v).step with
  | some (side, false) => if !v.run && side == v.side then s.modPath v fun p => { p with lastCommand := some id } else s
  | _ => s

/-- A word whose checks suspend fetch (R341). -/
def suspendsFetch : Instr → Bool
  | .lds _ _ _ _ _ _ _ => true
  | .sts _ _ _ _ _ _ _ => true
  | .cgrp _ _ _ _ => true
  | .rsvq _ _ _ _ => true
  | .blnq _ _ _ => true
  | .blnack _ _ _ => true
  | .blkq _ _ _ _ => true
  | .mload _ _ _ _ _ _ => true
  | .mloads _ _ _ _ _ _ => true
  | .mstream _ _ _ _ _ _ => true
  | .mscale _ _ _ _ _ _ => true
  | .mstore _ _ _ _ _ _ => true
  | .cag _ _ _ _ => true
  | .crs _ _ _ _ => true
  | .car _ _ _ _ => true
  | .ca2a _ _ _ _ => true
  | i => accessWord i || (copyOf i).isSome

/-- The path after a completed word: the next word, the chain or EXT in progress, the earliest next cycle (R61,
R63, R65). -/
def View.advance (v : View) (i : Instr) (p : Path) : Path :=
  let ext := match i with | .ext _ => true | _ => false
  let more := (chainOf i).1 == 1
  { p with
    pc := if p.word = 2 then p.pc + 1 else p.pc
    word := if p.word = 2 then 0 else p.word + 1
    ext := if ext then p.ext else none
    chainAt := if ext then p.chainAt else if more then some v.time else none
    pace := if ext then p.pace else if more then v.pace else []
    held := if ext then p.held else if more then v.cycles else 0
    span := if ext then p.span else if more then v.span else 0
    nextAt := if ext then p.nextAt else max p.nextAt (v.time + v.passCount i + (chainOf i).2.toNat)
    passesTo := if ext then p.passesTo else max p.passesTo (v.time + v.passCount i)
    stall := 0
    passed := ext && p.passed
    issuedAt := some v.time
    exempt := ext && p.exempt
    replay := false
    checked := suspendsFetch i }

/-- After a word of a team its path is the last to have issued; after a word of a runner that RSTOP has named, the
runner stops (R231). -/
def Team.issued (t : Team) (v : View) : Team :=
  if v.run then
    (if t.runner.stopping then { t with runner := { t.runner with running := false, stopping := false } } else t)
  else { t with lastPath := v.side }

/-- A word done. -/
def State.finish (s : State) (v : View) (i : Instr) : State :=
  let s := (((s.modPath v (v.advance i)).used).modTeam v fun t => t.issued v).occupy v i
  if (match i with | .ext _ => true | _ => (chainOf i).1 == 1) then s.again v else s.endStep v

/-- Control transferred to a packet (R62). -/
def View.land (v : View) (i : Instr) (pc : Nat) (p : Path) : Path :=
  { p with pc := pc, word := 0, ext := none, chainAt := none, pace := [], held := 0, span := 0, stall := 0, passed := false,
           issuedAt := some v.time, exempt := false, replay := false, checked := false,
           nextAt := max p.nextAt (v.time + v.passCount i + (chainOf i).2.toNat), passesTo := max p.passesTo (v.time + v.passCount i) }

def State.transfer (s : State) (v : View) (i : Instr) (pc : Nat) : State :=
  ((((s.modPath v (v.land i pc)).used).modTeam v fun t => t.issued v).occupy v i).endStep v

/-- What an effect leaves. -/
def State.settleWord (s : State) (v : View) (i : Instr) : Effect → State
  | .done s' => s'.finish v i
  | .jump s' pc => s'.transfer v i pc
  | .trap cause fault aux => (s.trapView v cause fault aux 0).used
  | .trapFp flags => (s.trapView v 0x11 0 0 flags).used
  | .wait s' reason => s'.held v reason
  | .ended s' => (s'.used).occupy v i

/-- The item whose poisoned spine value the word reads, with the slot (R42). -/
def State.spinePoison (s : State) (v : View) (i : Instr) : Option (Nat × Nat) :=
  match spineOf i with
  | none => none
  | some b => match s.spineRead v.team (spineSlotOf b) (spineDistance b) with
    | .poison item => some (item, spineSlotOf b)
    | _ => none

/-- The reason that keeps the path from being looked at at all: its team stopped, held, yielding, parked or waiting
for the operating point, or the path at its JOIN (R25, R298). -/
def State.frozen (s : State) (v : View) : Option Nat :=
  leastReason ((s.pathReasons v).filter fun r => [15, 20, 21, 23, 24].contains r)

/-- What holds the word depends on registers that it reads (R112, R186, R209). -/
def holdReads : Instr → Bool
  | .waitc _ _ _ _ => true
  | .mwait _ _ _ => true
  | .pgsurr _ _ _ _ _ => true
  | _ => false

/-- Rows 6 and 7 of R78: registers read or written too early, and poisoned sources; a word retried after trap 0x03 is not
refused again (R344). -/
def View.sourceTrap (v : View) (i : Instr) : Option (BitVec 8 × DWord × Word) :=
  match (if v.team.checkSb && !v.run && !v.path.exempt then v.tooEarly i else none) with
  | some r => some (0x03, BitVec.ofNat 64 (classNumber r), 0)
  | none => (v.poisoned i).map fun e => (0x06, BitVec.ofNat 64 e.1, BitVec.ofNat 32 e.2)

/-- A word that a trap stops, at its issue cycle. -/
def State.stopWord (s : State) (v : View) (cause : BitVec 8) (fault : DWord) (aux : Word) : State :=
  ((s.reach v).trapView v cause fault aux 0).used

/-- A GROW that waits in a chain is to ask for its block (R31, R63). -/
def State.asksGrow (s : State) (v : View) (i : Instr) : Bool :=
  (chainOf i).1 == 1 && !v.path.chainAt.isSome && (s.chainAfter v 2 v.path.word).any fun j => s.growReasons v j.2 != []

def State.askGrow (s : State) (v : View) (i : Instr) : State :=
  if s.asksGrow v i then s.modTeam v fun t => { t with growPending := true } else s

/-- A word that a reason holds: a cycle passes, unless a GROW later in its chain asks for its block (R31, R298). -/
def State.heldBack (s : State) (v : View) (i : Instr) (r : Nat) : State :=
  if s.asksGrow v i && !v.team.growPending then (s.askGrow v i).held v r else s.waiting v r

/-- What holds a word, or stops it at issue: none, or the state it leaves (R63, R78, R41, R42). -/
def State.atHold (s : State) (v : View) (i : Instr) : Option State :=
  match s.holds v i with
  | some r => some (s.heldBack v i r)
  | none =>
    match v.sourceTrap i with
    | some (cause, fault, aux) => some (s.stopWord v cause fault aux)
    | none => (s.spinePoison v i).map fun e => s.stopWord v 0x0F (BitVec.ofNat 64 e.1) (BitVec.ofNat 32 e.2)

/-- What stops or holds a word before its own meaning: none, or the state it leaves (R78, R63, R41). -/
def State.before (s : State) (v : View) (i : Instr) : Option State :=
  match s.frozen v with
  | some r => some (s.waiting v r)
  | none =>
  match s.decodeTrap v i with
  | some (cause, fault, aux) => some (s.stopWord v cause fault aux)
  | none =>
    match (if holdReads i then v.sourceTrap i else none) with
    | some (cause, fault, aux) => some (s.stopWord v cause fault aux)
    | none => s.atHold v i

/-- The state a word's own meaning starts from. -/
def State.atIssue (s : State) (v : View) : State :=
  let s := s.reach v
  if v.path.pending then s.modPath v fun p => { p with parked := none, replay := false } else s

/-- A word executed by the agent of the focus: the shared part of every word's meaning.  Where the focus names no live path,
nothing happens. -/
def issueWord (i : Instr) (eff : State → View → Effect) (s : State) : Result :=
  match s.view with
  | none => .next s
  | some u =>
    let v := s.paced u i
    match s.before v i with
    | some s' => .next s'
    | none => .next ((s.atIssue v).settleWord v i (eff (s.atIssue v) v))

/-- A parked access: the team parks on the page's migration, which starts; a charge that a refill has taken for it goes back, since
it is charged at its replay (R175, R191). -/
def State.park (s : State) (v : View) (pg va kind : Nat) : Effect :=
  let r := s.number
  let s := (r.2.uncharge v.core v.slot v.who).beginMigration v.team.ctx pg
  let s := s.modPath v fun p => { p with parked := some (pg, va, r.1), refill := none, answer := none }
  .wait (if v.run then s else s.traceWord v.core v.slot v.side 5 (kind + va % 2 ^ 48 * 2 ^ 32 + v.team.launch * 2 ^ 96)) 20

/-! ### The next word of an agent -/

/-- What an agent's turn comes to: an instruction or event that executes, or a state reached without one. -/
inductive Selected where
  | run (i : Instr)
  | left (s : State)
  deriving DecidableEq, Repr

/-- The page is remote or migrating, and has not failed (R191). -/
def State.pageAway (s : State) (pg : Nat) : Bool :=
  let p := s.page pg
  (p.state == .migrating || p.state == .remote) && !p.failed && !p.short

/-- The word at the agent's PC and packet place: fetched, or trapped or parked on at fetch (R61, R78, R191); a
comparator stops the path before it (R302); a word that no instruction has is a reserved encoding (R75). -/
def State.select (s : State) (v : View) : Selected :=
  match (if v.run then none else v.team.entry) with
  | some e => .left (if e.path == v.side && !s.pageAway e.page then (s.enterTrap v.core v.slot e).used else s.waiting v 23)
  | none =>
  match s.frozen v with
  | some r => .left (s.waiting v r)
  | none =>
    match s.comparator v with
    | some n => .run (.comparatorHit v.core v.slot v.side n)
    | none =>
      match s.fetch v v.path.pc v.path.word with
      | .word w => match decodeWord w with
        | .ok i => .run i
        | .error _ => .run (.reservedEncoding w)
      | .trap cause fault aux => .left (((s.reach v).trapView v cause fault aux 0).used)
      | .away pg va =>
        let s := if v.path.parked.isSome then s.modPath v fun p => { p with parked := none } else s
        .left (match s.park v pg va 3 with
          | .wait s' r => s'.held v r
          | _ => s)

end Sys2Proof.Machine
end

