-- ==== Sys2Proof/Machine/Flags.lean ====
section
/-!
DEFINITION. The floating-point mode and flags (R50, R51, R86, R127), condition codes and comparisons (R76, R143).
-/

namespace Sys2Proof.Machine

/-- The mode of an instruction that FPMODE governs (R50). -/
def Path.env (p : Path) : FpEnv := ⟨Rm.ofBits p.fpmode.toNat, p.fpmode.getLsbD 2⟩

/-- Flags whose trap FPMODE enables: EIV is bit 4, above IV's bit 0 (R50, R51). -/
def Path.enabled (p : Path) (flags : Nat) : Bool := flags &&& bits p.fpmode.toNat 8 4 != 0

/-- The sticky flags raised (R51). -/
def State.raiseFlags (s : State) (v : View) (flags : Nat) : State :=
  s.modPath v fun p => { p with fpflags := p.fpflags ||| BitVec.ofNat 32 flags }

def orFlags (l : List (Nat × Word × Nat)) : Nat := l.foldl (fun n e => n ||| e.2.2) 0

/-- Results with flags in the active lanes: an enabled flag writes no lane and traps (R51, R127). -/
def State.setFp (s : State) (v : View) (d : Nat) (vals : List (Nat × Word × Nat)) (lat : Nat) (fromLast : Bool) : Effect :=
  let flags := orFlags vals
  if v.path.enabled flags then .trapFp flags
  else .done ((s.setV v d (vals.map fun e => (e.1, e.2.1)) lat fromLast).raiseFlags v flags)

/-- A 32-bit result of a computation on patterns. -/
def fpWord (r : Nat × Nat) : Word × Nat := (BitVec.ofNat 32 r.1, r.2)

/-- A computation on both halves (R140). -/
def packed (f : Nat → Nat → Nat × Nat) (a b : Word) : Word × Nat :=
  let lo := f (a.toNat % 65536) (b.toNat % 65536)
  let hi := f (a.toNat / 65536) (b.toNat / 65536)
  (BitVec.ofNat 32 (lo.1 + hi.1 * 65536), lo.2 ||| hi.2)

def packed3 (f : Nat → Nat → Nat → Nat × Nat) (a b c : Word) : Word × Nat :=
  let lo := f (a.toNat % 65536) (b.toNat % 65536) (c.toNat % 65536)
  let hi := f (a.toNat / 65536) (b.toNat / 65536) (c.toNat / 65536)
  (BitVec.ofNat 32 (lo.1 + hi.1 * 65536), lo.2 ||| hi.2)

/-- The format a VHP word selects: FN[3] (R140). -/
def halfFmt (f : BitVec 1) : Fmt := if f = 0 then .bf16 else .fp16

/-- FTZ acts on FP32 and FP16 only (R86, R140). -/
def FpEnv.half (e : FpEnv) (f : BitVec 1) : FpEnv := if f = 0 then { e with ftz := false } else e

/-- A condition code on a comparison's outcome: less, equal, unordered (R76, R143). -/
def holdsCode (cc : Nat) (less equal unordered : Bool) : Bool :=
  match cc with
  | 0 => equal && !unordered
  | 1 => !equal || unordered
  | 2 => less && !unordered
  | 3 => (less || equal) && !unordered
  | 4 => !less && !equal && !unordered
  | 5 => !less && !unordered
  | 6 => !unordered
  | _ => unordered

def compareS (cc : BitVec 3) (a b : Word) : Bool := holdsCode cc.toNat (a.slt b) (a == b) false
def compareU (cc : BitVec 3) (a b : Word) : Bool := holdsCode cc.toNat (a.ult b) (a == b) false

/-- FP32 comparison under FTZ with its IV flag (R143). -/
def compareF (e : FpEnv) (cc : BitVec 3) (a0 b0 : Word) : Bool × Nat :=
  let a := ftzIn .fp32 e a0.toNat
  let b := ftzIn .fp32 e b0.toNat
  let nan := Fmt.fp32.isNan a || Fmt.fp32.isNan b
  let c := if nan then (false, false) else fcompare .fp32 a b
  let iv := if 2 ≤ cc.toNat ∧ cc.toNat ≤ 5 then nan else Fmt.fp32.isSnan a || Fmt.fp32.isSnan b
  (holdsCode cc.toNat c.1 c.2 nan, if iv then flagIV else 0)

end Sys2Proof.Machine
end

