-- ==== Sys2Proof/Machine/Scalar.lean ====
section
/-!
DEFINITION. Scalar arithmetic and the immediate prefix (R119 to R123).
-/

namespace Sys2Proof.Machine

/-! ### 32-bit arithmetic (R119, R128) -/

def intAdd (a b : Word) : Word := a + b
def intSub (a b : Word) : Word := a - b
def intMul (a b : Word) : Word := a * b
def intMulh (a b : Word) : Word := ((a.signExtend 64 * b.signExtend 64) >>> 32).setWidth 32
def intAnd (a b : Word) : Word := a &&& b
def intOr (a b : Word) : Word := a ||| b
def intXor (a b : Word) : Word := a ^^^ b
def intShl (a b : Word) : Word := a <<< (b.toNat % 32)
def intShr (a b : Word) : Word := a >>> (b.toNat % 32)
def intSra (a b : Word) : Word := a.sshiftRight (b.toNat % 32)
def intMin (a b : Word) : Word := if a.slt b then a else b
def intMax (a b : Word) : Word := if a.slt b then b else a
def intMinu (a b : Word) : Word := if a.ult b then a else b
def intMaxu (a b : Word) : Word := if a.ult b then b else a
def intMulhu (a b : Word) : Word := ((a.setWidth 64 * b.setWidth 64) >>> 32).setWidth 32

/-- A scalar word of format A: s(D) := f(s(A), B), latency 1 (R119, R64). -/
def scalarWord (f : Word → Word → Word) (d a b : BitVec 6) (q : BitVec 2) (s : State) (v : View) : Effect :=
  .done (s.setS v d.toNat (f (v.s a.toNat 0) (s.bS v q b)) 1)

/-- SADD (R119). -/
def execSadd (c : BitVec 1) (w : BitVec 2) (d : BitVec 6) (a : BitVec 6) (b : BitVec 6) (q : BitVec 2) (s : State) : Result :=
  issueWord (.sadd c w d a b q) (scalarWord intAdd d a b q) s

/-- SSUB (R119). -/
def execSsub (c : BitVec 1) (w : BitVec 2) (d : BitVec 6) (a : BitVec 6) (b : BitVec 6) (q : BitVec 2) (s : State) : Result :=
  issueWord (.ssub c w d a b q) (scalarWord intSub d a b q) s

/-- SMUL (R119). -/
def execSmul (c : BitVec 1) (w : BitVec 2) (d : BitVec 6) (a : BitVec 6) (b : BitVec 6) (q : BitVec 2) (s : State) : Result :=
  issueWord (.smul c w d a b q) (scalarWord intMul d a b q) s

/-- SMULH (R119). -/
def execSmulh (c : BitVec 1) (w : BitVec 2) (d : BitVec 6) (a : BitVec 6) (b : BitVec 6) (q : BitVec 2) (s : State) : Result :=
  issueWord (.smulh c w d a b q) (scalarWord intMulh d a b q) s

/-- SAND (R119). -/
def execSand (c : BitVec 1) (w : BitVec 2) (d : BitVec 6) (a : BitVec 6) (b : BitVec 6) (q : BitVec 2) (s : State) : Result :=
  issueWord (.sand c w d a b q) (scalarWord intAnd d a b q) s

/-- SOR (R119). -/
def execSor (c : BitVec 1) (w : BitVec 2) (d : BitVec 6) (a : BitVec 6) (b : BitVec 6) (q : BitVec 2) (s : State) : Result :=
  issueWord (.sor c w d a b q) (scalarWord intOr d a b q) s

/-- SXOR (R119). -/
def execSxor (c : BitVec 1) (w : BitVec 2) (d : BitVec 6) (a : BitVec 6) (b : BitVec 6) (q : BitVec 2) (s : State) : Result :=
  issueWord (.sxor c w d a b q) (scalarWord intXor d a b q) s

/-- SSHL (R119). -/
def execSshl (c : BitVec 1) (w : BitVec 2) (d : BitVec 6) (a : BitVec 6) (b : BitVec 6) (q : BitVec 2) (s : State) : Result :=
  issueWord (.sshl c w d a b q) (scalarWord intShl d a b q) s

/-- SSHR (R119). -/
def execSshr (c : BitVec 1) (w : BitVec 2) (d : BitVec 6) (a : BitVec 6) (b : BitVec 6) (q : BitVec 2) (s : State) : Result :=
  issueWord (.sshr c w d a b q) (scalarWord intShr d a b q) s

/-- SSRA (R119). -/
def execSsra (c : BitVec 1) (w : BitVec 2) (d : BitVec 6) (a : BitVec 6) (b : BitVec 6) (q : BitVec 2) (s : State) : Result :=
  issueWord (.ssra c w d a b q) (scalarWord intSra d a b q) s

/-- SMIN (R119). -/
def execSmin (c : BitVec 1) (w : BitVec 2) (d : BitVec 6) (a : BitVec 6) (b : BitVec 6) (q : BitVec 2) (s : State) : Result :=
  issueWord (.smin c w d a b q) (scalarWord intMin d a b q) s

/-- SMAX (R119). -/
def execSmax (c : BitVec 1) (w : BitVec 2) (d : BitVec 6) (a : BitVec 6) (b : BitVec 6) (q : BitVec 2) (s : State) : Result :=
  issueWord (.smax c w d a b q) (scalarWord intMax d a b q) s

/-- SMINU (R119). -/
def execSminu (c : BitVec 1) (w : BitVec 2) (d : BitVec 6) (a : BitVec 6) (b : BitVec 6) (q : BitVec 2) (s : State) : Result :=
  issueWord (.sminu c w d a b q) (scalarWord intMinu d a b q) s

/-- SMAXU (R119). -/
def execSmaxu (c : BitVec 1) (w : BitVec 2) (d : BitVec 6) (a : BitVec 6) (b : BitVec 6) (q : BitVec 2) (s : State) : Result :=
  issueWord (.smaxu c w d a b q) (scalarWord intMaxu d a b q) s

/-- SADDW: the pair D := pair A + B, modulo 2^64 (R120). -/
def execSaddw (c : BitVec 1) (w : BitVec 2) (d : BitVec 6) (a : BitVec 6) (b : BitVec 6) (q : BitVec 2) (s : State) : Result :=
  issueWord (.saddw c w d a b q) (fun s v => .done (s.setSPair v d.toNat (v.sPair a.toNat 0 + s.bSPair v q b) 1)) s

/-- SCMP (R121). -/
def execScmp (c : BitVec 1) (w : BitVec 2) (k : BitVec 2) (e : BitVec 3) (a : BitVec 6) (b : BitVec 6) (q : BitVec 2) (s : State) : Result :=
  issueWord (.scmp c w k e a b q) (fun s v => .done (s.setC v k.toNat (compareS e (v.s a.toNat 0) (s.bS v q b)) (v.time + 1))) s

/-- SADDI (R122). -/
def execSaddi (c : BitVec 1) (w : BitVec 2) (d : BitVec 6) (a : BitVec 6) (i : BitVec 12) (s : State) : Result :=
  issueWord (.saddi c w d a i) (fun s v => .done (s.setS v d.toNat (v.s a.toNat 0 + immInt v.path.ext i) 1)) s

/-- SMOVI (R122). -/
def execSmovi (c : BitVec 1) (w : BitVec 2) (d : BitVec 6) (i : BitVec 18) (s : State) : Result :=
  issueWord (.smovi c w d i) (fun s v => .done (s.setS v d.toNat (immInt v.path.ext i) 1)) s

/-- EXT: X is held for the next word of the packet (R71, R123). -/
def execExt (x : BitVec 24) (s : State) : Result :=
  issueWord (.ext x) (fun s v => .done (s.modPath v fun p => { p with ext := some x })) s

end Sys2Proof.Machine
end

