-- ==== Sys2Proof/Machine/Vector.lean ====
section
/-!
DEFINITION. Integer vector arithmetic, unary and field words, integer compares, predicate logic and select (R128 to R133, R143 to R145).
-/

namespace Sys2Proof.Machine

/-- d := f in every active lane, latency `lat` (R126, R64). -/
def vectorWord (lat : Nat) (d : BitVec 6) (f : State → View → Nat → Word) (s : State) (v : View) : Effect :=
  .done (s.setV v d.toNat (v.each (f s v)) lat false)

/-- Binary shape on integers (R125, R128). -/
def binaryWord (f : Word → Word → Word) (d a b : BitVec 6) (q : BitVec 2) : State → View → Effect :=
  vectorWord 2 d fun s v l => f (v.v a.toNat l) (s.bV v .int q b l)

/-- Unary shape on integers (R125, R132). -/
def unaryWord (f : Word → Word) (d b : BitVec 6) (q : BitVec 2) : State → View → Effect :=
  vectorWord 2 d fun s v l => f (s.bV v .int q b l)

def popCount (x : Word) : Word := BitVec.ofNat 32 ((List.range 32).countP x.getLsbD)
/-- Leading zero bits; 32 of 0 (R132). -/
def leadingZeros (x : Word) : Word := if x = 0 then 32 else BitVec.ofNat 32 (31 - Nat.log2 x.toNat)
def bitReverse (x : Word) : Word := x.reverse
def absWord (x : Word) : Word := if x.msb then - x else x

/-- VBFX: the unsigned field of a that b names (R133). -/
def bitField (a b : Word) : Word :=
  let q := b.toNat % 32
  let w := if bits b.toNat 12 8 = 0 then 32 else bits b.toNat 12 8
  if q + w ≤ 32 then (a >>> q) &&& BitVec.ofNat 32 (2 ^ w - 1) else a >>> q

/-- A pair result in every active lane. -/
def State.setVPair (s : State) (v : View) (d : Nat) (vals : List (Nat × DWord)) (lat : Nat) (fromLast : Bool) : State :=
  (s.setV v d (vals.map fun (e : Nat × DWord) => (e.1, e.2.setWidth 32)) lat fromLast).setV v (d + 1)
    (vals.map fun (e : Nat × DWord) => (e.1, (e.2 >>> 32).setWidth 32)) lat fromLast

/-- A predicate in every active lane, latency 2 (R64, R126). -/
def predicateWord (p : BitVec 3) (f : State → View → Nat → Bool) (s : State) (v : View) : Effect :=
  .done (s.setP v p.toNat (v.active.map fun l => (l, f s v l)) 2)

/-- VADD (R128). -/
def execVadd (c : BitVec 1) (w : BitVec 2) (d : BitVec 6) (a : BitVec 6) (b : BitVec 6) (q : BitVec 2) (s : State) : Result :=
  issueWord (.vadd c w d a b q) (binaryWord intAdd d a b q) s

/-- VSUB (R128). -/
def execVsub (c : BitVec 1) (w : BitVec 2) (d : BitVec 6) (a : BitVec 6) (b : BitVec 6) (q : BitVec 2) (s : State) : Result :=
  issueWord (.vsub c w d a b q) (binaryWord intSub d a b q) s

/-- VMUL (R128). -/
def execVmul (c : BitVec 1) (w : BitVec 2) (d : BitVec 6) (a : BitVec 6) (b : BitVec 6) (q : BitVec 2) (s : State) : Result :=
  issueWord (.vmul c w d a b q) (binaryWord intMul d a b q) s

/-- VMULH (R128). -/
def execVmulh (c : BitVec 1) (w : BitVec 2) (d : BitVec 6) (a : BitVec 6) (b : BitVec 6) (q : BitVec 2) (s : State) : Result :=
  issueWord (.vmulh c w d a b q) (binaryWord intMulh d a b q) s

/-- VAND (R128). -/
def execVand (c : BitVec 1) (w : BitVec 2) (d : BitVec 6) (a : BitVec 6) (b : BitVec 6) (q : BitVec 2) (s : State) : Result :=
  issueWord (.vand c w d a b q) (binaryWord intAnd d a b q) s

/-- VOR (R128). -/
def execVor (c : BitVec 1) (w : BitVec 2) (d : BitVec 6) (a : BitVec 6) (b : BitVec 6) (q : BitVec 2) (s : State) : Result :=
  issueWord (.vor c w d a b q) (binaryWord intOr d a b q) s

/-- VXOR (R128). -/
def execVxor (c : BitVec 1) (w : BitVec 2) (d : BitVec 6) (a : BitVec 6) (b : BitVec 6) (q : BitVec 2) (s : State) : Result :=
  issueWord (.vxor c w d a b q) (binaryWord intXor d a b q) s

/-- VSHL (R128). -/
def execVshl (c : BitVec 1) (w : BitVec 2) (d : BitVec 6) (a : BitVec 6) (b : BitVec 6) (q : BitVec 2) (s : State) : Result :=
  issueWord (.vshl c w d a b q) (binaryWord intShl d a b q) s

/-- VSHR (R128). -/
def execVshr (c : BitVec 1) (w : BitVec 2) (d : BitVec 6) (a : BitVec 6) (b : BitVec 6) (q : BitVec 2) (s : State) : Result :=
  issueWord (.vshr c w d a b q) (binaryWord intShr d a b q) s

/-- VSRA (R128). -/
def execVsra (c : BitVec 1) (w : BitVec 2) (d : BitVec 6) (a : BitVec 6) (b : BitVec 6) (q : BitVec 2) (s : State) : Result :=
  issueWord (.vsra c w d a b q) (binaryWord intSra d a b q) s

/-- VMIN (R128). -/
def execVmin (c : BitVec 1) (w : BitVec 2) (d : BitVec 6) (a : BitVec 6) (b : BitVec 6) (q : BitVec 2) (s : State) : Result :=
  issueWord (.vmin c w d a b q) (binaryWord intMin d a b q) s

/-- VMAX (R128). -/
def execVmax (c : BitVec 1) (w : BitVec 2) (d : BitVec 6) (a : BitVec 6) (b : BitVec 6) (q : BitVec 2) (s : State) : Result :=
  issueWord (.vmax c w d a b q) (binaryWord intMax d a b q) s

/-- VMINU (R128). -/
def execVminu (c : BitVec 1) (w : BitVec 2) (d : BitVec 6) (a : BitVec 6) (b : BitVec 6) (q : BitVec 2) (s : State) : Result :=
  issueWord (.vminu c w d a b q) (binaryWord intMinu d a b q) s

/-- VMAXU (R128). -/
def execVmaxu (c : BitVec 1) (w : BitVec 2) (d : BitVec 6) (a : BitVec 6) (b : BitVec 6) (q : BitVec 2) (s : State) : Result :=
  issueWord (.vmaxu c w d a b q) (binaryWord intMaxu d a b q) s

/-- VMULHU (R128). -/
def execVmulhu (c : BitVec 1) (w : BitVec 2) (d : BitVec 6) (a : BitVec 6) (b : BitVec 6) (q : BitVec 2) (s : State) : Result :=
  issueWord (.vmulhu c w d a b q) (binaryWord intMulhu d a b q) s

/-- VADDW: a 64-bit add per lane (R129). -/
def execVaddw (c : BitVec 1) (w : BitVec 2) (d : BitVec 6) (a : BitVec 6) (b : BitVec 6) (q : BitVec 2) (s : State) : Result :=
  issueWord (.vaddw c w d a b q) (fun s v => .done (s.setVPair v d.toNat (v.active.map fun l => (l, v.vPair a.toNat l + s.bVPair v q b l)) 2 false)) s

/-- VADDI (R130). -/
def execVaddi (c : BitVec 1) (w : BitVec 2) (d : BitVec 6) (a : BitVec 6) (i : BitVec 12) (s : State) : Result :=
  issueWord (.vaddi c w d a i) (vectorWord 2 d fun _ v l => v.v a.toNat l + immInt v.path.ext i) s

/-- VMAD (R131). -/
def execVmad (c : BitVec 1) (w : BitVec 2) (d : BitVec 6) (a : BitVec 6) (b : BitVec 6) (j : BitVec 6) (s : State) : Result :=
  issueWord (.vmad c w d a b j) (vectorWord 2 d fun _ v l => v.v a.toNat l * v.v b.toNat l + v.v j.toNat l) s

/-- VMOV (R132). -/
def execVmov (c : BitVec 1) (w : BitVec 2) (d : BitVec 6) (b : BitVec 6) (q : BitVec 2) (s : State) : Result :=
  issueWord (.vmov c w d b q) (unaryWord (fun x => x) d b q) s

/-- VPOPC (R132). -/
def execVpopc (c : BitVec 1) (w : BitVec 2) (d : BitVec 6) (b : BitVec 6) (q : BitVec 2) (s : State) : Result :=
  issueWord (.vpopc c w d b q) (unaryWord popCount d b q) s

/-- VCLZ (R132). -/
def execVclz (c : BitVec 1) (w : BitVec 2) (d : BitVec 6) (b : BitVec 6) (q : BitVec 2) (s : State) : Result :=
  issueWord (.vclz c w d b q) (unaryWord leadingZeros d b q) s

/-- VBREV (R132). -/
def execVbrev (c : BitVec 1) (w : BitVec 2) (d : BitVec 6) (b : BitVec 6) (q : BitVec 2) (s : State) : Result :=
  issueWord (.vbrev c w d b q) (unaryWord bitReverse d b q) s

/-- VNOT (R132). -/
def execVnot (c : BitVec 1) (w : BitVec 2) (d : BitVec 6) (b : BitVec 6) (q : BitVec 2) (s : State) : Result :=
  issueWord (.vnot c w d b q) (unaryWord (fun x => ~~~ x) d b q) s

/-- VABS (R132). -/
def execVabs (c : BitVec 1) (w : BitVec 2) (d : BitVec 6) (b : BitVec 6) (q : BitVec 2) (s : State) : Result :=
  issueWord (.vabs c w d b q) (unaryWord absWord d b q) s

/-- VLANE: the lane index (R132). -/
def execVlane (c : BitVec 1) (w : BitVec 2) (d : BitVec 6) (s : State) : Result :=
  issueWord (.vlane c w d) (vectorWord 2 d fun _ _ l => BitVec.ofNat 32 l) s

/-- VITEM: u32(ITEM × TEAMLANES + l) (R132). -/
def execVitem (c : BitVec 1) (w : BitVec 2) (d : BitVec 6) (s : State) : Result :=
  issueWord (.vitem c w d) (vectorWord 2 d fun _ v l => BitVec.ofNat 32 (v.team.item.toNat * v.team.lanes + l)) s

/-- VBFX (R133). -/
def execVbfx (c : BitVec 1) (w : BitVec 2) (d : BitVec 6) (a : BitVec 6) (b : BitVec 6) (q : BitVec 2) (s : State) : Result :=
  issueWord (.vbfx c w d a b q) (binaryWord bitField d a b q) s

/-- VCMP_S (R143). -/
def execVcmpS (c : BitVec 1) (w : BitVec 2) (p : BitVec 3) (e : BitVec 3) (a : BitVec 6) (b : BitVec 6) (q : BitVec 2) (s : State) : Result :=
  issueWord (.vcmpS c w p e a b q) (predicateWord p fun s v l => compareS e (v.v a.toNat l) (s.bV v .int q b l)) s

/-- VCMP_U (R143). -/
def execVcmpU (c : BitVec 1) (w : BitVec 2) (p : BitVec 3) (e : BitVec 3) (a : BitVec 6) (b : BitVec 6) (q : BitVec 2) (s : State) : Result :=
  issueWord (.vcmpU c w p e a b q) (predicateWord p fun s v l => compareU e (v.v a.toNat l) (s.bV v .int q b l)) s

/-- PAND (R144). -/
def execPand (c : BitVec 1) (w : BitVec 2) (p : BitVec 3) (a : BitVec 3) (b : BitVec 3) (s : State) : Result :=
  issueWord (.pand c w p a b) (predicateWord p fun _ v l => v.p a.toNat l && v.p b.toNat l) s

/-- POR (R144). -/
def execPor (c : BitVec 1) (w : BitVec 2) (p : BitVec 3) (a : BitVec 3) (b : BitVec 3) (s : State) : Result :=
  issueWord (.por c w p a b) (predicateWord p fun _ v l => v.p a.toNat l || v.p b.toNat l) s

/-- PXOR (R144). -/
def execPxor (c : BitVec 1) (w : BitVec 2) (p : BitVec 3) (a : BitVec 3) (b : BitVec 3) (s : State) : Result :=
  issueWord (.pxor c w p a b) (predicateWord p fun _ v l => v.p a.toNat l != v.p b.toNat l) s

/-- PNOT (R144). -/
def execPnot (c : BitVec 1) (w : BitVec 2) (p : BitVec 3) (b : BitVec 3) (s : State) : Result :=
  issueWord (.pnot c w p b) (predicateWord p fun _ v l => !v.p b.toNat l) s

/-- VSEL (R145). -/
def execVsel (c : BitVec 1) (w : BitVec 2) (d : BitVec 6) (a : BitVec 6) (b : BitVec 6) (q : BitVec 2) (r : BitVec 3) (s : State) : Result :=
  issueWord (.vsel c w d a b q r) (vectorWord 2 d fun s v l => if v.p r.toNat l then v.v a.toNat l else s.bV v .int q b l) s


end Sys2Proof.Machine
end

