-- ==== Sys2Proof/Machine/Float.lean ====
section
/-!
DEFINITION. FP32 and packed 16-bit arithmetic, conversions and the FP32 compare (R134 to R137, R140 to R143).
-/

namespace Sys2Proof.Machine

/-- FP32 results with flags in every active lane, latency 4 (R64, R127). -/
def floatWord (d : BitVec 6) (f : State → View → Nat → Word × Nat) (s : State) (v : View) : Effect :=
  s.setFp v d.toNat (v.active.map fun l => (l, f s v l)) 4 false

/-- A binary FP32 function under FPMODE (R135). -/
def floatBinary (f : FpEnv → Nat → Nat → Nat × Nat) (d a b : BitVec 6) (q : BitVec 2) : State → View → Effect :=
  floatWord d fun s v l => fpWord (f v.path.env (v.v a.toNat l).toNat (s.bV v (.fp .fp32) q b l).toNat)

/-- A unary function of b on patterns that raises no flag (R136). -/
def floatPattern (f : Word → Word) (d b : BitVec 6) (q : BitVec 2) : State → View → Effect :=
  floatWord d fun s v l => (f (s.bV v (.fp .fp32) q b l), 0)

/-- A conversion of b, whose immediate is an integer (R134). -/
def convertWord (f : FpEnv → Word → Word × Nat) (d b : BitVec 6) (q : BitVec 2) : State → View → Effect :=
  floatWord d fun s v l => f v.path.env (s.bV v .int q b l)

/-- VFCLASS's mask (R136). -/
def classMask (x : Nat) : Word :=
  let f := Fmt.fp32
  let bit' : Nat :=
    if f.isNan x then (if f.isSnan x then 8 else 9)
    else if f.isInf x then (if f.neg x then 0 else 7)
    else if f.body x = 0 then (if f.neg x then 3 else 4)
    else if f.isSub x then (if f.neg x then 2 else 5)
    else (if f.neg x then 1 else 6)
  BitVec.ofNat 32 (2 ^ bit')

/-- A packed binary function: an immediate is converted into both halves (R70, R140). -/
def halfBinary (g : Fmt → FpEnv → Nat → Nat → Nat × Nat) (f : BitVec 1) (d a b : BitVec 6) (q : BitVec 2) : State → View → Effect :=
  floatWord d fun s v l => packed (g (halfFmt f) (v.path.env.half f)) (v.v a.toNat l) (s.bV v (.fp (halfFmt f)) q b l)

/-- A packed unary function on patterns (R140). -/
def halfPattern (g : Word → Word) (f : BitVec 1) (d b : BitVec 6) (q : BitVec 2) : State → View → Effect :=
  floatWord d fun s v l => (g (s.bV v (.fp (halfFmt f)) q b l), 0)

/-- Exact products and sums of VHDOT, rounded once (R141).  With a NaN input beside a product 0 × ∞ the NaN propagates and IV
is raised (DESIGN CHOICE, log 66).  A 16-bit NaN is placed in FP32 with its mantissa bits in the top mantissa bits, quieted, which
R141 does not say (DESIGN CHOICE, log 90). -/
def dotProduct (f : Fmt) (e32 e16 : FpEnv) (d a b : Word) : Nat × Nat :=
  let al := ftzIn f e16 (a.toNat % 65536)
  let bl := ftzIn f e16 (b.toNat % 65536)
  let ah := ftzIn f e16 (a.toNat / 65536)
  let bh := ftzIn f e16 (b.toNat / 65536)
  let acc := ftzIn .fp32 e32 d.toNat
  let snan := [al, bl, ah, bh].any f.isSnan || Fmt.fp32.isSnan acc
  let bad := zeroTimesInf (f.value al) (f.value bl) || zeroTimesInf (f.value ah) (f.value bh)
  let iv := if snan || bad then flagIV else 0
  match [al, bl, ah, bh].find? f.isNan with
  | some x => (nanTo f .fp32 x, iv)
  | none =>
    if Fmt.fp32.isNan acc then (Fmt.fp32.quiet acc, iv)
    else if bad then invalid .fp32
    else
      let prod := fun x y => match f.value x, f.value y with
        | .fin xn xm xe, .fin yn ym ye => FVal.fin (xn != yn) (xm * ym) (xe + ye)
        | _, _ => FVal.inf (f.neg x != f.neg y)
      let terms := [Fmt.fp32.value acc, prod al bl, prod ah bh]
      let pos := terms.any fun t => t == .inf false
      let neg := terms.any fun t => t == .inf true
      if pos && neg then invalid .fp32
      else if pos then (Fmt.fp32.infBits, 0)
      else if neg then (Fmt.fp32.signed true Fmt.fp32.infBits, 0)
      else
        let sum := fun (x : Bool × Nat × Int) (y : FVal) => match y with
          | .fin n m e => exactAdd (e32.rm == .rd) x.1 x.2.1 x.2.2 n m e
          | _ => x
        match terms with
        | .fin n m e :: rest =>
          let r := rest.foldl sum (n, m, e)
          rnd .fp32 e32 r.1 r.2.1 r.2.2
        | _ => invalid .fp32

/-- VFADD (R135). -/
def execVfadd (c : BitVec 1) (w : BitVec 2) (d : BitVec 6) (a : BitVec 6) (b : BitVec 6) (q : BitVec 2) (s : State) : Result :=
  issueWord (.vfadd c w d a b q) (floatBinary (fadd .fp32) d a b q) s

/-- VFSUB (R135). -/
def execVfsub (c : BitVec 1) (w : BitVec 2) (d : BitVec 6) (a : BitVec 6) (b : BitVec 6) (q : BitVec 2) (s : State) : Result :=
  issueWord (.vfsub c w d a b q) (floatBinary (fsub .fp32) d a b q) s

/-- VFMUL (R135). -/
def execVfmul (c : BitVec 1) (w : BitVec 2) (d : BitVec 6) (a : BitVec 6) (b : BitVec 6) (q : BitVec 2) (s : State) : Result :=
  issueWord (.vfmul c w d a b q) (floatBinary (fmul .fp32) d a b q) s

/-- VFMIN (R135). -/
def execVfmin (c : BitVec 1) (w : BitVec 2) (d : BitVec 6) (a : BitVec 6) (b : BitVec 6) (q : BitVec 2) (s : State) : Result :=
  issueWord (.vfmin c w d a b q) (floatBinary (fun e => fminmax .fp32 e false) d a b q) s

/-- VFMAX (R135). -/
def execVfmax (c : BitVec 1) (w : BitVec 2) (d : BitVec 6) (a : BitVec 6) (b : BitVec 6) (q : BitVec 2) (s : State) : Result :=
  issueWord (.vfmax c w d a b q) (floatBinary (fun e => fminmax .fp32 e true) d a b q) s

/-- VFNEG (R136). -/
def execVfneg (c : BitVec 1) (w : BitVec 2) (d : BitVec 6) (b : BitVec 6) (q : BitVec 2) (s : State) : Result :=
  issueWord (.vfneg c w d b q) (floatPattern (fun x => x ^^^ 0x80000000) d b q) s

/-- VFABS (R136). -/
def execVfabs (c : BitVec 1) (w : BitVec 2) (d : BitVec 6) (b : BitVec 6) (q : BitVec 2) (s : State) : Result :=
  issueWord (.vfabs c w d b q) (floatPattern (fun x => x &&& 0x7FFFFFFF) d b q) s

/-- VFCLASS (R136). -/
def execVfclass (c : BitVec 1) (w : BitVec 2) (d : BitVec 6) (b : BitVec 6) (q : BitVec 2) (s : State) : Result :=
  issueWord (.vfclass c w d b q) (floatPattern (fun x => classMask x.toNat) d b q) s

/-- VFMA (R137). -/
def execVfma (c : BitVec 1) (w : BitVec 2) (d : BitVec 6) (a : BitVec 6) (b : BitVec 6) (j : BitVec 6) (s : State) : Result :=
  issueWord (.vfma c w d a b j) (floatWord d fun _ v l => fpWord (ffma .fp32 v.path.env (v.v a.toNat l).toNat (v.v b.toNat l).toNat (v.v j.toNat l).toNat)) s

/-- FP32 to FP16 in mode RM, FTZ on both sides (R134). -/
def f2h (e : FpEnv) (x : Nat) : Nat × Nat := ftzOut .fp16 e (convert .fp32 .fp16 e.rm (ftzIn .fp32 e x))

/-- VCVT_I2F (R134). -/
def execVcvtI2f (c : BitVec 1) (w : BitVec 2) (d : BitVec 6) (b : BitVec 6) (q : BitVec 2) (s : State) : Result :=
  issueWord (.vcvtI2f c w d b q) (convertWord (fun e x => fpWord (ofInt e x.toInt)) d b q) s

/-- VCVT_U2F (R134). -/
def execVcvtU2f (c : BitVec 1) (w : BitVec 2) (d : BitVec 6) (b : BitVec 6) (q : BitVec 2) (s : State) : Result :=
  issueWord (.vcvtU2f c w d b q) (convertWord (fun e x => fpWord (ofInt e x.toNat)) d b q) s

/-- VCVT_F2I (R134). -/
def execVcvtF2i (c : BitVec 1) (w : BitVec 2) (d : BitVec 6) (b : BitVec 6) (q : BitVec 2) (s : State) : Result :=
  issueWord (.vcvtF2i c w d b q) (convertWord (fun e x => toInt e true x.toNat) d b q) s

/-- VCVT_F2U (R134). -/
def execVcvtF2u (c : BitVec 1) (w : BitVec 2) (d : BitVec 6) (b : BitVec 6) (q : BitVec 2) (s : State) : Result :=
  issueWord (.vcvtF2u c w d b q) (convertWord (fun e x => toInt e false x.toNat) d b q) s

/-- VCVT_F2H (R134). -/
def execVcvtF2h (c : BitVec 1) (w : BitVec 2) (d : BitVec 6) (b : BitVec 6) (q : BitVec 2) (s : State) : Result :=
  issueWord (.vcvtF2h c w d b q) (convertWord (fun e x => fpWord (f2h e x.toNat)) d b q) s

/-- VCVT_H2F (R134). -/
def execVcvtH2f (c : BitVec 1) (w : BitVec 2) (d : BitVec 6) (b : BitVec 6) (q : BitVec 2) (s : State) : Result :=
  issueWord (.vcvtH2f c w d b q) (convertWord (fun e x => fpWord (convert .fp16 .fp32 .rn (ftzIn .fp16 e (x.toNat % 65536)))) d b q) s

/-- VHADD (R140). -/
def execVhadd (c : BitVec 1) (w : BitVec 2) (d : BitVec 6) (a : BitVec 6) (b : BitVec 6) (q : BitVec 2) (f : BitVec 1) (s : State) : Result :=
  issueWord (.vhadd c w d a b q f) (halfBinary fadd f d a b q) s

/-- VHSUB (R140). -/
def execVhsub (c : BitVec 1) (w : BitVec 2) (d : BitVec 6) (a : BitVec 6) (b : BitVec 6) (q : BitVec 2) (f : BitVec 1) (s : State) : Result :=
  issueWord (.vhsub c w d a b q f) (halfBinary fsub f d a b q) s

/-- VHMUL (R140). -/
def execVhmul (c : BitVec 1) (w : BitVec 2) (d : BitVec 6) (a : BitVec 6) (b : BitVec 6) (q : BitVec 2) (f : BitVec 1) (s : State) : Result :=
  issueWord (.vhmul c w d a b q f) (halfBinary fmul f d a b q) s

/-- VHMIN (R140). -/
def execVhmin (c : BitVec 1) (w : BitVec 2) (d : BitVec 6) (a : BitVec 6) (b : BitVec 6) (q : BitVec 2) (f : BitVec 1) (s : State) : Result :=
  issueWord (.vhmin c w d a b q f) (halfBinary (fun g e => fminmax g e false) f d a b q) s

/-- VHMAX (R140). -/
def execVhmax (c : BitVec 1) (w : BitVec 2) (d : BitVec 6) (a : BitVec 6) (b : BitVec 6) (q : BitVec 2) (f : BitVec 1) (s : State) : Result :=
  issueWord (.vhmax c w d a b q f) (halfBinary (fun g e => fminmax g e true) f d a b q) s

/-- VHDOT (R141). -/
def execVhdot (c : BitVec 1) (w : BitVec 2) (d : BitVec 6) (a : BitVec 6) (b : BitVec 6) (q : BitVec 2) (f : BitVec 1) (s : State) : Result :=
  issueWord (.vhdot c w d a b q f) (floatWord d fun s v l => fpWord (dotProduct (halfFmt f) v.path.env (v.path.env.half f) (v.v d.toNat l) (v.v a.toNat l) (s.bV v (.fp (halfFmt f)) q b l))) s

/-- VHNEG (R140). -/
def execVhneg (c : BitVec 1) (w : BitVec 2) (d : BitVec 6) (b : BitVec 6) (q : BitVec 2) (f : BitVec 1) (s : State) : Result :=
  issueWord (.vhneg c w d b q f) (halfPattern (fun x => x ^^^ 0x80008000) f d b q) s

/-- VHABS (R140). -/
def execVhabs (c : BitVec 1) (w : BitVec 2) (d : BitVec 6) (b : BitVec 6) (q : BitVec 2) (f : BitVec 1) (s : State) : Result :=
  issueWord (.vhabs c w d b q f) (halfPattern (fun x => x &&& 0x7FFF7FFF) f d b q) s

/-- VHFMA_BF (R142). -/
def execVhfmaBf (c : BitVec 1) (w : BitVec 2) (d : BitVec 6) (a : BitVec 6) (b : BitVec 6) (j : BitVec 6) (s : State) : Result :=
  issueWord (.vhfmaBf c w d a b j) (floatWord d fun _ v l => packed3 (ffma (halfFmt 0) (v.path.env.half 0)) (v.v a.toNat l) (v.v b.toNat l) (v.v j.toNat l)) s

/-- VHFMA_HF (R142). -/
def execVhfmaHf (c : BitVec 1) (w : BitVec 2) (d : BitVec 6) (a : BitVec 6) (b : BitVec 6) (j : BitVec 6) (s : State) : Result :=
  issueWord (.vhfmaHf c w d a b j) (floatWord d fun _ v l => packed3 (ffma (halfFmt 1) (v.path.env.half 1)) (v.v a.toNat l) (v.v b.toNat l) (v.v j.toNat l)) s

/-- VCMP.F: predicates with flags; an enabled IV writes none and traps (R143). -/
def compareWord (p e : BitVec 3) (a b : BitVec 6) (q : BitVec 2) (s : State) (v : View) : Effect :=
  let vals := v.active.map fun l => (l, compareF v.path.env e (v.v a.toNat l) (s.bV v (.fp .fp32) q b l))
  let flags := vals.foldl (fun n x => n ||| x.2.2) 0
  if v.path.enabled flags then .trapFp flags
  else .done ((s.setP v p.toNat (vals.map fun x => (x.1, x.2.1)) 2).raiseFlags v flags)

/-- VCMP_F (R143). -/
def execVcmpF (c : BitVec 1) (w : BitVec 2) (p : BitVec 3) (e : BitVec 3) (a : BitVec 6) (b : BitVec 6) (q : BitVec 2) (s : State) : Result :=
  issueWord (.vcmpF c w p e a b q) (compareWord p e a b q) s


end Sys2Proof.Machine
end

