-- ==== Sys2Proof/Machine/Sfu.lean ====
section
/-!
DEFINITION. The special-function unit and the quire helpers (R138, R139, R146 to R148).
-/

namespace Sys2Proof.Machine

/-- An operation enters the team's list, with the next number of its core (R52). -/
def State.addOp (s : State) (v : View) (code : Nat) (kind : OpKind) (charged : List Nat) : State :=
  let k := s.core v.core
  let p := s.pathOf v
  let s := s.setCore v.core { k with nextOp := k.nextOp + 1 }
  s.modTeam v fun t => { t with ops := t.ops ++ [⟨k.nextOp, code, p.pc, p.word, v.side, p.pid, p.pid, v.run, kind, false, false, false, [], charged,
    v.time + v.lastPass,
    [], [], []⟩] }

/-- |pattern − ±m × 2^e| is at most bm × 2^be. -/
def withinBound (p : Nat) (neg : Bool) (m : Nat) (e : Int) (bm : Nat) (be : Int) : Bool :=
  match Fmt.fp32.value p with
  | .fin n m' e' =>
    let q := min (min e e') be
    let x : Int := (m * 2 ^ (e - q).toNat : Nat)
    let y : Int := (m' * 2 ^ (e' - q).toNat : Nat)
    let d := (if neg then -x else x) - (if n then -y else y)
    decide (d.natAbs ≤ bm * 2 ^ (be - q).toNat)
  | _ => false

/-- The exponent of one ulp of ±m × 2^e in FP32. -/
def ulpOf (m : Nat) (e : Int) : Int := max (e + Nat.log2 m - 23) (-149)

/-- An SFU result: the free pattern where it lies within the bound, else the nearest value; flags as R127 and
R147 state (log 7). -/
def sfuResult (e : FpEnv) (fn : Nat) (x : Word) (exact neg : Bool) (m : Nat) (ex : Int) (bm : Nat) (be : Int) : Nat × Nat :=
  let r := roundTo .fp32 .rn neg m ex
  if exact then ftzOut .fp32 e r
  else if Fmt.fp32.isInf r.1 || m == 0 then ftzOut .fp32 e (r.1, r.2 ||| flagNX)
  else
    let c := (Config.sfuChoice fn x).toNat
    let p := if withinBound c neg m ex bm be then c else r.1
    ftzOut .fp32 e (p, flagNX + (if tiny .fp32 .rn neg m ex then flagUF else 0))

/-- m is a power of two. -/
def powerOfTwo (m : Nat) : Bool := m == 2 ^ Nat.log2 m

/-- VRCP of ±m × 2^e. -/
def recipOf (m : Nat) (e : Int) : Nat × Int := if powerOfTwo m then (1, -(e + Nat.log2 m)) else quotient 1 0 m e

/-- VRSQ of m × 2^e, with whether it is exact. -/
def rsqrtOf (m : Nat) (e : Int) : Bool × Nat × Int :=
  let odd := e % 2 != 0
  let m1 := if odd then 2 * m else m
  let e1 := if odd then e - 1 else e
  if powerOfTwo m1 && Nat.log2 m1 % 2 == 0 then (true, 1, -(e1 / 2) - (Nat.log2 m1 / 2 : Nat))
  else (false, 2 * isqrt (2 ^ 240 / m1) + 1, -(e1 / 2) - 121)

/-- The special-function table of R147: result pattern and flags. -/
def sfuValue (e : FpEnv) (fn : Nat) (x : Word) : Nat × Nat :=
  let f := Fmt.fp32
  let a := ftzIn f e x.toNat
  let n := f.neg a
  match f.value a with
  | .nan _ => (f.quiet a, if f.isSnan a then flagIV else 0)
  | .inf _ =>
    match fn with
    | 0 => (f.signed n 0, 0)
    | 1 => if n then invalid f else (0, 0)
    | 2 => if n then invalid f else (a, 0)
    | 3 => if n then (0, 0) else (a, 0)
    | 4 => if n then invalid f else (a, 0)
    | 5 => invalid f
    | 6 => invalid f
    | _ => (f.signed n 0x3F800000, 0)
  | .fin _ m ex =>
    if m = 0 then
      match fn with
      | 0 => (f.signed n f.infBits, flagDZ)
      | 1 => (f.signed n f.infBits, flagDZ)
      | 2 => (a, 0)
      | 3 => (0x3F800000, 0)
      | 4 => (f.signed true f.infBits, flagDZ)
      | 5 => (a, 0)
      | 6 => (0x3F800000, 0)
      | _ => (a, 0)
    else
      match fn with
      | 0 =>
        let r := recipOf m ex
        sfuResult e 0 x (powerOfTwo m) n r.1 r.2 1 (ulpOf r.1 r.2)
      | 1 =>
        if n then invalid f
        else
          let r := rsqrtOf m ex
          sfuResult e 1 x r.1 false r.2.1 r.2.2 2 (ulpOf r.2.1 r.2.2)
      | 2 => fsqrt f e a
      | 3 =>
        let r := exp2Of n m ex
        sfuResult e 3 x (r.1 == 1 && decide (-149 ≤ r.2) && decide (r.2 ≤ 127)) false r.1 r.2 2 (ulpOf r.1 r.2)
      | 4 =>
        if n then invalid f
        else
          let r := log2Of m ex
          let inside := decide (0x3F000000 ≤ a) && decide (a ≤ 0x40000000)
          if r.2.1 = 0 then (0, 0)
          else sfuResult e 4 x (powerOfTwo m) r.1 r.2.1 r.2.2 (if inside then 1 else 2) (if inside then -22 else ulpOf r.2.1 r.2.2)
      | 7 =>
        let r := tanhOf m ex
        sfuResult e 7 x false n r.1 r.2 2 (ulpOf r.1 r.2)
      | fn =>
        if 15 < ex + Nat.log2 m ∨ (15 = ex + Nat.log2 m ∧ !powerOfTwo m) then
          let c := (Config.sfuChoice fn x).toNat
          ftzOut f e (if withinBound c false 0 0 1 0 then c else 0, flagNX)
        else
          let r := trigOf (fn == 6) n m ex
          sfuResult e fn x false r.1 r.2.1 r.2.2 1 (-21)

/-- A VSFU word: counted on SFU, written when it returns (R146, R148). -/
def sfuWord (fn : Nat) (d b : BitVec 6) (q : BitVec 2) (s : State) (v : View) : Effect :=
  let vals := v.active.map fun l => (l, sfuValue v.path.env fn (s.bV v (.fp .fp32) q b l))
  .done (s.addOp v 2 (.sfu d.toNat (vals.map fun e => (e.1, BitVec.ofNat 32 e.2.1, none))
    (BitVec.ofNat 32 (vals.foldl (fun n e => n ||| e.2.2) 0))) [])

/-- VRCP (R147). -/
def execVrcp (c : BitVec 1) (w : BitVec 2) (d : BitVec 6) (b : BitVec 6) (q : BitVec 2) (s : State) : Result :=
  issueWord (.vrcp c w d b q) (sfuWord 0 d b q) s

/-- VRSQ (R147). -/
def execVrsq (c : BitVec 1) (w : BitVec 2) (d : BitVec 6) (b : BitVec 6) (q : BitVec 2) (s : State) : Result :=
  issueWord (.vrsq c w d b q) (sfuWord 1 d b q) s

/-- VSQRT (R147). -/
def execVsqrt (c : BitVec 1) (w : BitVec 2) (d : BitVec 6) (b : BitVec 6) (q : BitVec 2) (s : State) : Result :=
  issueWord (.vsqrt c w d b q) (sfuWord 2 d b q) s

/-- VEXP2 (R147). -/
def execVexp2 (c : BitVec 1) (w : BitVec 2) (d : BitVec 6) (b : BitVec 6) (q : BitVec 2) (s : State) : Result :=
  issueWord (.vexp2 c w d b q) (sfuWord 3 d b q) s

/-- VLOG2 (R147). -/
def execVlog2 (c : BitVec 1) (w : BitVec 2) (d : BitVec 6) (b : BitVec 6) (q : BitVec 2) (s : State) : Result :=
  issueWord (.vlog2 c w d b q) (sfuWord 4 d b q) s

/-- VSIN (R147). -/
def execVsin (c : BitVec 1) (w : BitVec 2) (d : BitVec 6) (b : BitVec 6) (q : BitVec 2) (s : State) : Result :=
  issueWord (.vsin c w d b q) (sfuWord 5 d b q) s

/-- VCOS (R147). -/
def execVcos (c : BitVec 1) (w : BitVec 2) (d : BitVec 6) (b : BitVec 6) (q : BitVec 2) (s : State) : Result :=
  issueWord (.vcos c w d b q) (sfuWord 6 d b q) s

/-- VTANH (R147). -/
def execVtanh (c : BitVec 1) (w : BitVec 2) (d : BitVec 6) (b : BitVec 6) (q : BitVec 2) (s : State) : Result :=
  issueWord (.vtanh c w d b q) (sfuWord 7 d b q) s

/-- VQFAC: M and the factor of the merge, exactly rounded, no flags (R138). -/
def execVqfac (c : BitVec 1) (w : BitVec 2) (d : BitVec 6) (a : BitVec 6) (b : BitVec 6) (q : BitVec 2) (s : State) : Result :=
  issueWord (.vqfac c w d a b q) (fun s v => .done (s.addOp v 2 (.sfu d.toNat (v.active.map fun l =>
    let r := quireFactor (v.v a.toNat l).toNat (s.bV v (.fp .fp32) q b l).toNat
    (l, BitVec.ofNat 32 r.1, some (BitVec.ofNat 32 r.2.1))) 0) [])) s

/-- VQNORM: o / l, correctly rounded, no flags (R139). -/
def execVqnorm (c : BitVec 1) (w : BitVec 2) (d : BitVec 6) (a : BitVec 6) (b : BitVec 6) (q : BitVec 2) (s : State) : Result :=
  issueWord (.vqnorm c w d a b q) (fun s v => .done (s.addOp v 2 (.sfu d.toNat (v.active.map fun l =>
    (l, BitVec.ofNat 32 (quireNorm (v.v a.toNat l).toNat (s.bV v (.fp .fp32) q b l).toNat), none)) 0) [])) s


end Sys2Proof.Machine
end

