-- ==== Sys2Proof/Machine/Fabric.lean ====
section
/-!
DEFINITION. The operations in flight of a core, and the fabric of a die (R8, R15, R270 to R273): its stops and loops, the hash lane
of a request, the routes that firmware fixes at stage C, and packets that a stop sends round.
-/

namespace Sys2Proof.Machine

/-! ### Stops and loops (R15) -/

/-- Stops of a die, in the order in which R15 lists them (log 76): 12 of clusters, 32 of four slices each, 2 bridge stops, the
I/O stop. -/
def stopCount : Nat := 47
def clusterStop (core : Nat) : Nat := clusterOf core % 12
/-- The stop of slices 4j to 4j + 3 (R8). -/
def sliceStop (da : Nat) : Nat := 12 + sliceOf da / 4
def bridgeStop (lane : Nat) : Nat := 44 + lane / 2
def ioStop : Nat := 46

/-- A membership that R15 and R270 allow: each stop on twelve of the 64 loops, 52 loops past nine stops and twelve past eight, and
a loop for every pair of stops. -/
def loopsFit (t : List (List Nat)) : Bool :=
  let sizes := (List.range 64).map fun n => (t.filter (·.contains n)).length
  t.length == stopCount && t.all (fun r => r.length == 12 && r.eraseDups.length == 12 && r.all fun n => decide (n < 64)) &&
    sizes.all (fun n => n == 8 || n == 9) && (sizes.filter (· == 8)).length == 12 &&
    t.all fun a => t.all fun b => a.any b.contains

/-- One membership of that form (log 76). -/
def someLoops : List (List Nat) :=
  [[0, 1, 7, 14, 21, 28, 29, 35, 42, 47, 49, 62],
   [1, 8, 12, 14, 15, 22, 28, 29, 36, 43, 49, 58],
   [2, 5, 9, 16, 23, 30, 32, 37, 44, 49, 58, 60],
   [3, 10, 14, 17, 24, 31, 33, 38, 45, 46, 49, 60],
   [4, 5, 11, 13, 18, 25, 32, 34, 39, 46, 49, 60],
   [5, 12, 19, 26, 31, 33, 38, 40, 47, 49, 57, 59],
   [6, 13, 20, 27, 34, 39, 41, 48, 49, 57, 58, 60],
   [0, 13, 19, 25, 26, 31, 35, 37, 43, 46, 50, 61],
   [1, 7, 20, 26, 32, 38, 39, 40, 44, 50, 58, 62],
   [2, 8, 14, 26, 27, 33, 39, 43, 45, 50, 55, 58],
   [3, 5, 8, 9, 15, 21, 30, 34, 40, 46, 50, 56],
   [0, 4, 10, 16, 22, 28, 31, 41, 47, 50, 56, 63],
   [5, 11, 17, 23, 28, 29, 35, 48, 50, 54, 56, 63],
   [6, 12, 18, 23, 24, 30, 36, 42, 49, 50, 61, 62],
   [0, 9, 12, 17, 21, 22, 34, 39, 44, 51, 56, 57],
   [1, 10, 13, 17, 18, 23, 27, 28, 40, 45, 51, 55],
   [2, 6, 7, 19, 24, 29, 30, 38, 41, 46, 51, 61],
   [3, 8, 20, 25, 30, 35, 44, 47, 49, 51, 57, 58],
   [0, 4, 9, 14, 20, 26, 31, 35, 36, 48, 51, 59],
   [5, 10, 15, 16, 27, 32, 36, 37, 42, 51, 52, 63],
   [6, 11, 16, 21, 30, 33, 38, 43, 48, 51, 53, 59],
   [0, 2, 11, 15, 19, 26, 30, 41, 45, 52, 62, 63],
   [1, 12, 16, 19, 27, 31, 35, 46, 52, 53, 59, 63],
   [2, 13, 17, 21, 24, 32, 36, 38, 47, 52, 57, 61]] ++
  [[3, 7, 18, 22, 33, 37, 39, 43, 45, 48, 52, 56],
   [4, 8, 19, 23, 29, 34, 38, 42, 48, 52, 56, 61],
   [1, 5, 9, 15, 20, 24, 28, 34, 39, 43, 52, 58],
   [6, 9, 10, 14, 18, 22, 25, 29, 40, 44, 52, 59],
   [0, 10, 14, 16, 20, 23, 33, 36, 46, 53, 56, 60],
   [1, 11, 12, 14, 22, 24, 34, 37, 47, 53, 57, 62],
   [2, 4, 12, 15, 25, 28, 31, 38, 42, 48, 53, 60],
   [3, 11, 13, 16, 26, 27, 29, 39, 42, 53, 58, 60],
   [4, 7, 17, 27, 30, 36, 40, 43, 44, 53, 62, 63],
   [5, 8, 15, 18, 21, 31, 41, 44, 47, 53, 57, 59],
   [6, 9, 10, 19, 21, 22, 32, 35, 45, 46, 53, 63],
   [0, 9, 17, 18, 27, 29, 38, 47, 52, 54, 56, 59],
   [1, 7, 10, 19, 21, 30, 39, 48, 51, 54, 61, 62],
   [2, 4, 11, 13, 20, 22, 31, 40, 42, 54, 55, 59],
   [3, 8, 12, 14, 23, 25, 32, 41, 43, 54, 55, 59],
   [3, 4, 13, 15, 24, 33, 35, 44, 54, 60, 61, 62],
   [3, 5, 7, 16, 22, 25, 34, 36, 45, 54, 56, 62],
   [6, 8, 15, 17, 20, 26, 28, 37, 46, 50, 54, 61],
   [0, 8, 16, 24, 32, 40, 41, 42, 48, 50, 55, 63],
   [1, 9, 11, 17, 23, 25, 33, 41, 42, 45, 55, 58],
   [2, 7, 10, 18, 26, 33, 34, 35, 37, 43, 55, 63],
   [3, 11, 13, 19, 27, 28, 32, 36, 44, 51, 55, 57],
   [4, 6, 12, 20, 21, 23, 29, 37, 45, 55, 57, 60]]

/-- The loops of each stop of a die: free, among the memberships of that form (log 76). -/
def loopTable (d : Nat) : List (List Nat) :=
  let t := (List.range stopCount).map (Config.loops d)
  if loopsFit t then t else someLoops

/-- The twelve of the die's 64 loops on which a stop sits. -/
def loopsOf (d stop : Nat) : List Nat := (loopTable d).getD stop []

/-- A stop put in its place among the stops of a loop. -/
def insertStop (place : Nat → Nat) (p : Nat) : List Nat → List Nat
  | [] => [p]
  | q :: rest => if place p ≤ place q then p :: q :: rest else q :: insertStop place p rest

/-- The stops of a loop in the direction in which it runs, of the membership `t` of a die. -/
def stopsOn (t : List (List Nat)) (d loop : Nat) : List Nat :=
  ((List.range stopCount).filter fun p => (t.getD p []).contains loop).foldr (insertStop (Config.loopPlace d loop)) []

/-- Hops from one stop to another on a loop. -/
def hopsOn (t : List (List Nat)) (d loop a b : Nat) : Nat :=
  let l := stopsOn t d loop
  (l.idxOf b + l.length - l.idxOf a) % max 1 l.length

/-- The loop that firmware chooses for a source stop, a destination stop and a hash lane (R271). -/
def chooseLoop (t : List (List Nat)) (d a b lane : Nat) : Nat :=
  let shared := (List.range 64).filter fun n => (t.getD a []).contains n && (t.getD b []).contains n
  let hops := shared.map fun n => (n, hopsOn t d n a b)
  let least := hops.foldl (fun m e => min m e.2) stopCount
  let best := (hops.filter fun e => e.2 == least).map (·.1)
  best.getD (lane % max 1 best.length) 0

/-- The route table of both dies. -/
def allRoutes : List (List Nat) :=
  (List.range 2).flatMap fun d =>
    let t := loopTable d
    (List.range stopCount).flatMap fun a => (List.range stopCount).map fun b =>
      (List.range 4).map fun lane => chooseLoop t d a b lane

/-- The loop of a route as stage C has fixed it. -/
def State.routeOf (s : State) (d a b lane : Nat) : Nat :=
  (s.routes.getD (stopCount * (stopCount * d + a) + b) []).getD lane 64

/-! ### Hash lanes (R272) -/

/-- The hash lane of a request to a line, of device memory or of the host. -/
def Loc.hashLane : Loc → Nat
  | .dev da _ _ _ => ((BitVec.ofNat 2 (bits da 8 7)) ^^^ (BitVec.ofNat 2 (bits da 10 9))).toNat
  | .host pa => ((BitVec.ofNat 2 (bits pa 8 7)) ^^^ (BitVec.ofNat 2 (bits pa 10 9))).toNat

/-- The hash lane of a remote scratchpad access, by its byte address. -/
def scratchLane (a : Nat) : Nat := bits a 8 7

/-- The hash lane of collective data from one member to another; of CBAR, 0. -/
def collectiveLane (sender receiver : Nat) : Nat := (sender + receiver) % 4
def cbarLane : Nat := 0

/-- The Stitch port of traffic to another device: that of rank lane modulo m among the m set bits of its MASK (R361). -/
def State.stitchPort (s : State) (device lane : Nat) : Option Nat :=
  let ports := (List.range 16).filter fun p => ((Table.get s.pf.stRoute device).getD 0).getLsbD p
  ports[lane % max 1 ports.length]?

/-- The I/O stop of a Stitch port: die 0's for ports 0 to 7, die 1's for the others (R8). -/
def portDie (port : Nat) : Nat := port / 8

/-! ### The way of a request -/

/-- The crossings of a request between a stop of one die and a stop of another, or of the same: die, source stop, destination
stop.  Between the dies it crosses the bridge that its hash lane names (R15, R271). -/
def wayBetween (d a d' b lane : Nat) : List (Nat × Nat × Nat) :=
  if d = d' then [(d, a, b)] else [(d, a, bridgeStop lane), (d', bridgeStop lane, b)]

/-- The way of a core's request for a line: to the slice that serves it, or to the I/O stop of die 0. -/
def wayOf (core : Nat) (loc : Loc) : List (Nat × Nat × Nat) :=
  match loc with
  | .dev da swm _ _ => wayBetween (dieOf core) (clusterStop core) (if swm then dieOf core else homeDie da) (sliceStop da) loc.hashLane
  | .host _ => wayBetween (dieOf core) (clusterStop core) 0 ioStop loc.hashLane

/-- The way from one core to another, and from a core to a Stitch port's I/O stop (R8, R15). -/
def wayToCore (core target lane : Nat) : List (Nat × Nat × Nat) :=
  wayBetween (dieOf core) (clusterStop core) (dieOf target) (clusterStop target) lane
def wayToPort (core port lane : Nat) : List (Nat × Nat × Nat) :=
  wayBetween (dieOf core) (clusterStop core) (portDie port) ioStop lane

/-- A request or transfer on the fabric: what tells it from the operation's others (a line or transfer, and 2^52 times the pass that
sends it), the 32-byte sectors that it names (R264), its hash lane, its way. -/
structure Packet where
  key : Nat
  mask : BitVec 4
  lane : Nat
  way : List (Nat × Nat × Nat)
  deriving DecidableEq, Repr

/-- The line or transfer of a packet's key, and its pass. -/
def keyLine (key : Nat) : Nat := key % 2 ^ 52
def keyPass (key : Nat) : Nat := key / 2 ^ 52

/-- The loops on which a packet travels. -/
def State.loopsFor (s : State) (p : Packet) : List Nat := p.way.map fun e => s.routeOf e.1 e.2.1 e.2.2 p.lane

/-- The stop at which a packet starts, and those at which it leaves a loop. -/
def Packet.source (p : Packet) : Nat × Nat := ((p.way.head?).map fun e => (e.1, e.2.1)).getD (0, 0)
def Packet.stops (p : Packet) : List (Nat × Nat) := p.way.map fun e => (e.1, e.2.2)

/-- A packet that circles at the end of crossing `leg` keeps out the later ones of its source and hash lane that leave a loop there
(R240, R273). -/
def Packet.keepsOut (e : Packet) (leg : Nat) (p : Packet) : Bool :=
  e.source == p.source && e.lane == p.lane && (match e.stops[leg]? with
    | some a => p.stops.contains a
    | none => false)

/-- One request for each distinct line that the runs of bytes of a pass touch (R264): pass, run, length. -/
def linePackets (core : Nat) (runs : List (Nat × Loc × Nat)) : List Packet :=
  (runs.map fun r => (r.1, r.2.1.line)).eraseDups.map fun l =>
    ⟨l.2.lineKey + 2 ^ 52 * l.1, sectorMask ((runs.filter fun r => r.1 == l.1 && r.2.1.line == l.2).map fun r => (r.2.1.offset, r.2.2)),
      l.2.hashLane, wayOf core l.2⟩

/-- One transfer for each distinct 128 bytes of another core's scratchpad. -/
def scratchPackets (core target : Nat) (addrs : List Nat) : List Packet :=
  (addrs.map (· / 128)).eraseDups.map fun a =>
    ⟨2 ^ 48 + target * 2 ^ 16 + a, 15, scratchLane (128 * a), wayToCore core target (scratchLane (128 * a))⟩

/-- A bridge with fewer than 4 good lanes is down (R361, R372). -/
def State.bridgeDown (s : State) (bridge : Nat) : Bool := match Table.get s.ras.bridgeBad bridge with
  | some n => decide (n < 4)
  | none => false

/-- A stop through which a packet goes: past a bridge that is down it takes the other, where that is up (log 22). -/
def State.stopFor (s : State) (stop : Nat) : Nat :=
  if stop = 44 ∧ s.bridgeDown 0 ∧ !s.bridgeDown 1 then 45
  else if stop = 45 ∧ s.bridgeDown 1 ∧ !s.bridgeDown 0 then 44
  else stop

def State.overBridge (s : State) (p : Packet) : Packet := { p with way := p.way.map fun e => (e.1, s.stopFor e.2.1, s.stopFor e.2.2) }

/-- The packets that an operation still has on the fabric (R272): requests for lines, the pages of a PGSURR, transfers between
scratchpads, of an S2S from its source to its target, and a member's collective data for each other member. -/
def State.packets (s : State) (core : Nat) (o : Op) : List Packet :=
  if o.done then []
  else List.map s.overBridge (match o.kind with
    | .load _ _ _ _ lanes => linePackets core ((lanes.filter fun a => !o.has a.lane).map fun a => (a.lane / 32, a.loc, a.size))
    | .store lanes => linePackets core (lanes.map fun a => (a.1.lane / 32, a.1.loc, a.1.size))
    | .atom op _ _ none lanes => linePackets core ((lanes.filter (·.old.isNone)).map fun a => (a.lane / 32, a.loc, if op = 14 then 8 else 4))
    | .cwb runs _ =>
      linePackets core ((((s.die0.l2 ++ s.die1.l2).map (·.1)).eraseDups.filter fun l => meets [(l, 1)] runs).map fun l =>
        (0, .dev (128 * l) (match s.line (dieOf core) l with | some k => k.swm | none => false) false false, 128))
    | .surrender _ pages _ => linePackets core (pages.map fun pg => (0, .dev (65536 * pg) false false false, 128))
    | .scratch _ _ target _ lanes _ => if target = core then [] else scratchPackets core target (lanes.map (·.2))
    | .remote target _ lanes => scratchPackets core target (lanes.map (·.1))
    | .copy _ .s2s src dst rows =>
      let from' := if src.1 = dst.1 then core else src.1
      if from' = dst.1 then []
      else scratchPackets from' dst.1 (rows.flatMap fun r => (List.range ((r.scr2 % 128 + r.len + 127) / 128)).map fun i => r.scr2 + 128 * i)
    | .copy _ _ _ _ rows => linePackets core (rows.flatMap fun r => r.global.map fun a => (0, a.loc, a.size))
    | .col _ _ terms rank _ _ _ =>
      (terms.members.zipIdx.filter fun e => e.2 != rank).filterMap fun e =>
        let lane := if terms.op = 5 then cbarLane else collectiveLane rank e.2
        if e.1.1 = s.device then some ⟨2 ^ 49 + e.2, 15, lane, wayToCore core e.1.2 lane⟩
        else (s.stitchPort e.1.1 lane).map fun p => ⟨2 ^ 49 + e.2, 15, lane, wayToPort core p lane⟩
    | _ => [])

/-! ### Packets sent round (R273) -/

/-- What waits in a slice stop's queue for a hash lane, or is on its way there: core, operation, packet (R272). -/
def State.laneQueue (s : State) (die stop lane : Nat) : List (Nat × Nat × Packet) :=
  s.coreNumbers.flatMap fun c => (s.coreOps c).flatMap fun e =>
    ((s.packets c e.2).filter fun p => p.lane == lane && p.stops.getLast? == some (die, stop)).map fun p => (c, e.2.id, p)

/-- Packets that still circle, with the crossing at whose end they do: their operations have not had them performed yet. -/
def State.round (s : State) : List (Nat × Nat × Packet × Nat) :=
  s.circling.filterMap fun e => match s.opAt e.1 e.2.1 with
    | some (_, o) => ((s.packets e.1 o).find? fun p => p.key == e.2.2.1).map fun p => (e.1, e.2.1, p, e.2.2.2.1)
    | none => none

/-- A packet is refused: one that circles keeps it out. -/
def State.refused (s : State) (core op : Nat) (p : Packet) : Bool :=
  s.round.any fun e => !(e.1 == core && e.2.1 == op && e.2.2.1.key == p.key) && e.2.2.1.keepsOut e.2.2.2 p

/-- Packets of an operation that no circling packet keeps out. -/
def State.openPackets (s : State) (core : Nat) (o : Op) : List Packet := (s.packets core o).filter fun p => !s.refused core o.id p

/-- The lines that an operation's charge makes one: a block of a store or an atomic, else a line. -/
def Op.span (o : Op) : Nat :=
  match o.kind with
  | .store _ => 4
  | .atom _ _ _ none _ => 4
  | _ => 1

/-- A packet for the same line, of an earlier operation of the core or of an earlier pass, is still out: it arrives first (R240); so
does, before a store's or an atomic's, an earlier operation's for the same block. -/
def State.follows (s : State) (core : Nat) (o : Op) (key : Nat) : Bool :=
  (s.coreOps core).any fun e => (s.packets core e.2).any fun p =>
    (decide (e.2.id < o.id) && keyLine p.key / o.span == keyLine key / o.span) ||
      (e.2.id == o.id && decide (keyPass p.key < keyPass key) && keyLine p.key == keyLine key)

/-- The stop at the end of a crossing sends a packet round: at most twice, since its third arrival takes the reserved ejection
slot. -/
def State.sendRound (s : State) (core op key leg : Nat) : State :=
  match s.opAt core op with
  | none => s
  | some (_, o) =>
    match (s.packets core o).find? fun p => p.key == key with
    | none => s
    | some p =>
      let mine := fun (e : Nat × Nat × Nat × Nat × Nat) => e.1 == core && e.2.1 == op && e.2.2.1 == key
      let was : Nat × Nat := ((s.circling.find? mine).map (·.2.2.2)).getD (leg, 0)
      let n : Nat := if was.1 = leg then was.2 else 0
      if s.refused core op p || s.follows core o key || decide (2 ≤ n) || decide (leg < was.1) || decide (p.way.length ≤ leg) then s
      else { s with circling := (core, op, key, leg, n + 1) :: s.circling.filter fun e => !mine e && (s.opAt e.1 e.2.1).isSome }

end Sys2Proof.Machine
end

