-- ==== Sys2Proof/Machine/Perform.lean ====
section
/-!
DEFINITION. Performing the operations in flight: global and scratchpad accesses at their memory, in the order of
R240, the answers to charged stores (R176), and the return of results to registers, in issue order (R52).
-/

namespace Sys2Proof.Machine

/-! ### Returns (R52) -/

/-- What an operation's return writes. -/
def Team.retire (t : Team) (o : Op) : Team :=
  match o.kind with
  | .loaded fmt d scalar data =>
    let vals := data.map fun (e : Nat × List Byte × Bool) => (e.1, loadWords fmt e.2.1, e.2.2)
    if scalar then
      match vals with
      | [] => t
      | e :: _ => e.2.1.zipIdx.foldl (fun t w => t.putScalar o (d + w.2) w.1 e.2.2) t
    else (List.range (loadCount fmt)).foldl (fun t i =>
      t.putLanes o (d + i) (vals.map fun e => (e.1, wordAt e.2.1 i, e.2.2))) t
  | .atom op d ret _ lanes =>
    if !ret then t
    else
      let old := fun (e : AtomLane) => e.old.getD 0
      let t := t.putLanes o d (lanes.map fun e => (e.lane, (old e).setWidth 32, false))
      if op = 14 then t.putLanes o (d + 1) (lanes.map fun e => (e.lane, (old e >>> 32).setWidth 32, false)) else t
  | .surrender d _ freed => t.putScalar o d (BitVec.ofNat 32 (min freed 0xFFFFFFFF)) false
  | .trans d p scalar res => t.transWrite o d p scalar res
  | .sfu d vals flags => t.sfuWrite o d vals flags
  | _ => t

/-- Done operations of one counter return in issue order; a result behind an outstanding one is held (R52). -/
def Team.drain : Nat → Nat → Team → Team
  | 0, _, t => t
  | fuel + 1, code, t =>
    match t.ops.find? fun o => o.code == code with
    | none => t
    | some o => if o.done then Team.drain fuel code { (t.retire o) with ops := (t.retire o).ops.filter fun q => q.id != o.id } else t

/-- Done operations that no counter counts return each on its own. -/
def Team.drainFree (t : Team) : Team :=
  t.ops.foldl (fun t o => if o.code == 7 && o.done then
    { (t.retire o) with ops := (t.retire o).ops.filter fun q => q.id != o.id } else t) t

/-! ### Operations replaced -/

/-- The vector registers that an operation writes, marked as written once it has returned (R53). -/
def State.dirtyOp (s : State) (c uid : Nat) (o : Op) : State :=
  match (if o.done then (s.core c).teams.find? fun e => e.2.uid == uid else none) with
  | none => s
  | some e => (o.dests.filter fun r => decide (64 ≤ r) && decide (r < 128)).foldl (fun s r => s.dirtyFrame c e.1 (r - 64) o.lanesOut) s

/-- An operation replaced, and its counter drained. -/
def State.putOp (s : State) (c uid : Nat) (o : Op) : State :=
  match s.teamUid c uid with
  | none => s
  | some t =>
    let t := { t with ops := t.ops.map fun q => if q.id = o.id then o else q }
    (s.setUid c (if o.code = 7 then t.drainFree else Team.drain (t.ops.length) o.code t)).dirtyOp c uid o

/-! ### Lines and order (R240) -/

/-- Operations, newest first, that share a line with what follows them. -/
def sharing : List (Nat × Op) → List (Nat × Nat) → List (Nat × Op)
  | [], _ => []
  | e :: rest, runs =>
    if meets e.2.lineRuns runs then sharing rest (e.2.lineRuns ++ runs) ++ [e] else sharing rest runs

/-! ### Performing global accesses -/

/-- The new value of an atomic's location, if the lane writes it (R169): `m` the old value, `b` the operand. -/
def atomValue (op : Nat) (m b : DWord) : Option DWord :=
  let m32 : Word := m.setWidth 32
  let b32 : Word := b.setWidth 32
  let up := fun (w : Word) => some (w.setWidth 64)
  match op with
  | 0 => up (m32 + b32)
  | 1 => up (if b32.slt m32 then b32 else m32)
  | 2 => up (if m32.slt b32 then b32 else m32)
  | 3 => up (if b32.ult m32 then b32 else m32)
  | 4 => up (if m32.ult b32 then b32 else m32)
  | 5 => up (m32 &&& b32)
  | 6 => up (m32 ||| b32)
  | 7 => up (m32 ^^^ b32)
  | 8 => up b32
  | 9 => if m32 = b32 then some (b >>> 32) else none
  | 10 => up (BitVec.ofNat 32 (fadd .fp32 .nearest m32.toNat b32.toNat).1)
  | 11 => up (packed (fun x y => ((fadd .bf16 .nearest x y).1, 0)) m32 b32).1
  | 12 => none
  | 13 => up b32
  | _ => some (m + b)

def atomSize (op : Nat) : Nat := if op = 14 then 8 else 4

/-- A lane of an atomic that has been performed and has written its location. -/
def AtomLane.wrote (e : AtomLane) (op : Nat) : Bool :=
  match e.old with
  | some m => (atomValue op m e.b).isSome
  | none => false

/-- One lane of a global atomic performed at the home slice, with the answer for its block (R170, R176); lanes of one pass in one
line are one request (R264, R268). -/
def State.atomGlobal (s : State) (c : Nat) (t : Team) (o : Op) (op : Nat) (e : AtomLane) (all : List AtomLane) :
    AtomLane × List Nat × State :=
  let d := dieOf c
  let n := atomSize op
  let mates := all.filter fun q => q.lane / 32 == e.lane / 32 && q.loc.line == e.loc.line
  let s := if op = 12 then (if mates.any (·.old.isSome) then s else (s.demand e.loc).readAtHome d e.loc)
    else (s.demand e.loc).touch d e.loc
  let m := BitVec.ofNat 64 (leNat (s.readLoc d e.loc n))
  let b := e.loc.block.1
  let dirty := s.blockDirty b
  let value := atomValue op m e.b
  let s := match value with
    | some w =>
      let s' := (s.noteRing [(e.loc, n)]).touchLoc t.ctx e.loc
      ((s'.storeLoc d e.loc (leBytes n w.toNat) (!mates.any (·.wrote op) || s.replicatedAt e.loc)).keepPast (e.loc.keys n)).tableChange s
    | none => s
  let more := all.any fun q => q.lane != e.lane && q.old.isNone && q.loc.block.1 == b
  let s := if o.charged.contains b then s.answer c t.ctx o.id b dirty more else s
  let s := if value.isSome then s.tearTrace d t.ctx [(e.loc, n)] else s
  ({ e with old := some m }, if more then o.charged else o.charged.filter (· != b), s)

/-- One lane of a scratchpad atomic performed at its bank. -/
def State.atomScratch (s : State) (target : Nat × Nat) (op : Nat) (e : AtomLane) : AtomLane × State :=
  let a := match e.loc with | .dev da _ _ _ => da | .host pa => pa
  let n := atomSize op
  match s.cohort target.1 target.2 with
  | none => ({ e with old := some 0 }, s)
  | some h =>
    let m := BitVec.ofNat 64 (leNat (h.read a n))
    let s := match atomValue op m e.b with
      | some w => s.scratchWrite target.1 target.2 a (leBytes n w.toNat)
      | none => s
    ({ e with old := some m }, s)

/-- Lanes of an atomic performed, ascending; those that share a lower lane's location follow it (R170). -/
def State.atomLanes (s : State) (c : Nat) (t : Team) (o : Op) (which : AtomLane → Bool) : Op × State :=
  match o.kind with
  | .atom op d ret target lanes =>
    lanes.foldl (fun (r : Op × State) e =>
      if e.old.isSome || !which e then r
      else
        let now := match r.1.kind with | .atom _ _ _ _ l => l | _ => []
        match target with
        | some q =>
          let x := r.2.atomScratch q op e
          ({ r.1 with kind := .atom op d ret target (now.map fun f => if f.lane = e.lane then x.1 else f) }, x.2)
        | none =>
          let x := r.2.atomGlobal c t r.1 op e now
          ({ r.1 with
              kind := .atom op d ret target (now.map fun f => if f.lane = e.lane then x.1 else f), charged := x.2.1 }, x.2.2))
      (o, s)
  | _ => (o, s)

/-! ### Surrendered pages (R186, R187, R248) -/

/-- A balloon record of a context (R294). -/
def State.traceBalloon (s : State) (x d what : Nat) : State :=
  let k := s.ctx x
  s.trace x 8 (crucibleSrc d) 0 0 false 0
    (k.blnId.toNat + k.blnReq.toNat * 2 ^ 32 + k.blnCred.toNat * 2 ^ 64 + x * 2 ^ 96 + what * 2 ^ 104)

/-- Every line of a page leaves both L2s without writeback. -/
def State.dropPageLines (s : State) (pg : Nat) : State :=
  let keep := fun (k : Die) => { k with l2 := k.l2.filter fun e => e.1 / 512 != pg }
  { s with die0 := keep s.die0, die1 := keep s.die1 }

/-- The lines of a page. -/
def pageLines (pg : Nat) : List Nat := (List.range 512).map (512 * pg + ·)

/-- The page's blocks and contents are gone: it reads zero and holds nothing. -/
def State.clearPage (s : State) (pg : Nat) : State :=
  let s := s.dropPageLines pg
  ({ s with
    blocks := s.blocks.filter fun e => e.1 / 128 != pg
    ras := { s.ras with latent := s.ras.latent.filter fun g => g / 2048 != pg }
    mem := s.mem.filter fun e => e.1 / 65536 != pg }.keepPast (pageLines pg)).tableChange s

/-- The contents of a page become undefined (R187; free, log 3). -/
def State.tear (s : State) (pg : Nat) : State :=
  let key := s.fresh * 2 ^ 20
  let torn := fun (k : Die) => { k with l2 := k.l2.map fun e =>
    if e.1 / 512 = pg && e.2.swm then (e.1, { e.2 with data := freeBytes (key + 2 ^ 18 + 128 * (e.1 % 512)) 128 }) else e }
  ({ s with
    mem := Memory.writeList s.mem (65536 * pg) (freeBytes key 65536)
    die0 := torn s.die0, die1 := torn s.die1, fresh := s.fresh + 1 }.keepPast (pageLines pg)).tableChange s

/-- A PGSURR of another team is still to surrender the page. -/
def State.surrendering (s : State) (uid pg : Nat) : Bool :=
  s.allTeams.any fun e => e.2.uid != uid && e.2.ops.any fun o => match o.kind with
    | .surrender _ pages _ => !o.done && pages.contains pg
    | _ => false

/-- A team's stores to pages that another team is surrendering (R187). -/
def State.noteTorn (s : State) (uid : Nat) (locs : List Loc) : State :=
  (locs.filterMap fun l => match l with | .dev da _ _ _ => some (pageOf da) | .host _ => none).eraseDups.foldl (fun s pg =>
    if s.surrendering uid pg then s.setPage pg { s.page pg with torn := true } else s) s

/-- Device pages that an operation in flight is still to write. -/
def Op.writesTo (o : Op) : List Nat :=
  let pages := fun (accs : List Loc) => accs.filterMap fun l => match l with
    | .dev da _ _ _ => some (pageOf da)
    | .host _ => none
  if o.done then []
  else match o.kind with
    | .store lanes => pages (lanes.map (·.1.loc))
    | .atom _ _ _ none lanes => pages ((lanes.filter (·.old.isNone)).map (·.loc))
    | .copy _ .s2g _ _ rows => pages (rows.flatMap fun r => r.global.map (·.loc))
    | .copy _ .sct _ _ rows => pages (rows.flatMap fun r => r.global.map (·.loc))
    | _ => []

/-- Granules credited to a context's open balloon (R186). -/
def State.credit (s : State) (x die n : Nat) : State :=
  let k := s.ctx x
  if !k.blnOpen then s
  else (s.setCtx x { k with blnCred := BitVec.ofNat 32 (min (k.blnCred.toNat + n) 0xFFFFFFFF) }).traceBalloon x die 1

/-! ### Performing -/

/-- Lanes of a store written; what they leave on a page that another team is surrendering, or has surrendered meanwhile, is
undefined (R187). -/
def State.storeLanes (s : State) (c uid : Nat) (o : Op) (lanes : List (Access × List Byte)) : State :=
  let s := (s.serveLines (lanes.map (·.1.loc.lineKey))).noteTorn uid (lanes.map (·.1.loc))
  let x := s.ctxOf c uid
  let runs := lanes.map fun e => (e.1.loc, e.1.size)
  let s := (runs.foldl (fun s r => s.touchLoc x r.1) (s.noteRing runs)).writeLanes (dieOf c) lanes
  let s := s.tearTrace (dieOf c) x runs
  let pages := lanes.filterMap fun e => match e.1.loc with | .dev da _ _ _ => some (pageOf da) | .host _ => none
  (o.junk.filter pages.contains).foldl State.tear s

/-- Some lanes of a store performed, with the answers for their blocks (R165, R176); the rest stay in flight. -/
def State.storePart (s : State) (c uid : Nat) (o : Op) (which : Access → Bool) : Op × State :=
  match o.kind with
  | .store lanes =>
    let now := lanes.filter fun e => which e.1
    let left := lanes.filter fun e => !which e.1
    let touched := chargedBlocks (now.map (·.1))
    let blocks := if left.isEmpty then o.charged else o.charged.filter touched.contains
    let s' := s.storeLanes c uid o now
    let still := chargedBlocks (left.map (·.1))
    ({ o with kind := .store left, done := left.isEmpty, charged := o.charged.filter fun b => !blocks.contains b || still.contains b },
      blocks.foldl (fun r b => r.answer c (s.ctxOf c uid) o.id b (s.blockDirty b) (still.contains b)) s')
  | _ => (o, s)

/-- Lanes of an atomic performed, after the reads in flight of the other die; what they leave on a page that another team is
surrendering is undefined (R187, R269). -/
def State.atomPart (s : State) (c : Nat) (t : Team) (o : Op) (which : AtomLane → Bool) : Op × State :=
  match o.kind with
  | .atom op _ _ none lanes =>
    let mine := (lanes.filter fun e => e.old.isNone && which e).map fun (e : AtomLane) => e.loc
    let s := if op = 12 then s else (s.serveLines (mine.map Loc.lineKey)).noteTorn t.uid mine
    let r := s.atomLanes c t o which
    (r.1, if op = 12 then r.2 else o.junk.foldl State.tear r.2)
  | _ => s.atomLanes c t o which

/-- What an operation that has written a part of a block still has to write there: its charge covers the block once, so no writeback
and no surrender comes between (R176, R177, R187; log 44). -/
def State.finishHalf (s : State) (e : Nat × Nat × Nat × Nat) : State :=
  match s.opAt e.1 e.2.1 with
  | none => s
  | some (t, o) =>
    let b := e.2.2.1
    let r := match o.kind with
      | .store _ => s.storePart e.1 t.uid o fun a => a.loc.block.1 == b
      | .copy _ _ _ _ rows =>
        let runs : List (Loc × Nat) := (globalRuns rows).filter fun (q : Loc × Nat) => q.1.block.1 == b
        let s := ((s.noteRing runs).serveLines (runs.map fun (q : Loc × Nat) => q.1.lineKey)).noteTorn t.uid (runs.map fun (q : Loc × Nat) => q.1)
        let r := s.copyWords e.1 o (fun l => l.block.1 == b) true
        (r.1, r.2.tearTrace (dieOf e.1) t.ctx runs)
      | _ => s.atomPart e.1 t o fun a => a.loc.block.1 == b
    r.2.putOp e.1 t.uid r.1

def State.finishHalves (s : State) (which : Nat → Bool) : State := (s.halves.filter fun e => which e.2.2.1).foldl State.finishHalf s

/-- Home lines of a range written back for a die, and dropped from it by CINV (R179, R180). -/
def State.backLines (s : State) (d : Nat) (runs : List (Nat × Nat)) (drop : Bool) : State :=
  let s := s.finishHalves fun b => meets [(4 * b, 4)] runs
  let held := ((s.die0.l2 ++ s.die1.l2).map (·.1)).eraseDups
  let lines := held.filter fun l => runs.any fun r => decide (r.1 ≤ l) && decide (l < r.1 + r.2)
  let s := (lines.map (· / 4)).eraseDups.foldl (fun s b =>
    let mine := (lines.filter fun l => l / 4 == b).flatMap fun l =>
      let own := match s.line d l with | some k => if k.swm then [(d, l)] else [] | none => []
      let home := match s.line (homeDie (128 * l)) l with | some k => if k.swm then [] else [(homeDie (128 * l), l)] | none => []
      own ++ home
    s.writeback b mine) s
  if drop then (lines.foldl (fun s l => s.dropLine d l) s).keepPast lines else s

/-- One page surrendered by a team of a context: granules freed.  It counts as a write (R268), and what other teams still
store there leaves its contents undefined (R187).  A driver's command on the page finds it unbacked, and is done (R358). -/
def State.surrenderPage (s : State) (uid x pg : Nat) : Nat × State :=
  let d := homeDie (65536 * pg)
  let s := s.finishHalves fun b => b / 128 == pg
  let p := s.page pg
  let n := s.heldGranules pg
  let s := if p.replicated then s.serveLines (pageLines pg) else s
  let s := ((s.noteImage (65536 * pg)).noteRing [(.dev (65536 * pg) false false false, 65536)]).clearPage pg
  let mark := fun (t : Team) => if t.uid = uid then t else
    { t with ops := t.ops.map fun o => if o.writesTo.contains pg then { o with junk := pg :: o.junk } else o }
  let s := { s with cores := s.cores.map fun (e : Nat × Core) => (e.1, { e.2 with
    teams := e.2.teams.map fun (t : Nat × Team) => (t.1, mark t.2), evicted := e.2.evicted.map fun (t : Nat × Team) => (t.1, mark t.2) }) }
  let s := (s.addFree d n).setPage pg { Page.fresh with
    pin := p.pin, reads := if p.replicated then 0 else p.reads, writes := if p.replicated then 1 else min 63 (p.writes + 1) }
  (n, ((if p.torn then s.tear pg else s).credit x d n).commandPage pg 0)

/-- Some pages of a PGSURR surrendered, those that migrate left for later (R186). -/
def State.surrenderPages (s : State) (uid x : Nat) (o : Op) (d : Nat) (pages : List Nat) (freed : Nat) (which : Nat → Bool) : Op × State :=
  let r := pages.foldl (fun (r : List Nat × Nat × State) pg =>
    if !which pg || (r.2.2.page pg).state == .migrating then (r.1 ++ [pg], r.2)
    else
      let q := r.2.2.surrenderPage uid x pg
      (r.1, r.2.1 + q.1, q.2)) ([], freed, s)
  ({ o with kind := .surrender d r.1 r.2.1, done := r.1.isEmpty }, r.2.2)

/-- Lines that a PGSURR keeps from later accesses of its core, its pages migrating, and the operations that have to wait for them, or
for one that waits (R186, R240). -/
def State.stuck (s : State) (c : Nat) : List Nat × List (Nat × Nat) :=
  (s.coreOps c).foldl (fun r e =>
    let own := match e.2.kind with
      | .surrender _ pages _ => (pages.filter fun pg => (s.page pg).state == .migrating).map fun pg => (512 * pg, 512)
      | _ => []
    if meets e.2.lineRuns r.2 then (e.2.id :: r.1, e.2.lineRuns ++ r.2)
    else if e.2.done then r else (r.1, own ++ r.2)) ([], [])

def State.stuckOp (s : State) (c id : Nat) : Bool := (s.stuck c).1.contains id

/-- An operation performed by itself: what it reads is held in it, what it writes is in memory; one that has to wait for a PGSURR is
not performed. -/
def State.performKind (s : State) (c uid : Nat) (o : Op) : Op × State :=
  if s.stuckOp c o.id then (o, s)
  else match o.kind with
  | .load fmt d scalar cached lanes =>
    let r := s.readLanes c (s.ctxOf c uid) cached (lanes.filter fun a => !o.has a.lane) (s.fresh * 2 ^ 20 + 900000)
    let data := lanes.filterMap fun a => (o.got ++ r.1).find? fun e => e.1 == a.lane
    ({ o with kind := .loaded fmt d scalar data, done := false, got := [] }, { r.2 with fresh := r.2.fresh + 1 })
  | .store _ => s.storePart c uid o fun _ => true
  | .atom _ _ _ _ _ => match s.teamUid c uid with
    | some t => s.atomPart c t o fun _ => true
    | none => (o, s)
  | .cwb runs drop => ({ o with done := true }, s.backLines (dieOf c) runs drop)
  | .surrender d pages freed =>
    let x := s.ctxOf c uid
    s.surrenderPages uid x o d pages freed fun _ => true
  | .remote core region lanes => ({ o with done := true }, lanes.foldl (fun s e => s.scratchWrite core region e.1 e.2) s)
  | .scratch fmt d core region lanes size =>
    let data := lanes.map fun (e : Nat × Nat) => match s.cohort core region with
      | some h => (e.1, h.read e.2 size, h.poisoned e.2 size)
      | none => (e.1, List.replicate size 0, false)
    ({ o with kind := .loaded fmt d false data }, s)
  | _ => (o, s)

/-- An operation as it stands now: others may have marked it since it was read (R187). -/
def State.opNow (s : State) (c : Nat) (o : Op) : Op := ((s.opAt c o.id).map (·.2)).getD o

/-- The operation of a number performed. -/
def State.performId (s : State) (c id : Nat) : State :=
  match s.opAt c id with
  | none => s
  | some (t, o) =>
    let r := s.performKind c t.uid o
    r.2.putOp c t.uid r.1

/-- A circling packet is ejected: what it carries is performed (R273); an engine's transfer then lies at its target. -/
def State.eject (s : State) (c id key : Nat) : State :=
  let s' := { s with circling := s.circling.filter fun e => !(e.1 == c && e.2.1 == id && e.2.2.1 == key) }
  match s'.opAt c id with
  | none => s'
  | some (t, o) =>
    if s.stuckOp c id then s
    else
      let here := fun (lane : Nat) (loc : Loc) => loc.lineKey == keyLine key && decide (lane / 32 ≤ keyPass key)
      match o.kind with
      | .load _ _ _ _ _ => let r := s'.loadLine c t.uid o (keyLine key) (keyPass key); r.2.putOp c t.uid r.1
      | .store _ => let r := s'.storePart c t.uid o fun a => here a.lane a.loc; r.2.putOp c t.uid r.1
      | .atom _ _ _ none _ => let r := s'.atomPart c t o fun e => here e.lane e.loc; r.2.putOp c t.uid r.1
      | .cwb _ drop => s'.backLines (dieOf c) [(keyLine key, 1)] drop
      | .surrender d pages freed =>
        let r := s'.surrenderPages t.uid t.ctx o d pages freed fun pg => 512 * pg == keyLine key
        r.2.putOp c t.uid r.1
      | .scratch _ _ _ _ _ _ => s'.performId c id
      | .remote _ _ _ => s'.performId c id
      | _ => s'

/-- Circling packets that keep out packets of a core, each with its operation's number, are ejected before them (R273). -/
def State.clearFor (s : State) (c : Nat) (out : List (Nat × Packet)) : State :=
  (s.round.filter fun e => out.any fun q => !(e.1 == c && e.2.1 == q.1 && e.2.2.1.key == q.2.key) && e.2.2.1.keepsOut e.2.2.2 q.2).foldl
    (fun s e => s.eject e.1 e.2.1 e.2.2.1.key) s

/-- As before packets of operations of the core. -/
def State.makeWay (s : State) (c : Nat) (ops : List Op) : State :=
  s.clearFor c (ops.flatMap fun o => (s.packets c o).map fun p => (o.id, p))

/-- As before reads that a word or a fetch makes at once: their requests for lines take their lanes like any (R272). -/
def State.clearWay (s : State) (c : Nat) (locs : List Loc) : State :=
  s.clearFor c ((linePackets c (locs.map fun l => (0, l, 4))).map fun p => ((s.core c).nextOp, s.overBridge p))

/-- Earlier operations of the core that share a line with the lines given are performed first (R240).  Between teams, and between a
team and its runner, the order in which they issued is taken for the order at the core's port, which the spec gives within a team
or a runner only (DESIGN CHOICE, log 91). -/
def State.performEarlier (s : State) (c id : Nat) (runs : List (Nat × Nat)) : State :=
  let before := ((s.coreOps c).filter fun e => decide (e.2.id < id)).reverse
  let ops := sharing before runs
  (ops.map (·.2.id)).foldl (State.performId · c) (s.makeWay c (ops.map (·.2)))

/-- An operation performed after the earlier ones that share a line with it. -/
def State.performOp (s : State) (c uid : Nat) (o : Op) : Op × State :=
  let s := (s.performEarlier c o.id o.lineRuns).makeWay c [o]
  s.performKind c uid (s.opNow c o)

/-- Earlier scratchpad operations of a team performed at their banks, before a later store to the same region. -/
def State.performScratch (s : State) (c uid : Nat) : State :=
  (s.coreOps c).foldl (fun s e =>
    let mine : Bool := match e.2.kind with
      | .scratch _ _ _ _ _ _ => true
      | .atom _ _ _ (some _) _ => true
      | .remote _ _ _ => true
      | _ => false
    if e.1 == uid && mine && !e.2.done then (s.makeWay c [e.2]).performId c e.2.id else s) s

/-- Writes that a release at core scope or wider covers, marked for the promotion of R244. -/
def Team.markReleased (t : Team) : Team :=
  { t with ops := t.ops.map fun o => if o.isWrite || o.isRead then { o with released := true } else o }

/-- The operation of a number performed after the earlier ones that share a line with it, where it is still to be performed. -/
def State.performNow (s : State) (c id : Nat) : State :=
  match s.opAt c id with
  | none => s
  | some (t, o) =>
    if o.done then s
    else
      let r := s.performOp c t.uid o
      r.2.putOp c t.uid r.1

/-- A core-scope acquire with promotion: every core performs the writes its releases cover (R244). -/
def State.promote (s : State) : State :=
  s.coreNumbers.foldl (fun s c => (s.coreOps c).foldl (fun s e => if e.2.released then s.performNow c e.2.id else s) s) s

/-- What a release at core scope waits for is performed: the team's reads, its remote scratchpad stores, its CWBs and CINVs
(R114, R241, R243, R246). -/
def State.performRelease (s : State) (c uid : Nat) : State :=
  (s.coreOps c).foldl (fun s e => if e.1 == uid && e.2.blocksRelease 1 then s.performNow c e.2.id else s) s

end Sys2Proof.Machine
end

