-- ==== Sys2Proof/Machine/Memwords.lean ====
section
/-!
DEFINITION. Loads and stores: the checks of R160, charging (R172 to R175), global and scratchpad access (R158 to R168, R301).
-/

namespace Sys2Proof.Machine

/-! ### Checks of an access over all its lanes (R160) -/

/-- The locations of a global access's lanes, or what a failing row comes to: alignment, then translation and
permission, then a page marked short, then a remote page, each over all lanes in ascending order (R324, R383; log 82). -/
def State.lookAll (s : State) (v : View) (i : Intent) (size : Nat) (addrs : List (Nat × Nat)) : Except Effect (List Access) :=
  match addrs.find? fun e => e.2 % size != 0 with
  | some e => .error (.trap 0x07 (BitVec.ofNat 64 e.2) 0)
  | none =>
    let looks := addrs.map fun e => (e, s.check v.team.ctx i e.2)
    match looks.findSome? fun e => match e.2 with
      | .fault aux => some (Effect.trap 0x04 (failVa aux e.1.2) aux)
      | _ => none with
    | some t => .error t
    | none =>
      match (looks.findSome? fun e => match e.2 with
        | .short _ => some (Effect.trap 0x05 (BitVec.ofNat 64 (e.1.2 / 65536 * 65536)) 0x80000000)
        | _ => none).orElse fun _ => looks.findSome? fun e => match e.2 with
        | .away pg => some (s.park v pg (e.1.2 / 65536 * 65536) i.kind)
        | _ => none with
      | some t => .error t
      | none => .ok (looks.filterMap fun e => match e.2 with
        | .found loc => some ⟨e.1.1, loc, size⟩
        | _ => none)

/-! ### Charging a writing access (R174, R175) -/

/-- A capacity record: the reserve, the shortfall, and whether nothing was granted (R294). -/
def State.traceCapacity (s : State) (x d short : Nat) (none' : Bool) : State :=
  s.trace x 7 (crucibleSrc d) 0 0 false 0
    ((BitVec.ofInt 64 (s.reserve d)).toNat + min short 0xFFFFFFFF * 2 ^ 64 + x * 2 ^ 96 + none'.toNat * 2 ^ 104)

/-- Blocks a write is charged for: host-window pages are charged nothing (R164). -/
def charged (accs : List Access) : List Nat :=
  chargedBlocks (accs.filter fun a => match a.loc with
    | .dev _ _ _ hw => !hw
    | .host _ => true)

/-- Trap 0x05 of a charge that the ladles, with the balances given, do not cover once the crucibles have answered (R175). -/
def State.chargeTrap (s : State) (v : View) (accs : List Access) (addrs : List (Nat × Nat)) (bal : Nat → Nat) : Effect :=
  let blocks := charged accs
  let b := (firstUncovered bal blocks 0 0).getD 0
  let d := payDie b
  let short := chargeOn d blocks - bal d
  let va := match accs.find? fun a => a.loc.block.1 == b with
    | some a => ((addrs.find? fun e => e.1 == a.lane).map (·.2)).getD 0
    | none => 0
  .ended ((s.traceCapacity v.team.ctx d short true).trapView v 0x05 (BitVec.ofNat 64 (va / 512 * 512))
    (BitVec.ofNat 32 (min short 0x7FFFFFFF)) 0)

/-- The charge taken, or the wait for a refill, or trap 0x05 once the crucibles have answered. -/
def State.charge (s : State) (v : View) (accs : List Access) (addrs : List (Nat × Nat)) : Except Effect (State × List Nat) :=
  let x := v.team.ctx
  let blocks := charged accs
  let need0 := chargeOn 0 blocks
  let need1 := chargeOn 1 blocks
  let p := s.pathOf v
  let done := s.modPath v fun p => { p with refill := none, answer := none }
  match p.answer with
  | some (false, b0, b1) => .error (s.chargeTrap v accs addrs fun d => if d = 0 then b0 else b1)
  | some (true, n0, n1) =>
    if n0 = need0 ∧ n1 = need1 then .ok (done, blocks)
    else .error (.wait (s.uncharge v.core v.slot v.who) 18)
  | none =>
    if blocks.isEmpty then .ok (done, [])
    else
      let l := (s.ladle v.core x).getD ⟨x, 0, 0, 0, 0, false⟩
      if need0 ≤ l.bal0 ∧ need1 ≤ l.bal1 then .ok (done.setLadle v.core (l.charged need0 need1), blocks)
      else .error (.wait (s.modPath v fun p => { p with
        refill := some (need0 - l.bal0, need1 - l.bal1), needs := (need0, need1) }) 18)

/-! ### Global loads and stores (R161 to R164) -/

/-- The counter code of a load: the runner's are counted nowhere (R232). -/
def View.code (v : View) (k : Nat) : Nat := if v.run then 7 else k

/-- LDG. -/
def ldgWord (d a o : BitVec 6) (q : BitVec 2) (f : BitVec 4) (s : State) (v : View) : Effect :=
  let size := loadSize f.toNat
  let addrs := v.active.map fun l => (l, address (v.vPair a.toNat l) (immOff v.path.ext o) size)
  match s.lookAll v Intent.load size addrs with
  | .error e => e
  | .ok accs =>
    .done ((s.cacheAll (dieOf v.core) v.team.ctx addrs).addOp v 0 (.load f.toNat d.toNat false (!q.getLsbD 0) accs) [])

/-- LDU: one footprint for the path, or for the runner (R163). -/
def lduWord (d a o : BitVec 6) (q : BitVec 2) (f : BitVec 4) (s : State) (v : View) : Effect :=
  let size := loadSize f.toNat
  let addrs := [(0, address (v.sPair a.toNat 0) (immOff v.path.ext o) size)]
  match s.lookAll v Intent.load size addrs with
  | .error e => e
  | .ok accs =>
    .done ((s.cacheAll (dieOf v.core) v.team.ctx addrs).addOp v (v.code 0) (.load f.toNat d.toNat true (!q.getLsbD 0) accs) [])

/-- STG: charged, then counted on ST until performed; stochastic conversions draw in the active lanes (R89). -/
def stgWord (d a o : BitVec 6) (f : BitVec 4) (s : State) (v : View) : Effect :=
  let fmt := f.toNat
  let size := storeSize fmt
  let addrs := v.active.map fun l => (l, address (v.vPair a.toNat l) (immOff v.path.ext o) size)
  match s.lookAll v Intent.store size addrs with
  | .error e => e
  | .ok accs =>
    match s.charge v accs addrs with
    | .error e => e
    | .ok (s, blocks) =>
      let gen := (s.teamOf v).gen
      let drawn := fun l => nextRandom (wordAt gen l)
      let lanes := accs.map fun (e : Access) =>
        (e, storeBytes fmt ((List.range (storeRegs f)).map fun i => v.v (d.toNat + i) e.lane) (drawn e.lane))
      let s := if fmt = 13 then
          s.modTeam v fun t => { t with gen := v.active.foldl (fun g l => g.set l (drawn l)) t.gen }
        else s
      .done ((s.cacheAll (dieOf v.core) v.team.ctx addrs).addOp v 6 (.store lanes) blocks)

/-! ### Scratchpad access (R166 to R168, R301) -/

/-- The format of a local access in the numbers of the global ones (R76): 8, 9, 10 are b32, b64, b128. -/
def localFmt (fh : BitVec 1) (fl : BitVec 2) : Nat := if fh = 0 then fl.toNat else 4 + fl.toNat

/-- The oldest cohort of a launch that is resident on a core (R167). -/
def State.oldestCohort (s : State) (c x launch : Nat) : Option Cohort :=
  (s.core c).cohorts.foldl (fun m h =>
    if h.ctx = x ∧ h.launch = launch then
      match m with
      | none => some h
      | some g => if h.age < g.age then some h else m
    else m) none

/-- Rows 2 to 4 of R160 for a scratchpad region, with the shadow's new entries for a write (R301). -/
def State.scratchCheck (s : State) (v : View) (core : Nat) (h : Cohort) (write remote : Bool) (size align : Nat)
    (addrs : List (Nat × Nat)) : Except Effect State :=
  match addrs.find? fun e => e.2 % align != 0 with
  | some e => .error (.trap 0x07 (BitVec.ofNat 64 e.2) 0)
  | none =>
    match addrs.find? fun e => decide (v.team.scrb < e.2 + size) with
    | some e => .error (.trap 0x08 (BitVec.ofNat 64 e.2) 0)
    | none =>
      if !v.team.race then .ok s
      else
        let g := if remote then v.team.gc else v.team.gb
        let k := coreIndex v.core
        match addrs.findSome? fun e => (wordsOf e.2 size).find? fun w => racy (h.entry w) g v.slot k with
        | some w => .error (.trap 0x10 (BitVec.ofNat 64 (4 * w)) 0)
        | none =>
          if !write then .ok s
          else
            let ws := (addrs.flatMap fun e => wordsOf e.2 size).eraseDups
            let h' := { h with shadow := ws.foldl (fun m w => Table.put m w (shadowEntry g v.slot k)) h.shadow }
            .ok (ws.foldl (fun s w => s.dirtyUnits core (16384 * (s.core core).bndScr + (h.base / 4 + w) * 2) 2) (s.setCohort core h'))

/-- A local scratchpad address (R158): the sum taken in 32 bits (log 11). -/
def View.scratchAddr (v : View) (a : BitVec 6) (off : Word) (size l : Nat) : Nat :=
  (v.v a.toNat l + off * BitVec.ofNat 32 size).toNat

/-- LDS: counted on SP. -/
def ldsWord (d a o : BitVec 6) (fmt : Nat) (s : State) (v : View) : Effect :=
  let size := loadSize fmt
  let addrs := v.active.map fun l => (l, v.scratchAddr a (immOff v.path.ext o) size l)
  match s.cohort v.core v.team.cohort with
  | none => Effect.plain 0x09
  | some h =>
    match s.scratchCheck v v.core h false false size size addrs with
    | .error e => e
    | .ok s => .done (s.addOp v 1 (.scratch fmt d.toNat v.core h.id addrs size) [])

/-- The registers' bytes of a lane's store. -/
def View.dataBytes (v : View) (fmt : Nat) (d : BitVec 6) (l : Nat) : List Byte :=
  storeBytes fmt ((List.range (storeRegs (BitVec.ofNat 4 fmt))).map fun i => v.v (d.toNat + i) l) 0

/-- STS: performed in its bank at issue, after all of the team's scratchpad accesses in flight, where R240 orders only remote
stores to one core and accesses of the same bytes (DESIGN CHOICE, log 92). -/
def stsWord (d a o : BitVec 6) (fmt : Nat) (s : State) (v : View) : Effect :=
  let size := storeSize fmt
  let addrs := v.active.map fun l => (l, v.scratchAddr a (immOff v.path.ext o) size l)
  match s.cohort v.core v.team.cohort with
  | none => Effect.plain 0x09
  | some h =>
    match s.scratchCheck v v.core h true false size size addrs with
    | .error e => e
    | .ok s =>
      let s := s.performScratch v.core v.team.uid
      .done (addrs.foldl (fun s e => s.scratchWrite v.core h.id e.2 (v.dataBytes fmt d e.1)) s)

/-- The target core and cohort of a remote access, or trap 0x09 (R11, R160, R167). -/
def State.remoteTarget (s : State) (v : View) (x : BitVec 5) (y : BitVec 4) (lane : Nat) : Except Effect (Nat × Cohort) :=
  let bad : Effect := .trap 0x09 (BitVec.ofNat 64 lane) (BitVec.ofNat 32 (x.toNat + y.toNat * 32))
  match placeAt v.core x.toInt y.toInt with
  | none => .error bad
  | some c =>
    match s.oldestCohort c v.team.ctx v.team.launch with
    | none => .error bad
    | some h => .ok (c, h)

/-- LDS.R: counted on SP. -/
def ldsrWord (d a : BitVec 6) (x : BitVec 5) (y : BitVec 4) (g : BitVec 2) (s : State) (v : View) : Effect :=
  let fmt := 4 + g.toNat
  let size := loadSize fmt
  let addrs := v.active.map fun l => (l, (v.v a.toNat l).toNat)
  match s.remoteTarget v x y ((addrs.head?.map (·.2)).getD 0) with
  | .error e => e
  | .ok (c, h) =>
    match s.scratchCheck v c h false true size size addrs with
    | .error e => e
    | .ok s => .done (s.addOp v 1 (.scratch fmt d.toNat c h.id addrs size) [])

/-- STS.R: performed when it reaches the target bank. -/
def stsrWord (d a : BitVec 6) (x : BitVec 5) (y : BitVec 4) (g : BitVec 2) (s : State) (v : View) : Effect :=
  let fmt := 4 + g.toNat
  let size := storeSize fmt
  let addrs := v.active.map fun l => (l, (v.v a.toNat l).toNat)
  match s.remoteTarget v x y ((addrs.head?.map (·.2)).getD 0) with
  | .error e => e
  | .ok (c, h) =>
    match s.scratchCheck v c h true true size size addrs with
    | .error e => e
    | .ok s => .done (s.addOp v 7 (.remote c h.id (addrs.map fun e => (e.2, v.dataBytes fmt d e.1))) [])

/-- LDG (R161). -/
def execLdg (c : BitVec 1) (w : BitVec 2) (d : BitVec 6) (a : BitVec 6) (o : BitVec 6) (q : BitVec 2) (f : BitVec 4) (s : State) : Result :=
  issueWord (.ldg c w d a o q f) (ldgWord d a o q f) s

/-- STG (R164). -/
def execStg (c : BitVec 1) (w : BitVec 2) (d : BitVec 6) (a : BitVec 6) (o : BitVec 6) (q : BitVec 2) (f : BitVec 4) (s : State) : Result :=
  issueWord (.stg c w d a o q f) (stgWord d a o f) s

/-- LDU (R163). -/
def execLdu (c : BitVec 1) (w : BitVec 2) (d : BitVec 6) (a : BitVec 6) (o : BitVec 6) (q : BitVec 2) (f : BitVec 4) (s : State) : Result :=
  issueWord (.ldu c w d a o q f) (lduWord d a o q f) s

/-- LDS (R166). -/
def execLds (c : BitVec 1) (w : BitVec 2) (d : BitVec 6) (a : BitVec 6) (o : BitVec 6) (fh : BitVec 1) (fl : BitVec 2) (s : State) : Result :=
  issueWord (.lds c w d a o fh fl) (ldsWord d a o (localFmt fh fl)) s

/-- STS (R166). -/
def execSts (c : BitVec 1) (w : BitVec 2) (d : BitVec 6) (a : BitVec 6) (o : BitVec 6) (fh : BitVec 1) (fl : BitVec 2) (s : State) : Result :=
  issueWord (.sts c w d a o fh fl) (stsWord d a o (localFmt fh fl)) s

/-- LDS_R (R167). -/
def execLdsR (c : BitVec 1) (w : BitVec 2) (d : BitVec 6) (a : BitVec 6) (x : BitVec 5) (y : BitVec 4) (g : BitVec 2) (s : State) : Result :=
  issueWord (.ldsR c w d a x y g) (ldsrWord d a x y g) s

/-- STS_R (R167). -/
def execStsR (c : BitVec 1) (w : BitVec 2) (d : BitVec 6) (a : BitVec 6) (x : BitVec 5) (y : BitVec 4) (g : BitVec 2) (s : State) : Result :=
  issueWord (.stsR c w d a x y g) (stsrWord d a x y g) s

end Sys2Proof.Machine
end

