-- ==== Sys2Proof/Machine/Atomics.lean ====
section
/-!
DEFINITION. Atomics (R169 to R171).
-/

namespace Sys2Proof.Machine

/-- Ordering of an atomic at issue (R171): a release marks the writes it covers for R244. -/
def State.orderRelease (s : State) (v : View) (o : BitVec 2) (e : BitVec 3) : State :=
  if (o == 2 || o == 3) && e != 0 then s.modTeam v Team.markReleased else s

/-- An acquire holds the path's later accesses until the atomic has returned; core.rmt promotes (R171, R244). -/
def State.orderAcquire (s : State) (v : View) (o : BitVec 2) (e : BitVec 3) (space : BitVec 1) (id : Nat) : State :=
  if o == 1 || o == 3 then
    let s := s.modPath v fun p => { p with acquireOps := id :: p.acquireOps }
    if e == 6 && space == 0 then
      s.modTeam v fun t => { t with ops := t.ops.map fun q => if q.id = id then { q with rmt := true } else q }
    else s
  else s

/-- One atomic word (R169 to R171): operation `op` on every active lane. -/
def atomWord (op : Nat) (d a : BitVec 6) (o : BitVec 2) (e : BitVec 3) (p r : BitVec 1) (s : State) (v : View) : Effect :=
  let size := atomSize op
  let b := fun l => if op = 9 ∨ op = 14 then v.vPair d.toNat l else (v.v d.toNat l).setWidth 64
  let id := (s.core v.core).nextOp
  if p = 0 then
    let addrs := v.active.map fun l => (l, (v.vPair a.toNat l).toNat)
    match s.lookAll v (if op = 12 then Intent.other else Intent.atomic) size addrs with
    | .error t => t
    | .ok accs =>
      match (if op = 12 then .ok (s, []) else s.charge v accs addrs) with
      | .error t => t
      | .ok (s, blocks) =>
        let s := (s.cacheAll (dieOf v.core) v.team.ctx addrs).orderRelease v o e
        .done ((s.addOp v 0 (.atom op d.toNat (r == 1) none (accs.map fun k => ⟨k.lane, k.loc, b k.lane, none⟩)) blocks).orderAcquire v o e p id)
  else
    let addrs := v.active.map fun l => (l, (v.v a.toNat l).toNat)
    match s.cohort v.core v.team.cohort with
    | none => Effect.plain 0x09
    | some h =>
      match s.scratchCheck v v.core h (op != 12) false size size addrs with
      | .error t => t
      | .ok s =>
        let s := s.orderRelease v o e
        .done ((s.addOp v 1 (.atom op d.toNat (r == 1) (some (v.core, h.id))
          (addrs.map fun k => ⟨k.1, .dev k.2 false false false, b k.1, none⟩)) []).orderAcquire v o e p id)

/-- ATOM_ADD (R169). -/
def execAtomAdd (c : BitVec 1) (w : BitVec 2) (d : BitVec 6) (a : BitVec 6) (o : BitVec 2) (e : BitVec 3) (p : BitVec 1) (r : BitVec 1) (s : State) : Result :=
  issueWord (.atomAdd c w d a o e p r) (atomWord 0 d a o e p r) s

/-- ATOM_MIN (R169). -/
def execAtomMin (c : BitVec 1) (w : BitVec 2) (d : BitVec 6) (a : BitVec 6) (o : BitVec 2) (e : BitVec 3) (p : BitVec 1) (r : BitVec 1) (s : State) : Result :=
  issueWord (.atomMin c w d a o e p r) (atomWord 1 d a o e p r) s

/-- ATOM_MAX (R169). -/
def execAtomMax (c : BitVec 1) (w : BitVec 2) (d : BitVec 6) (a : BitVec 6) (o : BitVec 2) (e : BitVec 3) (p : BitVec 1) (r : BitVec 1) (s : State) : Result :=
  issueWord (.atomMax c w d a o e p r) (atomWord 2 d a o e p r) s

/-- ATOM_MINU (R169). -/
def execAtomMinu (c : BitVec 1) (w : BitVec 2) (d : BitVec 6) (a : BitVec 6) (o : BitVec 2) (e : BitVec 3) (p : BitVec 1) (r : BitVec 1) (s : State) : Result :=
  issueWord (.atomMinu c w d a o e p r) (atomWord 3 d a o e p r) s

/-- ATOM_MAXU (R169). -/
def execAtomMaxu (c : BitVec 1) (w : BitVec 2) (d : BitVec 6) (a : BitVec 6) (o : BitVec 2) (e : BitVec 3) (p : BitVec 1) (r : BitVec 1) (s : State) : Result :=
  issueWord (.atomMaxu c w d a o e p r) (atomWord 4 d a o e p r) s

/-- ATOM_AND (R169). -/
def execAtomAnd (c : BitVec 1) (w : BitVec 2) (d : BitVec 6) (a : BitVec 6) (o : BitVec 2) (e : BitVec 3) (p : BitVec 1) (r : BitVec 1) (s : State) : Result :=
  issueWord (.atomAnd c w d a o e p r) (atomWord 5 d a o e p r) s

/-- ATOM_OR (R169). -/
def execAtomOr (c : BitVec 1) (w : BitVec 2) (d : BitVec 6) (a : BitVec 6) (o : BitVec 2) (e : BitVec 3) (p : BitVec 1) (r : BitVec 1) (s : State) : Result :=
  issueWord (.atomOr c w d a o e p r) (atomWord 6 d a o e p r) s

/-- ATOM_XOR (R169). -/
def execAtomXor (c : BitVec 1) (w : BitVec 2) (d : BitVec 6) (a : BitVec 6) (o : BitVec 2) (e : BitVec 3) (p : BitVec 1) (r : BitVec 1) (s : State) : Result :=
  issueWord (.atomXor c w d a o e p r) (atomWord 7 d a o e p r) s

/-- ATOM_EXCH (R169). -/
def execAtomExch (c : BitVec 1) (w : BitVec 2) (d : BitVec 6) (a : BitVec 6) (o : BitVec 2) (e : BitVec 3) (p : BitVec 1) (r : BitVec 1) (s : State) : Result :=
  issueWord (.atomExch c w d a o e p r) (atomWord 8 d a o e p r) s

/-- ATOM_CAS (R169). -/
def execAtomCas (c : BitVec 1) (w : BitVec 2) (d : BitVec 6) (a : BitVec 6) (o : BitVec 2) (e : BitVec 3) (p : BitVec 1) (r : BitVec 1) (s : State) : Result :=
  issueWord (.atomCas c w d a o e p r) (atomWord 9 d a o e p r) s

/-- ATOM_FADD_F32 (R169). -/
def execAtomFaddF32 (c : BitVec 1) (w : BitVec 2) (d : BitVec 6) (a : BitVec 6) (o : BitVec 2) (e : BitVec 3) (p : BitVec 1) (r : BitVec 1) (s : State) : Result :=
  issueWord (.atomFaddF32 c w d a o e p r) (atomWord 10 d a o e p r) s

/-- ATOM_FADD_BF16X2 (R169). -/
def execAtomFaddBf16x2 (c : BitVec 1) (w : BitVec 2) (d : BitVec 6) (a : BitVec 6) (o : BitVec 2) (e : BitVec 3) (p : BitVec 1) (r : BitVec 1) (s : State) : Result :=
  issueWord (.atomFaddBf16x2 c w d a o e p r) (atomWord 11 d a o e p r) s

/-- ATOM_LD (R169). -/
def execAtomLd (c : BitVec 1) (w : BitVec 2) (d : BitVec 6) (a : BitVec 6) (o : BitVec 2) (e : BitVec 3) (p : BitVec 1) (r : BitVec 1) (s : State) : Result :=
  issueWord (.atomLd c w d a o e p r) (atomWord 12 d a o e p r) s

/-- ATOM_ST (R169). -/
def execAtomSt (c : BitVec 1) (w : BitVec 2) (d : BitVec 6) (a : BitVec 6) (o : BitVec 2) (e : BitVec 3) (p : BitVec 1) (r : BitVec 1) (s : State) : Result :=
  issueWord (.atomSt c w d a o e p r) (atomWord 13 d a o e p r) s

/-- ATOM_ADD_W (R169). -/
def execAtomAddW (c : BitVec 1) (w : BitVec 2) (d : BitVec 6) (a : BitVec 6) (o : BitVec 2) (e : BitVec 3) (p : BitVec 1) (r : BitVec 1) (s : State) : Result :=
  issueWord (.atomAddW c w d a o e p r) (atomWord 14 d a o e p r) s

end Sys2Proof.Machine
end

