-- ==== Sys2Proof/Machine/Memx.lean ====
section
/-!
DEFINITION. The MEMX instructions (R178 to R189): range maintenance, paged translation, capacity queries and surrender.
-/

namespace Sys2Proof.Machine

/-! ### Ranges (R178 to R181) -/

/-- The pages of a byte range, ascending: the page's address, the first byte of the range in it, and how many. -/
def pagesOf (a n : Nat) : List (Nat × Nat × Nat) :=
  if n = 0 then []
  else (List.range ((a + n - 1) / 65536 + 1 - a / 65536)).map fun i =>
    let p := (a / 65536 + i) * 65536
    (p, max a p, min (a + n) (p + 65536) - max a p)

/-- CWB, CINV: every page checked, then the runs of lines that are in device memory and in HBM. -/
def rangeWord (drop : Bool) (a n : BitVec 6) (s : State) (v : View) : Effect :=
  let ps := pagesOf (v.sPair a.toNat 0).toNat (v.s n.toNat 0).toNat
  if ps.isEmpty then .done s
  else
    let looks := ps.map fun (p : Nat × Nat × Nat) => (p, s.check v.team.ctx Intent.other p.2.1)
    match looks.findSome? fun e => match e.2 with
      | .fault aux => if aux.getLsbD 4 then none else some (Effect.trap 0x04 (BitVec.ofNat 64 e.1.2.1) aux)
      | _ => none with
    | some t => t
    | none =>
      let runs := looks.filterMap fun e => match e.2 with
        | .found (.dev da _ _ _) => some (lineOf da, lineOf (da + e.1.2.2 - 1) + 1 - lineOf da)
        | _ => none
      .done ((s.cacheAll (dieOf v.core) v.team.ctx (ps.map fun p => (0, p.2.1))).addOp v 6 (.cwb runs drop) [])

/-- Lines that fit the core's L1 (R53): what PF asks for of a longer range is not brought in (log 13). -/
def Core.l1Lines (k : Core) : Nat := (k.bndL1 - k.bndScr) * 128

/-- PF: no effect on data; remote pages start to migrate, untranslatable and short pages are skipped; a line that the L1 still
holds is not filled again (R162, R181, R383; log 18). -/
def pfWord (a n : BitVec 6) (l1 : BitVec 1) (s : State) (v : View) : Effect :=
  let ps := pagesOf (v.sPair a.toNat 0).toNat (v.s n.toNat 0).toNat
  let s' := ps.foldl (fun s p => match s.check v.team.ctx Intent.load p.2.1 with
    | .away pg => s.beginMigration v.team.ctx pg
    | .fault aux => if aux.getLsbD 4 then (match s.lookup v.team.ctx p.2.1 with
        | some (e, size) =>
          let pg := pageOf (entryAddr e + p.2.1 % size)
          if (s.page pg).short then s else s.beginMigration v.team.ctx pg
        | none => s) else s
    | _ => s) s
  let k := s.core v.core
  let lines := (ps.flatMap fun p => match s.check v.team.ctx Intent.load p.2.1 with
    | .found loc =>
      (List.range (min k.l1Lines (p.2.2 / 128 + 1))).filterMap fun i => match loc with
        | .dev da swm uc hw => if da / 128 + i ≤ (da + p.2.2 - 1) / 128 then some (Loc.dev ((da / 128 + i) * 128) swm uc hw) else none
        | .host pa => if pa / 128 + i ≤ (pa + p.2.2 - 1) / 128 then some (Loc.host ((pa / 128 + i) * 128)) else none
    | _ => []).take k.l1Lines
  .done (lines.foldl (fun s loc =>
    if l1 = 1 then
      let r := s.cachedRead v.core v.team.ctx loc 128 (s.fresh * 2 ^ 20 + loc.lineKey % 2 ^ 18)
      if r.1 then r.2.2.2.noteRead (dieOf v.core) loc else r.2.2.2
    else s.readAt (dieOf v.core) loc) (s'.clearWay v.core lines))

/-! ### Paged translation (R182, R183) -/

/-- A lane's place in the block table: the entry's address, whether the pair lies outside, the block's byte offset. -/
def blockEntry (base : DWord) (w2 w3 seq pos : Word) : Nat × Bool × Nat :=
  let tpb := bits w2.toNat 15 0
  let tsh := bits w2.toNat 20 16
  let nseq := bits w3.toNat 31 16
  let str := bits w3.toNat 15 0
  let blk := pos.toNat / tpb
  ((base.toNat + 8 * (seq.toNat * str + blk)) % 2 ^ 64, decide (nseq ≤ seq.toNat) || decide (str ≤ blk),
    pos.toNat % tpb * 2 ^ tsh)

/-- The first access of each distinct line of a pass: the pass sends one request for the line (R264). -/
def firstOfPass (accs : List Access) : List Access :=
  accs.zipIdx.filterMap fun e =>
    if (accs.take e.2).any fun b => b.lane / 32 == e.1.lane / 32 && b.loc.line == e.1.loc.line then none else some e.1

/-- The translations of the pages that TRANS names, and those that the lookups of its entries gave before, enter the context's caches
(R357). -/
def State.cacheLooks (s before : State) (d x : Nat) (entries pages : List (Nat × Nat)) : State :=
  (((s.walkAll d x entries).walkAll d x pages).keepXlat x (s.found x pages)).keepXlat x (before.found x entries)

/-- The lookups of TRANS and TRANS.S over lanes (lane, seq, pos): a failing row, or each lane's address with the page
it waits for, after the core's earlier accesses to the entries' lines. -/
def State.translate (s : State) (v : View) (t : Nat) (single : Bool) (lanes : List (Nat × Word × Word)) :
    Except Effect (List (Nat × Nat × Option Nat) × State) :=
  -- s64 and s65, which T = 62 would name, read as zero (log 67)
  let word := fun n => if n < 64 then v.s n 0 else 0
  let w2 := word (t + 2)
  let w3 := word (t + 3)
  let base := v.sPair t 0
  if bits w2.toNat 15 0 = 0 ∨ 20 < bits w2.toNat 20 16 ∨ bits w2.toNat 31 21 ≠ 0 then .error (Effect.plain 0x01)
  else
    let es := lanes.map fun (e : Nat × Word × Word) => (e.1, blockEntry base w2 w3 e.2.1 e.2.2)
    match es.find? fun e => e.2.2.1 with
    | some e => .error (.trap 0x04 (BitVec.ofNat 64 e.2.1) 0x22)
    | none =>
      match s.lookAll v Intent.trans 8 (es.map fun e => (e.1, e.2.1)) with
      | .error t => .error t
      | .ok accs =>
        let before := s
        let s := (s.performEarlier v.core (s.core v.core).nextOp (accs.map fun a => (a.loc.lineKey, 1))).clearWay v.core (accs.map (·.loc))
        let s := accs.foldl (fun s a => s.demand a.loc) s
        let got := (es.zip accs).map fun (e : (Nat × Nat × Bool × Nat) × Access) =>
          (e.1.1, e.1.2.1, leNat (s.readLoc (dieOf v.core) e.2.loc 8), e.1.2.2.2)
        let s := (firstOfPass accs).foldl (fun s a => s.noteRead (dieOf v.core) a.loc) s
        match got.find? fun e => e.2.2.1 == 0 || decide (2 ^ 48 ≤ e.2.2.1) with
        | some e => .error (.trap 0x04 (BitVec.ofNat 64 e.2.1) 2)
        | none =>
          let xs := got.map fun e => (e.1, (e.2.2.1 + e.2.2.2) % 2 ^ 64)
          let looks := xs.map fun e => (e, s.check v.team.ctx Intent.trans e.2)
          match looks.findSome? fun e => match e.2 with
            | .fault aux => some (Effect.trap 0x04 (failVa aux e.1.2) aux)
            | .short _ => some (Effect.trap 0x05 (BitVec.ofNat 64 (e.1.2 / 65536 * 65536)) 0x80000000)
            | _ => none with
          | some t => .error t
          | none =>
            match (if single then looks.findSome? fun e => match e.2 with
                | .away pg => some (s.park v pg (e.1.2 / 65536 * 65536) 2)
                | _ => none
              else none) with
            | some t => .error t
            | none => .ok (looks.map fun e => (e.1.1, e.1.2, match e.2 with
                | .away pg => some pg
                | _ => none), s.cacheLooks before (dieOf v.core) v.team.ctx (es.map fun e => (e.1, e.2.1)) (xs.map fun e => (e.1, e.2)))

/-- TRANS: lanes on remote pages go to the replay mask, and their pages start to migrate. -/
def transWord (d t : BitVec 6) (p : BitVec 3) (s : State) (v : View) : Effect :=
  match s.translate v t.toNat false (v.active.map fun l => (l, v.v d.toNat l, v.v (d.toNat + 1) l)) with
  | .error e => e
  | .ok (res, s) =>
    let s := res.foldl (fun s e => match e.2.2 with
      | some pg => s.beginMigration v.team.ctx pg
      | none => s) s
    .done (s.addOp v 4 (.trans d.toNat p.toNat false (res.map fun e => (e.1, if e.2.2.isSome then none else some e.2.1))) [])

/-- TRANS.S: one pair of the path or the runner. -/
def transsWord (d t : BitVec 6) (s : State) (v : View) : Effect :=
  match s.translate v t.toNat true [(0, v.s d.toNat 0, v.s (d.toNat + 1) 0)] with
  | .error e => e
  | .ok (res, s) => .done (s.addOp v (v.code 4) (.trans d.toNat 0 true (res.map fun e => (e.1, some e.2.1))) [])

/-! ### Capacity queries and surrender (R184 to R189) -/

/-- RSVQ: the reserve is read when the query returns. -/
def rsvqWord (d : BitVec 6) (i : BitVec 2) (s : State) (v : View) : Effect :=
  .done (s.addOp v 0 (.rsvq d.toNat (if i = 0 then dieOf v.core else i.toNat - 1)) [])

def blnqWord (d : BitVec 6) (s : State) (v : View) : Effect := .done (s.addOp v 0 (.blnq d.toNat) [])

/-- The device address of a mapped virtual address; none in host memory. -/
def State.daOf (s : State) (x va : Nat) : Option Nat :=
  match s.lookup x va with
  | some (e, size) => match locOf e size va with
    | .dev da _ _ _ => some da
    | .host _ => none
  | none => none

/-- BLKQ: the address is checked, and a remote page does not park it. -/
def blkqWord (d a : BitVec 6) (s : State) (v : View) : Effect :=
  let va := (v.sPair a.toNat 0).toNat
  match s.check v.team.ctx Intent.load va with
  | .fault aux => if aux.getLsbD 4 then .done (s.addOp v 0 (.blkq d.toNat (s.daOf v.team.ctx va)) []) else .trap 0x04 (BitVec.ofNat 64 va) aux
  | _ => .done (s.addOp v 0 (.blkq d.toNat (s.daOf v.team.ctx va)) [])

/-- The checks of PGSURR on one page of a range (R186): a failure, or its device page. -/
def State.surrenderCheck (s : State) (x start stop va : Nat) : Except Effect Nat :=
  let bad := fun (aux : Word) => (Except.error (.trap 0x04 (BitVec.ofNat 64 va) aux) : Except Effect Nat)
  if 2 ^ 48 ≤ va then bad 7
  else
    match s.lookup x va with
    | none => bad 3
    | some (e, size) =>
      if size ≠ 65536 ∧ ¬ (start ≤ va / size * size ∧ va / size * size + size ≤ stop) then .error (.trap 0x07 (BitVec.ofNat 64 va) 0)
      else if !bit e 2 || bit e 6 || bit e 5 || bit e 8 then bad 11
      else
        let da := entryAddr e + va % size
        if s.limit (homeDie da) ≤ da % 2 ^ 40 then bad 3 else .ok (pageOf da)

/-- The first failure over a range, or all its pages. -/
def allOk : List (Except Effect Nat) → Except Effect (List Nat)
  | [] => .ok []
  | .error e :: _ => .error e
  | .ok a :: rest => match allOk rest with
    | .ok l => .ok (a :: l)
    | .error e => .error e

/-- PGSURR. -/
def pgsurrWord (d a n : BitVec 6) (s : State) (v : View) : Effect :=
  let va := (v.sPair a.toNat 0).toNat
  let k := (v.s n.toNat 0).toNat
  if k = 0 then .done s
  else if va % 65536 ≠ 0 then .trap 0x07 (BitVec.ofNat 64 va) 0
  else
    match allOk ((List.range k).map fun i => s.surrenderCheck v.team.ctx va (va + 65536 * k) (va + 65536 * i)) with
    | .error e => e
    | .ok pages => .done (s.addOp v 6 (.surrender d.toNat pages 0) [])

/-- BLNACK closes the open request of its identifier and reports its credits (R188, R312). -/
def blnackWord (a : BitVec 6) (s : State) (v : View) : Effect :=
  let x := v.team.ctx
  let k := s.ctx x
  if k.blnOpen && k.blnId == v.s a.toNat 0 then
    .done (((s.setCtx x { k with blnOpen := false, blnAck := true }).traceBalloon x (dieOf v.core) 2).contextEvent x)
  else .done s

/-- CWB (R179). -/
def execCwb (c : BitVec 1) (w : BitVec 2) (a : BitVec 6) (n : BitVec 6) (s : State) : Result :=
  issueWord (.cwb c w a n) (rangeWord false a n) s

/-- CINV (R180). -/
def execCinv (c : BitVec 1) (w : BitVec 2) (a : BitVec 6) (n : BitVec 6) (s : State) : Result :=
  issueWord (.cinv c w a n) (rangeWord true a n) s

/-- PF (R181). -/
def execPf (c : BitVec 1) (w : BitVec 2) (a : BitVec 6) (n : BitVec 6) (l : BitVec 1) (s : State) : Result :=
  issueWord (.pf c w a n l) (pfWord a n l) s

/-- TRANS (R182). -/
def execTrans (c : BitVec 1) (w : BitVec 2) (d : BitVec 6) (t : BitVec 6) (p : BitVec 3) (s : State) : Result :=
  issueWord (.trans c w d t p) (transWord d t p) s

/-- TRANS_S (R183). -/
def execTransS (c : BitVec 1) (w : BitVec 2) (d : BitVec 6) (t : BitVec 6) (s : State) : Result :=
  issueWord (.transS c w d t) (transsWord d t) s

/-- RSVQ (R184). -/
def execRsvq (c : BitVec 1) (w : BitVec 2) (d : BitVec 6) (i : BitVec 2) (s : State) : Result :=
  issueWord (.rsvq c w d i) (rsvqWord d i) s

/-- BLNQ (R185). -/
def execBlnq (c : BitVec 1) (w : BitVec 2) (d : BitVec 6) (s : State) : Result :=
  issueWord (.blnq c w d) (blnqWord d) s

/-- PGSURR (R186). -/
def execPgsurr (c : BitVec 1) (w : BitVec 2) (d : BitVec 6) (a : BitVec 6) (n : BitVec 6) (s : State) : Result :=
  issueWord (.pgsurr c w d a n) (pgsurrWord d a n) s

/-- BLNACK (R188). -/
def execBlnack (c : BitVec 1) (w : BitVec 2) (a : BitVec 6) (s : State) : Result :=
  issueWord (.blnack c w a) (blnackWord a) s

/-- BLKQ (R189). -/
def execBlkq (c : BitVec 1) (w : BitVec 2) (d : BitVec 6) (a : BitVec 6) (s : State) : Result :=
  issueWord (.blkq c w d a) (blkqWord d a) s

end Sys2Proof.Machine
end

