-- ==== Sys2Proof/Machine/Launch.lean ====
section
/-!
DEFINITION. Launch records and kernel headers, LAUNCH, SPAWN and the root start (R34 to R37, R54 to R59, R109 to R111, R325 to R332).
-/

namespace Sys2Proof.Machine

/-! ### Records and headers (R54 to R58, R17, R43, R329) -/

/-- A launch record's fields (R56). -/
def parseRecord (x : Nat) : Record where
  entry := bits x 41 0 * 64
  lanes := 32 * (bits x 46 42 + 1)
  gw := bits x 48 47
  cohort := bits x 51 49 + 1
  prio := bits x 54 52
  dvfs := bits x 57 55
  cscope := bits x 60 58
  ordered := bit x 61
  race := bit x 62
  checkSb := bit x 63
  nitems := bits x 127 64
  args := bits x 169 128 * 64
  metered := bit x 170
  breg := bits x 176 171
  bscr := bits x 182 177
  bl1 := bits x 188 183
  spill := bits x 233 192 * 64
  spilln := bits x 511 488
  pany := bit x 234
  pdie := bits x 235 235
  pkx := bits x 237 236
  pky := bits x 239 238
  px0 := bits x 243 240
  py0 := bits x 246 244
  pw := bits x 250 247
  ph := bits x 253 251
  dep0a := bits x 300 256 * 8
  dep1a := bits x 345 301 * 8
  cwa := bits x 390 346 * 8
  dep0v := BitVec.ofNat 32 (bits x 423 392)
  dep1v := BitVec.ofNat 32 (bits x 455 424)
  cwv := BitVec.ofNat 32 (bits x 487 456)
  reservedClear := bits x 191 189 == 0 && bits x 255 254 == 0 && !bit x 391

def parseSlot (x : Nat) : SpineSlot := ⟨bit x 15, bits x 14 10, bits x 9 6 + 1, bits x 5 0⟩

/-- A kernel header's fields (R54). -/
def parseHeader (x : Nat) : Header where
  magic := BitVec.ofNat 32 x
  ver := bits x 39 32
  bb := bits x 43 40
  eb := bits x 45 44
  gw := bits x 47 46
  lanes := 32 * (bits x 52 48 + 1)
  cohort := bits x 55 53 + 1
  nbar := bits x 60 56
  ordered := bit x 61
  race := bit x 62
  checkSb := bit x 63
  codesz := bits x 95 64
  scrb := bits x 127 96
  slots := (List.range 4).map fun i => parseSlot (bits x (143 + 16 * i) (128 + 16 * i))
  moff := bits x 223 192
  reservedClear := bits x 511 224 == 0

/-- G of a coded group width. -/
def groupOf (gw : Nat) : Nat := 16 * 2 ^ gw

def Header.declared (h : Header) : Nat := (h.slots.filter (·.declared)).length

/-- A header valid under R55, R17 and the field rules of R54. -/
def Header.valid (h : Header) : Bool :=
  h.magic == 0x5A484B39 && h.ver == 1 && h.gw != 3 && decide (h.eb ≤ 2) && h.reservedClear && decide (h.nbar ≤ 16) &&
    h.slots.all (fun k => !k.declared || k.reg != 63) && (h.ordered || h.declared == 0) &&
    decide (2 ≤ h.bb) && decide (h.bb ≤ 8) && decide (h.bb + h.eb ≤ 8) && h.lanes % groupOf h.gw == 0 &&
    h.codesz != 0 && h.codesz % 12 == 0 && h.scrb % 4 == 0

/-- The team size, cohort and checks that a record and its header give (R58). -/
def cohortOf (r : Record) : Nat := if r.ordered then 1 else r.cohort

/-- Boundary values valid for a cohort (R53). -/
def boundsValid (breg bscr bl1 cohort lanes bb scrb : Nat) (race : Bool) : Bool :=
  decide (1 ≤ breg) && decide (breg ≤ bscr) && decide (bscr < bl1) && decide (bl1 ≤ 48) &&
    decide (cohort * lanes * (8 * bb) * 4 ≤ breg * 16384) && decide (scrb ≤ (bscr - breg) * 16384) &&
    (!race || decide (1 + (bscr - breg + 1) / 2 ≤ bl1 - bscr))

/-- Spill-ring entries that the driver must give: S × (C + 16) (R43, R39). -/
def ringEntries (r : Record) (h : Header) : Nat := h.declared * (16 * ((r.pw + 1) * (r.ph + 1)) + 16)

/-- A record valid with its header (R17, R43, R53, R55, R56, R58). -/
def recordValid (r : Record) (h : Header) : Bool :=
  r.reservedClear && r.entry != 0 && r.args != 0 && h.valid && r.gw == h.gw && decide (r.lanes ≤ h.lanes) &&
    r.lanes % groupOf h.gw == 0 && decide (r.cohort ≤ h.cohort) && r.ordered == h.ordered && decide (2 ≤ r.cscope) &&
    decide (r.cscope ≤ 5) && decide (r.pw + 1 ≤ 12) && decide (r.ph + 1 ≤ 8) &&
    (r.pany || (decide (r.px0 + r.pw + 1 ≤ 12) && decide (r.py0 + r.ph + 1 ≤ 8) && decide (r.pky ≤ 2))) &&
    boundsValid r.breg r.bscr r.bl1 (cohortOf r) r.lanes h.bb h.scrb (r.race || h.race) &&
    (!(r.ordered && h.declared != 0) || (r.spill != 0 && r.spilln != 0 && decide (ringEntries r h ≤ r.spilln)))

/-! ### Reading them (R59, R109, R328) -/

/-- A read that does not use the L1. -/
inductive Got where
  | bytes (x : Nat)
  | fault (va : Nat) (aux : Word)
  | away (pg va : Nat)
  | short (va : Nat)
  deriving DecidableEq, Repr

/-- `n` bytes within one page, read by an agent of a die. -/
def State.got (s : State) (x d va n : Nat) (i : Intent) : Got :=
  match s.check x i va with
  | .found loc => .bytes (leNat (s.readLoc d loc n))
  | .fault aux => .fault (failVa aux va).toNat aux
  | .away pg => .away pg (va / 65536 * 65536)
  | .short _ => .short (va / 65536 * 65536)

/-- What the checks of a record come to. -/
inductive Verdict where
  | good (r : Record) (h : Header) (defaults : List Word)
  | stop (g : Got)
  | invalid
  | withheld
  | unattested
  deriving DecidableEq, Repr

/-- The failed read of a list that decides: the first that cannot be made, else the first whose page is away (R328, R383). -/
def firstStop (l : List Got) : Option Got :=
  let at' := fun (away : Bool) => l.find? fun g => match g with
    | .bytes _ => false
    | .away _ _ => away
    | _ => !away
  (at' false).orElse fun _ => at' true

def Got.word : Got → Word
  | .bytes x => BitVec.ofNat 32 x
  | _ => 0

def onSwm (s : State) (x va : Nat) : Bool :=
  match s.locate x va with
  | some (.dev _ swm _ _) => swm
  | _ => false

def inHost (s : State) (x va : Nat) : Bool :=
  match s.locate x va with
  | some (.host _) => true
  | _ => false

/-- No epoch remains in the fuses (R377). -/
def State.fusesGone (s : State) : Bool := decide (4096 ≤ s.meter.fuse)

/-- The header that a record names, and the words that the record and its header name (R59, R328). -/
def State.recordReads (s : State) (x d : Nat) (r : Record) : Got × List Got × List Got :=
  let hg := if r.entry = 0 then Got.bytes 0 else s.got x d r.entry 64 Intent.fetch
  let h := match hg with
    | .bytes m => parseHeader m
    | _ => parseHeader 0
  (hg, (if r.args ≠ 0 ∧ h.ordered then
      h.slots.map fun k => if k.declared then s.got x d (r.args + 4 * k.darg) 4 Intent.other else .bytes 0
    else []), ([r.dep0a, r.dep1a, r.cwa].filter (· != 0)).map fun a => s.got x d a 4 Intent.other)

/-- The checks of a record at an address but for its measurement and its meter (R109, R328). -/
def State.examineRecord (s : State) (x d va : Nat) : Verdict :=
  match s.got x d va 64 Intent.other with
  | .bytes n =>
    let r := parseRecord n
    let q := s.recordReads x d r
    let h := match q.1 with
      | .bytes m => parseHeader m
      | _ => parseHeader 0
    match firstStop (q.1 :: q.2.1 ++ q.2.2) with
    | some g => .stop g
    | none =>
      if !recordValid r h || inHost s x r.entry || ([r.dep0a, r.dep1a, r.cwa].any fun a => a != 0 && onSwm s x a) then .invalid
      else if !r.pany && (s.die r.pdie).withheld then .withheld
      else .good r h (q.2.1.map Got.word)
  | g => .stop g

/-- Rows 4 to 6 of R328, which LAUNCH makes as rows 3 and 4 of R109. -/
def State.examine (s : State) (x d va : Nat) : Verdict :=
  match s.examineRecord x d va with
  | .good r h ds =>
    match s.measure d x r.entry h.codesz h.moff with
    | .away pg va => .stop (.away pg va)
    | .short va => .stop (.short va)
    | .lost va aux => .stop (.fault (failVa aux va).toNat aux)
    | .fails => .unattested
    | .passes => if r.metered && s.fusesGone then .unattested else .good r h ds
  | w => w

/-- The reads of these checks (R268, R367; log 79). -/
def State.readRecord (s : State) (x d va : Nat) : State :=
  match s.got x d va 64 Intent.other with
  | .bytes n =>
    let r := parseRecord n
    let s := s.readRun d x va 64
    let s := if r.entry = 0 then s else s.readRun d x r.entry 64
    let h := match (s.recordReads x d r).1 with
      | .bytes m => parseHeader m
      | _ => parseHeader 0
    let words := (if r.args ≠ 0 ∧ h.ordered then (h.slots.filter (·.declared)).map fun k => r.args + 4 * k.darg else []) ++
      [r.dep0a, r.dep1a, r.cwa].filter (· != 0)
    let s := words.foldl (fun (s : State) a => s.readRun d x a 4) s
    match s.examineRecord x d va with
    | .good r h _ => s.readImage d x r.entry h.codesz h.moff
    | _ => s
  | _ => s

/-- The lines of a context's addresses, as far as they can be read. -/
def State.linesAt (s : State) (x : Nat) (vas : List Nat) : List Loc :=
  vas.filterMap fun va => match s.check x Intent.other va with
    | .found loc => some loc
    | _ => none

/-- Work for a core ends the idle states of the places that it lies in: itself, its cluster, its die, the device (R364). -/
def State.wake (s : State) (c : Nat) : State :=
  { s with idlePlaces := s.idlePlaces.filter fun p => !([c, 4096 + clusterOf c, 8192 + dieOf c, 12288].contains p) }

/-- An access to a die ends its idle state and the device's (R364). -/
def State.wakeDie (s : State) (d : Nat) : State :=
  { s with idlePlaces := s.idlePlaces.filter fun p => !([8192 + d, 12288].contains p) }

/-! ### Acceptance (R331, R332, R334) -/

/-- A LAUNCHID not in use, from the next one up, modulo 2^32, passing over 0 and 0xFFFFFFFF (R331). -/
def nextId (used : List Nat) : Nat → Nat → Nat
  | 0, n => n
  | fuel + 1, n =>
    if n = 0 ∨ n = 0xFFFFFFFF ∨ used.contains n then nextId used fuel ((n + 1) % 2 ^ 32) else n

/-- The die whose L2 an address is read at by no core: its home, and die 0 for host memory. -/
def Loc.homeOf : Loc → Nat
  | .dev da _ _ _ => homeDie da
  | .host _ => 0

/-- A dependence word, read as a system-scope acquire, is at or above its threshold (R57, R332). -/
def State.depMet (s : State) (x va : Nat) (v : Word) : Bool :=
  if va = 0 then true
  else match s.locate x va with
    | some loc => decide (v.toNat ≤ leNat (s.readLoc loc.homeOf loc 4))
    | none => false

/-- The read of a dependence word, at its home (R268, R332, R367). -/
def State.readDep (s : State) (x va : Nat) (met : Bool) : State :=
  if met || va == 0 then s
  else match s.locate x va with
    | some loc => s.readAt loc.homeOf loc
    | none => s

/-- The dependences of a launch read again; readiness is latched (R332). -/
def State.recheck (s : State) (x : Nat) (l : Launch) : State :=
  let s := (s.readDep x l.rcd.dep0a l.dep0Met).readDep x l.rcd.dep1a l.dep1Met
  let a := l.dep0Met || s.depMet x l.rcd.dep0a l.rcd.dep0v
  let b := l.dep1Met || s.depMet x l.rcd.dep1a l.rcd.dep1v
  if l.ready || !(a && b) then s.setLaunch x { l with dep0Met := a, dep1Met := b }
  else
    let r := s.number
    r.2.setLaunch x { l with dep0Met := a, dep1Met := b, ready := true, readySeq := r.1 }

/-- A launch accepted into a context; its identifier. -/
def State.accept (s : State) (x : Nat) (parent : Option Nat) (depth : Nat) (r : Record) (h : Header) (defaults : List Word)
    (spawned : Option (Nat × Nat)) : Nat × State :=
  let k := s.ctx x
  let id := nextId (k.launches.map (·.id)) 2000 k.nextLaunch
  let l : Launch := ⟨id, parent, depth, r, h, spawned, defaults, false, false, false, 0, 0, [], none, 0, [], false, [], false, false⟩
  let s := (s.setCtx x { k with launches := k.launches ++ [l], nextLaunch := (id + 1) % 2 ^ 32 }).watchImage x r.entry h.codesz
  (id, s.recheck x l)

/-- LAUNCH (R109, R110, R330): the leader lane's checks in order, then acceptance. -/
def launchWord (a : BitVec 6) (s : State) (v : View) : Effect :=
  let t := v.team
  let x := t.ctx
  let depth := ((s.launch x t.launch).map (·.depth)).getD 0
  let va := (v.sPair a.toNat 0).toNat
  if depth = 10 then .trap 0x0B 0 10
  else if va % 64 ≠ 0 ∨ 2 ^ 48 ≤ va then .trap 0x07 (BitVec.ofNat 64 va) 0
  else
    let s := (s.clearWay v.core (s.linesAt x [va])).readRecord x (dieOf v.core) va
    match s.examine x (dieOf v.core) va with
    | .stop (.fault va aux) => .trap 0x04 (BitVec.ofNat 64 va) aux
    | .stop (.away pg va) => s.park v pg va 3
    | .stop (.short va) => .trap 0x05 (BitVec.ofNat 64 va) 0x80000000
    | .stop (.bytes _) => Effect.plain 0x01
    | .invalid => Effect.plain 0x01
    | .withheld => Effect.plain 0x01
    | .unattested => Effect.plain 0x13
    | .good r h defaults =>
      .done ((s.modTeam v Team.markReleased).accept x (some t.launch) (depth + 1) r h defaults none).2

/-! ### SPAWN (R34 to R36, R111) -/

/-- The key of a lane. -/
def View.spawnKey (v : View) (e : BitVec 6) (l : Nat) : Nat := (v.vPair e.toNat l).toNat

/-- A spawn key's header, as read now. -/
def State.spawnHeader (s : State) (v : View) (key : Nat) : Got := s.got v.team.ctx (dieOf v.core) key 64 Intent.fetch

/-- A launch's record with the RACE and CHECKSB that hold for it: its own or its header's (R58). -/
def Launch.inForce (l : Launch) : Record :=
  { l.rcd with race := l.rcd.race || l.hdr.race, checkSb := l.rcd.checkSb || l.hdr.checkSb }

/-- A spawned team of this header fits the issuing launch's boundary values (R111, R53). -/
def spawnFits (r : Record) (h : Header) : Bool :=
  h.valid && !h.ordered && boundsValid r.breg r.bscr r.bl1 1 h.lanes h.bb h.scrb (r.race || h.race)

/-- The record that a spawned launch stands for: the issuing launch's values with the key's header (R36, R111). -/
def spawnRecord (r : Record) (h : Header) (key : Nat) : Record :=
  { r with
    entry := key, lanes := h.lanes, gw := h.gw, cohort := 1, ordered := false, race := r.race || h.race,
    checkSb := r.checkSb || h.checkSb, nitems := 0, dep0a := 0, dep1a := 0, cwa := 0, cwv := 0, spill := 0, spilln := 0 }

/-- A bin's timer has run out; a timer of 0 ends with its SPAWN instead (R34, R45, R111). -/
def Bin.due (b : Bin) (tick : Nat) : Bool := !b.closed && b.atEnd.isNone && decide (b.timer ≤ tick)

/-- The open bins of a cluster that satisfy a condition close, in their order. -/
def State.closeBins (s : State) (k closer : Nat) (which : Bin → Bool) : State :=
  (List.range (s.cluster k).length).foldl (fun (s : State) i =>
    match (s.cluster k)[i]? with
    | some b =>
      if !b.closed && which b then
        let r := s.number
        r.2.setCluster k ((r.2.cluster k).set i { b with closed := true, closer := closer, closedSeq := r.1 })
      else s
    | none => s) s

/-- Open bins of a cluster (R34). -/
def State.openBins (s : State) (k : Nat) : Nat := ((s.cluster k).filter fun b => !b.closed).length

/-- Bins whose timers have run out close (R34). -/
def State.closeDue (s : State) (k : Nat) : State := s.closeBins k 2304 fun b => b.due s.tick.toNat

/-- One lane joins its bin: the state, or none while no bin or launch slot is free (R34). -/
def State.joinBin (s : State) (v : View) (key timer : Nat) (arg : Word) : Option State :=
  let x := v.team.ctx
  let k := clusterOf v.core
  let s := s.closeDue k
  let bins := s.cluster k
  let atEnd := if timer = 0 then some (v.team.uid, v.path.pid) else none
  match s.launch x v.team.launch with
  | none => none
  | some opener =>
    let close := fun (b : Bin) (s : State) =>
      if b.width ≤ b.args.length then
        let r := s.number
        ({ b with closed := true, closer := v.core, closedSeq := r.1 }, r.2)
      else (b, s)
    match bins.findIdx? fun b => b.ctx == x && b.key == key && !b.closed with
    | some i =>
      match bins[i]? with
      | none => none
      | some b =>
        let r := close { b with args := b.args ++ [arg] } s
        some (r.2.setCluster k (bins.set i r.1))
    | none =>
      if 64 ≤ (bins.filter fun b => !b.closed).length then none
      else
        let h := match s.locate x key with
          | some loc => parseHeader (leNat (s.readLoc (dieOf v.core) loc 64))
          | none => opener.hdr
        let have' := (s.ctx x).launches.find? fun l => l.parent == some opener.id && l.spawned == some (key, k)
        match have' with
        | some l =>
          let r := close ⟨x, key, l.id, opener.id, h.lanes, [arg], s.tick.toNat + timer, false, 2304, 0, atEnd⟩ s
          some (r.2.setCluster k (bins ++ [r.1]))
        | none =>
          if 1024 ≤ (s.ctx x).launches.length then none
          else
            let a := s.accept x (some opener.id) (opener.depth + 1) (spawnRecord opener.inForce h key) h [] (some (key, k))
            let r := close ⟨x, key, a.1, opener.id, h.lanes, [arg], s.tick.toNat + timer, false, 2304, 0, atEnd⟩ a.2
            some (r.2.setCluster k (bins ++ [r.1]))

/-- Lanes join in ascending order; the lanes that joined, and whether all did. -/
def State.joinAll (v : View) (timer : Nat) (key : Nat → Nat) (arg : Nat → Word) : List Nat → List Nat → State → List Nat × Bool × State
  | [], joined, s => (joined, true, s)
  | l :: rest, joined, s =>
    match s.joinBin v (key l) timer (arg l) with
    | none => (joined, false, s)
    | some s => State.joinAll v timer key arg rest (l :: joined) s

/-- The checks of SPAWN over all active lanes but for the measurement of their headers (R111): the first failure. -/
def State.spawnChecks (s : State) (v : View) (keys : List Nat) : Option Effect :=
  let x := v.team.ctx
  match s.launch x v.team.launch with
  | none => some (Effect.plain 0x01)
  | some l =>
    if l.depth = 10 then some (.trap 0x0B (BitVec.ofNat 64 (keys.headD 0)) 10)
    else
      match keys.find? fun k => k % 64 != 0 || decide (2 ^ 48 ≤ k) with
      | some k => some (.trap 0x07 (BitVec.ofNat 64 k) 0)
      | none =>
        let hs := keys.map fun k => (k, s.spawnHeader v k)
        match hs.findSome? fun h => match h.2 with
          | .fault va aux => some (Effect.trap 0x04 (BitVec.ofNat 64 va) aux)
          | _ => none with
        | some e => some e
        | none =>
          match (hs.findSome? fun h => match h.2 with
            | .short va => some (Effect.trap 0x05 (BitVec.ofNat 64 va) 0x80000000)
            | _ => none).orElse fun _ => hs.findSome? fun h => match h.2 with
            | .away pg va => some (s.park v pg va 3)
            | _ => none with
          | some e => some e
          | none =>
            (hs.find? fun h => match h.2 with
              | .bytes n => !spawnFits l.inForce (parseHeader n)
              | _ => true).map fun h => .trap 0x01 (BitVec.ofNat 64 h.1) 0

/-- The measurements of the lanes' headers, where every other check passes: the first failure (R381). -/
def State.spawnMeasured (s : State) (v : View) (keys : List Nat) : Option Effect :=
  keys.findSome? fun k => match s.spawnHeader v k with
    | .bytes n => match s.measure (dieOf v.core) v.team.ctx k (parseHeader n).codesz (parseHeader n).moff with
      | .passes => none
      | .fails => some (Effect.plain 0x13)
      | .away pg va => some (s.park v pg va 3)
      | .short va => some (Effect.trap 0x05 (BitVec.ofNat 64 va) 0x80000000)
      | .lost va aux => some (Effect.trap 0x04 (failVa aux va) aux)
    | _ => none

/-- The reads of these checks (R268, R367; log 79). -/
def State.readKeys (s : State) (v : View) (keys : List Nat) : State :=
  let x := v.team.ctx
  let d := dieOf v.core
  let deep := match s.launch x v.team.launch with
    | some l => l.depth == 10
    | none => true
  if deep || keys.any fun k => k % 64 != 0 || decide (2 ^ 48 ≤ k) then s
  else
    let s := keys.eraseDups.foldl (fun (s : State) k => s.readRun d x k 64) (s.clearWay v.core (s.linesAt x keys.eraseDups))
    if (s.spawnChecks v keys).isSome then s
    else keys.eraseDups.foldl (fun (s : State) k => match s.spawnHeader v k with
      | .bytes n => s.readImage d x k (parseHeader n).codesz (parseHeader n).moff
      | _ => s) s

/-- SPAWN: every lane checked, unless some have joined already, then the lanes that have not joined join their bins; a
timer of 0 closes the bins that this SPAWN opened as it ends (R111). -/
def spawnWord (a e t : BitVec 6) (s : State) (v : View) : Effect :=
  let timer := (v.s t.toNat 0).toNat
  let keys := v.active.map fun l => v.spawnKey e l
  let s := if v.path.spawned.isEmpty then s.readKeys v keys else s
  match (if v.path.spawned.isEmpty then (s.spawnChecks v keys).orElse fun _ => s.spawnMeasured v keys else none) with
  | some stop => stop
  | none =>
    let s := s.modTeam v Team.markReleased
    let todo := v.active.filter fun l => !v.path.spawned.contains l
    let r := State.joinAll v timer (v.spawnKey e) (fun l => v.v a.toNat l) todo v.path.spawned s
    if r.2.1 then
      .done ((r.2.2.modPath v fun p => { p with spawned := [] }).closeBins (clusterOf v.core) v.core fun b => b.atEnd == some (v.team.uid, v.path.pid))
    else .wait (r.2.2.modPath v fun p => { p with spawned := r.1 }) 16

/-- LAUNCH (R109). -/
def execLaunch (c : BitVec 1) (w : BitVec 2) (a : BitVec 6) (s : State) : Result :=
  issueWord (.launch c w a) (launchWord a) s

/-- SPAWN (R111). -/
def execSpawn (c : BitVec 1) (w : BitVec 2) (a : BitVec 6) (e : BitVec 6) (t : BitVec 6) (s : State) : Result :=
  issueWord (.spawn c w a e t) (spawnWord a e t) s

/-! ### Events -/

/-- The refusal of a root start (R327, R328): the code, and STATE 011 unless a root holds the context. -/
def State.refuseRoot (s : State) (x : Nat) (err : BitVec 8) : State :=
  let k := s.ctx x
  if err = 0x04 then s.setCtx x { k with err := err }
  else (s.setCtx x { k with err := err, state := 3 }).contextEvent x

/-- The remote or migrating page that a failed read met; its marks do not count (R328). -/
def State.stopPage (s : State) (x : Nat) (g : Got) : Option Nat :=
  let at' := fun va => match s.locate x va with
    | some (.dev da _ _ _) => some (pageOf da)
    | _ => none
  match g with
  | .away pg _ => some pg
  | .short va => at' va
  | .fault va aux => if aux.getLsbD 4 then at' va else none
  | .bytes _ => none

/-- The checks of an accepting root start (R328); a remote page migrates first, and the start stays ACCEPTING until the
check repeats. -/
def State.tryRoot (s : State) (x : Nat) : State :=
  let k := s.ctx x
  if s.stage ≠ 3 ∨ k.ptb = 0 then s.refuseRoot x 0x05
  else if k.csrec = 0 then s.refuseRoot x 0x03
  else
    let s := s.readRecord x 0 k.csrec
    let k := s.ctx x
    match s.examine x 0 k.csrec with
    | .stop g =>
      match s.stopPage x g with
      | none => s.refuseRoot x 0x02
      | some pg =>
        if (s.page pg).state == .migrating || (s.page pg).queued.isSome then s.setCtx x { k with state := 1 }
        else if k.rootAsked.contains pg then s.refuseRoot x 0x02
        else (s.setCtx x { k with state := 1, rootAsked := (pg :: k.rootAsked).eraseDups }).beginMigration x pg
    | .invalid => s.refuseRoot x 0x01
    | .withheld => s.refuseRoot x 0x05
    | .unattested => s.refuseRoot x 0x06
    | .good r h defaults =>
      let a := s.accept x none 0 r h defaults none
      a.2.setCtx x { a.2.ctx x with state := 2, err := 0, root := BitVec.ofNat 32 a.1 }

/-- ROOT_START: a CSGO.START write (R327, R328). -/
def execRootStart (ctx : Nat) (s : State) : Result :=
  if 64 ≤ ctx then .fault .noSuchPlace
  else if (s.ctx ctx).state = 1 ∨ (s.ctx ctx).state = 2 then .next (s.refuseRoot ctx 0x04)
  else .next ((s.setCtx ctx { s.ctx ctx with rootAsked := [] }).tryRoot ctx)

/-- The starts that wait for a page check again (R328). -/
def State.retryRoots (s : State) : State :=
  (s.ctxs.filter fun e => e.2.state == 1).foldl (fun (s : State) e => s.tryRoot e.1) s

/-- DEPENDENCE_RECHECK: a launch's dependence words are read again (R332); a watch that meets its dependence wakes the dies where the
launch may run (R364). -/
def execDependenceRecheck (ctx launch : Nat) (s : State) : Result :=
  match s.launch ctx launch with
  | none => .fault .noSuchPlace
  | some l =>
    let t := s.recheck ctx l
    if t.launch ctx launch == some l then .next t
    else .next ((if l.rcd.pany then [0, 1] else [l.rcd.pdie]).foldl State.wakeDie t)

/-! ### Waits that a word's own effect has begun -/

/-- BAR or BARA of one path waits for the other path (R28). -/
def View.barHeld (v : View) : Bool :=
  match v.path.bar, v.team.at (!v.side) with
  | some (.arrive b _), some q => match q.bar with
    | some (.arrive b' _) => b' != b
    | _ => true
  | _, _ => false

/-- A SPAWN whose next lane has found no free bin still finds none (R34). -/
def State.spawnHeld (s : State) (v : View) : Instr → Bool
  | .spawn _ _ _ e t => (v.path.stall == 16 || !v.path.spawned.isEmpty) &&
      match v.active.find? fun l => !v.path.spawned.contains l with
      | some l => (s.joinBin v (v.spawnKey e l) (v.s t.toNat 0).toNat 0).isNone
      | none => false
  | _ => false

end Sys2Proof.Machine
end

