-- ==== Sys2Proof/Machine/Boot.lean ====
section
/-!
DEFINITION. A word placed where the machine fetches its next instruction: a team of one slice at packet 0 of a code
image that context 0 maps, as an accepted launch's dispatch would leave it (log 14).
-/

namespace Sys2Proof.Machine

/-- The header of the placed kernel: 32 lanes, G = 32, 64 base registers, 16 barriers, one spine slot. -/
def bootHeader : Header :=
  ⟨0x5A484B39, 1, 8, 0, 1, 32, 1, 16, true, false, false, 1200, 65536,
    [⟨true, 0, 1, 0⟩, ⟨false, 0, 1, 0⟩, ⟨false, 0, 1, 0⟩, ⟨false, 0, 1, 0⟩], 0, true⟩

/-- The record of its launch. -/
def bootRecord : Record where
  entry := 0x10000
  lanes := 32
  gw := 1
  cohort := 1
  prio := 7
  dvfs := 0
  cscope := 4
  ordered := true
  race := false
  checkSb := false
  nitems := 1
  args := 0x18000
  metered := false
  breg := 4
  bscr := 12
  bl1 := 48
  spill := 0x19000
  spilln := 32
  pany := true
  pdie := 0
  pkx := 0
  pky := 0
  px0 := 0
  py0 := 0
  pw := 0
  ph := 0
  dep0a := 0
  dep1a := 0
  cwa := 0
  dep0v := 0
  dep1v := 0
  cwv := 0
  reservedClear := true

def bootLaunch : Launch := ⟨1, none, 0, bootRecord, bootHeader, none, [0], true, true, true, 0, 1, [0], none, 0, [], true, [], false, false⟩

/-- A stopped runner with empty registers (R231). -/
def Runner.idle : Runner :=
  ⟨0, 0, List.replicate 16 0, [], [false, false, false, false], none, false, false, false, false, 0, none, none, (0, 0), none, 0⟩

/-- A group register never declared (R222). -/
def Group.none : Group := ⟨[], 0, [], false, 0⟩

/-- A team of `lanes` lanes of a launch with all its state at the values of dispatch (R46, R222, R231). -/
def Team.fresh (uid ctx launch item lanes group base extn cohort idx size age prio image codesz nbar scrb : Nat)
    (checkSb race : Bool) : Team where
  uid := uid
  nextPid := 2
  ctx := ctx
  launch := launch
  item := BitVec.ofNat 64 item
  lanes := lanes
  group := group
  base := base
  extn := extn
  cohort := cohort
  teamIdx := idx
  cohortSize := size
  age := age
  prio := prio
  image := image
  codesz := codesz
  nbar := nbar
  scrb := scrb
  checkSb := checkSb
  race := race
  extHeld := false
  growPending := false
  granted := false
  v := List.replicate (base + extn) (List.replicate lanes 0)
  p := List.replicate 8 (List.replicate lanes false)
  vpoison := []
  pathA := some (Path.fresh (fullMask lanes))
  pathB := none
  recs := []
  ops := []
  arrivals := []
  groups := List.replicate 4 Group.none
  mismatches := []
  colHistory := []
  batch := 0
  operr := false
  logovf := false
  logs := []
  openLog := ⟨0, [], false⟩
  oldErrors := []
  fences := []
  gen := List.replicate lanes 0
  gb := 0
  gc := 0
  cbars := 0
  handler := none
  entry := none
  stopped := false
  step := none
  stepCommand := none
  runner := Runner.idle
  queues := [[], [], [], []]
  yielding := false
  denied := []
  spillAt := (0, 0)
  killed := false
  pointWait := false
  lastPath := false
  sampleB := false
  lastS := []
  lastPid := 0
  commandIds := []

/-- The translation that maps the code image at 0x10000 to device address 0x110000 for context 0 (R352, R353). -/
def bootTables (m : List Host.Cell) : List Host.Cell :=
  let m := Memory.writeList m 0x100000 (leBytes 8 0x101001)
  let m := Memory.writeList m 0x101000 (leBytes 8 0x102001)
  let m := Memory.writeList m 0x102000 (leBytes 8 0x103001)
  Memory.writeList m 0x103008 (leBytes 8 0x11000F)

/-- The state with a 32-bit word as word 0 of packet 0 of the team in slot 0 of core 0, which issues next. -/
def State.placeWord (s : State) (w : Nat) : State :=
  let n := s.serial
  let h : Cohort := ⟨n, 0, 1, 1, [n], [], n, 0, 65536, [], [], [], [], []⟩
  let t := { Team.fresh n 0 1 0 32 32 64 0 n 0 1 n 7 0x10000 1200 16 65536 false false with
    gen := (List.range 32).map (seed 1 0) }
  let k := s.core 0
  let x := s.ctx 0
  let s := { s with
    agenda := [.issue 0 0 false]
    serial := n + 1
    pipes := Table.drop s.pipes 0
    mem := Memory.writeList (bootTables s.mem) 0x110040 (leBytes 4 w)
    pf := { s.pf with stopped := false, cmps := [] } }
  let s := s.setCore 0 { k with teams := Table.put k.teams 0 t, cohorts := h :: k.cohorts, bndReg := 4, bndScr := 12, bndL1 := 48 }
  let s := s.setCtx 0 { x with
    ptb := 0x100000, xlat := [], measured := [], unmeasured := [],
    launches := bootLaunch :: x.launches.filter fun l => l.id != 1 }
  s.setPage 0x11 { Page.fresh with state := .resident }

end Sys2Proof.Machine
end

