-- ==== Sys2Proof/Machine/CrossLane.lean ====
section
/-!
DEFINITION. Cross-lane instructions within groups of G lanes (R149 to R157).
-/

namespace Sys2Proof.Machine

/-- The group of a lane: its base and the lane's index (R149). -/
def groupBase (g l : Nat) : Nat := l / g * g

/-- A lane takes part: it is active in the executing path (R149). -/
def View.takesPart (v : View) (l : Nat) : Bool := decide (l < v.team.lanes) && laneOn v.path.mask l

/-- A cross-lane result in every active lane, ready 6 cycles after the last pass (R149). -/
def crossWord (d : BitVec 6) (f : State → View → Nat → Word) (s : State) (v : View) : Effect :=
  .done (s.setV v d.toNat (v.each (f s v)) 6 true)

/-- A shuffle: `src` gives the source index of a lane, if it is valid (R150). -/
def shuffleWord (src : Nat → Nat → Nat → Option Nat) (d a b : BitVec 6) (q : BitVec 2) : State → View → Effect :=
  crossWord d fun s v l =>
    let g := v.team.group
    match src g (l % g) (s.bV v .int q b l).toNat with
    | some j => if v.takesPart (groupBase g l + j) then v.v a.toNat (groupBase g l + j) else v.v a.toNat l
    | none => v.v a.toNat l

/-- The index VSHFLX names. -/
def xorIndex (i j : Nat) : Nat := i ^^^ j

/-- Bits k of a mask over a group, for the lanes that satisfy a condition (R152). -/
def groupMask (v : View) (l : Nat) (on : Nat → Bool) : Nat :=
  (List.range v.team.group).foldl (fun n k =>
    let j := groupBase v.team.group l + k
    if v.takesPart j && on j then n + 2 ^ k else n) 0

/-- A mask result: one register, or a pair when G = 64, whose D must be even (R125, R152). -/
def maskWord (d : BitVec 6) (f : State → View → Nat → Nat) (s : State) (v : View) : Effect :=
  let vals := v.active.map fun l => (l, BitVec.ofNat 64 (f s v l))
  if v.team.group = 64 then
    if d.toNat % 2 = 1 then Effect.plain 0x01
    else if v.team.held ≤ d.toNat + 1 then .trap 0x02 (BitVec.ofNat 64 (d.toNat + 1)) 0
    else .done (s.setVPair v d.toNat vals 6 true)
  else .done (s.setV v d.toNat (vals.map fun (e : Nat × DWord) => (e.1, e.2.setWidth 32)) 6 true)

/-- VANY and VALL: the condition is ready 6 cycles after the last pass (R149, R153). -/
def voteWord (f : List Bool → Bool) (k : BitVec 2) (p : BitVec 3) (s : State) (v : View) : Effect :=
  .done (s.setC v k.toNat (f (v.active.map (v.p p.toNat))) (v.time + v.lastPass + 6))

/-- Reduction by key within a group; the leader is the lowest active lane of the key (R154). -/
def keyedWord (f : Word → Word → Word) (d a b : BitVec 6) (q : BitVec 2) (s : State) (v : View) : Effect :=
  let same := fun l => v.active.filter fun k => groupBase v.team.group k == groupBase v.team.group l && v.v a.toNat k == v.v a.toNat l
  let leaders := v.active.filter fun l => (same l).head? == some l
  let total := fun l => match (same l).map (s.bV v .int q b) with
    | x :: rest => rest.foldl f x
    | [] => 0
  .done ((s.setV v d.toNat (leaders.map fun l => (l, total l)) 6 true).setV v (d.toNat + 1)
    (v.active.map fun l => (l, if leaders.contains l then 1 else 0)) 6 true)

/-- Active lanes of a lane's group, ascending. -/
def View.groupLanes (v : View) (base : Nat) : List Nat := v.active.filter fun k => groupBase v.team.group k == base

/-- The bases of the groups. -/
def View.bases (v : View) : List Nat := (List.range (v.team.lanes / v.team.group)).map (· * v.team.group)

/-- Running sums of one group: each lane's running value and the one before it, with the flags (R155). -/
def runningSums (fp : Bool) (e : FpEnv) : List (Nat × Word) → Option Word → List (Nat × Word × Word × Nat)
  | [], _ => []
  | (l, x) :: rest, none =>
    let y := if fp then BitVec.ofNat 32 (ftzIn .fp32 e x.toNat) else x
    (l, y, 0, 0) :: runningSums fp e rest (some y)
  | (l, x) :: rest, some p =>
    let r : Word × Nat := if fp then fpWord (fadd .fp32 e p.toNat x.toNat) else (p + x, 0)
    (l, r.1, p, r.2) :: runningSums fp e rest (some r.1)

/-- VSCAN.ADD and VSCANX.ADD (R155). -/
def scanWord (exclusive : Bool) (d a : BitVec 6) (t : BitVec 1) (s : State) (v : View) : Effect :=
  let sums := v.bases.flatMap fun b => runningSums (t == 1) v.path.env ((v.groupLanes b).map fun l => (l, v.v a.toNat l)) none
  s.setFp v d.toNat (sums.map fun e => (e.1, if exclusive then e.2.2.1 else e.2.1, e.2.2.2)) 6 true

/-- One round of the fixed tree of VREDG (R156): the values at distance `dist` combined, with the flags. -/
def treeRound (comb : Word → Word → Word × Nat) (dist : Nat) (w : List (Option Word)) (flags : Nat) : List (Option Word) × Nat :=
  let at' := fun k => w.getD k none
  let out := (List.range w.length).map fun k =>
    match at' (min k (xorIndex k dist)), at' (max k (xorIndex k dist)) with
    | some x, some y => (some (comb x y).1, (comb x y).2)
    | some x, none => (some x, 0)
    | none, some y => (some y, 0)
    | none, none => (none, 0)
  (out.map (·.1), out.foldl (fun n e => n ||| e.2) flags)

/-- The tree of one group of G lanes. -/
def treeOf (comb : Word → Word → Word × Nat) (g : Nat) (w : List (Option Word)) : List (Option Word) × Nat :=
  ([1, 2, 4, 8, 16, 32].filter fun d => decide (d < g)).foldl (fun a d => treeRound comb d a.1 a.2) (w, 0)

/-- VREDG.ADD and VREDG.MAX (R156).  A maximum reads each input under FTZ first (R87).
A group with one active lane combines nothing (R156), so a signalling NaN there is returned as it stands and raises no IV, though
R87 raises IV for any signalling input (DESIGN CHOICE, log 87). -/
def reduceWord (max : Bool) (d a : BitVec 6) (t : BitVec 1) (s : State) (v : View) : Effect :=
  let e := v.path.env
  let comb : Word → Word → Word × Nat := fun x y =>
    if t = 1 then fpWord (if max then fminmax .fp32 e true x.toNat y.toNat else fadd .fp32 e x.toNat y.toNat)
    else (if max then intMax x y else x + y, 0)
  let read := fun l => if t = 1 then BitVec.ofNat 32 (ftzIn .fp32 e (v.v a.toNat l).toNat) else v.v a.toNat l
  let groups := v.bases.map fun b =>
    (b, treeOf comb v.team.group ((List.range v.team.group).map fun k => if v.takesPart (b + k) then some (read (b + k)) else none))
  s.setFp v d.toNat (groups.flatMap fun g => (v.groupLanes g.1).map fun l =>
    (l, (g.2.1.getD (l - g.1) none).getD 0, g.2.2)) 6 true

/-- VSHFL (R150). -/
def execVshfl (c : BitVec 1) (w : BitVec 2) (d : BitVec 6) (a : BitVec 6) (b : BitVec 6) (q : BitVec 2) (s : State) : Result :=
  issueWord (.vshfl c w d a b q) (shuffleWord (fun g _ b => some (b % g)) d a b q) s

/-- VSHFLU (R150). -/
def execVshflu (c : BitVec 1) (w : BitVec 2) (d : BitVec 6) (a : BitVec 6) (b : BitVec 6) (q : BitVec 2) (s : State) : Result :=
  issueWord (.vshflu c w d a b q) (shuffleWord (fun _ i b => if b ≤ i then some (i - b) else none) d a b q) s

/-- VSHFLD (R150). -/
def execVshfld (c : BitVec 1) (w : BitVec 2) (d : BitVec 6) (a : BitVec 6) (b : BitVec 6) (q : BitVec 2) (s : State) : Result :=
  issueWord (.vshfld c w d a b q) (shuffleWord (fun g i b => if i + b < g then some (i + b) else none) d a b q) s

/-- VSHFLX (R150). -/
def execVshflx (c : BitVec 1) (w : BitVec 2) (d : BitVec 6) (a : BitVec 6) (b : BitVec 6) (q : BitVec 2) (s : State) : Result :=
  issueWord (.vshflx c w d a b q) (shuffleWord (fun g i b => some (xorIndex i (b % g))) d a b q) s

/-- VBCAST (R151). -/
def execVbcast (c : BitVec 1) (w : BitVec 2) (d : BitVec 6) (a : BitVec 6) (b : BitVec 6) (q : BitVec 2) (s : State) : Result :=
  issueWord (.vbcast c w d a b q) (shuffleWord (fun g _ b => some (b % g)) d a b q) s

/-- VBALLOT (R152). -/
def execVballot (c : BitVec 1) (w : BitVec 2) (d : BitVec 6) (p : BitVec 3) (s : State) : Result :=
  issueWord (.vballot c w d p) (maskWord d fun _ v l => groupMask v l (v.p p.toNat)) s

/-- VANY (R153). -/
def execVany (c : BitVec 1) (w : BitVec 2) (k : BitVec 2) (p : BitVec 3) (s : State) : Result :=
  issueWord (.vany c w k p) (voteWord (fun l => l.any id) k p) s

/-- VALL (R153). -/
def execVall (c : BitVec 1) (w : BitVec 2) (k : BitVec 2) (p : BitVec 3) (s : State) : Result :=
  issueWord (.vall c w k p) (voteWord (fun l => l.all id) k p) s

/-- VMRED_ADD (R154). -/
def execVmredAdd (c : BitVec 1) (w : BitVec 2) (d : BitVec 6) (a : BitVec 6) (b : BitVec 6) (q : BitVec 2) (s : State) : Result :=
  issueWord (.vmredAdd c w d a b q) (keyedWord intAdd d a b q) s

/-- VMRED_MIN (R154). -/
def execVmredMin (c : BitVec 1) (w : BitVec 2) (d : BitVec 6) (a : BitVec 6) (b : BitVec 6) (q : BitVec 2) (s : State) : Result :=
  issueWord (.vmredMin c w d a b q) (keyedWord intMin d a b q) s

/-- VMRED_MAX (R154). -/
def execVmredMax (c : BitVec 1) (w : BitVec 2) (d : BitVec 6) (a : BitVec 6) (b : BitVec 6) (q : BitVec 2) (s : State) : Result :=
  issueWord (.vmredMax c w d a b q) (keyedWord intMax d a b q) s

/-- VSCAN_ADD (R155). -/
def execVscanAdd (c : BitVec 1) (w : BitVec 2) (d : BitVec 6) (a : BitVec 6) (t : BitVec 1) (s : State) : Result :=
  issueWord (.vscanAdd c w d a t) (scanWord false d a t) s

/-- VSCANX_ADD (R155). -/
def execVscanxAdd (c : BitVec 1) (w : BitVec 2) (d : BitVec 6) (a : BitVec 6) (t : BitVec 1) (s : State) : Result :=
  issueWord (.vscanxAdd c w d a t) (scanWord true d a t) s

/-- VREDG_ADD (R156). -/
def execVredgAdd (c : BitVec 1) (w : BitVec 2) (d : BitVec 6) (a : BitVec 6) (t : BitVec 1) (s : State) : Result :=
  issueWord (.vredgAdd c w d a t) (reduceWord false d a t) s

/-- VREDG_MAX (R156). -/
def execVredgMax (c : BitVec 1) (w : BitVec 2) (d : BitVec 6) (a : BitVec 6) (t : BitVec 1) (s : State) : Result :=
  issueWord (.vredgMax c w d a t) (reduceWord true d a t) s

/-- VMATCH (R152). -/
def execVmatch (c : BitVec 1) (w : BitVec 2) (d : BitVec 6) (a : BitVec 6) (s : State) : Result :=
  issueWord (.vmatch c w d a) (maskWord d fun _ v l => groupMask v l fun j => v.v a.toNat j == v.v a.toNat l) s


end Sys2Proof.Machine
end

