-- ==== Sys2Proof/Machine/Control.lean ====
section
/-!
DEFINITION. Control transfer, divergence, special registers, tags and the ends of paths and handlers (R23 to R29, R96 to R108).
-/

namespace Sys2Proof.Machine

/-- The packet that an offset in packets names from the branch's own (R62, R98). -/
def View.target (v : View) (off : Word) : Nat := (BitVec.ofNat 32 v.path.pc + off).toNat

/-- The next packet. -/
def View.nextPacket (v : View) : Nat := v.path.pc + 1

/-! ### SPLIT, JOIN, EXIT (R23 to R29) -/

/-- The place in the stack of the innermost record of which the path in a slot is a half (R25). -/
def recordOf (side : Bool) : List Recon → Nat → Option Nat
  | [], _ => none
  | r :: rest, n => if r.two || r.slot == side then some n else recordOf side rest (n + 1)

def union (a b : List Nat) : List Nat := (a ++ b).eraseDups

/-- Path A's and path B's copies merged at a JOIN (R27); either may have exited.  The latched tick of the merged path is
path A's (DESIGN CHOICE, log 69). -/
def mergePaths (r : Recon) (a b : Option Path) : Option Path :=
  match a, b with
  | some a, some b =>
    let fromB := fun n => b.wroteS.contains n && !a.wroteS.contains n
    let condB := fun n => b.wroteC.contains n && !a.wroteC.contains n
    let lanes := fun (inB : Bool) (g : Lag) => { g with mask := g.mask &&& (if inB then wordAt b.mask g.slice else ~~~ (wordAt b.mask g.slice)) }
    let mine := fun (inB : Bool) (g : Lag) => if g.reg < 64 then fromB g.reg == inB else if g.reg < 136 then g.mask != 0 else condB (g.reg - 136) == inB
    let part := fun (inB : Bool) (l : List Lag) => (l.map fun g => if 64 ≤ g.reg ∧ g.reg < 136 then lanes inB g else g).filter (mine inB)
    some { a with
      pc := a.pc + 1
      word := 0
      joined := false
      mask := List.zipWith (· ||| ·) a.mask b.mask
      s := (List.range 64).map fun n => if fromB n then wordAt b.s n else wordAt a.s n
      cond := (List.range 4).map fun n =>
        if b.wroteC.contains n && !a.wroteC.contains n then b.cond.getD n false else a.cond.getD n false
      fpmode := if b.wroteMode && !a.wroteMode then b.fpmode else a.fpmode
      fpflags := a.fpflags ||| b.fpflags ||| r.exitFlags
      wroteS := union r.outerS (union a.wroteS b.wroteS)
      wroteC := union r.outerC (union a.wroteC b.wroteC)
      wroteMode := r.outerMode || a.wroteMode || b.wroteMode
      poison := (a.poison.filter fun q => !fromB q.1) ++ b.poison.filter fun q => fromB q.1
      lag := part false a.lag ++ part true b.lag
      nextAt := max a.nextAt b.nextAt
      passesTo := max a.passesTo b.passesTo
      releaseOps := union a.releaseOps b.releaseOps
      acquireOps := union a.acquireOps b.acquireOps
      before := (a.before ++ b.before).eraseDups }
  | some p, none => some { p with
      pc := p.pc + 1, word := 0, joined := false, fpflags := p.fpflags ||| r.exitFlags
      wroteS := union r.outerS p.wroteS, wroteC := union r.outerC p.wroteC, wroteMode := r.outerMode || p.wroteMode }
  | none, some p => some { p with
      pc := p.pc + 1, word := 0, joined := false, fpflags := p.fpflags ||| r.exitFlags
      wroteS := union r.outerS p.wroteS, wroteC := union r.outerC p.wroteC, wroteMode := r.outerMode || p.wroteMode }
  | none, none => none

/-- One-sided records that the path in a slot pushed after the innermost two-sided record. -/
def dropOneSided (side : Bool) : List Recon → List Recon
  | [] => []
  | r :: rest => if r.two then r :: rest else if r.slot = side then dropOneSided side rest else r :: dropOneSided side rest

/-- The halves of the innermost two-sided record, when each has joined or exited, give way to the merged path and
the resumed sibling (R24, R25); a path whose halves have both exited has exited itself (R29).  The merged copy of the scalar
registers goes to the path that goes on, and a scalar load that a half issued before its JOIN writes that copy when it returns,
also over path A's value: the spec does not say what becomes of it (DESIGN CHOICE, log 68). -/
def Team.closeRecords : Nat → Team → Team
  | 0, t => t
  | fuel + 1, t =>
    match t.recs with
    | [] => t
    | r :: rest =>
      if !r.two then
        -- a one-sided record whose path has exited goes with it
        (if (t.at r.slot).isNone then Team.closeRecords fuel { t with recs := rest } else t)
      else
        let doneA := r.exitedA || (t.pathA.map (·.joined)).getD false
        let doneB := r.exitedB || (t.pathB.map (·.joined)).getD false
        if !(doneA && doneB) then t
        else
          let m := mergePaths r (if r.exitedA then none else t.pathA) (if r.exitedB then none else t.pathB)
          let sib := r.suspended
          let halves := r.gone ++ (t.pathA.toList ++ t.pathB.toList).map (·.pid)
          let ops := match m with
            | some p => t.ops.map fun (o : Op) => { o with
                pid := (if o.pid != 0 && halves.contains o.pid then p.pid else o.pid),
                fpid := (if halves.contains o.fpid then p.pid else o.fpid) }
            | none => t.ops
          let t := { t with recs := rest, ops := ops }
          match m with
          | some p => (t.setAt r.slot (some p)).setAt (!r.slot) sib
          | none =>
            let own := dropOneSided r.slot rest
            let rest' := match own.findIdx? (·.two) with
              | some i => own.modify i fun q =>
                  { q with exitedA := q.exitedA || !r.slot, exitedB := q.exitedB || r.slot, exitFlags := q.exitFlags ||| r.exitFlags, gone := q.gone ++ r.gone }
              | none => own
            Team.closeRecords fuel (({ t with recs := rest' }.setAt r.slot none).setAt (!r.slot) sib)

/-- The path in a slot ends (R29, R101). -/
def Team.exitPath (t : Team) (side : Bool) : Team :=
  match t.at side with
  | none => t
  | some p =>
    let recs := dropOneSided side t.recs
    let recs := match recs.findIdx? (·.two) with
      | some i => recs.modify i fun r =>
          { r with exitedA := r.exitedA || !side, exitedB := r.exitedB || side, exitFlags := r.exitFlags ||| p.fpflags,
                   gone := p.pid :: r.gone }
      | none => recs
    -- a result still to come reaches no register of an exited path, but the last path's reach what its spine slots publish
    let last := (t.at (!side)).isNone && t.suspended.isEmpty
    Team.closeRecords 32 { t.setAt side none with
      recs := recs, lastS := p.s, lastPid := p.pid,
      ops := if last then t.ops else t.ops.map fun o => if o.pid = p.pid then { o with pid := 0 } else o }

/-- SPLIT (R23, R24, R27, R99): the T path continues in slot A and the F path starts in slot B of a two-sided split,
whichever slot the splitting path held (DESIGN CHOICE, log 68).  Both inherit the latched tick (log 69). -/
def splitWord (c : BitVec 1) (w : BitVec 2) (p : BitVec 3) (o : BitVec 16) (s : State) (v : View) : Effect :=
  if 15 ≤ v.team.recs.length then Effect.plain 0x01
  else
    let on := v.active.filter (v.p p.toNat)
    let slices := v.path.mask.length
    let els := v.target (immInt v.path.ext o)
    let one : Recon := ⟨false, v.side, none, false, false, 0, [], [], [], false⟩
    if on.length = v.active.length then
      .jump (s.modTeam v fun t => { t with recs := one :: t.recs }) v.nextPacket
    else if on.isEmpty then .jump (s.modTeam v fun t => { t with recs := one :: t.recs }) els
    else
      let q := s.pathOf v
      let two : Recon := ⟨true, v.side, (s.teamOf v).at (!v.side), false, false, 0, [], q.wroteS, q.wroteC, q.wroteMode⟩
      let base := { v.land (.split c w p o) v.nextPacket q with wroteS := [], wroteC := [], wroteMode := false, lastCommand := none }
      let a := { base with mask := maskOf slices on.contains, lastCommand := q.lastCommand }
      let b := { base with pid := (s.teamOf v).nextPid, before := (q.pid, (s.core v.core).nextOp) :: q.before, pc := els, mask := maskOf slices fun l => v.active.contains l && !on.contains l }
      .ended ((s.modTeam v fun t =>
        { t with recs := two :: t.recs, nextPid := t.nextPid + 1, pathA := some a, pathB := some b, lastPath := false }).endStep v)

/-- JOIN (R25, R27). -/
def joinWord (w : BitVec 2) (s : State) (v : View) : Effect :=
  let t := s.teamOf v
  match recordOf v.side t.recs 0 with
  | none => .jump s v.nextPacket
  | some n =>
    match t.recs[n]? with
    | none => .jump s v.nextPacket
    | some r =>
      if !r.two then .jump (s.modTeam v fun t => { t with recs := t.recs.eraseIdx n }) v.nextPacket
      else
        let t := t.setAt v.side (some { (s.pathOf v) with joined := true, nextAt := v.time + 1 + w.toNat, passesTo := v.time + 1, chainAt := none, stall := 15,
                                                              issuedAt := some v.time, passed := false, exempt := false })
        let recs := dropOneSided v.side t.recs
        let u := Team.closeRecords 32 { t with recs := recs }
        let s := s.setTeam v.core v.slot u
        .ended (if u.recs.length < recs.length then s.endStep v else s)

/-- EXIT (R29, R77, R101, R346). -/
def exitWord (s : State) (v : View) : Effect :=
  if v.run then .ended (s.modTeam v fun t => { t with runner := { t.runner with running := false, exited := true } })
  else
    match v.team.handler with
    | some h => .ended (s.kill v.core v.slot ((wordAt h.h 0).setWidth 8) (wordAt h.h 1).toNat false false)
    | none => .ended ((s.modTeam v fun t => { (t.exitPath v.side) with lastPath := v.side }).endStep v)

/-! ### Special registers (R48 to R51, R107) -/

/-- MSTATUS of a team (R210). -/
def State.mstatus (s : State) (c : Nat) (t : Team) : Word :=
  BitVec.ofNat 32 ((s.commandsOf c t.uid).length * 256 + (!(s.core c).mtx.window.isEmpty).toNat * 4 + t.logovf.toNat * 2 + t.operr.toNat)

/-- The value SRD gives for a special register (R48). -/
def State.special (s : State) (v : View) (n : Nat) : Word :=
  let t := v.team
  let l := s.launch t.ctx t.launch
  let args := (l.map (·.rcd.args)).getD 0
  let items := match l with
    | some l => if l.spawned.isSome then t.item.toNat + 1 else l.rcd.nitems
    | none => 0
  match n with
  | 0 => s.tick.setWidth 32
  | 1 => ((v.path.tick.getD s.tick) >>> 32).setWidth 32
  | 2 => t.item.setWidth 32
  | 3 => (t.item >>> 32).setWidth 32
  | 4 => BitVec.ofNat 32 t.lanes
  | 5 => BitVec.ofNat 32 t.group
  | 6 => BitVec.ofNat 32 t.cohortSize
  | 7 => BitVec.ofNat 32 t.teamIdx
  | 8 => BitVec.ofNat 32 (coreX v.core)
  | 9 => BitVec.ofNat 32 (coreY v.core)
  | 10 => BitVec.ofNat 32 (clusterX v.core)
  | 11 => BitVec.ofNat 32 (clusterY v.core)
  | 12 => BitVec.ofNat 32 (dieOf v.core)
  | 13 => BitVec.ofNat 32 s.device
  | 14 => BitVec.ofNat 32 t.launch
  | 15 => BitVec.ofNat 32 ((l.map (·.depth)).getD 0)
  | 16 => BitVec.ofNat 32 args
  | 17 => BitVec.ofNat 32 (args / 2 ^ 32)
  | 18 => if (s.ctx t.ctx).req then 1 else 0
  | 19 => v.path.fpmode
  | 20 => v.path.fpflags
  | 21 => s.mstatus v.core t
  | 22 => t.batch
  | 23 => BitVec.ofNat 32 t.ctx
  | 24 => BitVec.ofNat 32 items
  | _ => BitVec.ofNat 32 (items / 2 ^ 32)

/-- SRD: TICK lo also latches the tick in the path (R48, R107). -/
def srdWord (d : BitVec 6) (n : BitVec 8) (s : State) (v : View) : Effect :=
  let s' := if n = 0 then s.modPath v fun p => { p with tick := some s.tick } else s
  .done (s'.setS v d.toNat (s.special v n.toNat) 1)

/-- SWR of FPMODE or FPFLAGS: reserved bits ignore the write (R4, R50, R51, R107). -/
def swrWord (a : BitVec 6) (n : BitVec 8) (s : State) (v : View) : Effect :=
  let w := v.s a.toNat 0
  .done (s.modPath v fun p =>
    if n = 19 then { p with fpmode := w &&& 0x1F7, wroteMode := true } else { p with fpflags := w &&& 0x1F })

/-- TRTAG's record (R108). -/
def tagWord (a : BitVec 6) (g : BitVec 12) (s : State) (v : View) : Effect :=
  .done (s.traceWord v.core v.slot v.side 11 (g.toNat + (v.s a.toNat 0).toNat * 2 ^ 32 + v.team.launch * 2 ^ 96))

/-- RETT (R103, R345). -/
def rettWord (w : BitVec 2) (k : BitVec 1) (s : State) (v : View) : Effect :=
  match v.team.handler with
  | none => Effect.plain 0x12
  | some h => .ended ((s.modTeam v fun t => (t.returnFrom h (k == 1)).setAt h.path
      (((t.returnFrom h (k == 1)).at h.path).map fun p => { p with nextAt := max p.nextAt (v.time + 1 + w.toNat), passesTo := v.time + 1, chainAt := none, issuedAt := some v.time })).endStep v)

/-- NOP (R60). -/
def execNop (c : BitVec 1) (w : BitVec 2) (s : State) : Result :=
  issueWord (.nop c w) (fun s _ => .done s) s

/-- BRA (R98). -/
def execBra (c : BitVec 1) (w : BitVec 2) (o : BitVec 19) (s : State) : Result :=
  issueWord (.bra c w o) (fun s v => .jump s (v.target (immInt v.path.ext o))) s

/-- BRC (R98). -/
def execBrc (c : BitVec 1) (w : BitVec 2) (z : BitVec 1) (k : BitVec 2) (o : BitVec 16) (s : State) : Result :=
  issueWord (.brc c w z k o) (fun s v => if v.c k.toNat == (z == 0) then .jump s (v.target (immInt v.path.ext o)) else .done s) s

/-- SPLIT (R99). -/
def execSplit (c : BitVec 1) (w : BitVec 2) (p : BitVec 3) (o : BitVec 16) (s : State) : Result :=
  issueWord (.split c w p o) (splitWord c w p o) s

/-- JOIN (R99). -/
def execJoin (c : BitVec 1) (w : BitVec 2) (s : State) : Result :=
  issueWord (.join c w) (joinWord w) s

/-- CALL (R100). -/
def execCall (c : BitVec 1) (w : BitVec 2) (l : BitVec 6) (o : BitVec 13) (s : State) : Result :=
  issueWord (.call c w l o) (fun s v => .jump (s.setS v l.toNat (BitVec.ofNat 32 v.nextPacket) 1) (v.target (immInt v.path.ext o))) s

/-- CALLI: the target is read before the link is written (R100). -/
def execCalli (c : BitVec 1) (w : BitVec 2) (l : BitVec 6) (t : BitVec 6) (s : State) : Result :=
  issueWord (.calli c w l t) (fun s v => .jump (s.setS v l.toNat (BitVec.ofNat 32 v.nextPacket) 1) (v.s t.toNat 0).toNat) s

/-- RET (R100). -/
def execRet (c : BitVec 1) (w : BitVec 2) (t : BitVec 6) (s : State) : Result :=
  issueWord (.ret c w t) (fun s v => .jump s (v.s t.toNat 0).toNat) s

/-- EXIT (R101). -/
def execExit (c : BitVec 1) (w : BitVec 2) (s : State) : Result :=
  issueWord (.exit c w) (exitWord) s

/-- TRAP: trap 0x0E with CODE as the fault address (R102). -/
def execTrap (c : BitVec 1) (w : BitVec 2) (k : BitVec 8) (s : State) : Result :=
  issueWord (.trap c w k) (fun _ _ => .trap 0x0E (k.setWidth 64) 0) s

/-- BRK: trap 0x0D with its tag (R102); a debugger that lets the path go on passes over it (log 20). -/
def execBrk (c : BitVec 1) (w : BitVec 2) (g : BitVec 8) (s : State) : Result :=
  issueWord (.brk c w g) (fun s v => if v.path.passed then .done s else .trap 0x0D (g.setWidth 64) 0) s

/-- WAITCYC: the next word issues no earlier than t + 1 + N + S (R104). -/
def execWaitcyc (c : BitVec 1) (w : BitVec 2) (n : BitVec 16) (s : State) : Result :=
  issueWord (.waitcyc c w n) (fun s v => .done (s.modPath v fun p => { p with nextAt := v.time + 1 + n.toNat + w.toNat })) s

/-- YIELD (R106). -/
def execYield (c : BitVec 1) (w : BitVec 2) (s : State) : Result :=
  issueWord (.yield c w) (fun s v => if !(s.ctx v.team.ctx).req || v.team.two then .done s
    else .done (s.modTeam v fun t => { t with yielding := true })) s

/-- PRIO (R105). -/
def execPrio (c : BitVec 1) (w : BitVec 2) (p : BitVec 3) (s : State) : Result :=
  issueWord (.prio c w p) (fun s v => .done (s.modTeam v fun t =>
    { t with prio := min p.toNat (((s.launch t.ctx t.launch).map (·.rcd.prio)).getD 0) })) s

/-- SRD (R107). -/
def execSrd (c : BitVec 1) (w : BitVec 2) (d : BitVec 6) (n : BitVec 8) (s : State) : Result :=
  issueWord (.srd c w d n) (srdWord d n) s

/-- SWR (R107). -/
def execSwr (c : BitVec 1) (w : BitVec 2) (a : BitVec 6) (n : BitVec 8) (s : State) : Result :=
  issueWord (.swr c w a n) (swrWord a n) s

/-- TRTAG (R108). -/
def execTrtag (c : BitVec 1) (w : BitVec 2) (a : BitVec 6) (g : BitVec 12) (s : State) : Result :=
  issueWord (.trtag c w a g) (tagWord a g) s

/-- RETT (R103). -/
def execRett (c : BitVec 1) (w : BitVec 2) (k : BitVec 1) (s : State) : Result :=
  issueWord (.rett c w k) (rettWord w k) s

/-- RESERVED_ENCODING: a fetched word that no instruction has: trap 0x12 for major 0x1F, otherwise 0x01 (R75, R78). -/
def execReservedEncoding (word : BitVec 32) (s : State) : Result :=
  match s.view with
  | none => .next s
  | some v => .next (((s.reach v).trapView v (if field word 24 5 = 0x1F then 0x12 else 0x01) 0 0 0).used)

/-- TRAP_ENTRY: a team's path takes a trap (R343). -/
def execTrapEntry (core slot : Nat) (path : Bool) (cause : BitVec 8) (fault : BitVec 64) (aux : BitVec 32) (s : State) : Result :=
  match s.team core slot with
  | none => .fault .noSuchPlace
  | some t => if (t.at path).isNone then .fault .noSuchPlace else .next (s.takeTrap core slot path cause fault aux 0)

end Sys2Proof.Machine
end

