-- ==== Sys2Proof/Machine/Copy.lean ====
section
/-!
DEFINITION. The copy engine (R214 to R221): its words and the completion of its operations.
-/

namespace Sys2Proof.Machine

/-! ### Rows (R215) -/

/-- A global byte range cut at its lines: virtual address and length of each piece. -/
def linesOf (a n : Nat) : List (Nat × Nat) :=
  if n = 0 then []
  else (List.range ((a + n - 1) / 128 + 1 - a / 128)).map fun i =>
    let p := (a / 128 + i) * 128
    (max a p, min (a + n) (p + 128) - max a p)

/-- An operation as its operand block gives it: scratchpad ranges of its two sides and global ranges, by row. -/
structure CopyPlan where
  kind : CopyKind
  len : Nat
  /-- Address, length and stride checks: the value and the fault address, where a row's address is at fault. -/
  aligned : List (Nat × Option Nat)
  /-- Rows: global address, first and second scratchpad address. -/
  rows : List (Nat × Nat × Nat)
  /-- The index list of GTH and SCT. -/
  index : Option Nat

/-- Row addresses of a stride. -/
def strided (n : Nat) (f : Nat → Nat × Nat × Nat) : List (Nat × Nat × Nat) := (List.range n).map f

/-- A global address: base and a signed stride, as a 64-bit sum. -/
def globalRow (base : DWord) (stride : Word) (i : Nat) : Nat := (base + stride.signExtend 64 * BitVec.ofNat 64 i).toNat

/-- The plan of a copy word: `r` its operand registers, `n` rows.  GTH and SCT have their global addresses once the
index list has been read. -/
def copyPlan (op : Nat) (r : Nat → Word) (n : Nat) : CopyPlan :=
  let base := (r 1).append (r 0)
  let w := fun i => (r i).toNat
  match op with
  | 0 => ⟨.g2s, w 3, [(base.toNat, some base.toNat), (w 2, some (w 2)), (w 3, none), (w 4, none), (w 5, none)],
      strided n fun i => (globalRow base (r 4) i, w 2 + i * w 5, 0), none⟩
  | 1 => ⟨.s2g, w 3, [(base.toNat, some base.toNat), (w 2, some (w 2)), (w 3, none), (w 4, none), (w 5, none)],
      strided n fun i => (globalRow base (r 4) i, w 2 + i * w 5, 0), none⟩
  | 2 => ⟨.s2s, w 3, [(w 0, some (w 0)), (w 1, some (w 1)), (w 3, none), (w 4, none), (w 5, none)],
      strided n fun i => (0, w 0 + i * w 4, w 1 + i * w 5), none⟩
  | 3 => ⟨.gth, w 3, [(base.toNat, some base.toNat), (w 2, some (w 2)), (w 3, none), (w 4, some (w 4))],
      strided n fun i => (0, w 4 + i * w 3, 0), some (w 2)⟩
  | 4 => ⟨.sct, w 3, [(base.toNat, some base.toNat), (w 2, some (w 2)), (w 3, none), (w 4, some (w 4))],
      strided n fun i => (0, w 4 + i * w 3, 0), some (w 2)⟩
  | _ => ⟨.fill (r 1), w 2, [(w 0, some (w 0)), (w 2, none), (w 3, none)], strided n fun i => (0, w 0 + i * w 3, 0), none⟩

/-- Registers that must hold zero, and the length's range (R215). -/
def copyReserved (op : Nat) (r : Nat → Word) : Bool :=
  let len := if op = 5 then (r 2).toNat else (r 3).toNat
  len == 0 || decide (1048572 < len) ||
    (op == 2 && bits (r 2).toNat 31 18 != 0) || ((op == 3 || op == 4 || op == 5) && r 5 != 0) || (op == 5 && r 4 != 0)

/-- The row of the shadow's access: a conflict, or the new entries of a write (R301). -/
def State.copyShadow (s : State) (v : View) (core : Nat) (id : Nat) (write remote : Bool) (rows : List (Nat × Nat)) :
    Except Effect State :=
  match s.cohort core id with
  | none => .ok s
  | some h =>
    if !v.team.race then .ok s
    else
      let g := if remote then v.team.gc else v.team.gb
      let k := coreIndex v.core
      let ws := (rows.flatMap fun e => wordsOf e.1 e.2)
      match ws.find? fun w => racy (h.entry w) g v.slot k with
      | some w => .error (.trap 0x10 (BitVec.ofNat 64 (4 * w)) 0)
      | none =>
        if !write then .ok s
        else
          let h' := { h with shadow := ws.eraseDups.foldl (fun m w => Table.put m w (shadowEntry g v.slot k)) h.shadow }
          .ok (ws.eraseDups.foldl (fun s w => s.dirtyUnits core (16384 * (s.core core).bndScr + (h.base / 4 + w) * 2) 2)
            (s.setCohort core h'))

/-- The target cohort of a place offset, or trap 0x09 (R160 row 1, R215). -/
def State.copyPlace (s : State) (v : View) (a dx dy : Nat) : Except Effect (Nat × Nat) :=
  match s.remoteTarget v (BitVec.ofNat 5 dx) (BitVec.ofNat 4 dy) a with
  | .ok (c, h) => .ok (c, h.id)
  | .error e => .error e

/-- The two scratchpad sides of an operation: S2S names target regions, the others the executing cohort's. -/
def State.copySides (s : State) (v : View) (op : Nat) (r : Nat → Word) : Except Effect ((Nat × Nat) × (Nat × Nat)) :=
  if op = 2 then
    let p := (r 2).toNat
    match s.copyPlace v (r 0).toNat (bits p 4 0) (bits p 8 5) with
    | .error e => .error e
    | .ok a => match s.copyPlace v (r 1).toNat (bits p 13 9) (bits p 17 14) with
      | .error e => .error e
      | .ok b => .ok (a, b)
  else .ok ((v.core, v.team.cohort), (v.core, v.team.cohort))

/-- The scratchpad ranges, in the order of the rows: those read, then those written. -/
def CopyPlan.scratchReads (p : CopyPlan) (n : Nat) : List (Nat × Nat) :=
  let list := match p.index with
    | some a => [(a, 4 * n)]
    | none => []
  match p.kind with
  | .s2g => p.rows.map fun e => (e.2.1, p.len)
  | .s2s => p.rows.map fun e => (e.2.1, p.len)
  | .sct => list ++ p.rows.map fun e => (e.2.1, p.len)
  | .gth => list
  | _ => []

def CopyPlan.scratchWrites (p : CopyPlan) : List (Nat × Nat) :=
  match p.kind with
  | .g2s => p.rows.map fun e => (e.2.1, p.len)
  | .gth => p.rows.map fun e => (e.2.1, p.len)
  | .fill _ => p.rows.map fun e => (e.2.1, p.len)
  | .s2s => p.rows.map fun e => (e.2.2, p.len)
  | _ => []

def CopyPlan.writesGlobal (p : CopyPlan) : Bool :=
  match p.kind with
  | .s2g => true
  | .sct => true
  | _ => false

def CopyPlan.global (p : CopyPlan) : Bool :=
  match p.kind with
  | .g2s => true
  | .gth => true
  | _ => p.writesGlobal

/-- A copy word (R214 to R217): the checks of R216 over all rows, then the operation enters its queue.  An index word that holds
the poison codeword counts as its stored bytes (DESIGN CHOICE, log 74). -/
def copyWord (op : Nat) (q : BitVec 2) (b n : BitVec 6) (s : State) (v : View) : Effect :=
  let r := fun i => v.s (b.toNat + i) 0
  let count := n.toNat + 1
  if copyReserved op r then Effect.plain 0x01
  else
    match s.copySides v op r with
    | .error e => e
    | .ok (src, dst) =>
      let p := copyPlan op r count
      match p.aligned.find? fun e => e.1 % 4 != 0 with
      | some (_, some a) => .trap 0x07 (BitVec.ofNat 64 a) 0
      | some (_, none) => .trap 0x07 ((Config.freeWord v.key).setWidth 64) 0
      | none =>
        match (p.scratchReads count ++ p.scratchWrites).find? fun e => decide (v.team.scrb < e.1 + e.2) with
        | some e => .trap 0x08 (BitVec.ofNat 64 e.1) 0
        | none =>
          match s.copyShadow v src.1 src.2 false false (p.scratchReads count) with
          | .error e => e
          | .ok s =>
            match s.copyShadow v dst.1 dst.2 true (op == 2) p.scratchWrites with
            | .error e => e
            | .ok s =>
              let xs := match p.index, s.cohort v.core v.team.cohort with
                | some a, some h => (List.range count).map fun j => (h.word (a + 4 * j)).toNat
                | _, _ => []
              let base := ((r 1).append (r 0)).toNat
              let va := fun (i : Nat) (row : Nat × Nat × Nat) =>
                if p.index.isSome then (base + xs.getD i 0 * p.len) % 2 ^ 64 else row.1
              let pieces := if p.global then p.rows.zipIdx.flatMap fun e => (linesOf (va e.2 e.1) p.len).map fun k => (e.2, k.1, k.2) else []
              let met := ((s.launch v.team.ctx v.team.launch).map (·.rcd.metered)).getD false
              let i : Intent := if p.writesGlobal then Intent.store else { Intent.load with metered := met }
              let addrs := pieces.zipIdx.map fun (e : (Nat × Nat × Nat) × Nat) => (e.2, e.1.2.1)
              match s.lookAll v i 1 addrs with
              | .error e => e
              | .ok accs =>
                let accs := (accs.zip pieces).map fun e => ({ e.1 with size := e.2.2.2 } : Access)
                match (if p.writesGlobal then s.charge v accs addrs else .ok (s, [])) with
                | .error e => e
                | .ok (s, blocks) =>
                  let rows := p.rows.zipIdx.map fun e => (⟨((accs.zip pieces).filter fun a => a.2.1 == e.2).map (·.1), e.1.2.1, e.1.2.2, p.len⟩ : CopyRow)
                  let id := (s.core v.core).nextOp
                  let s := (s.cacheAll (dieOf v.core) v.team.ctx addrs).addOp v 3 (.copy q.toNat p.kind src dst rows) blocks
                  .done (s.noteCommand v id)

/-! ### Execution (R214, R218 to R220, R247) -/

/-- The oldest operation of a copy queue of a core. -/
def State.copyHead (s : State) (c queue : Nat) : Option (Nat × Op) :=
  (s.coreOps c).find? fun e => match e.2.kind with
    | .copy q _ _ _ _ => q == queue && !e.2.done
    | _ => false

/-- CPY_G2S (R215). -/
def execCpyG2s (c : BitVec 1) (w : BitVec 2) (q : BitVec 2) (b : BitVec 6) (n : BitVec 6) (s : State) : Result :=
  issueWord (.cpyG2s c w q b n) (copyWord 0 q b n) s

/-- CPY_S2G (R215). -/
def execCpyS2g (c : BitVec 1) (w : BitVec 2) (q : BitVec 2) (b : BitVec 6) (n : BitVec 6) (s : State) : Result :=
  issueWord (.cpyS2g c w q b n) (copyWord 1 q b n) s

/-- CPY_S2S (R215). -/
def execCpyS2s (c : BitVec 1) (w : BitVec 2) (q : BitVec 2) (b : BitVec 6) (n : BitVec 6) (s : State) : Result :=
  issueWord (.cpyS2s c w q b n) (copyWord 2 q b n) s

/-- CPY_GTH (R215). -/
def execCpyGth (c : BitVec 1) (w : BitVec 2) (q : BitVec 2) (b : BitVec 6) (n : BitVec 6) (s : State) : Result :=
  issueWord (.cpyGth c w q b n) (copyWord 3 q b n) s

/-- CPY_SCT (R215). -/
def execCpySct (c : BitVec 1) (w : BitVec 2) (q : BitVec 2) (b : BitVec 6) (n : BitVec 6) (s : State) : Result :=
  issueWord (.cpySct c w q b n) (copyWord 4 q b n) s

/-- CPY_FILL (R215). -/
def execCpyFill (c : BitVec 1) (w : BitVec 2) (q : BitVec 2) (b : BitVec 6) (n : BitVec 6) (s : State) : Result :=
  issueWord (.cpyFill c w q b n) (copyWord 5 q b n) s

/-! ### Events -/

/-- Writes that a release places before an operation's accesses are performed first (R247), and circling packets that keep its own
out are ejected (R273). -/
def State.copyReady (s : State) (c : Nat) (o : Op) (rows : List CopyRow) : State :=
  let runs := rows.flatMap fun r => r.global.map fun a => (a.loc.lineKey, 1)
  let before := ((s.coreOps c).filter fun e => decide (e.2.id < o.id) && e.2.released).reverse
  ((sharing before runs).map (·.2.id)).foldl (State.performId · c) (s.makeWay c (((sharing before runs).map (·.2)) ++ [o]))

/-- Pages of a copy that have left HBM since it was issued: its accesses wait for their migrations (R191; log 46). -/
def State.copyAway (s : State) (rows : List CopyRow) : List Nat :=
  ((rows.flatMap (·.global)).filterMap fun a => match a.loc with
    | .dev da _ _ _ => if s.pageAway (pageOf da) then some (pageOf da) else none
    | .host _ => none).eraseDups

/-- What precedes an operation's writes to global memory: the other die's loads in flight, pages that other teams surrender, and
spill rings (R43, R187, R269). -/
def State.copyServe (s : State) (uid : Nat) (kind : CopyKind) (rows : List CopyRow) : State :=
  if kind.global then
    ((s.noteRing (globalRuns rows)).serveLines ((globalRuns rows).map (·.1.lineKey))).noteTorn uid ((globalRuns rows).map (·.1))
  else s

/-- COPY_OPERATION_COMPLETE: the oldest operation of a queue takes effect, as far as it has not yet, and its counter falls
(R214, R218). -/
def execCopyOperationComplete (core queue : Nat) (s : State) : Result :=
  match s.copyHead core queue with
  | none => .fault .noSuchPlace
  | some (uid, o) =>
    match o.kind, s.teamUid core uid with
    | .copy _ kind src dst rows, some t =>
      let away := s.copyAway rows
      if !away.isEmpty then .next (away.foldl (fun s pg => s.beginMigration t.ctx pg) s)
      else
        let s := (s.copyReady core o rows).copyServe uid kind rows
        let o := s.opNow core o
        let dirty := s.blockDirty
        let s' := if kind.global then (rows.flatMap (·.global)).foldl (fun s a => s.touchLoc t.ctx a.loc) s else s
        let s := o.charged.foldl (fun s b => s.answer core t.ctx o.id b (dirty b) false) (s'.copyRows core o kind src dst rows)
        let s := if kind.global then o.junk.foldl State.tear (s.tearTrace (dieOf core) t.ctx (globalRuns rows)) else s
        .next ((s.putOp core uid { o with done := true, charged := [] }).used)
    | _, _ => .fault .noSuchPlace

/-- A part of the oldest copy of a queue: one word of it read, and with `put` written (R218); a newly dirty block takes its headroom
from the charge at the first of its writes (R176). -/
def State.copyPart (s : State) (c id key : Nat) (put : Bool) : State :=
  match s.opAt c id with
  | none => s
  | some (t, o) =>
    match o.kind with
    | .copy queue kind src dst rows =>
      if (s.copyHead c queue).map (·.2.id) ≠ some id then s
      else if !(s.copyAway rows).isEmpty then (s.copyAway rows).foldl (fun s pg => s.beginMigration t.ctx pg) s
      else
        let i := key % max 1 rows.length
        let j := key / max 1 rows.length % max 1 ((rows.head?.map (·.len / 4)).getD 1)
        let s := s.copyReady c o rows
        let s := if put then s.copyServe t.uid kind rows else s
        let o := s.opNow c o
        let dirty := s.blockDirty
        let runs := if put && kind.global then ((rows[i]?.bind (·.globalWord j)).map fun l => (l, 4)).toList else []
        let r := (runs.foldl (fun s l => s.touchLoc t.ctx l.1) s).copyWordPart c o kind src dst rows i j put
        let b := (runs.map fun l => l.1.block.1).filter fun b => o.charged.contains b && !dirty b && r.2.blockDirty b
        let s := b.foldl (fun s b => s.answer c t.ctx o.id b (dirty b) true) r.2
        ((if r.1.put = o.put then s else s.tearTrace (dieOf c) t.ctx runs).putOp c t.uid r.1).used
    | _ => s

end Sys2Proof.Machine
end

