-- ==== Sys2Proof/Machine/Collective.lean ====
section
/-!
DEFINITION. Collectives (R222 to R229): groups, their words and their completion.
-/

namespace Sys2Proof.Machine

/-! ### Groups (R222, R223) -/

/-- The cores of one die that a declaration names, in rank order; none where a rectangle leaves its array or
excludes the issuing core. -/
def groupCores (core die : Nat) (w : Nat) : Option (List Nat) :=
  let signed := fun (n hi lo : Nat) => (BitVec.ofNat n (bits w hi lo)).toInt
  let x0 : Int := coreX core + signed 5 4 0
  let y0 : Int := coreY core + signed 4 8 5
  let wide : Int := bits w 12 9 + 1
  let high : Int := bits w 15 13 + 1
  let kx0 : Int := clusterX core + signed 3 18 16
  let ky0 : Int := clusterY core + signed 3 21 19
  let kw : Int := bits w 23 22 + 1
  let kh : Int := bits w 25 24 + 1
  let holds := fun (a n p : Int) => decide (a ≤ p) && decide (p < a + n)
  if x0 < 0 ∨ y0 < 0 ∨ 12 < x0 + wide ∨ 8 < y0 + high ∨ kx0 < 0 ∨ ky0 < 0 ∨ 4 < kx0 + kw ∨ 3 < ky0 + kh then none
  else if !(holds x0 wide (coreX core) && holds y0 high (coreY core) && holds kx0 kw (clusterX core) && holds ky0 kh (clusterY core)) then none
  else some ((List.range 1152).filterMap fun i =>
    let c := 1152 * die + i
    if holds x0 wide (coreX c) && holds y0 high (coreY c) && holds kx0 kw (clusterX c) && holds ky0 kh (clusterY c) then some c else none)

/-- A reserved value in a declaration (R223, order 1). -/
def groupReserved (w0 w1 : Nat) : Bool :=
  bits w0 31 27 != 0 || bits w1 31 7 != 0 || bits w0 25 24 == 3 || decide (64 < bits w1 6 0)

/-- The device list read at L2, byte by byte (R223, order 4): after the core's earlier accesses to its lines (R240), one request
for each line (R268). -/
def State.deviceList (s : State) (v : View) (va n : Nat) : Except Effect (List Nat × State) :=
  let addrs := (List.range n).map fun i => (i, (va + i) % 2 ^ 64)
  match s.lookAll v Intent.other 1 addrs with
  | .error e => .error e
  | .ok accs =>
    let d := dieOf v.core
    let lines := (accs.map fun a => a.loc.line).eraseDups
    let s := ((s.cacheAll d v.team.ctx addrs).performEarlier v.core (s.core v.core).nextOp (lines.map fun l => (l.lineKey, 1))).clearWay v.core lines
    let s := lines.foldl (fun (s : State) l => s.readAt d l) s
    .ok (accs.map fun a => leNat (s.readLoc d a.loc 1), s)

/-- No port carries traffic to a device (R361). -/
def State.routeEmpty (s : State) (d : Nat) : Bool := ((Table.get s.pf.stRoute d).getD 0) == 0

/-- CGRP (R223). -/
def cgrpWord (b : BitVec 6) (g : BitVec 2) (s : State) (v : View) : Effect :=
  let b := b.toNat
  let w0 := (v.s b 0).toNat
  let w1 := (v.s (b + 1) 0).toNat
  let n := bits w1 6 0
  if groupReserved w0 w1 then Effect.plain 0x01
  else
    let dies := if bit w0 26 then [0, 1] else [dieOf v.core]
    match groupCores v.core (dieOf v.core) w0 with
    | none => .trap 0x09 0 (BitVec.ofNat 32 (bits w0 8 0))
    | some _ =>
      let cores := dies.flatMap fun d => (groupCores v.core d w0).getD []
      match (if n = 0 then .ok ([s.device], s) else s.deviceList v (v.sPair (b + 2) 0).toNat n) with
      | .error e => e
      | .ok (devs, s) =>
        if devs.eraseDups.length ≠ devs.length || devs.any (fun d => decide (64 ≤ d)) || !devs.contains s.device then Effect.plain 0x01
        else if n != 0 && devs.any s.routeEmpty then Effect.plain 0x01
        else
          let members := devs.flatMap fun d => cores.map fun c => (d, c)
          let rank := members.idxOf (s.device, v.core)
          let old := v.team.groups.getD g.toNat ⟨[], 0, [], false, 0⟩
          let made : Group := ⟨[v.s b 0, v.s (b + 1) 0, v.s (b + 2) 0, v.s (b + 3) 0], rank, members, true, old.issued⟩
          let s := s.modTeam v fun t => { t with groups := t.groups.set g.toNat made }
          .done ((s.setS v (b + 4) (BitVec.ofNat 32 rank) 1).setS v (b + 5) (BitVec.ofNat 32 members.length) 1)

/-! ### Issue (R224, R225, R228) -/

/-- Units a member gives and receives, in words of a unit (R225): source units, destination units, unit words. -/
def ColTerms.shape (t : ColTerms) : Nat × Nat × Nat :=
  let p := t.members.length
  let u := if t.red = 3 then t.dim + 2 else 1
  match t.op with
  | 1 => (t.count, p * t.count, u)
  | 2 => (p * t.count, t.count, u)
  | 3 => (t.count, t.count, u)
  | 4 => (p * t.count, p * t.count, u)
  | _ => (0, 0, 1)

/-- A collective on a declared group enters the team's list with its sequence number (R224). -/
def State.postCol (s : State) (v : View) (g : Nat) (k : Group) (terms : ColTerms) (src dst : Nat) : Effect :=
  let id := (s.core v.core).nextOp
  let s := s.addOp v 5 (.col g k.issued terms k.rank src dst v.team.cohort) []
  let s := s.modTeam v fun t => { t with
    groups := t.groups.set g { k with issued := k.issued + 1 }, colHistory := (g, k.issued, terms) :: t.colHistory }
  .done (s.noteCommand v id)

/-- CAG, CRS, CAR and CA2A (R225).  CAG and CA2A ignore the reduce operation and d; bits [7:4] of s(SB+3), which the operand
block does not name, are ignored by all four (DESIGN CHOICE, log 73). -/
def colWord (op : Nat) (b : BitVec 6) (g : BitVec 2) (s : State) (v : View) : Effect :=
  let k := v.team.groups.getD g.toNat ⟨[], 0, [], false, 0⟩
  let w := fun i => (v.s (b.toNat + i) 0).toNat
  let red := bits (w 3) 3 0
  let folds := op == 2 || op == 3
  if !k.declared || decide (4 ≤ red) || bits (w 3) 31 16 != 0 || (folds && red != 3 && bits (w 3) 15 8 != 0) || w 2 == 0 || decide (65536 < w 2) then
    Effect.plain 0x01
  else
    let terms : ColTerms := ⟨op, if folds then red else 0, if folds && red == 3 then bits (w 3) 15 8 + 1 else 0, w 2, k.members⟩
    let shape := terms.shape
    match [w 0, w 1].find? fun a => a % 4 != 0 with
    | some a => .trap 0x07 (BitVec.ofNat 64 a) 0
    | none =>
      match [(w 0, 4 * shape.1 * shape.2.2), (w 1, 4 * shape.2.1 * shape.2.2)].find? fun r => decide (v.team.scrb < r.1 + r.2) with
      | some r => .trap 0x08 (BitVec.ofNat 64 r.1) 0
      | none => s.postCol v g.toNat k terms (w 0) (w 1)

/-- CBAR: a release at the group's scope (R228). -/
def cbarWord (g : BitVec 2) (s : State) (v : View) : Effect :=
  let k := v.team.groups.getD g.toNat ⟨[], 0, [], false, 0⟩
  if !k.declared then Effect.plain 0x01
  else (s.modTeam v Team.markReleased).postCol v g.toNat k ⟨5, 0, 0, 0, k.members⟩ 0 0

/-! ### Completion (R224 to R228) -/

/-- Units of a source: their words and whether one holds the poison codeword. -/
def Cohort.units (h : Cohort) (a n u : Nat) : List (List Nat × Bool) :=
  (List.range n).map fun i =>
    ((List.range u).map fun j => (h.word (a + 4 * (i * u + j))).toNat, h.poisoned (a + 4 * i * u) (4 * u))

/-- The units of a remote member's words. -/
def remoteUnits (ws : List Word) (n u : Nat) : List (List Nat × Bool) :=
  (List.range n).map fun i => ((List.range u).map fun j => (wordAt ws (i * u + j)).toNat, false)

/-- ⊕ of R226 on one unit. -/
def foldUnit (red : Nat) (x y : List Nat) : List Nat :=
  match red with
  | 0 => List.zipWith (fun a b => (fadd .fp32 .nearest a b).1) x y
  | 1 => List.zipWith (fun a b => (packed (fun p q => fadd .bf16 .nearest p q) (BitVec.ofNat 32 a) (BitVec.ofNat 32 b)).1.toNat) x y
  | 2 => List.zipWith (fun a b => (fminmax .fp32 .nearest true a b).1) x y
  | _ => quireMerge x y

/-- The fold over ranks, left to right (R226). -/
def foldUnits (red : Nat) : List (List Nat × Bool) → List Nat × Bool
  | [] => ([], false)
  | x :: rest => rest.foldl (fun a b => (foldUnit red a.1 b.1, a.2 || b.2)) x

/-- The destination of member r from every member's source, in rank order (R225). -/
def ColTerms.result (t : ColTerms) (srcs : List (List (List Nat × Bool))) (r : Nat) : List (List Nat × Bool) :=
  let w := t.count
  let unit := fun (m u : Nat) => ((srcs.getD m []).getD u ([], false))
  match t.op with
  | 1 => (List.range (srcs.length * w)).map fun u => unit (u / w) (u % w)
  | 2 => (List.range w).map fun u => foldUnits t.red (srcs.map fun s => s.getD (r * w + u) ([], false))
  | 3 => (List.range w).map fun u => foldUnits t.red (srcs.map fun s => s.getD u ([], false))
  | 4 => (List.range (srcs.length * w)).map fun u => unit (u / w) (r * w + u % w)
  | _ => []

/-- The member team on a core: same launch and TEAMIDX, the oldest (R223). -/
def State.memberTeam (s : State) (x launch idx c : Nat) : Option Team :=
  (((s.core c).teams ++ (s.core c).evicted).map (·.2)).foldl (fun (m : Option Team) t =>
    if t.ctx = x ∧ t.launch = launch ∧ t.teamIdx = idx then
      match m with
      | none => some t
      | some u => if t.age < u.age then some t else m
    else m) none

/-- What a team has issued as its collective of a sequence number on a group. -/
def Team.colTerms (t : Team) (g seq : Nat) : Option ColTerms :=
  (t.colHistory.find? fun h => h.1 == g && h.2.1 == seq).map (·.2.2)

def Op.isCol (o : Op) : Bool :=
  match o.kind with
  | .col _ _ _ _ _ _ _ => true
  | _ => false

/-- The outstanding operation of a team with a sequence number on a group. -/
def Team.colOp (t : Team) (g seq : Nat) : Option Op :=
  t.ops.find? fun o => match o.kind with
    | .col g' n _ _ _ _ _ => g' == g && n == seq && !o.done
    | _ => false

/-- What a member whose team is in an image has issued and completed: an operation that was saved waiting takes part again once its
team is restored (R229). -/
def State.savedCol (s : State) (x launch idx c g seq : Nat) : Option ColTerms :=
  ((s.ctx x).saved.filter fun e => e.core == c).findSome? fun e => ((e.teams ++ e.evicted).map (·.2)).findSome? fun u =>
    if u.launch = launch ∧ u.teamIdx = idx ∧ (u.colOp g seq).isNone then u.colTerms g seq else none

/-- What a member has issued as its collective of a sequence number on a group. -/
inductive Posted where
  | absent
  | here (core : Nat) (team : Team) (terms : ColTerms)
  /-- By a team that has exited since, or that an image holds. -/
  | gone (terms : ColTerms)
  | far (words : List Word)

/-- Teams of a launch with an index, and their cores, the evicted and saved ones too. -/
def State.mates (s : State) (x launch idx : Nat) : List (Nat × Team) :=
  (s.allTeams ++ (s.ctx x).saved.flatMap fun e => (e.teams ++ e.evicted).map fun t => (e.core, t.2)).filter fun e =>
    e.2.ctx == x && e.2.launch == launch && e.2.teamIdx == idx

/-- What a team that exits leaves of its collectives: each for the teams that have issued the matching operation, and those that its
declaration does not name, whose operation meets it by a mismatch; for a later team of another member it is gone (R224). -/
def State.leftBehind (s : State) (c : Nat) (t : Team) : List LeftCol :=
  (t.colHistory.filter fun h => decide (1 < h.2.2.members.length)).map fun h =>
    ⟨c, t.teamIdx, h.1, h.2.1, ((s.mates t.ctx t.launch t.teamIdx).filter fun e =>
      (e.2.colTerms h.1 h.2.1).isSome || !(h.2.2.members.any fun m => m.1 == s.device && m.2 == e.1)).map (·.2.uid), h.2.2⟩

/-- Each member's i-th operation: this device's from its team, another's from what Stitch has delivered. -/
def State.posted (s : State) (c : Nat) (t : Team) (g seq : Nat) (terms : ColTerms) (remote : List (Nat × List Word)) : List Posted :=
  let of := fun (k : Nat) (u : Team) => match u.colTerms g seq with
    | some h => Posted.here k u h
    | none => .absent
  let left := ((s.launch t.ctx t.launch).map (·.gone)).getD []
  terms.members.zipIdx.map fun e =>
    if e.1.1 ≠ s.device then
      match remote.find? fun r => r.1 == e.2 with
      | some r => .far r.2
      | none => .absent
    else if e.1.2 = c then of c t
    else
      match left.find? fun q => q.core == e.1.2 && q.idx == t.teamIdx && q.group == g && q.seq == seq && q.peers.contains t.uid with
      | some q => .gone q.terms
      | none =>
        match s.memberTeam t.ctx t.launch t.teamIdx e.1.2 with
        | some u => of e.1.2 u
        | none => match s.savedCol t.ctx t.launch t.teamIdx e.1.2 g seq with
          | some h => .gone h
          | none => .absent

/-- The record of a completion or mismatch (R294), and the counter falls. -/
def State.finishCol (s : State) (c uid : Nat) (o : Op) (bad : Bool) : State :=
  match s.teamUid c uid, o.kind with
  | some t, .col g seq terms _ _ _ _ =>
    let slot := (((s.core c).teams.find? fun e => e.2.uid == uid).map (·.1)).getD 0
    let s := s.trace t.ctx 9 (coreSrc c) slot o.word o.path o.pc
      (terms.op + g * 16 + bad.toNat * 64 + seq % 2 ^ 32 * 2 ^ 32 + t.launch * 2 ^ 96)
    let s := s.setUid c { t with
      mismatches := if bad then t.mismatches ++ [seq] else t.mismatches
      cbars := if terms.op = 5 && !bad then t.cbars + 1 else t.cbars }
    s.putOp c uid { o with done := true }
  | _, _ => s

/-- A destination written unit by unit, but for the words that `skip` names. -/
def State.putUnits (s : State) (c region dst : Nat) (us : List (List Nat × Bool)) (skip : List Nat) : State :=
  let bytes := us.flatMap fun e => e.1.flatMap (leBytes 4)
  let bad := (us.foldl (fun (r : Nat × List Nat) e =>
    (r.1 + e.1.length, if e.2 then (List.range e.1.length).map (r.1 + ·) ++ r.2 else r.2)) (0, [])).2
  s.putRow (c, region) dst bytes bad skip

/-- A destination of undefined contents (R6, R224, R225). -/
def State.freeUnits (s : State) (c region dst n : Nat) : State :=
  let s' := s.scratchWrite c region dst ((List.range (4 * n)).map fun i => (Config.freeWord (s.fresh * 2 ^ 20 + i)).setWidth 8)
  { s' with fresh := s.fresh + 1 + 4 * n / 2 ^ 20 }

/-- One member's part of a completed collective. -/
def State.finishMember (s : State) (c uid g seq : Nat) (srcs : List (List (List Nat × Bool))) : State :=
  match s.teamUid c uid with
  | none => s
  | some t =>
    match t.colOp g seq with
    | none => s
    | some o =>
      match o.kind with
      | .col _ _ terms rank src dst region =>
        let sh := terms.shape
        let n := 4 * sh.1 * sh.2.2
        let m := 4 * sh.2.1 * sh.2.2
        let s := if decide (src < dst + m) && decide (dst < src + n) && terms.op != 5 then s.freeUnits c region dst (m / 4)
          else if terms.op = 5 then s
          else s.putUnits c region dst (terms.result srcs rank) o.put
        s.finishCol c uid o false
      | _ => s

/-- A region as a collective sees its source: the words that it has read before now in their places (R227). -/
def Cohort.sourceSeen (h : Cohort) (src : Nat) (got : List (Nat × List Byte × Bool)) : Cohort :=
  got.foldl (fun (h : Cohort) e =>
    let a := src + 4 * e.1
    let h := { h with bytes := e.2.1.zipIdx.foldl (fun m b => Table.put m (a + b.2) b.1) h.bytes, poison := h.poison.filter (· != a) }
    if e.2.2 then h.setPoison a else h) h

/-- The source of one member. -/
def State.sourceOf (s : State) (g seq : Nat) (terms : ColTerms) : Posted → List (List Nat × Bool)
  | .absent => []
  | .gone _ => []
  | .far ws => remoteUnits ws terms.shape.1 terms.shape.2.2
  | .here c t _ => match t.colOp g seq with
    | some o => match o.kind with
      | .col _ _ _ _ src _ region => match s.cohort c region with
        | some h => (h.sourceSeen src o.got).units src terms.shape.1 terms.shape.2.2
        | none => []
      | _ => []
    | none => []

/-- CGRP (R223). -/
def execCgrp (c : BitVec 1) (w : BitVec 2) (b : BitVec 6) (g : BitVec 2) (s : State) : Result :=
  issueWord (.cgrp c w b g) (cgrpWord b g) s

/-- CAG (R225). -/
def execCag (c : BitVec 1) (w : BitVec 2) (b : BitVec 6) (g : BitVec 2) (s : State) : Result :=
  issueWord (.cag c w b g) (colWord 1 b g) s

/-- CRS (R225). -/
def execCrs (c : BitVec 1) (w : BitVec 2) (b : BitVec 6) (g : BitVec 2) (s : State) : Result :=
  issueWord (.crs c w b g) (colWord 2 b g) s

/-- CAR (R225). -/
def execCar (c : BitVec 1) (w : BitVec 2) (b : BitVec 6) (g : BitVec 2) (s : State) : Result :=
  issueWord (.car c w b g) (colWord 3 b g) s

/-- CA2A (R225). -/
def execCa2a (c : BitVec 1) (w : BitVec 2) (b : BitVec 6) (g : BitVec 2) (s : State) : Result :=
  issueWord (.ca2a c w b g) (colWord 4 b g) s

/-- CBAR (R228). -/
def execCbar (c : BitVec 1) (w : BitVec 2) (g : BitVec 2) (s : State) : Result :=
  issueWord (.cbar c w g) (cbarWord g) s

/-! ### Events -/

/-- An earlier collective of the team is still outstanding: those of one queue follow one another (R247). -/
def Team.colWaits (t : Team) (o : Op) : Bool :=
  t.ops.any fun q => match q.kind with
    | .col _ _ _ _ _ _ _ => decide (q.id < o.id) && !q.done
    | _ => false

/-- The members that are to take part in a completion have no earlier collective outstanding. -/
def colTurn (ps : List Posted) (g seq : Nat) : Bool :=
  ps.all fun p => match p with
    | .here _ u _ => match u.colOp g seq with
      | some q => !u.colWaits q
      | none => true
    | _ => true

/-- A collective cannot complete yet: a member on this device has not issued it, or it follows one, of its own team or of a member, that
cannot (R229, R247). -/
def State.colStuck (s : State) : Nat → Nat → Team → Op → Bool
  | 0, _, _, _ => true
  | n + 1, c, t, o => match o.kind with
    | .col g seq terms _ _ _ _ => (s.posted c t g seq terms []).any fun p => match p with
      | .absent => true
      | .here k u _ => match u.colOp g seq with
        | some q => u.ops.any fun e => e.isCol && !e.done && decide (e.id < q.id) && s.colStuck n k u e
        | none => false
      | _ => false
    | _ => false

/-- Collectives outstanding on the device. -/
def State.colCount (s : State) : Nat := (s.allTeams.flatMap fun e => e.2.ops.filter Op.isCol).length

/-- What one member's operation comes to once every member has issued its own: all agree or not (R224). -/
def colAgree (terms : ColTerms) (ps : List Posted) : Bool :=
  ps.all fun p => match p with
    | .absent => false
    | .far ws => ws.length == terms.shape.1 * terms.shape.2.2
    | .here _ _ other => other == terms
    | .gone other => other == terms

def Posted.missing : Posted → Bool
  | .absent => true
  | _ => false

/-- Circling packets that keep out those of the members' operations are ejected before them (R273). -/
def State.colWay (s : State) (g seq : Nat) (ps : List Posted) : State :=
  ps.foldl (fun (s : State) p => match p with
    | .here c u _ => match u.colOp g seq with
      | some q => s.makeWay c [q]
      | none => s
    | _ => s) s

/-- COLLECTIVE_COMPLETE: an operation whose members have all issued theirs completes, with all that agree with it, or
with the mismatch fate (R224).  `remote` holds the source words of members on other devices, by rank. -/
def execCollectiveComplete (core op : Nat) (remote : List (Nat × List (BitVec 32))) (s : State) : Result :=
  match s.opAt core op with
  | none => .fault .noSuchPlace
  | some (t, o) =>
    match o.kind with
    | .col g seq terms _ _ dst region =>
      let ps := s.posted core t g seq terms remote
      if o.done || t.colWaits o || ps.any Posted.missing then .next s
      else
        let sh := terms.shape
        if !colAgree terms ps then
          .next (((if terms.op = 5 then s else s.freeUnits core region dst (sh.2.1 * sh.2.2))).finishCol core t.uid o true)
        else if !colTurn ps g seq then .next s
        else
          let s := s.colWay g seq ps
          let ps := s.posted core t g seq terms remote
          let srcs := ps.map (s.sourceOf g seq terms)
          .next (ps.foldl (fun (s : State) p => match p with
            | .here c u _ => s.finishMember c u.uid g seq srcs
            | _ => s) s)
    | _ => .fault .noSuchPlace

/-- A word of a collective's source, read now (R227). -/
def State.colRead (s : State) (c uid : Nat) (o : Op) (which : List Nat) : State :=
  match o.kind with
  | .col _ _ _ _ src _ region =>
    match s.cohort c region with
    | none => s
    | some h =>
      let now := (which.filter fun w => !(o.got.any (·.1 == w))).map fun w => (w, h.read (src + 4 * w) 4, h.poisoned (src + 4 * w) 4)
      s.putOp c uid { o with got := now ++ o.got }
  | _ => s

/-- A part of a collective: a word of the member's source read; with `put`, once every member of this device has issued its
own and they agree, a word of its destination written, from sources that have all been read by then (R227). -/
def State.colPart (s : State) (c id key : Nat) (put : Bool) : State :=
  match s.opAt c id with
  | none => s
  | some (t, o) =>
    match o.kind with
    | .col g seq terms rank src dst region =>
      let sh := terms.shape
      let n := sh.1 * sh.2.2
      let m := sh.2.1 * sh.2.2
      if terms.op = 5 ∨ o.done ∨ n = 0 then s
      else if t.colWaits o then s
      else if !put then (s.colRead c t.uid o [key % n]).used
      else
        let ps := s.posted c t g seq terms []
        let overlap := decide (src < dst + 4 * m) && decide (dst < src + 4 * n)
        if ps.any Posted.missing || !colAgree terms ps || !colTurn ps g seq || overlap then s
        else
          let s := s.colWay g seq ps
          let ps := s.posted c t g seq terms []
          let s := ps.foldl (fun (s : State) p => match p with
            | .here c' u _ => match u.colOp g seq with
              | some q => s.colRead c' u.uid q (List.range n)
              | none => s
            | _ => s) s
          let ps := s.posted c t g seq terms []
          let w := key % m
          match s.opAt c id with
          | none => s
          | some (t, o) =>
            if o.put.contains w then s
            else
              let us := terms.result (ps.map (s.sourceOf g seq terms)) rank
              ((s.putUnits c region dst us ((List.range m).filter (· != w))).putOp c t.uid { o with put := w :: o.put }).used
    | _ => s

end Sys2Proof.Machine
end

