-- ==== Sys2Proof/Machine/Formats.lean ====
section
/-!
DEFINITION. The element and block formats of the matrix engine and its exact sums (R79 to R84, R90 to R92).
-/

namespace Sys2Proof.Machine

/-! ### Element formats of format blocks (R79 to R84, R91, R197) -/

/-- Bits of an element (R91). -/
def elementBits (fmt : Nat) : Nat :=
  match fmt with
  | 0 => 32 | 1 => 16 | 2 => 16 | 3 => 8 | 4 => 8 | 5 => 6 | 6 => 6 | 7 => 4 | 8 => 8 | 9 => 4 | 10 => 8 | 11 => 8 | _ => 4

/-- A format legal as A or B with a block-length code (R197). -/
def inputLegal (fmt len : Nat) : Bool :=
  match fmt with
  | 1 => len == 0 | 2 => len == 0 | 8 => len == 0 | 9 => len == 0 | 11 => len == 0 | 12 => len == 0
  | 3 => decide (len ≤ 4) | 4 => decide (len ≤ 4) | 5 => decide (len ≤ 4) | 6 => decide (len ≤ 4) | 7 => decide (len ≤ 4)
  | 10 => decide (1 ≤ len) && decide (len ≤ 4)
  | _ => false

/-- A format legal as output (R197). -/
def outputLegal (fmt len : Nat) : Bool :=
  match fmt with
  | 0 => len == 0
  | 8 => false
  | 9 => false
  | _ => inputLegal fmt len

/-- Elements per scale of a block-length code (R91). -/
def blockLen (len : Nat) : Nat := 2 * 2 ^ len

/-- Depth Kt of a plane (R197). -/
def planeDepth (fmt : Nat) : Nat :=
  match fmt with
  | 1 => 32 | 2 => 32 | 7 => 128 | 9 => 128 | 12 => 128 | _ => 64

/-- Bytes of a run of `k` elements (R81, R83, R199). -/
def runBytes (fmt k : Nat) : Nat :=
  match fmt with
  | 11 => k / 32 * 34
  | 12 => k / 32 * 18
  | _ => k * elementBits fmt / 8

/-- The bit of a run at which element `k` begins. -/
def elementBit (fmt k : Nat) : Nat :=
  match fmt with
  | 11 => 8 * (34 * (k / 32) + 2 + k % 32)
  | 12 => 8 * (18 * (k / 32) + 2) + 4 * (k % 32)
  | _ => k * elementBits fmt

/-- The first byte of the DXB block that holds element `k` (R83). -/
def dxbBase (fmt k : Nat) : Nat := if fmt = 11 then 34 * (k / 32) else 18 * (k / 32)

/-- A scale as a value: 2^(E − 127), a NaN for 0xFF (R80); 256 stands for a scale used as +0 (R211). -/
def scaleValue (x : Nat) : FVal := if x = 256 then .fin false 0 0 else if x = 255 then .nan 0 else .fin false 1 ((x : Int) - 127)

def intValue (width code : Nat) : FVal :=
  if bit code (width - 1) then .fin true (2 ^ width - code) 0 else .fin false code 0

/-- A DXB element with its block's exponent bytes (R83). -/
def dxbValue (width code lo hi : Nat) : FVal :=
  if lo = 255 ∨ hi = 255 then .nan 0
  else if lo = 256 ∨ hi = 256 then .fin false 0 0
  else
    let e := if bit code (width - 2) then hi else lo
    .fin (bit code (width - 1)) (code % 2 ^ (width - 2)) ((e : Int) - if width = 8 then 132 else 128)

/-- An element's value before its block scale. -/
def elementValue (fmt code lo hi : Nat) : FVal :=
  match fmt with
  | 1 => Fmt.bf16.value code
  | 2 => Fmt.fp16.value code
  | 3 => valueE4m3 code
  | 4 => Fmt.e5m2.value code
  | 5 => Fmt.e3m2.finite code
  | 6 => Fmt.e2m3.finite code
  | 7 => Fmt.e2m1.finite code
  | 8 => intValue 8 code
  | 9 => intValue 4 code
  | 10 => match intValue 8 code with
    | .fin n m _ => .fin n m (-6)
    | x => x
  | 11 => dxbValue 8 code lo hi
  | _ => dxbValue 4 code lo hi

/-- An exact product (R92). -/
def FVal.times (a b : FVal) : FVal :=
  match a, b with
  | .nan p, _ => .nan p
  | _, .nan p => .nan p
  | .inf n, .inf m => .inf (n != m)
  | .inf n, .fin m k _ => if k = 0 then .nan 0 else .inf (n != m)
  | .fin n k _, .inf m => if k = 0 then .nan 0 else .inf (n != m)
  | .fin n k e, .fin m j f => .fin (n != m) (k * j) (e + f)

def FVal.isNan' : FVal → Bool
  | .nan _ => true
  | _ => false

/-- RN of an exact sum of an accumulator and products: the default NaN, an infinity, the sign of a zero sum (R92). -/
def sumRound (acc : FVal) (ps : List FVal) : Nat :=
  let all := acc :: ps
  if all.any FVal.isNan' || (all.contains (.inf false) && all.contains (.inf true)) then 0x7FC00000
  else if all.contains (.inf false) then 0x7F800000
  else if all.contains (.inf true) then 0xFF800000
  else
    let q := all.foldl (fun (q : Int) v => match v with
      | .fin _ m e => if m = 0 then q else min q e
      | _ => q) 0
    let t := all.foldl (fun (t : Int) v => match v with
      | .fin n m e => let x : Int := (m * 2 ^ (e - q).toNat : Nat); if n then t - x else t + x
      | _ => t) 0
    if t = 0 then
      (if all.all (fun v => match v with | .fin n m _ => n && m == 0 | _ => false) then 0x80000000 else 0)
    else (roundTo .fp32 .rn (decide (t < 0)) t.natAbs q).1

/-- Kc of R92. -/
def chunkSize (a b : Nat) : Nat :=
  let w := max (elementBits a) (elementBits b)
  if w = 4 then 128 else if w = 16 then 32 else 64

/-! ### Conversion of an output block (R84, R90, R92) -/

/-- The magnitude of a list of values, none NaN or infinite, at its largest: as m × 2^e. -/
def largest (vs : List FVal) : Nat × Int :=
  vs.foldl (fun (b : Nat × Int) v => match v with
    | .fin _ m e =>
      let q := min e b.2
      if b.1 * 2 ^ (b.2 - q).toNat < m * 2 ^ (e - q).toNat then (m, e) else b
    | _ => b) (0, 0)

def notFinite : FVal → Bool
  | .fin _ _ _ => false
  | _ => true

/-- ⌊log₂ (m × 2^e)⌋ for a non-zero m. -/
def floorLog (m : Nat) (e : Int) : Int := Nat.log2 m + e

/-- emax of R90. -/
def emaxOf (fmt : Nat) : Int :=
  match fmt with
  | 3 => 8 | 4 => 15 | 5 => 4 | 6 => 2 | 7 => 2 | _ => 0

/-- The saturating helper of an element format on ±m × 2^e. -/
def satElement (fmt : Nat) (n : Bool) (m : Nat) (e : Int) : Nat :=
  match fmt with
  | 3 => saturate .e4m3 0x7E n m e
  | 4 => saturate .e5m2 0x7B n m e
  | 5 => saturate .e3m2 31 n m e
  | 6 => saturate .e2m3 31 n m e
  | 7 => saturate .e2m1 7 n m e
  | _ =>
    let r := min (alignRound .rn n m e (-6)).1 127
    if n ∧ r ≠ 0 then 256 - r else r

/-- A microscaling block: its scale byte and element codes (R90). -/
def mxBlock (fmt : Nat) (vs : List FVal) : Nat × List Nat :=
  if vs.any notFinite then (255, vs.map fun _ => 0)
  else
    let a := largest vs
    if a.1 = 0 then (0, vs.map fun _ => 0)
    else
      let s := max (-127) (min 127 (floorLog a.1 a.2 - emaxOf fmt))
      ((s + 127).toNat, vs.map fun v => match v with
        | .fin n m e => satElement fmt n m (e - s)
        | _ => 0)

/-- A DXB block: E_lo, E_hi and element codes (R84). -/
def dxbBlock (wide : Bool) (vs : List FVal) : Nat × Nat × List Nat :=
  let k := if wide then 63 else 3
  let c : Int := if wide then 132 else 128
  let sel := k + 1
  if vs.any notFinite then (255, 255, vs.map fun _ => 0)
  else
    let a := largest vs
    if a.1 = 0 then (0, 0, vs.map fun _ => 0)
    else
      let h0 := max 0 (floorLog a.1 a.2 + 127)
      let h1 := if k < (alignRound .rn false a.1 a.2 (h0 - c)).1 then h0 + 1 else h0
      let hi := min h1 254
      let lo := max 0 (hi - if wide then 3 else 1)
      (lo.toNat, hi.toNat, vs.map fun v => match v with
        | .fin n m e =>
          let ml := (alignRound .rn n m e (lo - c)).1
          let body := if ml ≤ k then ml else sel + min (alignRound .rn n m e (hi - c)).1 k
          body + if n then 2 * sel else 0
        | _ => 0)

/-- Codes of equal width packed from bit 0 (R81). -/
def packCodes (width : Nat) (cs : List Nat) : Nat := cs.zipIdx.foldl (fun x e => x + e.1 * 2 ^ (width * e.2)) 0

/-- A code of an unscaled output element. -/
def plainCode (fmt x : Nat) : Nat :=
  match fmt with
  | 0 => x
  | 1 => (convert .fp32 .bf16 .rn x).1
  | 2 => (convert .fp32 .fp16 .rn x).1
  | 3 => satE4m3 x
  | 4 => satE5m2 x
  | 5 => satSmall .e3m2 x
  | 6 => satSmall .e2m3 x
  | _ => satSmall .e2m1 x

/-- A row of 32 accumulators in an output format: its bytes and its scale bytes (R199, R208). -/
def outputRow (fmt len : Nat) (row : List Word) : List Byte × List Byte :=
  let xs := row.map (·.toNat)
  let vs := xs.map Fmt.fp32.value
  if fmt = 11 ∨ fmt = 12 then
    let b := dxbBlock (fmt == 11) vs
    (leBytes 2 (b.1 + b.2.1 * 256) ++ leBytes (elementBits fmt * 4) (packCodes (elementBits fmt) b.2.2), [])
  else if len = 0 then
    (leBytes (elementBits fmt * 4) (packCodes (elementBits fmt) (xs.map (plainCode fmt))), [])
  else
    let l := blockLen len
    let bs := (List.range (32 / l)).map fun i => mxBlock fmt ((vs.drop (l * i)).take l)
    (leBytes (elementBits fmt * 4) (packCodes (elementBits fmt) (bs.flatMap (·.2))), bs.map fun b => BitVec.ofNat 8 b.1)


end Sys2Proof.Machine
end

