-- ==== Sys2Proof/Machine/Matrix.lean ====
section
/-!
DEFINITION. The matrix engine (R193 to R213): its words, its commands' effects, and their start and retirement.
-/

namespace Sys2Proof.Machine

/-! ### Issuing a command (R195 to R200) -/

/-- Fields of a format block (R196). -/
def fAfmt (f : BitVec 256) : Nat := bits f.toNat 3 0
def fAlen (f : BitVec 256) : Nat := bits f.toNat 6 4
def fBfmt (f : BitVec 256) : Nat := bits f.toNat 11 8
def fBlen (f : BitVec 256) : Nat := bits f.toNat 14 12
def fOfmt (f : BitVec 256) : Nat := bits f.toNat 19 16
def fOlen (f : BitVec 256) : Nat := bits f.toNat 22 20
def fKlen (f : BitVec 256) : Nat := bits f.toNat 30 24 + 1
def fAscl (f : BitVec 256) : Nat := bits f.toNat 63 32
def fBscl (f : BitVec 256) : Nat := bits f.toNat 95 64
def fOscl (f : BitVec 256) : Nat := bits f.toNat 127 96

def blockReserved (f : BitVec 256) : Bool :=
  bits f.toNat 255 128 != 0 || f.getLsbD 31 || f.getLsbD 23 || f.getLsbD 15 || f.getLsbD 7

/-- Fields of a tile descriptor (R198). -/
def dTile (w : Word) : Nat := bits w.toNat 1 0
def dRow (w : Word) : Nat := bits w.toNat 15 8
def dRows (w : Word) : Nat := bits w.toNat 24 16
def descriptorBad (w : Word) : Bool :=
  bits w.toNat 31 25 != 0 || bits w.toNat 7 2 != 0 || dRows w == 0 || decide (256 < dRow w + dRows w)

/-- Bytes of a B column and its scales (R199). -/
def columnBytes (fmt : Nat) : Nat := runBytes fmt (planeDepth fmt)
def columnScales (fmt len : Nat) : Nat := if len = 0 then 0 else planeDepth fmt / blockLen len
/-- Scales of an A row (R199). -/
def rowScales (len k : Nat) : Nat := if len = 0 then 0 else (k + blockLen len - 1) / blockLen len
/-- Bytes of an output row (R199). -/
def outBytes (fmt : Nat) : Nat := if fmt = 11 then 34 else if fmt = 12 then 18 else elementBits fmt * 4
def outScales (len : Nat) : Nat := if len = 0 then 0 else 32 / blockLen len

/-- A command's runs of scratchpad bytes: address, required alignment, bytes (R199). -/
def matrixRuns (op : Nat) (ws : List Word) (f : BitVec 256) : List (Nat × Nat × Nat) :=
  let w := fun i => (wordAt ws i).toNat
  match op with
  | 1 => [(w 0, 2, 31 * columnBytes (fBfmt f) + columnBytes (fBfmt f)), (fBscl f, 1, 32 * columnScales (fBfmt f) (fBlen f))]
  | 2 => [(w 0, 2, 32 * columnBytes (fBfmt f)), (fBscl f, 1, 32 * columnScales (fBfmt f) (fBlen f)), (w 2, 4, 4 * planeDepth (fBfmt f))]
  | 4 =>
    let n := dRows (wordAt ws 3)
    [(w 0, 2, (n - 1) * (w 2 % 65536) + runBytes (fAfmt f) (fKlen f)), (w 2 % 65536, 2, 0),
      (fAscl f, 1, n * rowScales (fAlen f) (fKlen f))]
  | 5 =>
    let n := dRows (wordAt ws 3)
    [(w 0, 2, (n - 1) * (w 2 % 65536) + outBytes (fOfmt f)), (w 2 % 65536, 2, 0), (fOscl f, 1, n * outScales (fOlen f))]
  | 6 => [(w 0, 4, 4 * dRows (wordAt ws 1))]
  | _ => []

/-- The block's fields and the descriptor as far as a command uses them (R196 to R199). -/
def contentsBad (op : Nat) (ws : List Word) (f : BitVec 256) : Bool :=
  match op with
  | 0 => descriptorBad (wordAt ws 0)
  | 1 => blockReserved f || !inputLegal (fBfmt f) (fBlen f)
  | 2 => blockReserved f || !inputLegal (fBfmt f) (fBlen f)
  | 4 => blockReserved f || !inputLegal (fAfmt f) (fAlen f) || fKlen f * elementBits (fAfmt f) % 8 != 0 ||
      ((fAfmt f == 11 || fAfmt f == 12) && fKlen f % 32 != 0) || bits (wordAt ws 2).toNat 31 16 != 0 || descriptorBad (wordAt ws 3)
  | 5 => blockReserved f || !outputLegal (fOfmt f) (fOlen f) || bits (wordAt ws 2).toNat 31 16 != 0 || descriptorBad (wordAt ws 3)
  | 6 => descriptorBad (wordAt ws 1)
  | _ => false

/-- A command that reads a format block: at s(b + 1). -/
def hasBlock (op : Nat) : Bool := op == 1 || op == 2 || op == 4 || op == 5

/-- The team's most recent command with an ID, while it has not retired (R200). -/
def State.predecessor (s : State) (v : View) (id : BitVec 5) : List Nat :=
  match Table.get v.team.commandIds id.toNat with
  | some n => if (s.core v.core).mtx.window.any fun m => m.seq == n then [n] else []
  | none => []

/-- The engine of a core taken by a launch that has none: cleared for another context (R194). -/
def Matrix.take (m : Matrix) (x launch : Nat) : Matrix :=
  match m.owner with
  | some _ => m
  | none =>
    let m := match m.lastCtx with
      | some y => if y = x then m else Matrix.free
      | none => m
    { m with owner := some (x, launch), lastCtx := some x }

/-- A graph command issues: its checks in order, then a place in the window (R193 to R200).  The fault address of a
misaligned stride is the stride (DESIGN CHOICE, log 71).  A word of the format block that holds the scratchpad's poison codeword
is used as its stored bytes: R211 does not name it (DESIGN CHOICE, log 74). -/
def matrixWord (op nregs : Nat) (i p q : BitVec 5) (base : Nat) (s : State) (v : View) : Effect :=
  let ws := (List.range nregs).map fun k => v.s (base + k) 0
  let blockAt := (wordAt ws 1).toNat
  let h := (s.cohort v.core v.team.cohort).getD ⟨0, 0, 0, 0, [], [], 0, 0, 0, [], [], [], [], []⟩
  let f : BitVec 256 := if hasBlock op then BitVec.ofNat 256 (leNat (h.read blockAt 32)) else 0
  if hasBlock op && blockAt % 32 != 0 then .trap 0x07 (BitVec.ofNat 64 blockAt) 0
  else if hasBlock op && decide (v.team.scrb < blockAt + 32) then .trap 0x08 (BitVec.ofNat 64 blockAt) 0
  else if contentsBad op ws f then Effect.plain 0x01
  else
    let runs := matrixRuns op ws f
    match runs.find? fun r => r.1 % r.2.1 != 0 with
    | some r => .trap 0x07 (BitVec.ofNat 64 r.1) 0
    | none =>
      match runs.find? fun r => r.2.2 != 0 && decide (v.team.scrb < r.1 + r.2.2) with
      | some r => .trap 0x08 (BitVec.ofNat 64 r.1) 0
      | none =>
        let k := s.core v.core
        let seq := k.nextOp
        let cmd : MatCmd := ⟨seq, v.team.uid, v.slot, v.team.ctx, v.team.launch, op, i.toNat,
          (s.predecessor v p ++ s.predecessor v q).eraseDups, ws, f, v.team.batch, false, v.path.pc, [], [], [], [], []⟩
        let m := k.mtx.take v.team.ctx v.team.launch
        let s := s.setCore v.core { k with nextOp := seq + 1, mtx := { m with window := m.window ++ [cmd] } }
        let s := s.modTeam v fun t => { t with commandIds := Table.put t.commandIds i.toNat seq }
        .done (s.noteCommand v seq)

/-! ### Batches and errors (R209 to R211) -/

/-- MFENCE: the open batch closes; the logs of the four newest closed batches stay, the number of errors of an older one that
holds an unretired command (R210), and the places of the MFENCEs of batches that do (R300). -/
def mfenceWord (s : State) (v : View) : Effect :=
  let unretired := fun (n : Word) => (s.commandsOf v.core v.team.uid).any fun m => m.batch == n
  .done (s.modTeam v fun t => { t with
    batch := t.batch + 1
    fences := ((t.batch, v.path.pc, v.path.word) :: t.fences).filter fun e => unretired e.1
    oldErrors := ((t.logs.drop 3).map (fun l => (l.batch, l.entries.length)) ++ t.oldErrors).filter fun e => unretired e.1
    logs := ({ t.openLog with batch := t.batch } :: t.logs).take 4, openLog := ⟨t.batch + 1, [], false⟩ })

/-- MERRQ: one entry of a kept, retired batch. -/
def merrqWord (b : Nat) (s : State) (v : View) : Effect :=
  let t := s.teamOf v
  let w := v.s b 0
  if bits w.toNat 31 19 ≠ 0 then Effect.plain 0x01
  else
    let log := t.logs.find? fun l => bits l.batch.toNat 15 0 == bits w.toNat 15 0
    let log := match log with
      | some l => if (s.commandsOf v.core t.uid).any fun m => m.batch == l.batch then none else some l
      | none => none
    let r := match log with
      | none => 2 ^ 53
      | some l =>
        let more := if l.more then 2 ^ 62 else 0
        match l.entries[bits w.toNat 18 16]? with
        | none => more
        | some e => 2 ^ 63 + more + e.opnd * 2 ^ 59 + e.id * 2 ^ 54 + e.i * 2 ^ 40 + e.k * 2 ^ 32 + e.n * 2 ^ 24 + e.addr % 2 ^ 20
    .done (s.setSPair v b (BitVec.ofNat 64 r) 2)

/-- MSTAT: MSTATUS and the count, then the sticky bits go. -/
def mstatWord (b : Nat) (s : State) (v : View) : Effect :=
  let t := s.teamOf v
  let st := s.mstatus v.core t
  let s := (s.setS v b st 2).setS v (b + 1) (BitVec.ofNat 32 (s.commandsOf v.core t.uid).length) 2
  .done (s.modTeam v fun t => { t with operr := false, logovf := false })

/-- Operand errors of a command reach its batch's log: 8 entries, then MORE and LOGOVF (R210, R211); of a batch whose log is no
longer kept, their number. -/
def Team.logErrors (t : Team) (batch : Word) (es : List OperandError) : Team :=
  if es.isEmpty then t
  else
    let add := fun (l : BatchLog) => { l with entries := (l.entries ++ es).take 8, more := l.more || decide (8 < l.entries.length + es.length) }
    let old := if batch = t.batch then some t.openLog else t.logs.find? fun l => l.batch == batch
    let met := match old with
      | some l => l.entries.length + es.length
      | none => ((t.oldErrors.find? fun e => e.1 == batch).map (·.2)).getD 0 + es.length
    { t with
      operr := true, logovf := t.logovf || decide (8 < met)
      oldErrors := if old.isSome then t.oldErrors else (batch, met) :: t.oldErrors.filter fun e => e.1 != batch
      openLog := if batch = t.batch then add t.openLog else t.openLog
      logs := if batch = t.batch then t.logs else t.logs.map fun l => if l.batch = batch then add l else l }

/-! ### The effects of the commands (R203 to R208) -/

/-- The element at a place of a run in a cohort's scratchpad: its code, with +0 and an error for poison (R211). -/
def Cohort.element (h : Cohort) (run fmt k : Nat) : Nat × Bool :=
  let b := elementBit fmt k
  let w := elementBits fmt
  let first := run + b / 8
  let n := (b % 8 + w + 7) / 8
  if h.poisoned first n then (0, true) else (leNat (h.read first n) / 2 ^ (b % 8) % 2 ^ w, false)

/-- A scale byte; 256 for one used as +0. -/
def Cohort.scaleByte (h : Cohort) (a : Nat) : Nat × Bool := if h.poisoned a 1 then (256, true) else ((h.byte a).toNat, false)

/-- An FP32 vector element (factor or smoothing value). -/
def Cohort.factor (h : Cohort) (a : Nat) : Nat × Bool := if h.poisoned a 4 then (0, true) else ((h.word a).toNat, false)

/-- Scales of a run of elements: block scales, or the exponent bytes of DXB blocks, with the errors' places. -/
def Cohort.scalesOf (h : Cohort) (fmt len run scl depth : Nat) : List (Nat × Bool × Nat) :=
  if fmt = 11 ∨ fmt = 12 then
    (List.range ((depth + 31) / 32)).flatMap fun b =>
      let a := run + dxbBase fmt (32 * b)
      [((h.scaleByte a).1, (h.scaleByte a).2, a), ((h.scaleByte (a + 1)).1, (h.scaleByte (a + 1)).2, a + 1)]
  else if len = 0 then []
  else (List.range ((depth + blockLen len - 1) / blockLen len)).map fun b => ((h.scaleByte (scl + b)).1, (h.scaleByte (scl + b)).2, scl + b)

/-- An element's value with its scale applied. -/
def scaled (fmt len code k : Nat) (scales : List Nat) : FVal :=
  if fmt = 11 ∨ fmt = 12 then elementValue fmt code (scales.getD (2 * (k / 32)) 0) (scales.getD (2 * (k / 32) + 1) 0)
  else
    let v := elementValue fmt code 0 0
    if len = 0 then v else v.times (scaleValue (scales.getD (k / blockLen len) 0))

/-- RN(1 / σ) (R204). -/
def reciprocal (x : Nat) : Nat := (fdiv .fp32 .nearest 0x3F800000 x).1

/-- MLOAD and MLOADS: the shadow plane, with the operand errors met, in the order elements, scales, smoothing values and
with K = 0 for a scale (DESIGN CHOICE, log 72). -/
def loadPlane (h : Cohort) (m : MatCmd) : Plane × List OperandError :=
  let fmt := fBfmt m.format
  let len := fBlen m.format
  let kt := planeDepth fmt
  let b0 := (wordAt m.operands 0).toNat
  let run := fun n => b0 + n * columnBytes fmt
  let els := (List.range 32).map fun n => (List.range kt).map fun k => h.element (run n) fmt k
  let scs := (List.range 32).map fun n => h.scalesOf fmt len (run n) (fBscl m.format + n * columnScales fmt len) kt
  let sig := if m.op = 2 then (List.range kt).map fun k => h.factor ((wordAt m.operands 2).toNat + 4 * k) else []
  let r := (List.range kt).map fun k => if m.op = 2 then BitVec.ofNat 32 (reciprocal ((sig.getD k (0, false)).1)) else 0x3F800000
  let e1 := (els.zipIdx.flatMap fun c => c.1.zipIdx.filterMap fun e =>
    if e.1.2 then some ⟨1, m.id, 0, e.2, c.2, run c.2 + elementBit fmt e.2 / 8⟩ else none)
  let e2 := (scs.zipIdx.flatMap fun c => c.1.filterMap fun (e : Nat × Bool × Nat) => if e.2.1 then some ⟨3, m.id, 0, 0, c.2, e.2.2⟩ else none)
  let e3 := sig.zipIdx.filterMap fun e =>
    if e.1.2 then some ⟨4, m.id, 0, e.2, 0, (wordAt m.operands 2).toNat + 4 * e.2⟩ else none
  let tags := (List.range kt).map fun k =>
    let units := (List.range 32).flatMap fun n =>
      let a := run n + elementBit fmt k / 8
      let z := run n + (elementBit fmt k + elementBits fmt - 1) / 8
      [a / 64, z / 64] ++ (if fmt = 11 ∨ fmt = 12 then [(run n + dxbBase fmt k) / 64, (run n + dxbBase fmt k + 1) / 64] else [])
    match units.map (Table.get h.tags) with
    | some t :: rest => if rest.all (· == some t) then some t else none
    | _ => none
  (⟨fmt, len, els.map fun c => c.map (·.1), scs.map fun c => c.map (·.1), r, tags⟩, e1 ++ e2 ++ e3)

/-- Depth of a plane: a plane never loaded is an all-zero BF16 plane (R206). -/
def Plane.depth (p : Plane) : Nat := planeDepth p.fmt

/-- Plane element b[k][n] × r[k]. -/
def Plane.value (p : Plane) (k n : Nat) : FVal :=
  (scaled p.fmt p.blen ((p.cols.getD n []).getD k 0) k (p.scales.getD n [])).times (Fmt.fp32.value (p.r.getD k 0x3F800000).toNat)

/-- An accumulator row as a command uses it: a word with an uncorrectable error is the default NaN (R211). -/
def accRow (m : Matrix) (tile row : Nat) : List Word :=
  ((Table.get m.acc (256 * tile + row)).getD (List.replicate 32 0)).zipIdx.map fun e =>
    if m.accBad.contains (256 * tile + row, e.2) then 0x7FC00000 else e.1

/-- An accumulator row written; a row of +0 is not listed, and a word written has no error. -/
def Matrix.setRow (m : Matrix) (tile row : Nat) (ws : List Word) : Matrix :=
  { m with
    acc := if ws.all (· == 0) then Table.drop m.acc (256 * tile + row) else Table.put m.acc (256 * tile + row) ws
    accBad := m.accBad.filter fun e => e.1 != 256 * tile + row }

/-- The errors of a row's accumulator words, logged as their command uses them (R211). -/
def accErrors (m : Matrix) (id tile row : Nat) : List OperandError :=
  (List.range 32).filterMap fun n => if m.accBad.contains (256 * tile + row, n) then some ⟨5, id, row, 0, n, 0⟩ else none

/-- MSTREAM: NROWS rows of A past the active plane (R206, R92). -/
def streamRows (h : Cohort) (m : Matrix) (c : MatCmd) : Matrix × List OperandError :=
  let f := c.format
  let fmt := fAfmt f
  let klen := fKlen f
  let kk := min klen m.active.depth
  let kc := chunkSize fmt m.active.fmt
  let d := wordAt c.operands 3
  let a0 := (wordAt c.operands 0).toNat
  let stride := (wordAt c.operands 2).toNat % 65536
  (List.range (dRows d)).foldl (fun (st : Matrix × List OperandError) i =>
    let run := a0 + i * stride
    let els := (List.range klen).map fun k => h.element run fmt k
    let scs := h.scalesOf fmt (fAlen f) run (fAscl f + i * rowScales (fAlen f) klen) klen
    let scales := scs.map (·.1)
    let avals := (List.range kk).map fun k => scaled fmt (fAlen f) ((els.getD k (0, false)).1) k scales
    let errs := (els.zipIdx.filterMap fun e =>
        if e.1.2 then some (⟨0, c.id, i, e.2, 0, run + elementBit fmt e.2 / 8⟩ : OperandError) else none) ++
      scs.filterMap fun (e : Nat × Bool × Nat) => if e.2.1 then some ⟨2, c.id, i, 0, 0, e.2.2⟩ else none
    let row := dRow d + i
    let old := accRow st.1 (dTile d) row
    let new := (List.range 32).map fun n =>
      (List.range ((kk + kc - 1) / kc)).foldl (fun (acc : Word) j =>
        let ks := (List.range kc).filterMap fun t => if kc * j + t < kk then some (kc * j + t) else none
        BitVec.ofNat 32 (sumRound (Fmt.fp32.value acc.toNat)
          (ks.map fun k => (avals.getD k (.fin false 0 0)).times (st.1.active.value k n)))) (wordAt old n)
    (st.1.setRow (dTile d) row new, st.2 ++ errs ++ accErrors st.1 c.id (dTile d) row)) (m, [])

/-- MSCALE (R207). -/
def scaleRows (h : Cohort) (m : Matrix) (c : MatCmd) : Matrix × List OperandError :=
  let d := wordAt c.operands 1
  (List.range (dRows d)).foldl (fun (st : Matrix × List OperandError) i =>
    let a := (wordAt c.operands 0).toNat + 4 * i
    let f := h.factor a
    let row := dRow d + i
    let new := (accRow st.1 (dTile d) row).map fun w => BitVec.ofNat 32 (fmul .fp32 .nearest w.toNat f.1).1
    (st.1.setRow (dTile d) row new,
      st.2 ++ (if f.2 then [⟨6, c.id, row, 0, 0, a⟩] else []) ++ accErrors st.1 c.id (dTile d) row)) (m, [])

/-- MSTORE's bytes: address and bytes of each row and of its scales (R208). -/
def storeRows (m : Matrix) (c : MatCmd) : List (Nat × List Byte) :=
  let f := c.format
  let d := wordAt c.operands 3
  let stride := (wordAt c.operands 2).toNat % 65536
  (List.range (dRows d)).flatMap fun i =>
    let r := outputRow (fOfmt f) (fOlen f) (accRow m (dTile d) (dRow d + i))
    [((wordAt c.operands 0).toNat + i * stride, r.1), (fOscl f + i * outScales (fOlen f), r.2)]

/-- Rows of a run set to +0 (R203). -/
def zeroRows (m : Matrix) (c : MatCmd) : Matrix :=
  let d := wordAt c.operands 0
  (List.range (dRows d)).foldl (fun m i => m.setRow (dTile d) (dRow d + i) (List.replicate 32 0)) m

/-- A region's counter rises, saturating (R376); a value that it has not had is not reported yet (R373). -/
def State.meterAdd (s : State) (region n : Nat) : State :=
  let g := (Table.get s.meter.regions region).getD Region.reset
  let count := BitVec.ofNat 64 (min (g.count.toNat + n) (2 ^ 64 - 1))
  { s with meter := { s.meter with
      regions := Table.put s.meter.regions region { g with count := count, reported := g.reported && count == g.count } } }

/-- A retired MSTREAM's MACs go to the regions of its plane's rows (R212, R376). -/
def State.meterStream (s : State) (p : Plane) (c : MatCmd) : State :=
  (List.range (min (fKlen c.format) p.depth)).foldl (fun s k =>
    match p.tags.getD k none with
    | some t => s.meterAdd t (dRows (wordAt c.operands 3) * 32)
    | none => s) s

/-- The engine is free once its owner has no team on the core and no command there (R194). -/
def State.freeEngine (s : State) (c : Nat) : State :=
  let k := s.core c
  match k.mtx.owner with
  | none => s
  | some (x, l) =>
    let here := (k.teams ++ k.evicted).any fun e => e.2.ctx == x && e.2.launch == l
    let alive := (s.launch x l).isSome
    if (!here && k.mtx.window.isEmpty) || !alive then s.setCore c { k with mtx := { k.mtx with owner := none } } else s

/-! ### What a command has read and written before it retires (R201, R202) -/

/-- The descriptor of a command's accumulator rows. -/
def MatCmd.descriptor (m : MatCmd) : Word :=
  wordAt m.operands (match m.op with
    | 0 => 0
    | 6 => 1
    | _ => 3)

/-- The accumulator rows that a command reads or writes, as tile × 256 + row. -/
def MatCmd.rowKeys (m : MatCmd) : List Nat :=
  if m.op = 0 ∨ m.op = 4 ∨ m.op = 5 ∨ m.op = 6 then
    (List.range (dRows m.descriptor)).map fun i => 256 * dTile m.descriptor + dRow m.descriptor + i
  else []

/-- A region as the command sees it: the words that it has read before now in their places (R202). -/
def Cohort.seen (h : Cohort) (got : List (Nat × List Byte × Bool)) : Cohort :=
  got.foldl (fun (h : Cohort) e =>
    let h := { h with bytes := e.2.1.zipIdx.foldl (fun m b => Table.put m (4 * e.1 + b.2) b.1) h.bytes, poison := h.poison.filter (· != 4 * e.1) }
    if e.2.2 then h.setPoison (4 * e.1) else h) h

/-- The accumulators as the command sees them: the rows that it has read before now in their places (R201), with the words that
read then with an uncorrectable error as the default NaN (R211). -/
def Matrix.seen (q : Matrix) (accs : Table (List Word)) : Matrix :=
  accs.foldl (fun (q : Matrix) e => q.setRow (e.1 / 256) (e.1 % 256) e.2) q

/-- Accumulator rows that a command computed, but for those that it has written already. -/
def Matrix.takeRows (q new : Matrix) (keys done : List Nat) : Matrix :=
  (keys.filter fun k => !done.contains k).foldl (fun (q : Matrix) k => q.setRow (k / 256) (k % 256) ((Table.get new.acc k).getD (List.replicate 32 0))) q

/-- Bytes of a region with their addresses, but for the words that have been written already; each word is stored whole
where the run covers it. -/
def State.putRuns (s : State) (c id : Nat) (runs : List (Nat × List Byte)) (done : List Nat) : State :=
  runs.foldl (fun s e =>
    if done.isEmpty then s.scratchWrite c id e.1 e.2
    else (wordsOf e.1 e.2.length).foldl (fun s w =>
      if done.contains w then s
      else
        let a := max e.1 (4 * w)
        s.scratchWrite c id a ((e.2.drop (a - e.1)).take (4 * w + 4 - a))) s) s

/-- What a command leaves: the engine, the operand errors, and the bytes it stores. -/
def matrixResult (h : Cohort) (q : Matrix) (m : MatCmd) : Matrix × List OperandError × List (Nat × List Byte) :=
  match m.op with
  | 0 => (zeroRows q m, [], [])
  | 3 => ({ q with active := q.shadow, shadow := q.active }, [], [])
  | 4 => let r := streamRows h q m; (r.1, r.2, [])
  | 5 => (q, m.errs ++ (m.rowKeys.filter fun k => (Table.get m.accs k).isNone).flatMap fun k => accErrors q m.id (k / 256) (k % 256),
    storeRows (q.seen m.accs) m)
  | 6 => let r := scaleRows h q m; (r.1, r.2, [])
  | _ => let r := loadPlane h m; ({ q with shadow := r.1 }, r.2, [])

/-- A command's effect as it retires, as far as it has not had it yet. -/
def State.matrixEffect (s : State) (c : Nat) (m : MatCmd) (t : Team) : State :=
  let q := (s.core c).mtx
  match s.cohort c t.cohort with
  | none => s
  | some h =>
    let r := matrixResult (h.seen m.got) q m
    let new := if m.rowKeys.isEmpty then r.1 else q.takeRows r.1 (if m.op = 5 then [] else m.rowKeys) m.rows
    let es := r.2.1.filter fun e => !(e.opnd == 5 && m.op != 5 && m.rows.contains (256 * dTile m.descriptor + e.i))
    let s := es.foldl (fun s _ => s.poisonUsed c t.ctx 2) (s.setCore c { s.core c with mtx := new })
    let s := s.putRuns c h.id r.2.2 m.put
    let s := match s.teamUid c t.uid with
      | some t => s.setUid c (t.logErrors m.batch es)
      | none => s
    if m.op = 4 then s.meterStream q.active m else s

def unitOf (op : Nat) : Nat := if op = 1 ∨ op = 2 then 1 else if op = 4 then 2 else if op = 3 then 4 else 3
def planeCommand (op : Nat) : Bool := op == 1 || op == 2 || op == 3 || op == 4

/-- A command may start as far as predecessors and the plane order go (R200). -/
def Matrix.ready (m : Matrix) (c : MatCmd) : Bool :=
  !c.started && !(m.window.any fun q => c.preds.contains q.seq) &&
    (!planeCommand c.op || !(m.window.any fun q => decide (q.seq < c.seq) && planeCommand q.op &&
      (c.op == 3 || q.op == 3 || (unitOf c.op == 1 && unitOf q.op == 1))))

/-- A command starts: it is ready, its unit is free, and no earlier ready command waits for that unit (R200). -/
def Matrix.canStart (m : Matrix) (c : MatCmd) : Bool :=
  m.ready c && !(m.window.any fun q => unitOf q.op == unitOf c.op && q.started) &&
    !(m.window.any fun q => unitOf q.op == unitOf c.op && decide (q.seq < c.seq) && m.ready q)

/-- MZERO (R203). -/
def execMzero (c : BitVec 1) (w : BitVec 2) (i : BitVec 5) (p : BitVec 5) (q : BitVec 5) (b : BitVec 5) (s : State) : Result :=
  issueWord (.mzero c w i p q b) (matrixWord 0 1 i p q (2 * b.toNat)) s

/-- MLOAD (R204). -/
def execMload (c : BitVec 1) (w : BitVec 2) (i : BitVec 5) (p : BitVec 5) (q : BitVec 5) (b : BitVec 5) (s : State) : Result :=
  issueWord (.mload c w i p q b) (matrixWord 1 2 i p q (2 * b.toNat)) s

/-- MLOADS (R204). -/
def execMloads (c : BitVec 1) (w : BitVec 2) (i : BitVec 5) (p : BitVec 5) (q : BitVec 5) (b : BitVec 5) (s : State) : Result :=
  issueWord (.mloads c w i p q b) (matrixWord 2 3 i p q (2 * b.toNat)) s

/-- MSTREAM (R206). -/
def execMstream (c : BitVec 1) (w : BitVec 2) (i : BitVec 5) (p : BitVec 5) (q : BitVec 5) (b : BitVec 5) (s : State) : Result :=
  issueWord (.mstream c w i p q b) (matrixWord 4 4 i p q (2 * b.toNat)) s

/-- MSTORE (R208). -/
def execMstore (c : BitVec 1) (w : BitVec 2) (i : BitVec 5) (p : BitVec 5) (q : BitVec 5) (b : BitVec 5) (s : State) : Result :=
  issueWord (.mstore c w i p q b) (matrixWord 5 4 i p q (2 * b.toNat)) s

/-- MSCALE (R207). -/
def execMscale (c : BitVec 1) (w : BitVec 2) (i : BitVec 5) (p : BitVec 5) (q : BitVec 5) (b : BitVec 5) (s : State) : Result :=
  issueWord (.mscale c w i p q b) (matrixWord 6 2 i p q (2 * b.toNat)) s

/-- MSWAP (R205). -/
def execMswap (c : BitVec 1) (w : BitVec 2) (i : BitVec 5) (p : BitVec 5) (q : BitVec 5) (s : State) : Result :=
  issueWord (.mswap c w i p q) (matrixWord 3 0 i p q 0) s

/-- MFENCE (R209). -/
def execMfence (c : BitVec 1) (w : BitVec 2) (s : State) : Result :=
  issueWord (.mfence c w) (mfenceWord) s

/-- MWAIT: continues once the batches named have retired (R209). -/
def execMwait (c : BitVec 1) (w : BitVec 2) (b : BitVec 5) (s : State) : Result :=
  issueWord (.mwait c w b) (fun s _ => .done s) s

/-- MERRQ (R211). -/
def execMerrq (c : BitVec 1) (w : BitVec 2) (b : BitVec 5) (s : State) : Result :=
  issueWord (.merrq c w b) (merrqWord (2 * b.toNat)) s

/-- MSTAT (R210). -/
def execMstat (c : BitVec 1) (w : BitVec 2) (b : BitVec 5) (s : State) : Result :=
  issueWord (.mstat c w b) (mstatWord (2 * b.toNat)) s

/-! ### Events -/

/-- MATRIX_COMMAND_START (R200). -/
def execMatrixCommandStart (core cmd : Nat) (s : State) : Result :=
  let k := s.core core
  match k.mtx.window.find? fun m => m.seq == cmd with
  | none => .fault .noSuchPlace
  | some m =>
    let held : Bool := match s.teamUid core m.team with
      | none => true
      | some t => t.yielding && (s.ctx t.ctx).forced
    if !held && k.mtx.canStart m then
      .next (s.setCore core { k with mtx := { k.mtx with
        window := k.mtx.window.map fun q => if q.seq = cmd then { q with started := true } else q } })
    else .next s

/-- Scratchpad words that a command reads, and, for MSTORE, writes. -/
def MatCmd.words (m : MatCmd) : List Nat :=
  ((matrixRuns m.op m.operands m.format).flatMap fun r => wordsOf r.1 r.2.2).eraseDups

/-- A command replaced in its window. -/
def State.setCmd (s : State) (c : Nat) (m : MatCmd) : State :=
  let k := s.core c
  s.setCore c { k with mtx := { k.mtx with window := k.mtx.window.map fun q => if q.seq = m.seq then m else q } }

/-- Accumulator errors that a command meets before it retires (R211). -/
def State.logAccumulator (s : State) (c : Nat) (m : MatCmd) (es : List OperandError) : State :=
  match s.teamUid c m.team with
  | some t => (es.foldl (fun s _ => s.poisonUsed c t.ctx 2) s).setUid c (t.logErrors m.batch es)
  | none => s

/-- An accumulator row read now by an MSTORE, with the errors that it meets (R201, R211). -/
def MatCmd.readRow (q : Matrix) (m : MatCmd) (k : Nat) : MatCmd :=
  if (Table.get m.accs k).isSome then m
  else { m with accs := Table.put m.accs k (accRow q (k / 256) (k % 256)), errs := m.errs ++ accErrors q m.id (k / 256) (k % 256) }

/-- A part of a command that has started: one scratchpad word or accumulator row read now, or with `put` written now
(R201, R202).  An accumulator row is written with the row's operands as they stand. -/
def State.matrixPart (s : State) (c id key : Nat) (put : Bool) : State :=
  let q := (s.core c).mtx
  match q.window.find? fun m => m.seq == id with
  | none => s
  | some m =>
    match (s.teamUid c m.team).bind fun t => s.cohort c t.cohort with
    | none => s
    | some h =>
      let row := m.rowKeys[key % max 1 m.rowKeys.length]?
      let word := m.words[key % max 1 m.words.length]?
      if !m.started then s
      else if put then
        let r := matrixResult (h.seen m.got) q m
        if m.op = 5 then
          match word with
          | none => s
          | some w => if m.put.contains w then s
            else
              let mine := (r.2.2.zipIdx.filter fun e => (wordsOf e.1.1 e.1.2.length).contains w).filterMap fun e => m.rowKeys[e.2 / 2]?
              let m := mine.foldl (MatCmd.readRow q) m
              (((s.putRuns c h.id r.2.2 (m.words.filter (· != w))).setCmd c { m with put := w :: m.put }).used)
        else match row with
          | none => s
          | some k => if m.rows.contains k then s
            else
              let new := q.takeRows r.1 [k] []
              let s := s.setCore c { s.core c with mtx := new }
              let read := m.words.filter fun w => !(m.got.any (·.1 == w))
              let now := read.map fun w => (w, h.read (4 * w) 4, h.poisoned (4 * w) 4)
              let es := if m.op = 0 then [] else accErrors q m.id (k / 256) (k % 256)
              ((s.setCmd c { m with rows := k :: m.rows, got := now ++ m.got }).logAccumulator c m es).used
      else if m.op ≠ 5 then
        match word with
        | none => s
        | some w => if m.got.any (·.1 == w) then s
          else (s.setCmd c { m with got := (w, h.read (4 * w) 4, h.poisoned (4 * w) 4) :: m.got }).used
      else match row with
        | none => s
        | some k => if (Table.get m.accs k).isSome then s else (s.setCmd c (MatCmd.readRow q m k)).used

/-- MATRIX_COMMAND_RETIRE: the writes complete, and the command leaves the window (R200). -/
def execMatrixCommandRetire (core cmd : Nat) (s : State) : Result :=
  let k := s.core core
  match k.mtx.window.find? fun m => m.seq == cmd with
  | none => .fault .noSuchPlace
  | some m =>
    if !m.started then .next s
    else
      let s := match s.teamUid core m.team with
        | some t => s.matrixEffect core m t
        | none => s
      let k := s.core core
      .next ((s.setCore core { k with mtx := { k.mtx with window := k.mtx.window.filter fun q => q.seq != cmd } }).freeEngine core)

end Sys2Proof.Machine
end

