-- ==== Sys2Proof/Machine/Parts.lean ====
section
/-!
DEFINITION. Parts of an operation in flight: one line of a load or store, one word of a copy or a collective, one word or row of
a matrix command (R201, R202, R218, R227, R237, R240).
-/

namespace Sys2Proof.Machine

/-- One request of a load, a store or an atomic performed, after the earlier accesses to its line, and before a write those to the
operation's other lines of its block (R176, R240, R264). -/
def State.linePart (s : State) (c id key : Nat) : State :=
  match s.opAt c id with
  | none => s
  | some (_, o) =>
    if s.stuckOp c id then s
    else
      let s := s.performEarlier c id (o.lineRuns.filter fun r => r.1 / o.span == keyLine key / o.span)
      match s.opAt c id with
      | none => s
      | some (t, o) =>
        let here := fun (lane : Nat) (loc : Loc) => loc.lineKey == keyLine key && decide (lane / 32 ≤ keyPass key)
        let r := match o.kind with
          | .store _ => s.storePart c t.uid o fun a => here a.lane a.loc
          | .atom _ _ _ none _ => s.atomPart c t o fun e => here e.lane e.loc
          | _ => s.loadLine c t.uid o (keyLine key) (keyPass key)
        r.2.putOp c t.uid r.1

/-- A part of what an operation or a matrix command moves: read, or with `put` written. -/
def State.partTurn (s : State) (c id key : Nat) (put : Bool) : State :=
  if (s.core c).mtx.window.any fun m => m.seq == id then s.matrixPart c id key put
  else
    match s.opAt c id with
    | none => s
    | some (_, o) =>
      match o.kind with
      | .copy _ _ _ _ _ => s.copyPart c id key put
      | .col _ _ _ _ _ _ _ => s.colPart c id key put
      | _ =>
        let ps := s.openPackets c o
        match ps[key % max 1 ps.length]? with
        | some p => s.linePart c id p.key
        | none => s

end Sys2Proof.Machine
end

