-- ==== Sys2Proof/Machine/Returns.lean ====
section
/-!
DEFINITION. Operations in flight that are performed and return (R52, R161 to R170, R179 to R189).
-/

namespace Sys2Proof.Machine

/-- An operation done: its counter falls once the earlier ones have returned (R52). -/
def State.completeOp (s : State) (c uid : Nat) (o : Op) : State := s.putOp c uid { o with done := true }

/-! ### Capacity queries (R184, R185, R189) -/

def PageState.code : PageState → Nat
  | .unbacked => 0
  | .resident => 1
  | .remote => 2
  | .migrating => 3

/-- The word BLKQ gives for a block; a host address has no block, and the word is free (log 15). -/
def State.blockWord (s : State) (da : Option Nat) : Word :=
  match da with
  | none => Config.freeWord (s.fresh * 2 ^ 20)
  | some a =>
    let k := s.block (blockOf a)
    let p := s.page (pageOf a)
    BitVec.ofNat 32 (if p.state = .unbacked then (s.blockDirty (blockOf a)).toNat * 2 ^ 21
      else k.cls + k.slots * 2 ^ 8 + k.head * 2 ^ 16 + (s.blockDirty (blockOf a)).toNat * 2 ^ 21 + p.state.code * 2 ^ 24)

/-- Granules still owed to a context's open balloon request. -/
def Ctx.owed (k : Ctx) : Nat := min (k.blnReq.toNat - k.blnCred.toNat) 0xFFFFFFFF

/-- What a query reads as it returns, as the bytes of its registers. -/
def State.queryBytes (s : State) (x : Nat) : OpKind → Option (Nat × Nat × List Byte)
  | .rsvq d die => some (5, d, leBytes 8 (BitVec.ofInt 64 (s.reserve die)).toNat)
  | .blnq d =>
    let k := s.ctx x
    some (5, d, if k.blnOpen then leBytes 4 k.blnId.toNat ++ leBytes 4 k.owed else leBytes 8 0)
  | .blkq d da => some (4, d, leBytes 4 (s.blockWord da).toNat)
  | _ => none

/-! ### Events -/

/-- LOAD_RETURN: a load, global atomic or query returns; an acquire at core.rmt promotes first, and waits for a released surrender of
a page that migrates (R244). -/
def execLoadReturn (core op : Nat) (s : State) : Result :=
  match s.opAt core op with
  | none => .fault .noSuchPlace
  | some (t, o) =>
    if o.done || s.stuckOp core op then .next s
    else
      match s.queryBytes t.ctx o.kind with
      | some (fmt, d, bytes) =>
        .next ({ s with fresh := s.fresh + 1 }.completeOp core t.uid { o with kind := .loaded fmt d true [(0, bytes, false)] })
      | none =>
        match o.kind with
        | .load _ _ _ _ _ => let r := s.performOp core t.uid o; .next (r.2.completeOp core t.uid r.1)
        | .loaded _ _ _ _ => .next (s.completeOp core t.uid o)
        | .atom _ _ _ none _ =>
          let s := if o.rmt then s.promote else s
          if o.rmt && s.promoteHeld then .next s
          else
            let r := s.performOp core t.uid (s.opNow core o)
            .next (r.2.completeOp core t.uid r.1)
        | _ => .fault .noSuchPlace

/-- SCRATCHPAD_LOAD_RETURN (R166, R167, R170). -/
def execScratchpadLoadReturn (core op : Nat) (s : State) : Result :=
  match s.opAt core op with
  | none => .fault .noSuchPlace
  | some (t, o) =>
    if o.done then .next s
    else
      match o.kind with
      | .scratch _ _ _ _ _ _ => let r := (s.makeWay core [o]).performKind core t.uid o; .next (r.2.completeOp core t.uid r.1)
      | .loaded _ _ _ _ => .next (s.completeOp core t.uid o)
      | .atom _ _ _ (some _) _ => let r := s.performKind core t.uid o; .next (r.2.completeOp core t.uid r.1)
      | _ => .fault .noSuchPlace

/-- SFU_RESULT_RETURN (R146, R148). -/
def execSfuResultReturn (core op : Nat) (s : State) : Result :=
  match s.opAt core op with
  | none => .fault .noSuchPlace
  | some (t, o) => match o.kind with
    | .sfu _ _ _ => .next (s.completeOp core t.uid o)
    | _ => .fault .noSuchPlace

/-- STORE_PERFORMED (R165, R176). -/
def execStorePerformed (core op : Nat) (s : State) : Result :=
  match s.opAt core op with
  | none => .fault .noSuchPlace
  | some (t, o) => match o.kind with
    | .store _ => if o.done || s.stuckOp core op then .next s else let r := s.performOp core t.uid o; .next (r.2.completeOp core t.uid r.1)
    | _ => .fault .noSuchPlace

/-- REMOTE_STORE_PERFORMED: after the team's earlier remote stores to the same target core (R167, R240). -/
def execRemoteStorePerformed (core op : Nat) (s : State) : Result :=
  match s.opAt core op with
  | none => .fault .noSuchPlace
  | some (t, o) => match o.kind with
    | .remote target _ _ =>
      .next ((s.coreOps core).foldl (fun (s : State) e =>
        let mine : Bool := match e.2.kind with
          | .remote c _ _ => c == target
          | _ => false
        if e.1 == t.uid && mine && decide (e.2.id ≤ o.id) && !e.2.done then (s.makeWay core [e.2]).performId core e.2.id else s) s)
    | _ => .fault .noSuchPlace

/-- Lanes of the same location as a lane: they are performed one after another, each on the result of the one before,
with no other access between them (R170, R280; log 17). -/
def sameLocation (lanes : List AtomLane) (lane : Nat) (e : AtomLane) : Bool :=
  match lanes.find? fun f => f.lane == lane with
  | some f => f.loc == e.loc
  | none => false

/-- ATOMIC_PERFORMED: one lane, with the lanes that share its location in ascending lane order (R170). -/
def execAtomicPerformed (core op lane : Nat) (s : State) : Result :=
  match s.opAt core op with
  | none => .fault .noSuchPlace
  | some (t, o) => match o.kind with
    | .atom _ _ _ _ lanes =>
      if o.done || s.stuckOp core op then .next s
      else
        let s := (s.performEarlier core o.id o.lineRuns).makeWay core [o]
        let r := s.atomPart core t (s.opNow core o) (sameLocation lanes lane)
        .next (r.2.putOp core t.uid r.1)
    | _ => .fault .noSuchPlace

/-- CWB_COMPLETE (R179). -/
def execCwbComplete (core op : Nat) (s : State) : Result :=
  match s.opAt core op with
  | none => .fault .noSuchPlace
  | some (t, o) => match o.kind with
    | .cwb _ false => if o.done || s.stuckOp core op then .next s else let r := s.performOp core t.uid o; .next (r.2.completeOp core t.uid r.1)
    | _ => .fault .noSuchPlace

/-- CINV_COMPLETE (R180). -/
def execCinvComplete (core op : Nat) (s : State) : Result :=
  match s.opAt core op with
  | none => .fault .noSuchPlace
  | some (t, o) => match o.kind with
    | .cwb _ true => if o.done || s.stuckOp core op then .next s else let r := s.performOp core t.uid o; .next (r.2.completeOp core t.uid r.1)
    | _ => .fault .noSuchPlace

/-- TRANS_RETURN (R182, R183). -/
def execTransReturn (core op : Nat) (s : State) : Result :=
  match s.opAt core op with
  | none => .fault .noSuchPlace
  | some (t, o) => match o.kind with
    | .trans _ _ _ _ => .next (s.completeOp core t.uid o)
    | _ => .fault .noSuchPlace

/-! ### Surrendered pages (R186, R187) -/

/-- PGSURR_PAGE_DONE: the next page of the operation; a migrating page waits for its migration to end. -/
def execPgsurrPageDone (core op : Nat) (s : State) : Result :=
  match s.opAt core op with
  | none => .fault .noSuchPlace
  | some (t, o) => match o.kind with
    | .surrender d (pg :: rest) freed =>
      if (s.page pg).state = .migrating || s.stuckOp core op then .next s
      else
        let r := s.surrenderPage t.uid t.ctx pg
        let o := { o with kind := .surrender d rest (freed + r.1) }
        .next (if rest.isEmpty then r.2.completeOp core t.uid o else r.2.putOp core t.uid o)
    | _ => .fault .noSuchPlace

end Sys2Proof.Machine
end

