-- ==== Sys2Proof/Machine/Capacity.lean ====
section
/-!
DEFINITION. Capacity: writeback, ladles, migration and the capacity tier, balloons, invalidation of translations and
the crucible's registers (R14, R173 to R177, R267, R268, R357 to R359, R383).
-/

namespace Sys2Proof.Machine

/-! ### Writeback and ladles -/

/-- The lines of a block in both L2s. -/
def blockLines (b : Nat) : List (Nat × Nat) := (List.range 2).flatMap fun d => (List.range 4).map fun i => (d, 4 * b + i)

/-- BLOCK_WRITEBACK: a die's L2 evicts its lines of a block, all of them together (R177, R246; log 18). -/
def execBlockWriteback (die block : Nat) (s : State) : Result :=
  let mine := (blockLines block).filter fun e => e.1 == die
  .next ((mine.foldl (fun s e => s.dropLine e.1 e.2) ((s.finishHalves fun b => b == block).writeback block mine)).keepPast (mine.map (·.2)))

/-- What one die grants a shortfall; a grant below the full draw is recorded (R175, R294). -/
def State.refill (s : State) (c x d short : Nat) : State :=
  if short = 0 then s
  else
    let g := grantOf (s.reserve d) short
    let s := if g < 4096 * ((short + 4095) / 4096) then s.traceCapacity x d short (g == 0) else s
    match s.ladle c x with
    | some l => (s.takeFree d g).setLadle c (l.addBal d g)
    | none => (s.takeFree d g).setLadle c ((⟨x, 0, 0, 0, 0, false⟩ : Ladle).addBal d g)

/-- The crucibles have answered for a parked store: if its ladles now cover its charge, the charge is taken; its agent issues again
(R175). -/
def State.answerPath (s : State) (c slot : Nat) (t : Team) (who : Option Bool) (p : Path) : State :=
  let ask := p.refill.getD (0, 0)
  let s := (s.refill c t.ctx 0 ask.1).refill c t.ctx 1 ask.2
  let l := (s.ladle c t.ctx).getD ⟨t.ctx, 0, 0, 0, 0, false⟩
  let covered : Bool := decide (p.needs.1 ≤ l.bal0) && decide (p.needs.2 ≤ l.bal1)
  let s := if covered then s.setLadle c (l.charged p.needs.1 p.needs.2) else s
  let p := { p with refill := some (0, 0), answer := some (if covered then (true, p.needs) else (false, l.bal0, l.bal1)) }
  let t := (s.team c slot).getD t
  let turn := match who with
    | some side => Turn.issue c slot side
    | none => Turn.runner c slot
  { s.setTeam c slot (t.setAgent who p) with agenda := turn :: s.agenda }

/-- The agent of a team that waits for the crucibles' answer: a path, or the runner with a copy (R175, R217). -/
def Team.asker (t : Team) : Option (Option Bool × Path) :=
  [some false, some true, none].findSome? fun who => ((t.agent who).filter Path.asking).map fun p => (who, p)

/-- LADLE_REFILL: the crucibles answer, and the parked store issues again (R175). -/
def execLadleRefill (core slot : Nat) (s : State) : Result :=
  match s.team core slot with
  | none => .fault .noSuchPlace
  | some t => match t.asker with
    | some (who, p) => .next (s.answerPath core slot t who p)
    | none => .next s

/-- LADLE_RETURN (R173). -/
def execLadleReturn (core ctx : Nat) (s : State) : Result :=
  if (s.core core).teams.any fun e => e.2.ctx == ctx then .next s else .next (s.returnLadle core ctx)

/-! ### Migration (R191, R267, R358) -/

/-- A migration record (R294). -/
def State.traceMigration (s : State) (pg : Nat) (toTier atEnd : Bool) (granules : Nat) : State :=
  let x := (s.page pg).ctx
  s.trace x 6 (faultSrc (homeDie (65536 * pg))) 0 0 false 0
    (toTier.toNat + 2 * atEnd.toNat + granules % 65536 * 2 ^ 8 + 65536 * pg * 2 ^ 32 + x * 2 ^ 96)

/-- Operations in flight that touch a page are performed before it leaves HBM. -/
def State.performPage (s : State) (pg : Nat) : State :=
  s.coreNumbers.foldl (fun s c => (s.coreOps c).foldl (fun s e =>
    if meets e.2.lineRuns [(512 * pg, 512)] then s.performNow c e.2.id else s) s) s

/-- The tier has no place for another page: no tier, or every unit in use (R358; log 16). -/
def State.tierFull (s : State) : Bool :=
  s.pf.ctBase == 0 || decide (s.pf.ctSize.toNat ≤ (s.pages.filter fun e =>
    e.2.state == .remote || (e.2.state == .migrating && e.2.toTier)).length)

/-- A page's stored form leaves HBM, read granule by granule: dirty lines written back, its granules free (R267, R367). -/
def State.leaveHbm (s : State) (pg : Nat) : State :=
  let s := (s.performPage pg).finishHalves fun b => b / 128 == pg
  let s := (List.range 128).foldl (fun (s : State) i => s.demand (.dev (65536 * pg + 512 * i) false false false)) s
  let s := (List.range 128).foldl (fun (s : State) i => s.writeback (128 * pg + i) (blockLines (128 * pg + i))) s
  let n := s.pageGranules pg
  let s := ((s.dropPageLines pg).keepPast (pageLines pg)).addFree (homeDie (65536 * pg)) n
  let s := { s with blocks := s.blocks.map fun (e : Nat × Block) => if e.1 / 128 = pg then (e.1, { e.2 with head := 0 }) else e }
  let s := s.traceMigration pg true true n
  s.setPage pg { s.page pg with state := .remote, toTier := false, queued := none, ref := false, failed := false, short := false }

/-- Pages a migration for a context may evict from a die: none that a leaf pins or maps as a host window (R353, R358). -/
def State.eligible (s : State) (d x : Nat) : List (Nat × Page) :=
  let held := s.deviceLeaves.filter fun l => bit l.1 9 || bit l.1 6
  s.pages.filter fun e => e.2.state == .resident && e.2.ctx == x && homeDie (65536 * e.1) == d && !e.2.pin &&
    !e.2.window && !(held.any fun l => decide (pageOf (entryAddr l.1) ≤ e.1) && decide (e.1 < pageOf (entryAddr l.1) + l.2 / 65536))

/-- The clock hand's walk: reference bits cleared up to the first page whose bit is clear (R358). -/
def walkClock : List (Nat × Page) → List Nat → Option Nat × List Nat
  | [], cleared => (none, cleared)
  | (pg, p) :: rest, cleared => if p.ref then walkClock rest (pg :: cleared) else (some pg, cleared)

/-- The next victim of a context on a die. -/
def State.victim (s : State) (d x : Nat) : Option Nat × State :=
  let hand := (Table.get (s.die d).hand x).getD 0
  let es := s.eligible d x
  let round := (es.filter fun e => decide (hand ≤ e.1)) ++ es.filter fun e => decide (e.1 < hand)
  let w := walkClock round []
  let s := w.2.foldl (fun (s : State) pg => s.setPage pg { s.page pg with ref := false }) s
  let pick := match w.1 with
    | some pg => some pg
    | none => round.head?.map (·.1)
  match pick with
  | some pg => (some pg, s.setDie d { s.die d with hand := Table.put (s.die d).hand x (pg + 1) })
  | none => (none, s)

/-- Victims evicted one at a time until the reserve covers `need`, or no page or tier place remains. -/
def State.makeRoom (s : State) (d x need : Nat) : Nat → State
  | 0 => s
  | fuel + 1 =>
    if (need : Int) ≤ s.reserve d || s.tierFull then s
    else
      match s.victim d x with
      | (none, s) => s
      | (some pg, s) =>
        let s := s.traceMigration pg true false 0
        ((s.leaveHbm pg).commandPage pg 0).makeRoom d x need fuel

/-- The number of the first access that is parked on a page, of resident, evicted and saved teams. -/
def State.firstParked (s : State) (pg : Nat) : Option Nat :=
  let of' := fun (t : Team) => [t.pathA.bind (·.parked), t.pathB.bind (·.parked), t.runner.parked].filterMap fun q => match q with
    | some (g, _, n) => if g = pg then some n else none
    | none => none
  let saved := s.ctxs.flatMap fun e => e.2.saved.flatMap fun k => (k.teams.map (·.2)) ++ k.evicted.map (·.2)
  ((s.allTeams.map (·.2) ++ saved).flatMap of').foldl (fun m n => match m with
    | some k => some (min k n)
    | none => some n) none

/-- The pages of a die that wait for its fault unit: in the order of their first parked access, then those that no access is parked
on, as they were asked for (R267; log 50). -/
def State.queuedPages (s : State) (d : Nat) : List (Nat × Nat) :=
  let ins := fun (l : List (Nat × Nat)) (e : Nat × Nat) => (l.filter fun q => decide (q.2 < e.2)) ++ [e] ++ l.filter fun q => decide (e.2 < q.2)
  (s.pages.filterMap fun e => if homeDie (65536 * e.1) = d then
      e.2.queued.map fun n => (e.1, (s.firstParked e.1).getD (s.serial + n))
    else none).foldl ins []

/-- A die's fault unit has room again: the pages that wait start, in the order of their first parked access (R267). -/
def State.pump (s : State) (d : Nat) : State :=
  ((s.queuedPages d).take (32 - s.migrating d)).foldl (fun (s : State) e =>
    let p := s.page e.1
    (s.setPage e.1 { p with state := .migrating, queued := none }).traceMigration e.1 p.toTier false 0) s

/-- Every path and runner of the resident teams that is parked on a page. -/
def State.parkedOn (s : State) (pg : Nat) : List (Nat × Nat × Option Bool × Nat) :=
  s.resident.flatMap fun e =>
    let one := fun (q : Option (Nat × Nat × Nat)) (who : Option Bool) => match q with
      | some (g, va, _) => if g = pg then [(e.1, e.2.1, who, va)] else []
      | none => []
    one (e.2.2.pathA.bind (·.parked)) (some false) ++ one (e.2.2.pathB.bind (·.parked)) (some true) ++ one e.2.2.runner.parked none

/-- One agent released from its parking. -/
def State.unpark (s : State) (c slot : Nat) (who : Option Bool) : State :=
  match s.team c slot with
  | none => s
  | some t => s.setTeam c slot (match who with
    | some side => t.setAt side ((t.at side).map fun p => { p with parked := none })
    | none => { t with runner := { t.runner with parked := none } })

/-- One parked instruction raises trap 0x05 for want of room (R358). -/
def State.trapParked (s : State) (e : Nat × Nat × Option Bool × Nat) : State :=
  match s.team e.1 e.2.1 with
  | none => s
  | some t =>
    let s := s.unpark e.1 e.2.1 e.2.2.1
    let r := s.noRoom t.ctx e.2.2.2
    let aux : Word := 0x80000000 ||| BitVec.ofNat 32 (min r.1 0x7FFFFFFF)
    r.2.trapAgent e.1 e.2.1 e.2.2.1 e.2.2.2 aux

/-- The parked words of evicted teams: they raise it as their teams return (R358). -/
def State.denyEvicted (s : State) (pg : Nat) : State :=
  (s.cores.flatMap fun e => e.2.evicted.map fun t => (e.1, t.2.uid)).foldl (fun (s : State) e =>
    [some false, some true, none].foldl (fun (s : State) who =>
      match s.teamUid e.1 e.2 with
      | none => s
      | some t => match t.agent who with
        | none => s
        | some p => match p.parked with
          | none => s
          | some (g, va, _) =>
            if g ≠ pg then s
            else
              let r := s.noRoom t.ctx va
              let t := t.setAgent who { p with parked := none }
              r.2.setUid e.1 { t with denied := t.denied ++ [(who, va, 0x80000000 ||| BitVec.ofNat 32 (min r.1 0x7FFFFFFF))] }) s) s

/-! ### Driver commands (R358) -/

/-- The page that a lookup for a context gives at an address, and whether its leaf pins it or makes it a host window; none for host
memory (R357). -/
def State.mappedPage (s : State) (x va : Nat) : Option (Nat × Bool) :=
  match s.lookup x va with
  | some (e, size) => if bit e 5 then none else some (pageOf (entryAddr e + va % size), bit e 9 || bit e 6)
  | none => none

def State.migDone (s : State) (die : Nat) : State := s.setDie die { s.die die with migSt := 2, migWhy := 0, migPage := none }
def State.migRefuse (s : State) (die why : Nat) : State := s.setDie die { s.die die with migSt := 3, migWhy := why, migPage := none }
def State.migBusy (s : State) (die pg : Nat) : State := s.setDie die { s.die die with migSt := 1, migWhy := 0, migPage := some pg }

/-- MIGCMD's fields are kept; a command while one is busy is ignored. -/
def State.migCommand (s : State) (die ctx : Nat) (va : BitVec 48) (f : State → Nat → Bool → State) : Result :=
  if 2 ≤ die then .fault .noSuchPlace
  else
    let va := va.toNat / 65536 * 65536
    let s := s.setDie die { s.die die with migVa := va, migCtx := ctx }
    if (s.die die).migSt = 1 then .next s
    else
      let s' := { s with fresh := s.fresh + 1 }
      match s.mappedPage ctx va with
      | none => .next (s'.migRefuse die 3)
      | some (pg, pin) => .next (f s' pg pin)

/-- MIGRATE_TO_CAPACITY_TIER. -/
def execMigrateToCapacityTier (die ctx : Nat) (va : BitVec 48) (s : State) : Result :=
  s.migCommand die ctx va fun s pg pin =>
    let p := s.page pg
    match p.state with
      | .remote => s.migDone die
      | .unbacked => s.migDone die
      | .migrating => if p.pin || pin || p.window then s.migRefuse die 1 else if p.toTier then s.migBusy die pg else s.migRefuse die 2
      | .resident =>
        if p.pin || pin || p.window then s.migRefuse die 1
        else if s.tierFull then s.migRefuse die 2
        else if p.queued.isSome then s.migBusy die pg
        else if 32 ≤ s.migrating (homeDie (65536 * pg)) then
          (s.number.2.setPage pg { p with queued := some s.number.1, toTier := true }).migBusy die pg
        else ((s.traceMigration pg true false 0).setPage pg { p with state := .migrating, toTier := true }).migBusy die pg

/-- MIGRATE_TO_HBM. -/
def execMigrateToHbm (die ctx : Nat) (va : BitVec 48) (s : State) : Result :=
  s.migCommand die ctx va fun s pg _ =>
    match (s.page pg).state with
    | .remote => (s.beginMigration ctx pg).migBusy die pg
    | .migrating => if (s.page pg).toTier then s.migRefuse die 2 else s.migBusy die pg
    | _ => s.migDone die

/-- PIN_PAGE. -/
def execPinPage (die ctx : Nat) (va : BitVec 48) (s : State) : Result :=
  s.migCommand die ctx va fun s pg _ => (s.setPage pg { s.page pg with pin := true }).migDone die

/-- UNPIN_PAGE. -/
def execUnpinPage (die ctx : Nat) (va : BitVec 48) (s : State) : Result :=
  s.migCommand die ctx va fun s pg _ => (s.setPage pg { s.page pg with pin := false }).migDone die

/-! ### Capacity policy (R13, R14, R359) -/

/-- Granules of a die's pool at an overcommit: 256 GiB less descriptors and firmware. -/
def poolOf (ovc : Nat) : Nat := (256 * 2 ^ 30 - ovc * 2 ^ 30 / 2 ^ 21 * 2 ^ 21 / 64 - 512 * 2 ^ 20) / 32

/-- CAPCFG_WRITE: taken only while no context is created. -/
def execCapcfgWrite (die : Nat) (value : BitVec 32) (s : State) : Result :=
  if 2 ≤ die then .fault .noSuchPlace
  else if s.ctxs.any fun e => e.2.ptb != 0 then .next s
  else
    let o := max 256 (min 768 (bits value.toNat 9 0))
    let k := s.die die
    let k := if s.stage = 3 then { k with pool := poolOf o, free := poolOf o - (k.pool - k.free) } else k
    .next (s.setDie die { k with ovc := o })

/-! ### Balloons (R185, R312, R359) -/

/-- BALLOON_REQUEST: a request is raised, and replaces one that is open. -/
def execBalloonRequest (ctx : Nat) (value : BitVec 32) (s : State) : Result :=
  if 64 ≤ ctx then .fault .noSuchPlace
  else if value = 0 then .next s
  else
    let s := if (s.ctx ctx).blnOpen then
        (s.traceBalloon ctx 0 3).setCtx ctx { (s.traceBalloon ctx 0 3).ctx ctx with blnRepl := true } else s
    let k := s.ctx ctx
    let id := if k.blnId + 1 = 0 then 1 else k.blnId + 1
    .next ((s.setCtx ctx { k with blnReq := value, blnId := id, blnCred := 0, blnOpen := true }).traceBalloon ctx 0 0)

/-- BALLOON_CLOSE. -/
def execBalloonClose (ctx : Nat) (s : State) : Result :=
  if 64 ≤ ctx then .fault .noSuchPlace else .next (s.setCtx ctx { s.ctx ctx with blnOpen := false })

/-! ### Invalidation (R357) -/

/-- TRANSLATION_INVALIDATE: a write of CTXINV. -/
def execTranslationInvalidate (ctx : Nat) (value : BitVec 64) (s : State) : Result :=
  if 64 ≤ ctx then .fault .noSuchPlace
  else
    let k := s.ctx ctx
    if value.getLsbD 0 && !k.invDone then .next s
    else
      let w := value &&& 0xFFFFFFFFFFFF0004
      .next (s.setCtx ctx { k with
        invReg := w, invRange := if value.getLsbD 0 then w else k.invRange, invDone := k.invDone && !value.getLsbD 0 })

/-- A cached translation lies in the range that a CTXINV word names (R357). -/
def inRange (w : DWord) (e : Nat × Nat × DWord) : Bool :=
  let first := bits w.toNat 47 16 * 65536
  w.getLsbD 2 || (decide (e.1 < first + 65536 * (bits w.toNat 63 48 + 1)) && decide (first < e.1 + e.2.1))

/-- A location lies in the page that a cached translation names. -/
def Loc.through (e : Nat × Nat × DWord) : Loc → Bool
  | .dev da _ _ _ => let a := entryAddr e.2.2.toNat; !e.2.2.getLsbD 5 && decide (a ≤ da) && decide (da < a + e.2.1)
  | .host pa => let a := entryAddr e.2.2.toNat; e.2.2.getLsbD 5 && decide (a ≤ pa) && decide (pa < a + e.2.1)

/-- Locations that an outstanding operation still reads or writes. -/
def Op.places (o : Op) : List Loc :=
  let dev := fun da => Loc.dev da false false false
  match o.kind with
  | .load _ _ _ _ lanes => lanes.map (·.loc)
  | .atom _ _ _ none lanes => lanes.map (·.loc)
  | .store lanes => lanes.map (·.1.loc)
  | .copy _ _ _ _ rows => rows.flatMap fun r => r.global.map (·.loc)
  | .cwb runs _ => runs.flatMap fun r => (List.range (r.2 / 512 + 1)).map fun i => dev (128 * min (r.1 + 512 * i) (r.1 + r.2 - 1))
  | .surrender _ pages _ => pages.map fun p => dev (65536 * p)
  | .blkq _ (some da) => [dev da]
  | _ => []

/-- An access of a context that used one of the translations being invalidated is outstanding; TRANS and loads that have been
performed and have not returned, whose places are no longer known, count as such. -/
def State.accessing (s : State) (x : Nat) : Bool :=
  let k := s.ctx x
  let gone := k.xlat.filter (inRange k.invRange)
  s.allTeams.any fun e => e.2.ctx == x && e.2.ops.any fun o => !o.done && (match o.kind with
    | .trans _ _ _ _ => !gone.isEmpty
    | .loaded _ _ _ _ => !gone.isEmpty && o.code != 1
    | _ => o.places.any fun l => gone.any fun g => l.through g)

/-- INVALIDATION_DONE. -/
def execInvalidationDone (ctx : Nat) (s : State) : Result :=
  let k := s.ctx ctx
  if k.invDone || s.accessing ctx then .next s
  else
    .next { (s.setCtx ctx { k with invDone := true, xlat := k.xlat.filter fun e => !inRange k.invRange e }).closeWindows with
      former := s.former.filter fun e => !(e.1 == ctx && inRange k.invRange (e.2.1, e.2.2.1, 0)) }

/-- REPLICATION_WINDOW_CLEAR: at a tick that is a multiple of 2^20 (R268). -/
def execReplicationWindowClear (s : State) : Result :=
  if s.tick.toNat / 2 ^ 20 = s.window then .next s
  else .next { s with
    window := s.tick.toNat / 2 ^ 20, pages := s.pages.map fun e => (e.1, { e.2 with reads := 0, writes := 0 }) }

end Sys2Proof.Machine
end

