-- ==== Sys2Proof/Machine/Runner.lean ====
section
/-!
DEFINITION. The runner and its queues (R230 to R236).
-/

namespace Sys2Proof.Machine

/-- Word 0 of the kernel's packet 0, as it stands when a RUN looks for the runner mark there; the mark tells by its value alone
whether a runner is declared, so a page that is no longer measured does not hide it (R231, R255; DESIGN CHOICE, log 78). -/
def State.runnerMark (s : State) (v : View) : Fetched :=
  let va := v.team.image + 64
  if v.team.codesz < 12 then .trap 0x01 0 0
  else match s.check v.team.ctx Intent.fetch va with
    | .fault aux => .trap 0x04 (failVa aux va) aux
    | .short _ => .trap 0x05 (BitVec.ofNat 64 (va / 65536 * 65536)) 0x80000000
    | .away pg => .away pg (va / 65536 * 65536)
    | .found loc => .word (BitVec.ofNat 32 (leNat (s.readLoc (dieOf v.core) loc 4)))

/-- Runner loads and TRANS.S still in flight: a stopped runner's last word has its results before a new run (R231, R232). -/
def Op.ofRunner (o : Op) : Bool := o.byRunner && o.code == 7

/-- RUN.  The spec does not say when the device reads the mark, nor what RUN does where it cannot be read: each RUN reads it by a
fetch, which traps 0x04 or 0x05, waits for an away page, counts as a read of its page (R268) and meets its errors (R367) as a
fetch does (R255; DESIGN CHOICE, log 78). -/
def runWord (o : BitVec 16) (s : State) (v : View) : Effect :=
  if v.team.runner.running || v.team.two then Effect.plain 0x01
  else
    let va := v.team.image + 64
    let s := (s.clearWay v.core (s.linesAt v.team.ctx [va])).readRun (dieOf v.core) v.team.ctx va 4
    match s.runnerMark v with
    | .away pg va => s.park v pg va 3
    | .word w =>
      if w ≠ 0x60000000 then Effect.plain 0x01
      else
        let r : Runner := ⟨v.target (immInt v.path.ext o), 0, (List.range 16).map fun n => v.s n 0, [], [false, false, false, false],
          none, true, false, false, false, 0, none, none, (0, 0), none, v.time⟩
        .done (s.modTeam v fun t => { t with runner := r, ops := t.ops.filter fun o => !o.ofRunner })
    | .trap cause fault aux => if cause = 0x04 ∨ cause = 0x05 then .trap cause fault aux else Effect.plain 0x01

/-- RSTOP: the runner stops after its current word. -/
def rstopWord (s : State) (v : View) : Effect :=
  let r := v.team.runner
  .done (s.modTeam v fun t => { t with runner :=
    if r.running && (r.parked.isSome || r.refill.isSome) then { t.runner with stopping := true } else { t.runner with running := false } })

/-- The word that QSTAT gives (R233). -/
def Team.qstat (t : Team) (q : Nat) : Word :=
  BitVec.ofNat 32 ((t.queues.getD q []).length + t.runner.running.toNat * 2 ^ 8 + t.runner.fault.toNat * 2 ^ 9 +
    t.runner.exited.toNat * 2 ^ 10 + t.runner.cause.toNat * 2 ^ 16)

/-- The trap of a pop that too few entries answer while the runner is stopped (R235). -/
def queueShort (t : Team) (q k : Nat) : Option Effect :=
  if (t.queues.getD q []).length < k then some (.trap 0x01 ((t.qstat q).setWidth 64) 0) else none

/-- The oldest `k` entries leave a queue. -/
def Team.pop (t : Team) (q k : Nat) : Team := { t with queues := t.queues.set q ((t.queues.getD q []).drop k) }

/-- The latency of a pop from its word's issue: 2 cycles after the entries are taken, which in a chain may be later (R63, R235). -/
def State.popLatency (s : State) (v : View) : Nat := s.cycle v.core - v.time + 2

/-- QPOP.  A register filled from a poisoned entry keeps the pop's own PC as that of its load (DESIGN CHOICE, log 70). -/
def qpopWord (d : BitVec 6) (q : BitVec 2) (s : State) (v : View) : Effect :=
  let k := v.active.length
  if 32 < k then Effect.plain 0x01
  else
    match queueShort v.team q.toNat k with
    | some e => e
    | none =>
      let lat := s.popLatency v
      let got := v.active.zip (v.team.queues.getD q.toNat [])
      let s := s.setV v d.toNat (got.map fun (e : Nat × Entry) => (e.1, e.2.value.setWidth 32)) lat false
      let s := s.setV v (d.toNat + 1) (got.map fun (e : Nat × Entry) => (e.1, (e.2.value >>> 32).setWidth 32)) lat false
      let bad := (got.filter fun e => e.2.poison).flatMap fun e => [(d.toNat, e.1, v.path.pc), (d.toNat + 1, e.1, v.path.pc)]
      .done (s.modTeam v fun t => { t.pop q.toNat k with vpoison := t.vpoison ++ bad })

/-- QPOPS: s63 takes nothing (R46); the PC kept with a poisoned entry is the pop's (DESIGN CHOICE, log 70). -/
def qpopsWord (d : BitVec 6) (q : BitVec 2) (s : State) (v : View) : Effect :=
  match v.team.queues.getD q.toNat [] with
  | [] => .trap 0x01 ((v.team.qstat q.toNat).setWidth 64) 0
  | e :: _ =>
    let s := s.setSPair v d.toNat e.value (s.popLatency v)
    let s := if e.poison then s.modPath v fun p => { p with
        poison := ([d.toNat, d.toNat + 1].filter fun r => decide (r < 63)).map (fun r => (r, v.path.pc)) ++ p.poison } else s
    .done (s.modTeam v fun t => t.pop q.toNat 1)

/-- QPUSH; one with F has waited until the pusher's earlier copies had completed (R234). -/
def qpushWord (a : BitVec 6) (q : BitVec 2) (s : State) (v : View) : Effect :=
  let bad := v.path.poison.any fun e => e.1 == a.toNat || e.1 == a.toNat + 1
  let entry : Entry := ⟨v.sPair a.toNat 0, bad⟩
  .done (s.modTeam v fun t => { t with queues := t.queues.set q.toNat (t.queues.getD q.toNat [] ++ [entry]) })

/-- RUN (R231). -/
def execRun (c : BitVec 1) (w : BitVec 2) (o : BitVec 16) (s : State) : Result :=
  issueWord (.run c w o) (runWord o) s

/-- RSTOP (R231). -/
def execRstop (c : BitVec 1) (w : BitVec 2) (s : State) : Result :=
  issueWord (.rstop c w) (rstopWord) s

/-- QPOP (R235). -/
def execQpop (c : BitVec 1) (w : BitVec 2) (d : BitVec 6) (q : BitVec 2) (s : State) : Result :=
  issueWord (.qpop c w d q) (qpopWord d q) s

/-- QPOPS (R235). -/
def execQpops (c : BitVec 1) (w : BitVec 2) (d : BitVec 6) (q : BitVec 2) (s : State) : Result :=
  issueWord (.qpops c w d q) (qpopsWord d q) s

/-- QPUSH (R234). -/
def execQpush (c : BitVec 1) (w : BitVec 2) (a : BitVec 6) (q : BitVec 2) (f : BitVec 1) (s : State) : Result :=
  issueWord (.qpush c w a q f) (qpushWord a q) s

/-- QSTAT (R233). -/
def execQstat (c : BitVec 1) (w : BitVec 2) (d : BitVec 6) (q : BitVec 2) (s : State) : Result :=
  issueWord (.qstat c w d q) (fun s v => .done (s.setS v d.toNat (v.team.qstat q.toNat) 1)) s

end Sys2Proof.Machine
end

