-- ==== Sys2Proof/Machine/Sync.lean ====
section
/-!
DEFINITION. Waiting, barriers, fences, spine publication and register blocks (R28 to R31, R112 to R118).
-/

namespace Sys2Proof.Machine

/-! ### Waiting on counters and queues (R112, R116) -/

/-- A wait on the COL counter over: a recorded mismatch traps instead, the oldest first (R224); completed CBARs
are observed (R228, R301). -/
def colObserved (s : State) (v : View) : Effect :=
  match (s.teamOf v).mismatches with
  | n :: rest => .ended ((s.modTeam v fun t => { t with mismatches := rest }).trapView v 0x01 (BitVec.ofNat 64 n) 0 0)
  | [] => .done (s.modTeam v fun t => { t with gc := t.gc + t.cbars, cbars := 0 })

/-- WAITC and WAITCI once the counter is at its threshold (R112). -/
def waitWord (h : BitVec 3) (s : State) (v : View) : Effect := if h = 5 then colObserved s v else .done s

/-- QFENCE once the named queues are empty (R116). -/
def qfenceWord (m : BitVec 5) (s : State) (v : View) : Effect :=
  if m.getLsbD 3 && !(s.teamOf v).mismatches.isEmpty then colObserved s v else .done s

/-! ### Barriers (R113, R114, R28) -/

def Cohort.bar (h : Cohort) (b : Nat) : Barrier := (Table.get h.bars b).getD ⟨0, []⟩

/-- The cohort's open phase of a barrier completes when every team has arrived in it or has exited (R113). -/
def State.completePhase (s : State) (c id b : Nat) : State :=
  match s.cohort c id with
  | none => s
  | some h =>
    let k := h.bar b
    if (h.exited ++ k.arrived).eraseDups.length < h.size then s
    else
      let s := s.setCohort c { h with bars := Table.put h.bars b ⟨k.phase + 1, []⟩ }
      let up := fun (t : Team) => if t.cohort = id then { t with gb := t.gb + 1 } else t
      let k := s.core c
      s.setCore c { k with teams := k.teams.map fun e => (e.1, up e.2), evicted := k.evicted.map fun e => (e.1, up e.2) }

/-- The team arrives in the current phase: a release at core scope (R114, R243). -/
def State.arrive (s : State) (v : View) (b : Nat) : State :=
  let t := s.teamOf v
  match s.cohort v.core t.cohort with
  | none => s
  | some h =>
    let n := (h.bar b).phase
    let s := (s.performRelease v.core t.uid).modTeam v fun t => { t.markReleased with arrivals := Table.put t.arrivals b n }
    let s := match s.cohort v.core t.cohort with
      | some h => s.setCohort v.core { h with bars := Table.put h.bars b ⟨n, (t.uid :: (h.bar b).arrived).eraseDups⟩ }
      | none => s
    s.completePhase v.core t.cohort b

/-- BAR (`stay`) and BARA (R113); with two live paths the arrival counts once both have executed the word (R28). -/
def barWord (stay : Bool) (b : BitVec 4) (s : State) (v : View) : Effect :=
  let b := b.toNat
  let t := s.teamOf v
  let p := s.pathOf v
  let n := ((s.cohort v.core t.cohort).map fun h => (h.bar b).phase).getD 0
  match p.bar with
  | some (.phase b' m) =>
    if stay && s.phaseOpen v b' m then .wait s 10 else .done (s.modPath v fun p => { p with bar := none })
  | _ =>
    match t.at (!v.side) with
    | some q =>
      match q.bar with
      | some (.arrive b' _) =>
        if b' = b then
          let s := s.modTeam v fun t => t.setAt (!v.side) (some { q with bar := some (.phase b n) })
          let s := (s.modPath v fun p => { p with bar := none }).arrive v b
          if stay && s.phaseOpen v b n then .wait (s.modPath v fun p => { p with bar := some (.phase b n) }) 10 else .done s
        else .wait (s.modPath v fun p => { p with bar := some (.arrive b stay) }) 10
      | _ => .wait (s.modPath v fun p => { p with bar := some (.arrive b stay) }) 10
    | none =>
      let s := (s.modPath v fun p => { p with bar := none }).arrive v b
      if stay && s.phaseOpen v b n then .wait (s.modPath v fun p => { p with bar := some (.phase b n) }) 10 else .done s

/-! ### Fences (R115, R243, R244) -/

/-- FENCE: a release holds the path's next word, an acquire its next access. -/
def fenceWord (o : BitVec 2) (e : BitVec 3) (s : State) (v : View) : Effect :=
  let t := s.teamOf v
  let rel := o == 2 || o == 3
  let acq := o == 1 || o == 3
  if acq && e == 6 && t.ops.any (fun o => !o.byRunner && o.isRead) then .wait s (if t.ops.any fun o => o.code == 0 then 3 else 4)
  else if acq && e == 6 && s.promoteHeld then .wait s 9
  else
  let s := if acq && e == 6 then s.promote else s
  let s := if rel && e != 0 then s.modTeam v Team.markReleased else s
  .done (s.modPath v fun p => { p with
    releaseOps := if rel then ((t.ops.filter fun o => o.blocksRelease e.toNat).map (·.id)) ++ s.pastReleases v e.toNat else p.releaseOps
    acquireOps := if acq then (t.ops.filter fun o => !o.byRunner && o.isRead).map (·.id) else p.acquireOps })

/-! ### The spine (R40, R117) -/

/-- SPOUT.  Traps 0x03 and 0x06 of its source come before its own trap 0x01, an order the spec does not give (DESIGN CHOICE,
log 88). -/
def spoutWord (n : BitVec 2) (a : BitVec 6) (s : State) (v : View) : Effect :=
  match s.launch v.team.ctx v.team.launch with
  | none => Effect.plain 0x01
  | some l =>
    if !l.rcd.ordered || !(l.slotInfo n.toNat).declared then Effect.plain 0x01
    else .done (s.publish v.team.ctx l (clusterOf v.core) v.team.item.toNat n.toNat (v.s a.toNat 0) false)

/-! ### Register blocks (R30, R31, R118) -/

/-- The extended registers all zero, not poisoned, with no earlier value to read. -/
def Team.clearExt (t : Team) : Team :=
  { t.mapPaths (fun p => { p with lag := p.lag.filter fun g => !(decide (64 + t.base ≤ g.reg) && decide (g.reg < 128)) }) with
    v := t.v.zipIdx.map fun e => if t.base ≤ e.2 ∧ e.2 < t.base + t.extn then List.replicate t.lanes 0 else e.1
    vpoison := t.vpoison.filter fun q => decide (q.1 < t.base) }

/-- The block granted to a GROW or a GROWT. -/
def Team.grown (t : Team) : Team := { t.clearExt with extHeld := true, growPending := false, granted := false }

/-- The traps of GROW and GROWT: two live paths (R28); a block held or none declared (R30), whose fault address
the spec does not give a register number for and is free (log 10). -/
def growTrap (v : View) : Option Effect :=
  if v.team.two then some (Effect.plain 0x01)
  else if v.team.extHeld || v.team.extn == 0 then some (.trap 0x02 ((Config.freeWord v.key).setWidth 64) 0)
  else none

/-- GROW: granted at once, or pending until GROW_GRANT, whose grant it completes. -/
def growWord (s : State) (v : View) : Effect :=
  if v.team.granted then .done (s.modTeam v fun t => { t with granted := false })
  else match growTrap v with
    | some e => e
    | none =>
      if s.canGrow v.core (s.teamOf v) then .done (s.modTeam v Team.grown)
      else .wait (s.modTeam v fun t => { t with growPending := true }) 14

/-- GROWT: never waits (R31). -/
def growtWord (k : BitVec 2) (s : State) (v : View) : Effect :=
  match growTrap v with
  | some e => e
  | none =>
    let ok := s.canGrow v.core (s.teamOf v)
    .done ((if ok then s.modTeam v Team.grown else s).setC v k.toNat ok (v.time + 1))

/-- SHRINK: the extended block's contents are lost. -/
def shrinkWord (s : State) (v : View) : Effect :=
  if v.team.two then Effect.plain 0x01
  else if v.team.extHeld then .done (s.modTeam v fun t => { t.clearExt with extHeld := false })
  else .done s

/-- WAITC: waits until the counter is at or below s(A) (R112). -/
def execWaitc (c : BitVec 1) (w : BitVec 2) (h : BitVec 3) (a : BitVec 6) (s : State) : Result :=
  issueWord (.waitc c w h a) (waitWord h) s

/-- WAITCI: waits until the counter is at or below N (R112). -/
def execWaitci (c : BitVec 1) (w : BitVec 2) (h : BitVec 3) (n : BitVec 6) (s : State) : Result :=
  issueWord (.waitci c w h n) (waitWord h) s

/-- BAR (R113). -/
def execBar (c : BitVec 1) (w : BitVec 2) (b : BitVec 4) (s : State) : Result :=
  issueWord (.bar c w b) (barWord true b) s

/-- BARA (R113). -/
def execBara (c : BitVec 1) (w : BitVec 2) (b : BitVec 4) (s : State) : Result :=
  issueWord (.bara c w b) (barWord false b) s

/-- BARW: continues once the phase of the team's last arrival has completed (R113). -/
def execBarw (c : BitVec 1) (w : BitVec 2) (b : BitVec 4) (s : State) : Result :=
  issueWord (.barw c w b) (fun s _ => .done s) s

/-- FENCE (R115). -/
def execFence (c : BitVec 1) (w : BitVec 2) (o : BitVec 2) (e : BitVec 3) (s : State) : Result :=
  issueWord (.fence c w o e) (fenceWord o e) s

/-- QFENCE (R116). -/
def execQfence (c : BitVec 1) (w : BitVec 2) (m : BitVec 5) (s : State) : Result :=
  issueWord (.qfence c w m) (qfenceWord m) s

/-- SPOUT (R117). -/
def execSpout (c : BitVec 1) (w : BitVec 2) (n : BitVec 2) (a : BitVec 6) (s : State) : Result :=
  issueWord (.spout c w n a) (spoutWord n a) s

/-- GROW (R31, R118). -/
def execGrow (c : BitVec 1) (w : BitVec 2) (s : State) : Result :=
  issueWord (.grow c w) (growWord) s

/-- GROWT (R31, R118). -/
def execGrowt (c : BitVec 1) (w : BitVec 2) (k : BitVec 2) (s : State) : Result :=
  issueWord (.growt c w k) (growtWord k) s

/-- SHRINK (R31, R118). -/
def execShrink (c : BitVec 1) (w : BitVec 2) (s : State) : Result :=
  issueWord (.shrink c w) (shrinkWord) s

end Sys2Proof.Machine
end

