-- ==== Sys2Proof/Machine/Scheduler.lean ====
section
/-!
DEFINITION. The scheduler of each die: dispatch of cohorts and bin teams, the end of teams and launches, bins,
register blocks that are granted, eviction and return, and operating points (R18, R19, R29 to R39, R331 to R338).
-/

namespace Sys2Proof.Machine

/-! ### What a core accepts (R19) -/

def Core.freeSlots (k : Core) : List Nat := (List.range 16).filter fun i => (Table.get k.teams i).isNone

/-- The core has no resident or evicted team, so it takes new boundary values. -/
def Core.vacant (k : Core) : Bool := k.teams.isEmpty && k.evicted.isEmpty

/-- A cohort of `n` teams can be dispatched to the core. -/
def Core.accepts (k : Core) (r : Record) (h : Header) (n : Nat) : Bool :=
  let bound := k.bndReg == r.breg && k.bndScr == r.bscr && k.bndL1 == r.bl1
  let held := k.cohorts.foldl (fun n c => n + c.scrb) 0
  decide (n ≤ k.freeSlots.length) && (k.vacant || bound) && k.evicted.isEmpty &&
    decide (k.regBytes + n * r.lanes * (8 * h.bb) * 4 ≤ 16384 * r.breg) && decide (held + h.scrb ≤ 16384 * (r.bscr - r.breg))

/-! ### Rectangles (R335, R336) -/

def Rect.cluster24 (r : Rect) : Nat := 12 * r.die + r.cluster

/-- The cores of a rectangle in row-major order. -/
def Rect.cores (r : Rect) : List Nat :=
  (List.range r.high).flatMap fun y => (List.range r.wide).map fun x =>
    96 * r.cluster24 + 12 * (r.y0 + y) + r.x0 + x

/-- Free team slots within a rectangle. -/
def State.freeIn (s : State) (r : Rect) : Nat := r.cores.foldl (fun n c => n + (s.core c).freeSlots.length) 0

/-- The first of the rectangles with the most free slots. -/
def State.roomiest (s : State) : List Rect → Option (Rect × Nat) → Option Rect
  | [], m => m.map (·.1)
  | r :: rest, m =>
    let n := s.freeIn r
    s.roomiest rest (match m with
      | some (q, k) => if k < n then some (r, n) else some (q, k)
      | none => some (r, n))

/-- The rectangle of a launch at its first dispatch: the record's, or the scheduler's choice on a die in service. -/
def State.rectFor (s : State) (r : Record) : Option Rect :=
  if !r.pany then some ⟨r.pdie, 4 * r.pky + r.pkx, r.px0, r.py0, r.pw + 1, r.ph + 1⟩
  else
    s.roomiest (((List.range 2).filter fun d => !(s.die d).withheld).flatMap fun d => (List.range 12).flatMap fun k =>
      (List.range (8 - r.ph)).flatMap fun y => (List.range (12 - r.pw)).map fun x => ⟨d, k, x, y, r.pw + 1, r.ph + 1⟩) none

/-- The cores of a rectangle from a position on, wrapping. -/
def Rect.scanFrom (r : Rect) (at' : Nat) : List Nat := r.cores.drop at' ++ r.cores.take at'

/-! ### Candidates (R39, R336, R337) -/

/-- A cohort or bin team that some core of the cluster can accept. -/
structure Candidate where
  ctx : Nat
  launch : Launch
  /-- Place of a closed bin in its cluster's list; none for a cohort. -/
  bin : Option Nat
  seq : Nat
  core : Nat
  rect : Option Rect
  deriving DecidableEq, Repr

/-- Teams of the next cohort of a launch (R18). -/
def Launch.nextCohort (l : Launch) : Nat := min (cohortOf l.rcd) (l.rcd.nitems - l.nextItem)

/-- The window of an ordered launch is open for its next item (R39). -/
def Launch.windowOpen (l : Launch) (area : Nat) : Bool :=
  !l.rcd.ordered || (match l.live.foldl (fun (m : Option Nat) i => match m with
    | none => some i
    | some j => some (min i j)) none with
  | none => true
  | some o => decide (l.nextItem - o < 16 * area))

/-- The context runs: its launches may be dispatched (R332, R347). -/
def Ctx.runs (k : Ctx) : Bool := k.pstate == 0

/-- Cohorts that can be placed in a cluster. -/
def State.cohortCandidates (s : State) (cluster : Nat) : List Candidate :=
  s.ctxs.flatMap fun e => if !e.2.runs then [] else e.2.launches.filterMap fun l =>
    if !l.ready || l.spawned.isSome || decide (l.rcd.nitems ≤ l.nextItem) then none
    else
      match (match l.rect with | some r => some r | none => s.rectFor l.rcd) with
      | none => none
      | some r =>
        if r.cluster24 ≠ cluster || !l.windowOpen (r.wide * r.high) then none
        else ((r.scanFrom l.scan).find? fun c => (s.core c).accepts l.rcd l.hdr l.nextCohort).map fun c =>
          ⟨e.1, l, none, l.nextItem, c, some r⟩

/-- Closed bins of a cluster whose team a core can accept. -/
def State.binCandidates (s : State) (cluster : Nat) : List Candidate :=
  (s.cluster cluster).zipIdx.filterMap fun e =>
    let b := e.1
    if !b.closed || !(s.ctx b.ctx).runs then none
    else
      match s.launch b.ctx b.launch with
      | none => none
      | some l =>
        let fits := fun c => (s.core c).accepts l.rcd l.hdr 1
        let cores := (List.range 96).map (96 * cluster + ·)
        (if b.closer / 96 = cluster && fits b.closer then some b.closer else cores.find? fits).map fun c =>
          ⟨b.ctx, l, some e.2, b.closedSeq, c, none⟩

/-- Candidate `a` is taken before `b`: priority, then the launch ready first, then item or closing order. -/
def Candidate.before (a b : Candidate) : Bool :=
  decide (b.launch.rcd.prio < a.launch.rcd.prio) || (a.launch.rcd.prio == b.launch.rcd.prio &&
    (decide (a.launch.readySeq < b.launch.readySeq) || (a.launch.readySeq == b.launch.readySeq && decide (a.seq < b.seq))))

/-- The candidate the scheduler takes next in a cluster. -/
def State.nextDispatch (s : State) (cluster : Nat) : Option Candidate :=
  (s.cohortCandidates cluster ++ s.binCandidates cluster).foldl (fun (m : Option Candidate) c => match m with
    | none => some c
    | some b => if c.before b then some c else m) none

/-! ### Placing teams -/

/-- Operating point a die is capped at (R365). -/
def State.capOf (s : State) (d : Nat) : Nat := min (s.die d).effCap s.pf.tcap

/-- A team's launch asks for a point above its die's, as far as the cap allows (R338). -/
def State.belowPoint (s : State) (c : Nat) (t : Team) : Bool :=
  match s.launch t.ctx t.launch with
  | some l => decide ((s.die (dieOf c)).point < min l.rcd.dvfs (s.capOf (dieOf c)))
  | none => false

/-- Teams that wait for a point that has been reached, or that the cap no longer allows, go on (R338). -/
def State.releasePoints (s : State) : State :=
  { s with cores := s.cores.map fun (e : Nat × Core) => (e.1, { e.2 with teams := e.2.teams.map fun (t : Nat × Team) =>
      (t.1, { t.2 with pointWait := t.2.pointWait && s.belowPoint e.1 t.2 }) }) }

/-- Hints of launches that have a resident team on a die, or a ready cohort or the team of a closed bin queued for it (R338). -/
def State.hints (s : State) (d : Nat) : List Nat :=
  ((s.resident.filter fun e => dieOf e.1 == d).filterMap fun e => (s.launch e.2.2.ctx e.2.2.launch).map (·.rcd.dvfs)) ++
    (s.bins.filter fun e => e.1 / 12 == d).flatMap (fun e => (e.2.filter (·.closed)).filterMap fun b => (s.launch b.ctx b.launch).map (·.rcd.dvfs)) ++
    s.ctxs.flatMap fun e => e.2.launches.filterMap fun l =>
      if l.ready && decide (l.nextItem < l.rcd.nitems) && (match l.rect with | some r => r.die == d | none => !l.rcd.pany && l.rcd.pdie == d)
      then some l.rcd.dvfs else none

/-- A die's target for what runs on it and what waits for it. -/
def State.targetNow (s : State) (d : Nat) : Nat := min (s.capOf d) ((s.hints d).foldl max 0)

/-- A die's target after a change of what runs on it. -/
def State.retarget (s : State) (d : Nat) : State := s.setDie d { s.die d with target := s.targetNow d }

/-- The first free base of a scratchpad region of `n` bytes among regions held. -/
def regionBase (held : List Cohort) (n : Nat) : Nat :=
  let starts := 0 :: held.map fun c => c.base + c.scrb
  let free := fun b => held.all fun c => decide (b + n ≤ c.base) || decide (c.base + c.scrb ≤ b)
  (starts.filter free).foldl (fun m b => min m b) (held.foldl (fun m c => max m (c.base + c.scrb)) 0)

/-- Teams of a launch made resident on a core as one cohort: items with their lane arguments and counts of lanes.  The ages
of teams that become resident together follow their TEAMIDX (DESIGN CHOICE, log 65). -/
def State.settleCohort (s : State) (x : Nat) (l : Launch) (c : Nat) (items : List (Nat × Option (List Word))) : State :=
  let k := s.core c
  let r := l.rcd
  let id := s.serial
  let n := items.length
  let first := !(k.l1Launch.contains (x, l.id))
  let region : Cohort := ⟨id, x, l.id, n, (List.range n).map (id + 1 + ·), [], id, regionBase k.cohorts l.hdr.scrb, l.hdr.scrb, [], [], [], [], []⟩
  let wait := decide ((s.die (dieOf c)).point < min r.dvfs (s.capOf (dieOf c)))
  let teams := (k.freeSlots.zip items).zipIdx.map fun e =>
    let item := e.1.2.1
    let t := Team.fresh (id + 1 + e.2) x l.id item r.lanes (groupOf r.gw) (8 * l.hdr.bb) (8 * l.hdr.eb) id e.2 n (id + 1 + e.2) r.prio
      r.entry l.hdr.codesz l.hdr.nbar l.hdr.scrb (r.checkSb || l.hdr.checkSb) (r.race || l.hdr.race)
    let t := { t with
      gen := (List.range r.lanes).map (seed (BitVec.ofNat 32 l.id) (BitVec.ofNat 64 item)), pointWait := wait }
    let t := match e.1.2.2 with
      | none => t
      | some args => { t with
          v := t.v.set 0 ((List.range r.lanes).map fun i => args.getD i 0)
          pathA := some (Path.fresh (maskOf (r.lanes / 32) fun i => decide (i < args.length))) }
    (e.1.1, t)
  let k := if k.vacant then { k with bndReg := r.breg, bndScr := r.bscr, bndL1 := r.bl1, dirty := [], regDirty := [] } else k
  let k := { k with
    teams := teams.foldl (fun m e => Table.put m e.1 e.2) k.teams
    cohorts := k.cohorts ++ [region]
    l1 := if first then [] else k.l1
    l1Launch := if first then (x, l.id) :: k.l1Launch else k.l1Launch }
  let s := { s with serial := id + 1 + n }
  let s := ((s.setCore c k).drawLadles c x).wake c
  if r.race || l.hdr.race then s.dirtyUnits c (16384 * (s.core c).bndScr + region.base / 2) (l.hdr.scrb / 2) else s

/-- The launch-begin record, at the first dispatch (R294). -/
def State.beginLaunch (s : State) (x die : Nat) (l : Launch) (nitems : Nat) : State :=
  if l.begun then s
  else s.trace x 2 (schedSrc die) 0 0 false 0 (nitems % 2 ^ 64 + l.id * 2 ^ 64 + (l.parent.getD 0xFFFFFFFF) * 2 ^ 96)

/-- DISPATCH_COHORT (R18, R335, R336). -/
def execDispatchCohort (die cluster : Nat) (s : State) : Result :=
  match s.nextDispatch (12 * die + cluster) with
  | none => .next s
  | some c =>
    match c.bin, c.rect with
    | none, some r =>
      let l := c.launch
      let items := (List.range l.nextCohort).map (l.nextItem + ·)
      let s := s.beginLaunch c.ctx die l l.rcd.nitems
      let s := s.settleCohort c.ctx l c.core (items.map fun i => (i, none))
      let s := s.setLaunch c.ctx { l with
        rect := some r, scan := ((r.cores.findIdx? (· == c.core)).getD 0 + 1) % (r.wide * r.high),
        nextItem := l.nextItem + items.length, live := l.live ++ items, begun := true }
      .next (s.retarget die)
    | _, _ => .next s

/-- BIN_TEAM_DISPATCH (R34, R35, R337). -/
def execBinTeamDispatch (die cluster : Nat) (s : State) : Result :=
  let kc := 12 * die + cluster
  match s.nextDispatch kc with
  | none => .next s
  | some c =>
    match c.bin with
    | none => .next s
    | some i =>
      match (s.cluster kc)[i]? with
      | none => .next s
      | some b =>
        let l := c.launch
        let key := (kc, b.key, b.opener, b.ctx)
        let item := ((s.binTeams.find? fun e => e.1 == key).map (·.2)).getD 0
        let s := s.beginLaunch c.ctx die l (item + 1)
        let s := s.settleCohort c.ctx l c.core [(item, some b.args)]
        let s := s.setLaunch c.ctx { l with nextItem := item + 1, live := l.live ++ [item], begun := true }
        let s := { s with binTeams := (key, item + 1) :: s.binTeams.filter fun e => e.1 != key }
        .next ((s.setCluster kc ((s.cluster kc).eraseIdx i)).retarget die)

/-! ### The end of a team (R29) -/

/-- Every path has exited, every counter is at zero and every matrix command has retired. -/
def State.finished (s : State) (c : Nat) (t : Team) : Bool :=
  t.pathA.isNone && t.pathB.isNone && t.recs.all (fun r => r.suspended.isNone) &&
    t.ops.all (fun o => o.code == 7) && (s.commandsOf c t.uid).isEmpty

/-- The team counts as arrived at every barrier of its cohort from now on (R113). -/
def State.leaveCohort (s : State) (c id uid : Nat) : State :=
  match s.cohort c id with
  | none => s
  | some h =>
    let s := s.setCohort c { h with exited := uid :: h.exited }
    if h.size ≤ h.exited.length + 1 then
      s.setCore c { s.core c with cohorts := (s.core c).cohorts.filter fun g => g.id != id }
    else h.bars.foldl (fun s e => if e.2.arrived.isEmpty then s else s.completePhase c id e.1) s

/-- TEAM_EXIT: slot, frames and runner released, spine slots published, the item completed. -/
def execTeamExit (core slot : Nat) (s : State) : Result :=
  match s.team core slot with
  | none => .fault .noSuchPlace
  | some t =>
    if !s.finished core t then .next s
    else
      let s := s.performScratch core t.uid
      let t := (s.teamUid core t.uid).getD t
      let s := if t.killed then s else s.publishAll core t (fun r => wordAt t.lastS r) false
      let s := (s.dropTeam core slot).leaveCohort core t.cohort t.uid
      let s := s.freeEngine core
      let s := if ((s.core core).teams.any fun e => e.2.ctx == t.ctx) then s else s.returnLadle core t.ctx
      let left := s.leftBehind core t
      let s := match s.launch t.ctx t.launch with
        | some l => s.setLaunch t.ctx { l with live := l.live.erase t.item.toNat, gone := l.gone ++ left }
        | none => s
      .next (s.retarget (dieOf core))

/-! ### Bins (R34, R36, R337) -/

/-- Bins of a spawned launch that have not been dispatched. -/
def State.binsOf (s : State) (x launch : Nat) : List Bin :=
  (s.bins.flatMap fun e => e.2.filter fun b => b.ctx == x && b.launch == launch) ++
    ((s.ctx x).bins.filter fun e => e.2.launch == launch).map (·.2)

/-- No item of a launch is undispatched or resident, and none can come (R36, R337). -/
def State.drained (s : State) (x : Nat) : Nat → Nat → Bool
  | 0, _ => false
  | fuel + 1, id =>
    match s.launch x id with
    | none => true
    | some l =>
      l.live.isEmpty && (match l.spawned, l.parent with
        | some _, some p => (s.binsOf x id).isEmpty && s.drained x fuel p
        | _, _ => l.ready && decide (l.rcd.nitems ≤ l.nextItem))

/-- BIN_TIMER_EXPIRY: a bin closes when its ticks have passed, or when no lane can still join it (R34, R337). -/
def execBinTimerExpiry (die cluster bin : Nat) (s : State) : Result :=
  let kc := 12 * die + cluster
  match (s.cluster kc)[bin]? with
  | none => .fault .noSuchPlace
  | some b =>
    if b.closed || !(b.due s.tick.toNat || s.drained b.ctx 12 b.opener) then .next s
    else
      let r := s.number
      .next (r.2.setCluster kc ((s.cluster kc).set bin { b with closed := true, closedSeq := r.1 }))

/-! ### Register blocks, eviction and return (R31 to R33) -/

/-- The word at which a path stands. -/
def State.wordOf (s : State) (c slot : Nat) (side run : Bool) : Option (View × Instr) :=
  match s.viewAt ⟨c, slot, side, run⟩ with
  | none => none
  | some v => match s.fetch v v.path.pc v.path.word with
    | .word w => match decodeWord w with
      | .ok i => some (v, i)
      | .error _ => none
    | _ => none

/-- What holds the next word of a path (R298). -/
def State.reasonAt (s : State) (c slot : Nat) (side : Bool) : Option Nat :=
  match s.wordOf c slot side false with
  | some (v, i) => s.holds v i
  | none => match s.viewAt ⟨c, slot, side, false⟩ with
    | some v => s.frozen v
    | none => none

/-- A path waits at a cohort barrier: for its sibling, or for a phase that is still open (R32, R113). -/
def State.barred (s : State) (c slot : Nat) (t : Team) (side : Bool) : Bool :=
  (t.at side).isSome && (s.reasonAt c slot side == some 10 || (match (t.at side).bind (·.bar) with
    | some (.arrive _ _) => true
    | some (.phase b n) => match s.cohort c t.cohort with
      | some h => decide ((h.bar b).phase ≤ n)
      | none => false
    | none => false))

/-- A team waits in one of the states of R32. -/
def State.blocked (s : State) (c slot : Nat) (t : Team) : Bool :=
  let barred := s.barred c slot t
  let joined := fun side => ((t.at side).map (·.joined)).getD false
  t.growPending ||
    (match t.pathA.isSome, t.pathB.isSome with
     | true, true => (barred false && barred true) || (joined false && barred true) || (joined true && barred false)
     | true, false => barred false
     | false, true => barred true
     | false, false => false)

/-- The team with the oldest pending GROW of a core. -/
def Core.oldestGrow (k : Core) : Option (Nat × Team) :=
  k.teams.foldl (fun (m : Option (Nat × Team)) e =>
    if !e.2.growPending then m
    else match m with
      | none => some e
      | some q => if e.2.age < q.2.age then some e else m) none

/-- The youngest team of a core other than one. -/
def Core.youngest (k : Core) (not' : Nat) : Option (Nat × Team) :=
  k.teams.foldl (fun (m : Option (Nat × Team)) e =>
    if e.2.uid = not' then m
    else match m with
      | none => some e
      | some q => if q.2.age < e.2.age then some e else m) none

/-- The oldest evicted team that may return: no team of a context whose forced save is under way does (R347). -/
def State.oldestEvicted (s : State) (c : Nat) : Option (Nat × Team) :=
  ((s.core c).evicted.filter fun e => !(s.ctx e.2.ctx).forced).foldl (fun (m : Option (Nat × Team)) e => match m with
    | none => some e
    | some q => if e.2.age < q.2.age then some e else m) none

/-- RETURN_EVICTED_TEAM (R33): no older team's GROW waits for the frames (R31), and the team resumes exactly where it stopped; a trap that
its parked word has met meanwhile is raised (R358). -/
def execReturnEvictedTeam (core : Nat) (s : State) : Result :=
  let k := s.core core
  match s.oldestEvicted core with
  | none => .next s
  | some (slot, t) =>
    let slots := k.freeSlots
    let place := if slots.contains slot then some slot else slots.head?
    match place with
    | none => .next s
    | some i =>
      let older := k.teams.any fun e => e.2.growPending && decide (e.2.age < t.age)
      if older || decide (16384 * k.bndReg < k.regBytes + t.frameBytes) then .next s
      else
        let s := ((s.setCore core { k with
          teams := Table.put k.teams i { t with denied := [] }, evicted := k.evicted.filter fun e => e.2.uid != t.uid }).drawLadles core t.ctx).wake core
        .next (t.denied.foldl (fun s e => s.trapAgent core i e.1 e.2.1 e.2.2) s)

/-- GROW_GRANT: the oldest pending GROW is granted, and completes when its path issues it again (R31). -/
def execGrowGrant (core : Nat) (s : State) : Result :=
  match (s.core core).oldestGrow with
  | none => .next s
  | some (slot, t) =>
    if !s.canGrow core t then .next s else .next (s.setTeam core slot { t.grown with granted := true })

/-! ### Completion of launches (R38, R333) -/

/-- Everything a launch waits for has ended. -/
def State.complete (s : State) (x : Nat) (l : Launch) : Bool :=
  let children := (s.ctx x).launches.any fun m => m.parent == some l.id
  !children && l.live.isEmpty && (match l.spawned, l.parent with
    | some _, some p => (s.binsOf x l.id).isEmpty && s.drained x 12 p
    | _, _ => l.ready && decide (l.rcd.nitems ≤ l.nextItem))

/-- The completion word: written, dropped with CWF, or a page that must come in first. -/
inductive Word' where
  | done (s : State)
  | wait (s : State)

/-- The completion word of a launch written; a remote page is migrated first, once, and the write is dropped where it cannot
be performed (R333). -/
def State.writeCompletion (s : State) (x : Nat) (l : Launch) : Word' :=
  let drop := fun (_ : Unit) => Word'.done (s.setCtx x { s.ctx x with cwf := true })
  let away := fun pg =>
    if (s.page pg).state == .migrating || (s.page pg).queued.isSome then Word'.wait s
    else if l.cwAsked then drop ()
    else Word'.wait ((s.setLaunch x { l with cwAsked := true }).beginMigration x pg)
  if l.rcd.cwa = 0 then .done s
  else
    match s.check x Intent.store l.rcd.cwa with
    | .found loc => .done (s.ownWrite x loc (leBytes 4 l.rcd.cwv.toNat))
    | .away pg => away pg
    | .short pg => away pg
    | .fault aux => match (if aux.getLsbD 4 then s.locate x l.rcd.cwa else none) with
      | some (.dev da _ _ _) => away (pageOf da)
      | _ => drop ()

/-- LAUNCH_COMPLETION: release, completion word, record; the launch's place is free again. -/
def execLaunchCompletion (ctx launch : Nat) (s : State) : Result :=
  match s.launch ctx launch with
  | none => .fault .noSuchPlace
  | some l =>
    if !s.complete ctx l then .next s
    else
      match s.writeCompletion ctx l with
      | .wait s => .next s
      | .done s =>
        let s := s.trace ctx 3 (schedSrc (match l.rect with | some r => r.die | none => 0)) 0 0 false 0 (l.rcd.cwv.toNat + l.id * 2 ^ 64)
        let s := s.setCtx ctx { s.ctx ctx with launches := (s.ctx ctx).launches.filter fun m => m.id != l.id }
        let s := { s with
          binTeams := s.binTeams.filter fun e => !(e.1.2.2 == (l.id, ctx))
          cores := s.cores.map fun (e : Nat × Core) => (e.1, { e.2 with l1Launch := e.2.l1Launch.filter (· != (ctx, l.id)) }) }
        let s := s.coreNumbers.foldl State.freeEngine s
        let s := if l.parent.isNone then (s.setCtx ctx { s.ctx ctx with state := 0 }).contextEvent ctx else s
        .next ((s.retarget 0).retarget 1)

/-- OPERATING_POINT_STABLE: a die reaches its target, and the teams that waited proceed (R338). -/
def execOperatingPointStable (die : Nat) (s : State) : Result :=
  let s := s.retarget die
  let s := s.setDie die { s.die die with point := (s.die die).target }
  .next s.releasePoints

end Sys2Proof.Machine
end

