-- ==== Sys2Proof/Machine/Image.lean ====
section
/-!
DEFINITION. The save image (R349): its sections, their coding by tokens, the team record, the image of a saved context, and
reading one back (R351).
-/

namespace Sys2Proof.Machine

/-- One step of CRC-32C over a bit. -/
def crcBit (c : Word) : Word := if c.getLsbD 0 then (c >>> 1) ^^^ 0x82F63B78 else c >>> 1

/-- CRC-32C of bytes, from a running value. -/
def crcBytes : List Byte → Word → Word
  | [], c => c
  | b :: rest, c => crcBytes rest ((List.range 8).foldl (fun c _ => crcBit c) (c ^^^ b.setWidth 32))

def crc32c (bs : List Byte) : Word := ~~~ crcBytes bs 0xFFFFFFFF

def wordBytes (ws : List Word) : List Byte := ws.flatMap fun w => leBytes 4 w.toNat

/-- The words of a payload. -/
def wordsFrom (bs : List Byte) : List Word := (List.range (bs.length / 4)).map fun i => BitVec.ofNat 32 (leNat ((bs.drop (4 * i)).take 4))

/-! ### Tokens (R349) -/

/-- A payload decoded, newest word first in `acc`: literal words, zero words, copies of the previous word; none for a
reserved or broken token.  `fuel` bounds the tokens. -/
def untoken : Nat → List Byte → List Word → Option (List Word)
  | _, [], acc => some acc.reverse
  | 0, _, _ => none
  | fuel + 1, b :: rest, acc =>
    let n := b.toNat % 64 + 1
    match b.toNat / 64 with
    | 0 => if rest.length < 4 * n then none else untoken fuel (rest.drop (4 * n)) ((wordsFrom (rest.take (4 * n))).reverse ++ acc)
    | 1 => untoken fuel rest (List.replicate n 0 ++ acc)
    | 2 => match acc with
      | [] => none
      | w :: _ => untoken fuel rest (List.replicate n w ++ acc)
    | _ => none

/-- A payload as literal words throughout. -/
def literals : Nat → List Byte → List Byte
  | 0, _ => []
  | _, [] => []
  | fuel + 1, bs =>
    let n := min 64 (bs.length / 4)
    if n = 0 then [] else BitVec.ofNat 8 (n - 1) :: bs.take (4 * n) ++ literals fuel (bs.drop (4 * n))

/-- The tokens of a payload: which of the runs that stand for it the device writes is free (log 21). -/
def tokens (raw : List Byte) : List Byte :=
  let c := Config.coded raw
  if untoken c.length c [] = some (wordsFrom raw) then c else literals raw.length raw

/-! ### Sections (R349) -/

/-- A section: its kind, core and slot, and its raw payload. -/
abbrev Section := Nat × Nat × Nat × List Byte

/-- A section's bytes: the 16-byte header and the coded payload, padded to 16 bytes. -/
def imageSection (e : Section) : List Byte :=
  let raw := e.2.2.2
  let pay := if raw.isEmpty then [] else tokens raw
  let head := e.1 + e.2.2.1 * 2 ^ 16 + e.2.1 * 2 ^ 20 + pay.length % 2 ^ 32 * 2 ^ 32 + raw.length % 2 ^ 32 * 2 ^ 64 + (crc32c raw).toNat * 2 ^ 96
  leBytes 16 head ++ pay ++ List.replicate ((16 - pay.length % 16) % 16) 0

/-- A section whose contents are not described: whole words of free bytes, no more than lets an image fit the bound of R348
(log 21). -/
def openSection (kind core slot : Nat) : Section :=
  let most := if kind = 6 then 262144 else if kind = 7 then 8192 else 32768
  (kind, core, slot, (List.range (min most (Config.sectionSize kind core) / 4 * 4)).map (Config.imageByte kind core))

/-- The sections that bytes hold, up to the end section: none where a CRC, a token or the sequence fails its check (R351). -/
def parseSections : Nat → List Byte → Option (List Section)
  | 0, _ => none
  | fuel + 1, bs =>
    if bs.length < 16 then none
    else
      let h := leNat (bs.take 16)
      let kind := bits h 7 0
      let pay := bits h 63 32
      if kind = 0xFF then some [(0xFF, bits h 31 20, bits h 19 16, [])]
      else
        let rest := bs.drop 16
        match (if rest.length < pay then none else untoken pay (rest.take pay) []) with
        | none => none
        | some ws =>
          let raw := wordBytes ws
          if raw.length ≠ bits h 95 64 ∨ (crc32c raw).toNat ≠ bits h 127 96 then none
          else (parseSections fuel (rest.drop ((pay + 15) / 16 * 16))).map fun l => (kind, bits h 31 20, bits h 19 16, raw) :: l

def padTo (n : Nat) (bs : List Byte) : List Byte := bs.take n ++ List.replicate (n - bs.length) 0

/-- The packet and place at which a path resumes: for a team in its handler, the faulting word's (R350). -/
def Team.place (t : Team) (side : Bool) : Nat × Nat :=
  match t.at side with
  | none => (0, 0)
  | some p => match t.handler with
    | some h => if h.path = side then (h.retryPc, h.retryWord) else (p.pc, p.word)
    | none => (p.pc, p.word)

/-- s0 to s63 of a path, with the banked s48 to s55 of a path in its handler. -/
def Team.scalars (t : Team) (side : Bool) : List Word :=
  match t.at side with
  | none => []
  | some p => match t.handler with
    | some h => if h.path = side then p.s.take 48 ++ h.bank ++ p.s.drop 56 else p.s
    | none => p.s

/-- A path's conditions, FPMODE and FPFLAGS in 16 bytes. -/
def Team.pathWords (t : Team) (side : Bool) : List Byte :=
  match t.at side with
  | none => List.replicate 16 0
  | some p => wordBytes [BitVec.ofNat 32 ((p.cond.zipIdx.filter (·.1)).foldl (fun n e => n + 2 ^ e.2) 0), p.fpmode, p.fpflags, 0]

/-- Poisoned scalar registers of a path, of a path in its handler with the banked s48 to s55 (R345). -/
def Team.scalarPoison (t : Team) (side : Bool) : List (Nat × Nat) :=
  let own := ((t.at side).map (·.poison)).getD []
  match t.handler with
  | some h => if h.path = side then (own.filter fun e => !(decide (48 ≤ e.1) && decide (e.1 < 56))) ++ h.bankPoison else own
  | none => own

/-- The path that a record names first: path A, or the only one (log 21). -/
def Team.firstSide (t : Team) : Bool := t.pathA.isNone && t.pathB.isSome

/-- The poison list: register, lane or path, load PC. -/
def Team.poisonList (t : Team) : List (Nat × Nat × Nat) :=
  let scalar := fun side => (t.scalarPoison (t.firstSide != side)).map fun e => (e.1, side.toNat, e.2)
  scalar false ++ scalar true ++ t.vpoison.map fun e => (64 + e.1, e.2.1, e.2.2)

def Group.bytes (g : Group) : List Byte :=
  padTo 16 (wordBytes g.words) ++ leBytes 2 g.rank ++ leBytes 2 g.members.length ++ leBytes 4 g.declared.toNat

/-- The flags of a team record. -/
def Team.recordFlags (t : Team) : Nat :=
  let parked := t.pathA.any Path.pending || t.pathB.any Path.pending
  let part := [t.pathA, t.pathB].any fun p => !((p.map (·.spawned)).getD []).isEmpty
  t.two.toNat + t.handler.isSome.toNat * 2 + parked.toNat * 4 + t.extHeld.toNat * 8 + t.growPending.toNat * 16 +
    t.yielding.toNat * 32 + t.stopped.toNat * 64 + part.toNat * 128 + t.prio * 256

/-- The raw team record (R349): the second path's fields are zero without two paths. -/
def Team.record (t : Team) (core : Nat) : List Byte :=
  let first := t.firstSide
  let a := t.place first
  let b := t.place !first
  let masks := fun side => padTo 128 (wordBytes (((t.at side).map (·.mask)).getD []))
  let h := fun (f : Handler → List Byte) (n : Nat) => padTo n ((t.handler.map f).getD [])
  let hs := fun (k : Handler) => wordBytes ((((t.at k.path).map (·.s)).getD []).drop 48 |>.take 8)
  let list := t.poisonList
  leBytes 8 t.item.toNat ++ leBytes 4 t.recordFlags ++ leBytes 4 (a.2 + b.2 * 4) ++ leBytes 4 a.1 ++ leBytes 4 b.1 ++
    List.replicate 8 0 ++ (List.range 256).map (Config.imageByte 2 core) ++ masks first ++ masks (!first) ++
    padTo 256 (wordBytes (t.scalars first)) ++ padTo 256 (wordBytes (t.scalars !first)) ++ t.pathWords first ++ t.pathWords (!first) ++
    (List.range 7).flatMap (fun k => leBytes 1 (t.count k)) ++ [0] ++ leBytes 4 t.batch.toNat ++
    padTo 16 (t.groups.flatMap fun g => leBytes 4 g.issued) ++ List.replicate 4 0 ++ padTo 96 (t.groups.flatMap Group.bytes) ++
    h hs 32 ++ h (fun k => wordBytes k.bank) 32 ++ h (fun k => leBytes 4 (((t.at k.path).map (·.pc)).getD 0)) 16 ++
    h (fun k => wordBytes k.h) 32 ++ wordBytes t.gen ++ t.v.flatMap wordBytes ++ leBytes 4 list.length ++
    list.flatMap fun e => leBytes 4 e.1 ++ leBytes 4 e.2.1 ++ leBytes 4 e.2.2

/-- The byte of a cohort's region that lies at a place of the scratchpad region of its core. -/
def SavedCore.regionAt (k : SavedCore) (a : Nat) : Option Cohort :=
  k.cohorts.find? fun h => decide (h.base ≤ a) && decide (a < h.base + h.scrb)

/-- A scratchpad unit's raw bytes: the unit, then the shadow entries of its words, then the metering tag of each of its
64-byte units as region number plus one (the order and the form of the tags are a DESIGN CHOICE, log 21). -/
def SavedCore.unitBytes (k : SavedCore) (u : Nat) : List Byte :=
  let a := 16384 * (u - k.bounds.1)
  let data := (List.range 16384).map fun i => match k.regionAt (a + i) with
    | some h => h.byte (a + i - h.base)
    | none => Config.imageByte 3 k.core (a + i)
  let shadow := (List.range 4096).flatMap fun i => match k.regionAt (a + 4 * i) with
    | some h => leBytes 2 (h.entry ((a + 4 * i - h.base) / 4)).toNat
    | none => leBytes 2 0x00FF
  let tags := (List.range 256).flatMap fun i => match k.regionAt (a + 64 * i) with
    | some h => leBytes 2 (match Table.get h.tags ((a + 64 * i - h.base) / 64) with
      | some t => t + 1
      | none => 0)
    | none => leBytes 2 0
  data ++ shadow ++ tags

/-- The first slot of the cohort whose region meets a unit. -/
def SavedCore.unitSlot (k : SavedCore) (u : Nat) : Nat :=
  let a := 16384 * (u - k.bounds.1)
  match k.cohorts.find? fun h => decide (h.base < a + 16384) && decide (a < h.base + h.scrb) with
  | some h => (((k.teams ++ k.evicted).filter fun e => e.2.cohort == h.id).map (·.1)).foldl min 15
  | none => 0

/-- A team's section. -/
def Team.section' (t : Team) (core slot : Nat) : Section := (2, core, slot, t.record core)

/-- The sections of one core: of its pool units, the dirty ones of the scratchpad (R53). -/
def SavedCore.sections (k : SavedCore) : List Section :=
  ((k.teams ++ k.evicted).map fun e => e.2.section' k.core e.1) ++
    ((k.dirty.filter fun u => decide (k.bounds.1 ≤ u) && decide (u < k.bounds.2.1)).map fun u => (3, k.core, k.unitSlot u, k.unitBytes u)) ++
    (if k.mtx.isSome then [openSection 6 k.core 0] else []) ++ (k.teams ++ k.evicted).map fun e => openSection 7 k.core e.1

/-- The sections of a saved context. -/
def Ctx.sections (x : Ctx) : List Section :=
  openSection 1 0xFFF 0 :: x.saved.flatMap SavedCore.sections ++ [openSection 4 0xFFF 0, openSection 5 0xFFF 0, (0xFF, 0xFFF, 0, [])]

/-- The image of a saved context, no longer than its area (R348). -/
def Ctx.image (x : Ctx) : List Byte := (x.sections.flatMap imageSection).take (4096 * x.saveSize.toNat)

/-- Device pages of a run of virtual addresses that are away, or marked short: each migrates before the device writes there. -/
def State.imageAway (s : State) (x va n : Nat) : List Nat :=
  (linesOf va n).foldr (fun e l => match s.check x Intent.store e.1 with
    | .away pg => if l.contains pg then l else pg :: l
    | .short pg => if l.contains pg then l else pg :: l
    | _ => l) []

/-- Bytes written through a context's translations, line by line, a byte that has no place passed over (log 21). -/
def State.putImage (s : State) (x va : Nat) (bytes : List Byte) : State :=
  (linesOf va bytes.length).foldl (fun (s : State) e => match s.check x Intent.store e.1 with
    | .found loc => s.ownWrite x loc ((bytes.drop (e.1 - va)).take e.2)
    | _ => s) s

/-- `n` bytes read through a context's translations, wherever their pages are. -/
def State.getImage (s : State) (x va n : Nat) : List Byte :=
  (linesOf va n).flatMap fun e => match s.locate x e.1 with
    | some loc => s.readLoc (match loc with | .dev da _ _ _ => homeDie da | .host _ => 0) loc e.2
    | none => List.replicate e.2 0

/-- The bytes of an image up to the end of its last section. -/
def imageEnd : Nat → List Byte → Nat
  | 0, _ => 0
  | fuel + 1, bs =>
    if bs.length < 16 then bs.length
    else
      let h := leNat (bs.take 16)
      let n := (bits h 63 32 + 15) / 16 * 16
      if bits h 7 0 = 0xFF then 16 else 16 + n + imageEnd fuel (bs.drop (16 + n))

/-- The bytes of an image read (R350): its pages that are away start to migrate, and bad granules are found (R267, R367). -/
def State.touchImage (s : State) (x : Nat) : State :=
  let k := s.ctx x
  let n := imageEnd 40000 (s.getImage x k.save (4096 * k.saveSize.toNat))
  let s := (linesOf k.save n).foldl (fun (s : State) e => match s.locate x e.1 with
    | some loc => s.demand loc
    | none => s) s
  (s.imageAway x k.save n).foldl (fun s pg => s.beginMigration x pg) s

/-- The image at a context's save address: one that this device has written for it under the firmware that runs (R351). -/
def State.imageAt (s : State) (x : Nat) : Option SavedImage :=
  let k := s.ctx x
  match parseSections 40000 (s.getImage x k.save (4096 * k.saveSize.toNat)) with
  | none => none
  | some l => s.images.find? fun e => e.ctx == x && e.firmware == s.side.running && e.sections == l

end Sys2Proof.Machine
end

