-- ==== Sys2Proof/Machine/Preempt.lean ====
section
/-!
DEFINITION. Preemption, save and restore, and the end of a context (R106, R340, R347 to R351, R360).
-/

namespace Sys2Proof.Machine

/-- A preemption record (R294): cycles of die 0 since the request (log 23). -/
def State.tracePreempt (s : State) (x src team what : Nat) : State :=
  s.trace x 10 src team 0 false 0 (what + (s.die0.cycle - (s.ctx x).reqCycle) % 2 ^ 32 * 2 ^ 32 + x * 2 ^ 96)

/-- Cores that hold teams of a context. -/
def State.coresOf (s : State) (x : Nat) : List Nat :=
  s.coreNumbers.filter fun c => ((s.core c).teams ++ (s.core c).evicted).any fun e => e.2.ctx == x

/-- The save area that a request needs (R348): 3.5 MiB a core, 320 KiB a cluster, 128 KiB. -/
def State.saveBound (s : State) (x : Nat) : Nat :=
  let cs := s.coresOf x
  let ks := (cs.map clusterOf ++ (s.bins.filter fun e => e.2.any fun b => b.ctx == x && !b.closed).map (·.1)).eraseDups
  3670016 * cs.length + 327680 * ks.length + 131072

/-! ### The forced save -/

/-- Every remaining team of a context, evicted ones too, stops as at trap entry, steps 1 to 3 (R347). -/
def State.forceSave (s : State) (x : Nat) : State :=
  let s := s.tracePreempt x (schedSrc 0) 0 2
  let s := s.resident.foldl (fun (s : State) e => if e.2.2.ctx = x then s.dirtyPending e.1 e.2.1 else s) s
  let stop := fun (t : Team) => if t.ctx = x then { (t.drainSfu).settle with yielding := true } else t
  let s := { s with cores := s.cores.map fun (e : Nat × Core) => (e.1, { e.2 with
    teams := e.2.teams.map fun (t : Nat × Team) => (t.1, stop t.2), evicted := e.2.evicted.map fun (t : Nat × Team) => (t.1, stop t.2) }) }
  s.setCtx x { s.ctx x with forced := true }

/-- PREEMPT_REQUEST: REQ written 1: the request is raised, or refused for want of room in the save area; while a save or a
restore is under way, or an image is held, REQ only takes the value. -/
def execPreemptRequest (ctx : Nat) (s : State) : Result :=
  if 64 ≤ ctx then .fault .noSuchPlace
  else
    let k := s.ctx ctx
    if k.pstate ≠ 0 then .next (s.setCtx ctx { k with req := true })
    else if k.saveSize.toNat * 4096 < s.saveBound ctx then .next ((s.setCtx ctx { k with szerr := true }).contextEvent ctx)
    else
      let s := s.setCtx ctx { k with req := true, pstate := 1, reqCycle := s.die0.cycle, forced := false }
      let s := s.tracePreempt ctx (schedSrc 0) 0 0
      .next (if k.deadline = 0 then s.forceSave ctx else s)

/-- PREEMPT_DEADLINE: PDEADLINE cycles have passed since the request. -/
def execPreemptDeadline (ctx : Nat) (s : State) : Result :=
  let k := s.ctx ctx
  if k.pstate ≠ 1 || k.forced || decide (s.die0.cycle - k.reqCycle < k.deadline.toNat) then .next s
  else .next (s.forceSave ctx)

/-- PREEMPT_FORCE: a FORCE write while a save runs. -/
def execPreemptForce (ctx : Nat) (s : State) : Result :=
  if 64 ≤ ctx then .fault .noSuchPlace
  else if (s.ctx ctx).pstate ≠ 1 || (s.ctx ctx).forced then .next s
  else .next (s.forceSave ctx)

/-! ### Saving -/

/-- The part of a context's image for a core. -/
def Ctx.savedCore (k : Ctx) (c : Nat) : Option SavedCore := k.saved.find? fun e => e.core == c

def State.putSaved (s : State) (x : Nat) (e : SavedCore) : State :=
  let k := s.ctx x
  s.setCtx x { k with saved := (k.saved.filter fun f => f.core != e.core) ++ [e] }

/-- The saved part of a core as the core stands now. -/
def State.savedNow (s : State) (x c : Nat) : SavedCore :=
  let k := s.core c
  match (s.ctx x).savedCore c with
  | some e => { e with bounds := (k.bndReg, k.bndScr, k.bndL1), dirty := k.dirty }
  | none => ⟨c, [], [], [], (k.bndReg, k.bndScr, k.bndL1), k.dirty, none⟩

/-- What a team must still finish before it is saved, its runner's loads included: everything in flight for a yield; for a forced save all but
collectives that wait for members and commands that have not started (R106, R347). -/
def State.mustFinish (s : State) (c : Nat) (t : Team) : Bool :=
  let counted := fun (o : Op) => match o.kind with
    | .remote _ _ _ => false
    | _ => true
  if (s.ctx t.ctx).forced then
    t.entry.isSome || t.ops.any (fun o => counted o && !s.colStuck (s.colCount + 1) c t o) || (s.commandsOf c t.uid).any (·.started)
  else t.ops.any counted || !(s.commandsOf c t.uid).isEmpty

/-- The engine of a core goes into the image with its commands, which have not started, once its owner has no team there; what the
planes and tiles hold stays in them (R194, R213; DEDUCED, log 85). -/
def State.saveEngine (s : State) (x c : Nat) : State :=
  let k := s.core c
  match k.mtx.owner with
  | none => s
  | some o =>
    if o.1 ≠ x || (k.teams ++ k.evicted).any (fun e => (e.2.ctx, e.2.launch) == o) then s
    else (s.putSaved x { s.savedNow x c with mtx := some k.mtx }).setCore c { k with mtx := { k.mtx with owner := none, window := [] } }

/-- Once no team of a context is resident on a core, its cohorts and evicted teams are saved, and the ladles return
(R173, R347).  An evicted team is taken by a forced save alone, when it has finished what it must; another returns first, to
meet its YIELD. -/
def State.sweepCore (s : State) (x c : Nat) : State :=
  let k := s.core c
  if k.teams.any (fun e => e.2.ctx == x) || k.evicted.any (fun e => e.2.ctx == x && (!(s.ctx x).forced || s.mustFinish c e.2)) then
    s.saveEngine x c
  else
    let s := if k.cohorts.any (fun h => h.ctx == x) || k.evicted.any (fun e => e.2.ctx == x) then
        let e := s.savedNow x c
        let e := { e with
          cohorts := e.cohorts ++ k.cohorts.filter fun h => h.ctx == x
          evicted := e.evicted ++ (k.evicted.filter fun t => t.2.ctx == x).map fun t => (t.1, { t.2 with yielding := false }) }
        (s.putSaved x e).setCore c { k with
          cohorts := k.cohorts.filter fun h => h.ctx != x
          evicted := k.evicted.filter fun t => t.2.ctx != x }
      else s
    (s.saveEngine x c).returnLadle c x

/-- A team leaves its slot for the image, as yielded unless a forced save overtook its YIELD (R106).  A charge that a parked store
has been granted goes back: the store is charged as it replays (R191, R350). -/
def State.saveTeam (s : State) (x c slot : Nat) (t : Team) : State :=
  let s := (s.performScratch c t.uid).unchargeAll c slot
  let t := (s.team c slot).getD t
  let e := s.savedNow x c
  let s := s.putSaved x { e with teams := Table.put e.teams slot { t with yielding := !(s.ctx x).forced } }
  (s.dropTeam c slot).sweepCore x c

/-- YIELD_SAVE: a yielding team, or one that a forced save has stopped, is saved once it has drained. -/
def execYieldSave (core slot : Nat) (s : State) : Result :=
  match s.team core slot with
  | none => .fault .noSuchPlace
  | some t =>
    let k := s.ctx t.ctx
    if !t.yielding || !(k.pstate == 1 || (k.pstate == 3 && k.forced)) || s.mustFinish core t then .next s
    else
      let s := if k.forced then s else s.tracePreempt t.ctx (coreSrc core) slot 1
      .next (s.saveTeam t.ctx core slot t)

/-- A context's bins put away with their remaining ticks (R337). -/
def State.putBins (s : State) (x : Nat) : State :=
  let tick := s.tick.toNat
  let mine := s.bins.flatMap fun e => (e.2.filter fun b => b.ctx == x).map fun b => (e.1, { b with timer := b.timer - tick })
  let s := { s with bins := s.bins.map fun (e : Nat × List Bin) => (e.1, e.2.filter fun b => b.ctx != x) }
  s.setCtx x { s.ctx x with bins := (s.ctx x).bins ++ mine }

/-- A context's bins back in their clusters, their timers running again. -/
def State.takeBins (s : State) (x : Nat) : State :=
  let tick := s.tick.toNat
  let s := (s.ctx x).bins.foldl (fun (s : State) e => s.setCluster e.1 (s.cluster e.1 ++ [{ e.2 with timer := e.2.timer + tick }])) s
  s.setCtx x { s.ctx x with bins := [] }

/-- SAVE_COMPLETE: every section is written and every ladle has returned; pages of the save area that are away come in first. -/
def execSaveComplete (ctx : Nat) (s : State) : Result :=
  let k := s.ctx ctx
  if k.pstate ≠ 1 then .next s
  else if s.resident.any fun e => e.2.2.ctx == ctx then .next s
  else
    let s := s.coreNumbers.foldl (fun (s : State) c => s.sweepCore ctx c) s
    let away := s.imageAway ctx k.save (s.putBins ctx |>.ctx ctx).image.length
    if s.cores.any fun e => e.2.ladles.any (fun l => l.ctx == ctx) || e.2.evicted.any (fun t => t.2.ctx == ctx) then .next s
    else if !away.isEmpty then .next (away.foldl (fun s pg => s.beginMigration ctx pg) s)
    else
      let s := s.putBins ctx
      let k := s.ctx ctx
      let made : SavedImage := ⟨ctx, s.side.running, k.sections, k.saved, k.bins, k.launches⟩
      let s := { s with images := made :: s.images }
      let s := s.putImage ctx k.save k.image
      .next ((s.setCtx ctx { s.ctx ctx with pstate := 2, forced := false }).contextEvent ctx)

/-! ### Withdrawal and restore -/

/-- PREEMPT_WITHDRAW: REQ written 0; while STATE is saving that withdraws the request (R347). -/
def execPreemptWithdraw (ctx : Nat) (s : State) : Result :=
  let k := s.ctx ctx
  if 64 ≤ ctx then .fault .noSuchPlace
  else if k.pstate ≠ 1 then .next (s.setCtx ctx { k with req := false })
  else
    let go := fun (t : Team) => if t.ctx = ctx && !k.forced then { t with yielding := false } else t
    let s := { s with cores := s.cores.map fun (e : Nat × Core) => (e.1, { e.2 with
      teams := e.2.teams.map fun (t : Nat × Team) => (t.1, go t.2), evicted := e.2.evicted.map fun (t : Nat × Team) => (t.1, go t.2) }) }
    if k.saved.isEmpty && !k.forced then .next ((s.setCtx ctx { k with req := false, pstate := 0 }).contextEvent ctx)
    else .next (s.setCtx ctx { k with req := false, pstate := 3 })

/-- RESUME: the image at the save address is restored; one that fails its checks, or that this device has not written, is
rejected (R350, R351).  An older image than the last brings back the launches that it was written with (log 21). -/
def execResume (ctx : Nat) (s : State) : Result :=
  let k := s.ctx ctx
  if 64 ≤ ctx then .fault .noSuchPlace
  else if k.pstate ≠ 2 then .next s
  else match s.imageAt ctx with
    | some e =>
      let newest := (s.images.find? fun f => f.ctx == ctx) == some e
      let s := s.touchImage ctx
      let k := { s.ctx ctx with pstate := 3, saved := e.saved, bins := e.bins, launches := if newest then k.launches else e.launches }
      .next ((s.setCtx ctx k).takeBins ctx)
    | none => .next ((s.setCtx ctx { k with err := 0x07 }).contextEvent ctx)

/-- A restored team goes on: a parked word issues again from its first check, before a pending stop takes effect (R304, R350). -/
def Team.restored (t : Team) : Team :=
  let go := fun (p : Path) => { p with parked := none, refill := none, replay := p.pending }
  { t with
    yielding := false, denied := [], pathA := t.pathA.map go, pathB := t.pathB.map go
    runner := { t.runner with parked := none, refill := none } }

/-- A core can take back what a context left there. -/
def State.canRestore (s : State) (e : SavedCore) : Bool :=
  let k := s.core e.core
  let regs := e.teams.foldl (fun n t => n + t.2.frameBytes) 0
  let scr := (k.cohorts ++ e.cohorts).foldl (fun n h => n + h.scrb) 0
  e.teams.all (fun t => (Table.get k.teams t.1).isNone) &&
    (k.vacant || (k.bndReg, k.bndScr, k.bndL1) == e.bounds) && decide (k.regBytes + regs ≤ 16384 * e.bounds.1) &&
    decide (scr ≤ 16384 * (e.bounds.2.1 - e.bounds.1)) && (e.mtx.isNone || k.mtx.owner.isNone)

/-- Cohorts given regions on a core again. -/
def placeCohorts (held : List Cohort) : List Cohort → List Cohort
  | [] => held
  | h :: rest => placeCohorts (held ++ [{ h with base := regionBase held h.scrb }]) rest

/-- One core of an image restored (R350); its dirty bits are clear again (R53).  A restored team keeps the age that it had
(DESIGN CHOICE, log 65). -/
def State.restoreCore (s : State) (x : Nat) (e : SavedCore) : State :=
  let k := s.core e.core
  let s := s.setCore e.core { k with
    bndReg := e.bounds.1, bndScr := e.bounds.2.1, bndL1 := e.bounds.2.2
    dirty := []
    regDirty := []
    cohorts := placeCohorts k.cohorts e.cohorts
    evicted := k.evicted ++ e.evicted.map fun t => (t.1, t.2.restored)
    mtx := e.mtx.getD k.mtx
    l1 := []
    teams := e.teams.foldl (fun m t => Table.put m t.1 t.2.restored) k.teams }
  (((if e.teams.isEmpty then s else s.drawLadles e.core x).wake e.core).retarget (dieOf e.core)).releasePoints

/-- RESTORE_COMPLETE: every core that is free for it takes its teams back, once a forced stop that has begun is complete; when the
last saved team is resident, those that were evicted too, the context runs, REQ reads 0, and a team that has met a YIELD meanwhile
goes on (R347, R350). -/
def execRestoreComplete (ctx : Nat) (s : State) : Result :=
  let k := s.ctx ctx
  let s := if k.forced then s.coreNumbers.foldl (fun (s : State) c => s.sweepCore ctx c) s else s
  let mine := fun (e : Nat × Team) => e.2.ctx == ctx && e.2.yielding
  if k.pstate ≠ 3 then .next s
  else if k.forced && s.cores.any (fun e => e.2.teams.any mine || e.2.evicted.any mine) then .next s
  else
    let s := (s.ctx ctx).saved.foldl (fun (s : State) e =>
      if s.canRestore e then
        let s := s.restoreCore ctx e
        s.setCtx ctx { s.ctx ctx with
          saved := (s.ctx ctx).saved.filter fun f => f.core != e.core
          awaited := (s.ctx ctx).awaited ++ e.evicted.map (·.2.uid) }
      else s) s
    let out := s.cores.flatMap fun e => (e.2.evicted.filter fun t => t.2.ctx == ctx).map (·.2.uid)
    let s := s.setCtx ctx { s.ctx ctx with awaited := (s.ctx ctx).awaited.filter out.contains }
    if (s.ctx ctx).saved.isEmpty then
      let s := s.setCtx ctx { s.ctx ctx with forced := false }
      if !(s.ctx ctx).awaited.isEmpty then .next s
      else
        let s := s.tracePreempt ctx (schedSrc 0) 0 3
        let go := fun (t : Team) => if t.ctx = ctx then { t with yielding := false } else t
        let s := { s with cores := s.cores.map fun (e : Nat × Core) => (e.1, { e.2 with
          teams := e.2.teams.map fun (t : Nat × Team) => (t.1, go t.2) }) }
        .next ((s.setCtx ctx { s.ctx ctx with pstate := 0, req := false }).contextEvent ctx)
    else .next s

/-! ### Eviction for registers (R32) -/

/-- The places in the save area that sections of evicted teams of a context take. -/
def State.spilled (s : State) (x : Nat) : List (Nat × Nat) :=
  (s.cores.flatMap fun e => e.2.evicted.filter fun t => t.2.ctx == x).map (·.2.spillAt)

/-- The first place for `n` bytes that meets none of those taken (log 59). -/
def spillPlace (taken : List (Nat × Nat)) (n : Nat) : Nat :=
  let free := fun b => taken.all fun e => decide (b + n ≤ e.1) || decide (e.1 + e.2 ≤ b)
  ((0 :: taken.map fun e => e.1 + e.2).filter free).foldl min (taken.foldl (fun m e => max m (e.1 + e.2)) 0)

/-- EVICT_TEAM: a core stalled for registers puts its youngest team out, its state in the save area, once the pages that it is written
to are there (R32); the ladles of a context that has no team left there return (R173). -/
def execEvictTeam (core : Nat) (s : State) : Result :=
  let k := s.core core
  match k.oldestGrow with
  | none => .next s
  | some (_, g) =>
    if s.canGrow core g || !(k.teams.all fun e => s.blocked core e.1 e.2) then .next s
    else
      match k.youngest g.uid with
      | none => .next s
      | some (slot, t) =>
        let x := s.ctx t.ctx
        let bytes := imageSection (t.section' core slot)
        let place := spillPlace (s.spilled t.ctx) bytes.length
        let bytes := bytes.take (4096 * x.saveSize.toNat - place)
        let away := s.imageAway t.ctx (x.save + place) bytes.length
        if !away.isEmpty then .next (away.foldl (fun s pg => s.beginMigration t.ctx pg) s)
        else
          let s := s.putImage t.ctx (x.save + place) bytes
          let k := s.core core
          let out := (Table.get k.teams slot).getD t
          let s := s.setCore core { k with
            teams := Table.drop k.teams slot, evicted := k.evicted ++ [(slot, { out with spillAt := (place, bytes.length) })] }
          .next (if (s.core core).teams.any fun e => e.2.ctx == t.ctx then s else s.returnLadle core t.ctx)

/-! ### The end of a context (R351, R360) -/

/-- A page of a torn-down context: its granules free, a migration of it ended, and a driver's command on it done, which finds it
unbacked (R358, R360). -/
def State.releasePage (s : State) (pg : Nat) : State :=
  let n := s.heldGranules pg
  let s := (((s.noteImage (65536 * pg)).clearPage pg).addFree (homeDie (65536 * pg)) n).commandPage pg 0
  { s with pages := Table.drop s.pages pg }

/-- A context torn down: its teams, launches, bins, pages and image are gone, and its registers stand as reset. -/
def State.teardown (s : State) (x : Nat) : State :=
  let s := ((s.pages.filter fun e => e.2.ctx == x && e.2.state != .unbacked).map (·.1)).foldl State.releasePage s
  let free := fun (d : Nat) => (s.cores.flatMap fun e => e.2.ladles).foldl (fun n l =>
    if l.ctx = x then n + (if d = 0 then l.bal0 + l.transit0 else l.bal1 + l.transit1) else n) 0 -
      (s.halves.filter fun e => payDie e.2.2.1 == d && (s.opAt e.1 e.2.1).any fun o => o.1.ctx == x).foldl (fun n e => n + (16 - e.2.2.2)) 0
  let s := (s.addFree 0 (free 0)).addFree 1 (free 1)
  let clear := fun (k : Core) => { k with
    teams := k.teams.filter fun t => t.2.ctx != x
    evicted := k.evicted.filter fun t => t.2.ctx != x
    cohorts := k.cohorts.filter fun h => h.ctx != x
    ladles := k.ladles.filter fun l => l.ctx != x
    l1 := k.l1.filter fun l => l.ctx != x
    l1Launch := k.l1Launch.filter fun l => l.1 != x
    mtx := match k.mtx.owner with
      | some o => if o.1 = x then Matrix.free else k.mtx
      | none => k.mtx }
  let s := { s with
    cores := s.cores.map fun (e : Nat × Core) => (e.1, clear e.2)
    bins := s.bins.map fun (e : Nat × List Bin) => (e.1, e.2.filter fun b => b.ctx != x)
    binTeams := s.binTeams.filter fun e => e.1.2.2.2 != x
    images := s.images.filter fun e => e.ctx != x
    former := s.former.filter fun e => e.1 != x
    ctxs := Table.drop s.ctxs x }
  (((s.pump 0).pump 1).retarget 0).retarget 1

/-- DRIVER_CONTEXT_TEARDOWN. -/
def execDriverContextTeardown (ctx : Nat) (s : State) : Result :=
  if 64 ≤ ctx then .fault .noSuchPlace else .next (s.teardown ctx)

/-- FUNCTION_LEVEL_RESET of a virtual function. -/
def execFunctionLevelReset (fn : Nat) (s : State) : Result :=
  if fn = 0 ∨ 32 ≤ fn then .fault .noSuchPlace
  else
    let mine := (List.range 64).filter fun x => match s.owner x with
      | some o => o.1 == fn
      | none => false
    .next (mine.foldl State.teardown s)

end Sys2Proof.Machine
end

