-- ==== Sys2Proof/Machine/Debug.lean ====
section
/-!
DEFINITION. PC sampling, the debugger's commands, comparators and stop-on-tick (R292, R297 to R305).
-/

namespace Sys2Proof.Machine

/-! ### PC sampling (R297 to R300) -/

/-- The words that a path issues next, each with the view in which it does: the word at which it stands, or the one that its EXT
extends, and the rest of its chain (R63, R71). -/
def State.nextWords (s : State) (v : View) : List (View × Instr) :=
  let here := fun (v : View) => match s.fetch v v.path.pc v.path.word with
    | .word w => (match decodeWord w with | .ok i => some i | .error _ => none)
    | _ => none
  let first := match here v with
    | some (.ext x) =>
      let u := { v with path := { v.path with word := v.path.word + 1, ext := some x } }
      (here u).map fun j => (u, j)
    | i => i.map fun i => (v, i)
  match first with
  | none => []
  | some (u, i) => (u, i) :: (if (chainOf i).1 = 1 then (s.chainAfter u 2 u.path.word).map fun j =>
      (({ u with path := { u.path with word := j.1, ext := none } } : View), j.2) else [])

/-- The lagging results that the next words of a path read and that are not ready in this cycle (R66, R298). -/
def State.awaited (s : State) (v : View) (is : List Instr) : List Lag :=
  v.path.lag.filter fun g => decide (s.cycle v.core < g.ready) && is.any fun i => (infoOf i).reads.contains g.reg

/-- Every stall reason that holds a path, of any of its next words; one held by the passes of its last word alone waits with 16, whichever
pipe its next word needs (R65, R339; log 51); whether its packet has been fetched, and whether the check of a
word that suspends fetch is still under way, are free (log 51). -/
def State.stallReasons (s : State) (v : View) (words : List (View × Instr)) : List Nat :=
  let now := s.cycle v.core
  let handler := if v.team.handler.isSome && !v.run then [23] else []
  let mine := match words with
    | [] => []
    | (u, i) :: _ => s.reasons (s.paced u i) i ++ (if u.barHeld then [10] else []) ++ (if s.spawnHeld u i then [16] else [])
  let count := if now < v.path.nextAt then (if v.path.nextAt ≤ v.path.passesTo then [16] else if (s.awaited v (words.map (·.2))).isEmpty then [1] else [2]) else []
  let fetch := (if Config.freeBit (s.fresh * 2 ^ 20) then [17] else []) ++
    (if v.path.checked && Config.freeBit (s.fresh * 2 ^ 20 + 1) then [19] else [])
  handler ++ s.pathReasons v ++ mine ++ count ++ fetch

/-- Outstanding operations whose returns end the wait of a path that a reason from 3 to 9 names, for one of its next words: a
releasing FENCE's, an acquire's, those of the queues that a QFENCE names, those that a release of the word itself waits for (R115,
R116, R243). -/
def View.blockers (v : View) (word : Instr) (reason : Nat) : List Op :=
  let mine := fun (o : Op) => o.code + 3 == reason
  v.team.ops.filter fun o =>
    (reason == 9 && v.path.releaseOps.contains o.id) || (v.path.acquireOps.contains o.id && mine o) ||
      (match word with
       | .qfence _ _ m => mine o && (match o.kind with
         | .copy q _ _ _ _ => m.getLsbD q
         | .trans _ _ _ _ => m.getLsbD 2
         | .col _ _ _ _ _ _ _ => m.getLsbD 3
         | _ => false)
       | .fence _ _ _ _ => !o.byRunner && mine o && reason != 9
       | .pgsurr _ _ _ _ _ => reason == 9 && o.blocksRelease 4
       | i => reason == 9 && v.releaseOp i o)

/-- The threshold of a wait on a counter. -/
def View.threshold (v : View) (reason : Nat) : Instr → Option Nat
  | .waitc _ _ h a => if h.toNat + 3 = reason then some (v.s a.toNat 0).toNat else none
  | .waitci _ _ h n => if h.toNat + 3 = reason then some n.toNat else none
  | _ => none

/-- The operations on the counter that a reason names; where none of them blocks, those that do (R300). -/
def onCounter (reason : Nat) (ops : List Op) : List Op :=
  let mine := ops.filter fun o => o.code + 3 == reason
  if mine.isEmpty then ops else mine

/-- The counted operation whose return ends a path's wait: its packet and place (R300). -/
def View.blamed (v : View) (words : List (View × Instr)) (reason : Nat) : Nat × Nat :=
  let ops := match words.findSome? fun (w : View × Instr) => w.1.threshold reason w.2 with
    | some n =>
      let ops := v.team.ops.filter fun (o : Op) => o.code + 3 == reason
      ops.take (ops.length - n)
    | none => (words.findSome? fun (w : View × Instr) =>
        let ops := onCounter reason (w.1.blockers w.2 reason)
        if ops.isEmpty then none else some ops).getD []
  match ops.getLast? with
  | some o => (o.pc, o.word)
  | none => (0, 0)

/-- The MFENCE that closed the oldest unretired batch of a team. -/
def State.blamedFence (s : State) (c : Nat) (t : Team) : Nat × Nat :=
  match s.commandsOf c t.uid with
  | [] => (0, 0)
  | m :: _ => match t.fences.find? fun e => e.1 == m.batch with
    | some e => e.2
    | none => (0, 0)

/-- The item whose spine value a word awaits (R41). -/
def State.awaitedItem (s : State) (v : View) (i : Instr) : Option Nat :=
  match spineOf i with
  | some b => match s.spineRead v.team (spineSlotOf b) (spineDistance b) with
    | .absent item => some item
    | _ => none
  | none => none

/-- BLAME and BWORD of a reason (R300). -/
def State.blame (s : State) (v : View) (words : List (View × Instr)) (reason : Nat) : Nat × Nat :=
  if 3 ≤ reason ∧ reason ≤ 9 then v.blamed words reason
  else if reason = 2 then ((s.awaited v (words.map (·.2))).head?.map fun g => (g.pc, g.word)).getD (0, 0)
  else if reason = 11 then s.blamedFence v.core v.team
  else if reason = 13 then ((words.findSome? fun w => s.awaitedItem w.1 w.2).getD 0 % 2 ^ 32, 0)
  else (0, 0)

/-- One sample of a path (R299).  A resident team with no live path left, its operations still in flight, has no PC to report and
gives no record at its visit: R297 does not say (DESIGN CHOICE, log 51). -/
def State.sample (s : State) (c slot : Nat) (side : Bool) : State :=
  match s.viewAt ⟨c, slot, side, false⟩ with
  | none => s
  | some v =>
    let words := s.nextWords v
    let issued := v.path.issuedAt == some (s.cycle c)
    let reason := if issued then 0 else (leastReason (s.stallReasons v words)).getD 22
    let valid := (decide (2 ≤ reason) && decide (reason ≤ 9)) || reason == 11 || reason == 13
    let who := if valid then s.blame v words reason else (0, 0)
    (s.traceWord c slot side 1 (reason + issued.toNat * 32 + valid.toNat * 64 + who.2 * 128 + who.1 * 2 ^ 32 + v.team.launch * 2 ^ 64)).used

/-- The sample period of a context, in cycles (R295). -/
def Ctx.period (k : Ctx) : Nat := 2 ^ max 6 (min 20 (bits k.trCtl.toNat 20 16))

def Core.due (k : Core) (sched : Nat) : Nat := if sched = 0 then k.due0 else k.due1

/-- The resident teams of an issue scheduler in the order in which it visits them next. -/
def Core.visits (k : Core) (sched : Nat) : List (Nat × Team) :=
  let first := if sched = 0 then k.sample0 else k.sample1
  let mine := k.teams.filter fun e => e.1 % 2 == sched
  (mine.filter fun e => decide (first ≤ e.1)) ++ mine.filter fun e => decide (e.1 < first)

/-- A visit made: the next slot, and the next cycle of the period of the context visited (R297; the phase of the period, and
that contexts share a core's visits, are a DESIGN CHOICE, log 51). -/
def Core.visited (k : Core) (sched slot period now : Nat) : Core :=
  let due := now + period - (now - k.due sched) % period
  if sched = 0 then { k with sample0 := slot + 1, due0 := due } else { k with sample1 := slot + 1, due1 := due }

/-- PC_SAMPLE: an issue scheduler's next resident team is sampled once its N cycles have passed, with two paths on A and B
alternately. -/
def execPcSample (core sched : Nat) (s : State) : Result :=
  if 2 ≤ sched || decide (2304 ≤ core) then .fault .noSuchPlace
  else
    let k := s.core core
    match k.visits sched with
    | [] => .next s
    | (slot, t) :: _ =>
      if s.cycle core < k.due sched then .next s
      else
        let side := if t.two then t.sampleB else t.pathA.isNone
        let s := s.sample core slot side
        let s := s.setCore core ((s.core core).visited sched slot (s.ctx t.ctx).period (s.cycle core))
        .next (match s.team core slot with
          | some u => s.setTeam core slot { u with sampleB := t.two && !side }
          | none => s)

/-! ### Comparators and the debugger (R292, R302, R303) -/

/-- COMPARATOR_HIT: trap 0x0D with fault address 0x100 + n, before the word issues. -/
def execComparatorHit (core slot : Nat) (path : Bool) (cmp : Nat) (s : State) : Result :=
  match s.team core slot with
  | none => .fault .noSuchPlace
  | some t =>
    if (t.at path).isNone || decide (8 ≤ cmp) then .fault .noSuchPlace
    else .next ((s.takeTrap core slot path 0x0D (BitVec.ofNat 64 (0x100 + cmp)) 0 0).used)

/-- DEBUG_ATTACH. -/
def execDebugAttach (ctx : Nat) (s : State) : Result :=
  if 64 ≤ ctx then .fault .noSuchPlace else .next (s.setCtx ctx { s.ctx ctx with attach := true })

/-- A stopped team goes on. -/
def Team.letGo (t : Team) : Team := { t with stopped := false, step := none, stepCommand := none }

/-- DEBUG_DETACH: every team that the debugger stopped resumes. -/
def execDebugDetach (ctx : Nat) (s : State) : Result :=
  if 64 ≤ ctx then .fault .noSuchPlace
  else
    let go := fun (t : Team) => if t.ctx = ctx && t.stopped then t.letGo else if t.ctx = ctx then { t with step := none, stepCommand := none } else t
    let all := fun (m : Table Team) => m.map fun (t : Nat × Team) => (t.1, go t.2)
    let list := fun (m : List (Nat × Team)) => m.map fun (t : Nat × Team) => (t.1, go t.2)
    let s := { s with cores := s.cores.map fun (e : Nat × Core) => (e.1, { e.2 with teams := all e.2.teams, evicted := list e.2.evicted }) }
    let k := s.ctx ctx
    .next (s.setCtx ctx { k with
      attach := false, dbgBusy := false
      saved := k.saved.map fun e => { e with teams := all e.teams, evicted := list e.evicted } })

/-- The stopped team of a context that a command names. -/
def State.debugTeam (s : State) (ctx core slot : Nat) : Option Team :=
  match s.team core slot with
  | some t => if t.ctx = ctx && t.stopped then some t else none
  | none => none

/-- A command that names no stopped team sets ERR; one that names a stopped team, but a path that it does not have, does nothing
(R292; log 20). -/
def State.debugError (s : State) (ctx : Nat) : State := s.setCtx ctx { s.ctx ctx with dbgErr := true }

/-- DEBUG_STEP: the path issues one word, or one chain, and stops again. -/
def execDebugStep (ctx core slot : Nat) (path : Bool) (s : State) : Result :=
  if 64 ≤ ctx then .fault .noSuchPlace
  else if (s.ctx ctx).dbgBusy then .next s
  else
    match s.debugTeam ctx core slot with
    | none => .next (s.debugError ctx)
    | some t =>
      if (t.at path).isNone then .next s
      else
        .next ((s.setTeam core slot { t with stopped := false, step := some (path, false) }).setCtx ctx { s.ctx ctx with dbgBusy := true })

/-- The command that a step to retire waits for has retired. -/
def State.commandRetired (s : State) (c : Nat) (t : Team) : Bool :=
  match t.stepCommand with
  | none => true
  | some n => !s.commandOut c t n

/-- DEBUG_STEP_TO_RETIRE: the team runs until the last command that the path has issued in a step has retired; it stays where it is
if that has, or if there is none. -/
def execDebugStepToRetire (ctx core slot : Nat) (path : Bool) (s : State) : Result :=
  if 64 ≤ ctx then .fault .noSuchPlace
  else if (s.ctx ctx).dbgBusy then .next s
  else
    match s.debugTeam ctx core slot with
    | none => .next (s.debugError ctx)
    | some t =>
      let t := { t.letGo with step := some (path, true), stepCommand := (t.at path).bind (·.lastCommand) }
      if s.commandRetired core t then .next s
      else .next ((s.setTeam core slot t).setCtx ctx { s.ctx ctx with dbgBusy := true })

/-- DEBUG_CANCEL_WAIT: the stepped word's wait is cancelled, and its path stands before the word; a stopped team has
no such wait (log 20). -/
def execDebugCancelWait (ctx core slot : Nat) (path : Bool) (s : State) : Result :=
  if 64 ≤ ctx then .fault .noSuchPlace
  else
    match (s.team core slot).filter fun t => t.ctx == ctx && t.step == some (path, false) with
    | some t =>
      let t := { t.setAt path ((t.at path).map fun p => { p with joined := false }) with growPending := false }
      .next ((s.setTeam core slot t).debugStop core slot path 2 0)
    | none => .next (if (s.ctx ctx).dbgBusy || (s.debugTeam ctx core slot).isSome then s else s.debugError ctx)

/-- DEBUG_RESUME: the team runs freely. -/
def execDebugResume (ctx core slot : Nat) (s : State) : Result :=
  if 64 ≤ ctx then .fault .noSuchPlace
  else if (s.ctx ctx).dbgBusy then .next s
  else
    match s.debugTeam ctx core slot with
    | none => .next (s.debugError ctx)
    | some t => .next (s.setTeam core slot t.letGo)

/-- DEBUG_STEP_END: the command of a step to retire has retired, or the stepped path is gone. -/
def execDebugStepEnd (core slot : Nat) (s : State) : Result :=
  match s.team core slot with
  | none => .fault .noSuchPlace
  | some t => match t.step with
    | some (side, true) => if s.commandRetired core t then .next (s.stopHere core slot side 3) else .next s
    | some (side, false) => if (t.at side).isNone then .next (s.debugStop core slot side 2 0) else .next s
    | none => .next s

/-! ### Stop-on-tick (R305) -/

/-- STOP_ARM: the stop is armed at STOPTICK, or at the next tick. -/
def execStopArm (s : State) : Result :=
  if s.pf.stopped then .next s
  else .next { s with pf := { s.pf with
    armed := true, due := if s.tick < s.pf.stopTick then s.pf.stopTick else s.tick + 1 } }

/-- STOP_ON_TICK: the armed tick has come; every clock domain is gated, with a stop record for every resident team
(log 20). -/
def execStopOnTick (s : State) : Result :=
  if !s.pf.armed || s.pf.stopped || decide (s.tick < s.pf.due) then .next s
  else
    let s := s.resident.foldl (fun (s : State) e => s.traceWord e.1 e.2.1 e.2.2.pathA.isNone 12 4) s
    .next { s with pf := { s.pf with stopped := true, stopAt := s.tick } }

/-- STOP_RELEASE: every domain resumes at the next tick exactly as stopped. -/
def execStopRelease (s : State) : Result :=
  if !s.pf.stopped then .next s
  else .next (State.passTicks { s with pf := { s.pf with stopped := false, armed := false } } 1)

end Sys2Proof.Machine
end

