-- ==== Sys2Proof/Machine/Registers.lean ====
section
/-!
DEFINITION. The registers of BAR0 and of the sideband's mirror: every address, every field's access, reading and
writing (R4, R292, R295, R325, R340, R352, R357 to R361, R363, R365, R370, R373, R380).
-/

namespace Sys2Proof.Machine

/-- Which register an offset of a function's BAR0 names. -/
inductive Reg where
  /-- A register of a context-start block, and of a debug window: context, offset. -/
  | start (ctx off : Nat)
  | window (ctx off : Nat)
  | ctxOwn (ctx : Nat)
  | hmRange (n : Nat)
  /-- MIGCMD, MIGSTAT, and CAPCFG to CAPRSV: die, offset. -/
  | mig (die off : Nat)
  | cap (die off : Nat)
  | ctBase | ctSize | stDev
  | stPort (p : Nat)
  | stRoute (d : Nat)
  | devStat | pwrCtl
  | cmp (n : Nat)
  | stopTick | stopCtl | stopAt
  | ras (off : Nat)
  | rasCnt (stack : Nat)
  | rasLog (half : Nat)
  | attMap
  | mreg (half : Nat)
  deriving DecidableEq, Repr

/-- The n-th context that a function owns (R325). -/
def State.nthContext (s : State) (fn n : Nat) : Option Nat := (List.range 64).find? fun x => s.owner x == some (fn, n)

/-- A register of an array: base, stride, count. -/
def slotAt (off base stride count : Nat) : Option Nat :=
  if base ≤ off ∧ off < base + stride * count ∧ (off - base) % stride = 0 then some ((off - base) / stride) else none

/-- Registers of the PF alone. -/
def pfReg (off : Nat) : Option Reg :=
  if off = 0x9800 then some .ctBase else if off = 0x9808 then some .ctSize else if off = 0xA000 then some .stDev
  else if off = 0xB000 then some .devStat else if off = 0xB010 then some .pwrCtl else if off = 0xB240 then some .stopTick
  else if off = 0xB248 then some .stopCtl else if off = 0xB250 then some .stopAt else if off = 0xE000 then some .attMap
  else if 0xC000 ≤ off ∧ off < 0xC018 ∧ off % 4 = 0 then some (.ras (off - 0xC000))
  else if 0x9400 ≤ off ∧ off < 0x9480 ∧ off % 8 = 0 ∧ off % 0x40 ≤ 0x20 then some (.cap ((off - 0x9400) / 0x40) (off % 0x40))
  else if 0x9000 ≤ off ∧ off < 0x9080 ∧ off % 0x40 ≤ 8 ∧ off % 8 = 0 then some (.mig ((off - 0x9000) / 0x40) (off % 0x40))
  else
    ((slotAt off 0x8000 8 64).map Reg.ctxOwn).orElse fun _ => ((slotAt off 0x8400 8 256).map Reg.hmRange).orElse fun _ =>
      ((slotAt off 0xA040 4 16).map Reg.stPort).orElse fun _ => ((slotAt off 0xA100 4 64).map Reg.stRoute).orElse fun _ =>
        ((slotAt off 0xB200 8 8).map Reg.cmp).orElse fun _ => ((slotAt off 0xC040 8 8).map Reg.rasCnt).orElse fun _ =>
          ((slotAt off 0xD000 8 512).map Reg.rasLog).orElse fun _ => (slotAt off 0x20000 8 2048).map Reg.mreg

/-- The registers of the PF that do not belong to one context or one tenant: those that the sideband mirrors. -/
def sharedReg (off : Nat) : Option Reg :=
  match pfReg off with
  | some (.cap d o) => some (.cap d o)
  | some .devStat => some .devStat
  | some .pwrCtl => some .pwrCtl
  | some (.cmp n) => some (.cmp n)
  | some .stopTick => some .stopTick
  | some .stopCtl => some .stopCtl
  | some .stopAt => some .stopAt
  | some (.ras o) => some (.ras o)
  | some (.rasCnt k) => some (.rasCnt k)
  | some (.rasLog h) => some (.rasLog h)
  | _ => none

/-- Registers that vendor messages reach: offsets of PF BAR0, with the trace registers of context c in window c (R366). -/
def mirrored (off : Nat) : Option Reg :=
  if 0x40000 ≤ off ∧ off < 0x80000 ∧ off % 0x1000 ≤ 0x18 then some (.window ((off - 0x40000) / 0x1000) (off % 0x1000))
  else sharedReg off

/-- A Stitch register (R361). -/
def stitchReg (off : Nat) : Bool :=
  match pfReg off with
  | some .stDev => true
  | some (.stPort _) => true
  | some (.stRoute _) => true
  | _ => false

/-- The host's accesses reach a register: every one at stage C; before it only the management-only BAR of the PF, with the shared and
the Stitch registers (R362; DESIGN CHOICE, log 61). -/
def State.barOpen (s : State) (fn off : Nat) : Bool :=
  s.stage == 3 || (s.stage != 0 && fn == 0 && ((sharedReg off).isSome || stitchReg off))

/-- The register at an offset of a function's BAR0. -/
def State.regAt (s : State) (fn off : Nat) : Option Reg :=
  if 0x10000 ≤ off ∧ off < 0x14000 then
    (s.nthContext fn ((off - 0x10000) / 0x100)).map fun x => .start x (off % 0x100)
  else if 0x40000 ≤ off ∧ off < 0x80000 then
    (s.nthContext fn ((off - 0x40000) / 0x1000)).map fun x => .window x (off % 0x1000)
  else if fn = 0 then pfReg off
  else if off = 0xF00 then some .devStat
  else none

/-! ### Reading -/

/-- DEVSTAT (R363). -/
def State.devStat (s : State) : Nat :=
  s.stage + s.d0ok.toNat * 2 ^ 8 + s.d1ok.toNat * 2 ^ 9 + s.stageErr.toNat * 2 ^ 16

/-- CTXOWN's fields hold all that a write gave them. -/
def ownMask : Nat := 0x801F003F

def State.readStart (s : State) (x off : Nat) : Nat :=
  let k := s.ctx x
  match off with
  | 0x00 => k.csrec
  | 0x0C => k.state + k.cwf.toNat * 16 + k.err.toNat * 256
  | 0x10 => k.root.toNat
  | 0x14 => k.cie.toNat
  | 0x18 => k.hnd
  | 0x20 => k.save
  | 0x28 => k.saveSize.toNat
  | 0x2C => k.req.toNat + k.pstate * 16 + k.szerr.toNat * 512
  | 0x30 => k.deadline.toNat
  | 0x34 => k.fpc.toNat
  | 0x38 => k.faultReg.toNat
  | 0x40 => k.ptb
  | 0x48 => k.invReg.toNat + k.invDone.toNat * 2
  | 0x50 => k.blnReq.toNat
  | 0x54 => k.blnId.toNat
  | 0x58 => k.blnCred.toNat
  | 0x5C => k.blnOpen.toNat + k.blnAck.toNat * 2 + k.blnRepl.toNat * 4
  | _ => 0

/-- 8 bytes of the view that DBGSEL names; all ones where it names none (R292). -/
def State.debugData (s : State) (x : Nat) : Nat :=
  let w := (s.ctx x).dbgSel.toNat
  let c := bits w 31 20
  let ones := 2 ^ 64 - 1
  match s.debugTeam x c (bits w 19 16) with
  | none => ones
  | some t =>
    let off := bits w 15 0
    let k := s.core c
    match bits w 33 32 with
    | 0 =>
      let r := t.record c
      if 8 * off < r.length then leNat ((r.drop (8 * off)).take 8) else ones
    | 1 => if off = 0 then k.bndReg + k.bndScr * 2 ^ 8 + k.bndL1 * 2 ^ 16 else ones
    | 2 =>
      if off = 0 then (s.mstatus c t).toNat + (s.commandsOf c t.uid).length * 2 ^ 32
      else if off = 1 then t.batch.toNat + (match k.mtx.owner with | some o => o.2 | none => 0) * 2 ^ 32
      else ones
    | _ => ones

def State.readWindow (s : State) (x off : Nat) : Nat :=
  let k := s.ctx x
  match off with
  | 0x00 => k.trBase.toNat
  | 0x08 => k.trSize.toNat
  | 0x0C => k.trWr.toNat
  | 0x10 => k.trRd.toNat
  | 0x14 => k.trDrop.toNat
  | 0x18 => k.trCtl.toNat
  | 0x20 => k.attach.toNat + k.allStop.toNat * 2
  | 0x28 => k.dbgBusy.toNat + k.dbgErr.toNat * 2
  | 0x30 => k.dbgSel.toNat
  | 0x38 => s.debugData x
  | _ => 0

/-- A region entry as R373 lays it out. -/
def Region.word (r : Region) : Nat :=
  r.en.toNat + r.reported.toNat * 2 + r.rid.toNat * 2 ^ 16 + r.tenant.toNat * 2 ^ 32 + r.base * 2 ^ 48 + r.limit * 2 ^ 80

/-- What a read of a register gives. -/
def State.readReg (s : State) : Reg → Nat
  | .start x off => s.readStart x off
  | .window x off => s.readWindow x off
  | .ctxOwn x => ((Table.get s.pf.ctxOwn x).getD 0).toNat
  | .hmRange n => ((Table.get s.pf.hmRange n).getD 0).toNat
  | .mig d off =>
    let k := s.die d
    if off = 0 then k.migVa % 2 ^ 48 / 65536 * 65536 + k.migCtx % 64 * 256 else k.migSt + k.migWhy * 256
  | .cap d off =>
    let k := s.die d
    match off with
    | 0x00 => k.ovc
    | 0x08 => k.floor
    | 0x10 => k.pool
    | 0x18 => k.free
    | _ => (BitVec.ofInt 64 (s.reserve d)).toNat
  | .ctBase => s.pf.ctBase
  | .ctSize => s.pf.ctSize.toNat
  | .stDev => s.pf.stDev.toNat
  | .stPort p => ((Table.get s.pf.stPort p).getD 0).toNat
  | .stRoute d => ((Table.get s.pf.stRoute d).getD 0).toNat
  | .devStat => s.devStat
  | .pwrCtl => s.pf.watts + s.pf.tcap * 2 ^ 16
  | .cmp n => ((Table.get s.pf.cmps n).getD 0).toNat
  | .stopTick => s.pf.stopTick.toNat
  | .stopCtl => s.pf.armed.toNat * 4 + s.pf.stopped.toNat * 8
  | .stopAt => s.pf.stopAt.toNat
  | .ras off =>
    let r := s.ras
    match off with
    | 0x00 => r.ue.toNat + r.ovf.toNat * 2 + r.fatal.toNat * 4
    | 0x04 => r.logWr.toNat
    | 0x08 => r.logRd.toNat
    | 0x0C => r.ueie.toNat + r.ecsth * 2 ^ 16
    | 0x10 => r.sel.toNat
    | _ => (Table.get r.counts r.sel.toNat).getD 0
  | .rasCnt k => let c := (Table.get s.ras.ceue k).getD (0, 0); c.1 + c.2 * 2 ^ 32
  | .rasLog h => ((Table.get s.ras.log (h / 2)).getD 0).toNat / 2 ^ (64 * (h % 2)) % 2 ^ 64
  | .attMap => s.pf.attMap.toNat
  | .mreg h => ((Table.get s.meter.regions (h / 2)).getD Region.reset).word / 2 ^ (64 * (h % 2)) % 2 ^ 64

/-! ### Writing -/

/-- CTXOWN_WRITE: a context is assigned, unless it holds an accepted launch or a saved image (R360). -/
def execCtxownWrite (ctx : Nat) (value : BitVec 32) (s : State) : Result :=
  if 64 ≤ ctx then .fault .noSuchPlace
  else if !(s.ctx ctx).launches.isEmpty || (s.ctx ctx).pstate == 2 then .next s
  else .next { s with pf := { s.pf with ctxOwn := Table.put s.pf.ctxOwn ctx (value &&& BitVec.ofNat 32 ownMask) } }

/-- Fields of a port register that software writes, and those that training sets (R361). -/
def portWrite (old value : Word) : Word := (old &&& 0x033F0F00) ||| (value &&& 0x80000000)

/-- STITCH_CONFIG_WRITE: while no context holds an accepted launch (R361). -/
def execStitchConfigWrite (offset : Nat) (value : BitVec 32) (s : State) : Result :=
  let busy := s.ctxs.any fun e => !e.2.launches.isEmpty
  let keep := fun (pf : Pf) => .next (if busy then s else { s with pf := pf })
  match pfReg offset with
  | some .stDev => keep { s.pf with stDev := value &&& 0x00007F3F }
  | some (.stPort p) => keep { s.pf with stPort := Table.put s.pf.stPort p (portWrite ((Table.get s.pf.stPort p).getD 0) value) }
  | some (.stRoute d) => keep { s.pf with stRoute := Table.put s.pf.stRoute d (value &&& 0xFFFF) }
  | _ => .fault .noSuchPlace

/-- TRDROP_CLEAR (R295). -/
def execTrdropClear (ctx : Nat) (s : State) : Result :=
  if 64 ≤ ctx then .fault .noSuchPlace else .next (s.setCtx ctx { s.ctx ctx with trDrop := 0 })

/-- One action after another. -/
def andThen (f g : State → Result) (s : State) : Result :=
  match f s with
  | .next s' => g s'
  | r => r

/-- PREQCTL: SZERR, then REQ, FORCE and RESUME (R340). -/
def writePreq (x : Nat) (w : Word) (s : State) : Result :=
  let k := s.ctx x
  let s := if w.getLsbD 9 then s.setCtx x { k with szerr := false } else s
  let ask := if w.getLsbD 0 && !k.req then execPreemptRequest x else if !w.getLsbD 0 && k.req then execPreemptWithdraw x else .next
  andThen ask (andThen (if w.getLsbD 1 then execPreemptForce x else .next) (if w.getLsbD 8 then execResume x else .next)) s

/-- CTXPTB written: the pages of the new tables that are host windows are backed, and leaves that the old ones held are kept as a
changed table's are (R352, R356, R357). -/
def State.setRoot (s : State) (x base : Nat) : State :=
  let k := s.ctx x
  let s' := s.setCtx x { k with ptb := base, nextLaunch := if k.ptb = 0 ∧ base ≠ 0 then 1 else k.nextLaunch }
  if k.ptb = 0 then s'.backWindows x (s'.leavesOf x) else s'.tableChange s

/-- A write to a context-start block. -/
def writeStart (x off : Nat) (value : DWord) (s : State) : Result :=
  let k := s.ctx x
  let w : Word := value.setWidth 32
  match off with
  | 0x00 => .next (s.setCtx x { k with csrec := (value &&& 0x0000FFFFFFFFFFC0).toNat })
  | 0x08 => if w.getLsbD 0 then execRootStart x s else .next s
  | 0x0C => .next (if w.getLsbD 4 then s.setCtx x { k with cwf := false } else s)
  | 0x14 => .next (s.setCtx x { k with cie := w.getLsbD 0 })
  | 0x18 => .next (s.setCtx x { k with hnd := (value &&& 0x0000FFFFFFFFFFC0).toNat, handlerSeen := [] })
  | 0x20 => .next (s.setCtx x { k with save := (value &&& 0x0000FFFFFFFFF000).toNat })
  | 0x28 => .next (s.setCtx x { k with saveSize := w })
  | 0x2C => writePreq x w s
  | 0x30 => .next (s.setCtx x { k with deadline := w })
  | 0x38 => .next (if w.getLsbD 0 then s.setCtx x { k with faultReg := k.faultReg &&& ~~~1 } else s)
  | 0x40 =>
    .next (s.setRoot x (value &&& 0x000001FFFFFFF000).toNat)
  | 0x48 => execTranslationInvalidate x value s
  | 0x50 => if w = 0 then execBalloonClose x s else execBalloonRequest x w s
  | 0x5C => .next (s.setCtx x { k with blnAck := k.blnAck && !w.getLsbD 1, blnRepl := k.blnRepl && !w.getLsbD 2 })
  | _ => .next s

/-- DBGCMD (R292). -/
def writeCommand (x : Nat) (w : Word) (s : State) : Result :=
  let core := bits w.toNat 23 12
  let slot := bits w.toNat 27 24
  match bits w.toNat 31 29 with
  | 1 => execDebugStep x core slot (w.getLsbD 28) s
  | 2 => execDebugStepToRetire x core slot (w.getLsbD 28) s
  | 3 => execDebugCancelWait x core slot (w.getLsbD 28) s
  | 4 => execDebugResume x core slot s
  | _ => .next s

/-- A write to a debug window. -/
def writeWindow (x off : Nat) (value : DWord) (s : State) : Result :=
  let k := s.ctx x
  let w : Word := value.setWidth 32
  match off with
  | 0x00 => .next (s.setCtx x { k with trBase := value })
  | 0x08 => .next (s.setCtx x { k with trSize := w })
  | 0x10 => .next (s.setCtx x { k with trRd := w })
  | 0x14 => execTrdropClear x s
  | 0x18 => .next (s.setCtx x { k with trCtl := w &&& 0x001F1FFF })
  | 0x20 =>
    andThen (if w.getLsbD 0 && !k.attach then execDebugAttach x else if !w.getLsbD 0 && k.attach then execDebugDetach x else .next)
      (fun s => .next (s.setCtx x { s.ctx x with allStop := w.getLsbD 1 })) s
  | 0x24 => writeCommand x w s
  | 0x28 => .next (if w.getLsbD 1 then s.setCtx x { k with dbgErr := false } else s)
  | 0x30 => .next (s.setCtx x { k with dbgSel := value &&& 0x00000003FFFFFFFF })
  | _ => .next s

/-- MIGCMD (R358). -/
def writeMig (die : Nat) (value : DWord) (s : State) : Result :=
  let x := bits value.toNat 13 8
  let va : BitVec 48 := value.setWidth 48
  match bits value.toNat 2 0 with
  | 1 => execMigrateToCapacityTier die x va s
  | 2 => execMigrateToHbm die x va s
  | 3 => execPinPage die x va s
  | 4 => execUnpinPage die x va s
  | _ =>
    let k := s.die die
    .next (s.setDie die { k with migVa := va.toNat / 65536 * 65536, migCtx := x })

/-- A RAS register written (R370). -/
def writeRas (off : Nat) (w : Word) (s : State) : State :=
  let r := s.ras
  let put := fun (r : Ras) => { s with ras := r }
  match off with
  | 0x00 => put { r with ue := r.ue && !w.getLsbD 0, ovf := r.ovf && !w.getLsbD 1, fatal := r.fatal && !w.getLsbD 2 }
  | 0x08 => put { r with logRd := w }
  | 0x0C => put { r with ueie := w.getLsbD 0, ecsth := w.toNat / 65536 }
  | 0x10 => put { r with sel := w &&& 0x3FFFF }
  | _ => s

/-- STOPCTL: RELEASE, then ARM (R292). -/
def writeStop (w : Word) (s : State) : Result :=
  andThen (if w.getLsbD 1 then execStopRelease else .next) (if w.getLsbD 0 then execStopArm else .next) s

/-- A write to a register. -/
def writeReg (value : DWord) (s : State) : Reg → Result
  | .start x off => writeStart x off value s
  | .window x off => writeWindow x off value s
  | .ctxOwn x => execCtxownWrite x (value.setWidth 32) s
  | .hmRange n => .next { s with pf := { s.pf with hmRange := Table.put s.pf.hmRange n (value &&& 0xFFFFFFFFFFFF0000) } }
  | .mig d off => if off = 0 then writeMig d value s else .next s
  | .cap d off =>
    if off = 0 then execCapcfgWrite d (value.setWidth 32) s
    else if off = 8 then .next (s.setDie d { s.die d with floor := value.toNat })
    else .next s
  | .ctBase => .next { s with pf := { s.pf with ctBase := value.toNat / 2 ^ 21 * 2 ^ 21 } }
  | .ctSize => .next { s with pf := { s.pf with ctSize := value.setWidth 32 } }
  | .stDev => execStitchConfigWrite 0xA000 (value.setWidth 32) s
  | .stPort p => execStitchConfigWrite (0xA040 + 4 * p) (value.setWidth 32) s
  | .stRoute d => execStitchConfigWrite (0xA100 + 4 * d) (value.setWidth 32) s
  | .pwrCtl => .next { s with pf := { s.pf with watts := max 600 (min 2800 (bits value.toNat 11 0)) } }
  | .cmp n => .next { s with pf := { s.pf with cmps := Table.put s.pf.cmps n (value &&& 0x80FFFFFFFFFFFFFF) } }
  | .stopTick => .next { s with pf := { s.pf with stopTick := value } }
  | .stopCtl => writeStop (value.setWidth 32) s
  | .ras off => .next (writeRas off (value.setWidth 32) s)
  | .devStat => .next s
  | .stopAt => .next s
  | .rasCnt _ => .next s
  | .rasLog _ => .next s
  | .attMap => .next s
  | .mreg _ => .next s

/-- REGISTER_WRITE: a write from the host to an offset of a function's BAR0 (R4); one at an offset that names no register is
ignored, and so is one that the BAR of its stage does not take (R362; DESIGN CHOICE, log 61), but for a START, which is refused
before stage C (R327). -/
def execRegisterWrite (fn offset : Nat) (value : BitVec 64) (s : State) : Result :=
  if 32 ≤ fn then .fault .noSuchPlace
  else
    match s.regAt fn offset with
    | none => .next s
    | some (.start x 0x08) => writeStart x 0x08 value s
    | some r => if s.barOpen fn offset then writeReg value s r else .next s

end Sys2Proof.Machine
end

