-- ==== Sys2Proof/Machine/Power.lean ====
section
/-!
DEFINITION. Reset and staged start, idle states, power and thermal caps (R10, R14, R291, R362 to R365).
-/

namespace Sys2Proof.Machine

/-! ### Reset and power (R291, R362, R377) -/

/-- The device after assertion of reset: what the security controller, the repair record, the sideband's enrolment
and the host hold stays, and what the outside world is about to do still comes (log 24). -/
def State.afterReset (s : State) : State := { State.reset with
  agenda := s.agenda
  fresh := s.fresh
  serial := s.serial
  hostMem := s.hostMem
  meter := { s.meter with last := 0 }
  ras := { Ras.reset with coreRepairs := s.ras.coreRepairs, rowRepairs := s.ras.rowRepairs, fused := s.ras.fused }
  side := { s.side with algorithms := false, replies := [], running := s.side.staged.getD s.side.running, staged := none }
  shutdown := s.shutdown }

/-- RESET. -/
def execReset (s : State) : Result := .next s.afterReset

/-- The counters as a loss of power leaves them: only what secure flash and the fuses hold (R377). -/
def Meter.off (m : Meter) : Meter := { m with regions := [], epoch := 0, seq := 0, gap := none }

/-- POWER_LOSS: what no checkpoint holds is lost. -/
def execPowerLoss (s : State) : Result := .next { s.afterReset with meter := s.meter.off }

/-- The module has no power: no power-on has burned an epoch since it was lost, or since the module was made (R365, R377; log 24). -/
def State.unpowered (s : State) : Bool := s.shutdown || s.meter.epoch == 0

/-- PERST_RELEASE: staged start begins, after a power-on (R362, R365, R377). -/
def execPerstRelease (s : State) : Result := .next (if s.unpowered then s else { s with released := true })

/-- A stage that cannot complete: STAGE = 100 and its code. -/
def State.stageFailed (s : State) (err : BitVec 8) : State := { s with stage := 4, stageErr := err }.devstatEvent

/-- STAGE_A_COMPLETE: the counters are released, and the sideband tells the shutdowns that it has kept (R365, R366). -/
def execStageAComplete (s : State) : Result :=
  if s.stage ≠ 0 || !s.released || s.unpowered then .next s
  else
    .next { s with
      stage := 1
      ticksRun := true
      side := { s.side with kept := [], replies := s.side.kept.map (0, ·) ++ s.side.replies } }.devstatEvent

/-- Physical cores of a cluster that the core maps leave out. -/
def State.unmapped (s : State) (cluster : Nat) : List Nat := (s.ras.mapped.filter fun e => e.1 == cluster).map (·.2)

/-- The physical core that serves a place: the usable ones in ascending order (R10; log 25). -/
def State.physicalOf (s : State) (core : Nat) : Option Nat :=
  ((List.range 100).filter fun p => !(s.unmapped (clusterOf core)).contains p)[coreIndex core]?

/-- Physical cores that the fused test record or the repair record takes out (R10). -/
def Ras.faulty (r : Ras) : List (Nat × Nat) := (r.fused ++ r.coreRepairs).eraseDups

/-- Clusters of a die with fewer than 96 usable cores. -/
def Ras.broken (r : Ras) (d : Nat) : List Nat :=
  ((List.range 12).map (12 * d + ·)).filter fun k => decide (4 < (r.faulty.filter fun e => e.1 == k).length)

/-- A withheld cluster reported over the sideband (R10; the message's form is free, log 25). -/
def State.reportCluster (s : State) (k : Nat) : State := s.reply 0 (leBytes 2 k)

/-- STAGE_B_COMPLETE: firmware verified, HBM trained, core maps set and row repairs applied, or failed. -/
def execStageBComplete (firmwareOk hbm0 hbm1 clusters0 clusters1 : Bool) (s : State) : Result :=
  if s.stage ≠ 1 then .next s
  else if !firmwareOk then .next (s.stageFailed 0x10)
  else if !hbm0 && !hbm1 then .next (s.stageFailed 0x11)
  else
    let bad := s.ras.broken 0 ++ s.ras.broken 1 ++
      (if clusters0 then [] else [(Config.sensor 4 0).toNat % 12]) ++ (if clusters1 then [] else [12 + (Config.sensor 4 1).toNat % 12])
    let use0 := hbm0 && clusters0 && (s.ras.broken 0).isEmpty
    let use1 := hbm1 && clusters1 && (s.ras.broken 1).isEmpty
    .next (bad.eraseDups.foldl State.reportCluster ({ s with
      stage := 2
      die0 := { s.die0 with withheld := !use0 }
      die1 := { s.die1 with withheld := !use1 }
      ras := { s.ras with mapped := s.ras.faulty, rowRepairs := [] } }.devstatEvent))

/-- STAGE_C_COMPLETE: fabric and Stitch up, the routes and the tick offset set, the pools fixed, the dies in service usable. -/
def execStageCComplete (fabricOk stitchOk : Bool) (offset : BitVec 64) (s : State) : Result :=
  if s.stage ≠ 2 then .next s
  else if !fabricOk then .next (s.stageFailed 0x12)
  else if !stitchOk then .next (s.stageFailed 0x13)
  else
    let up := fun (k : Die) => { k with pool := poolOf k.ovc, free := poolOf k.ovc }
    .next { s with
      stage := 3
      tickOffset := offset
      routes := allRoutes
      die0 := up s.die0
      die1 := up s.die1
      d0ok := !s.die0.withheld
      d1ok := !s.die1.withheld }.devstatEvent

/-! ### Idle states (R364) -/


/-- Exit latency of IDLE0 to IDLE3 in nanoseconds. -/
def exitLatency (level : Nat) : Nat :=
  match level with
  | 0 => 100 | 1 => 20000 | 2 => 2000000 | _ => 200000000

/-- No resident team, engine operation or runner on a core. -/
def State.quiet (s : State) (c : Nat) : Bool :=
  let k := s.core c
  k.teams.isEmpty && k.mtx.window.isEmpty && k.evicted.all fun e => e.2.ops.isEmpty

/-- A ready cohort waits in a cluster's dispatch queue, whether a core can accept it now or not (R336). -/
def State.cohortQueued (s : State) (k : Nat) : Bool :=
  s.ctxs.any fun e => e.2.pstate != 2 && e.2.launches.any fun l =>
    l.ready && l.spawned.isNone && decide (l.nextItem < l.rcd.nitems) &&
      ((l.rect.orElse fun _ => s.rectFor l.rcd).any fun r => r.cluster24 == k)

/-- Every core of a cluster is quiet, no cohort waits for it and it holds no bin. -/
def State.quietCluster (s : State) (k : Nat) : Bool :=
  (List.range 96).all (fun i => s.quiet (96 * k + i)) && (s.cluster k).isEmpty && !s.cohortQueued k

/-- No page of a die migrates and no line of it waits to be written back. -/
def State.quietDie (s : State) (d : Nat) : Bool :=
  (List.range 12).all (fun k => s.quietCluster (12 * d + k)) &&
    s.pages.all (fun e => e.2.state != .migrating || homeDie (65536 * e.1) != d) &&
    (s.die d).l2.all (fun e => e.2.dirty.isEmpty) && !s.pf.armed

/-- The condition of an idle state for a place. -/
def State.idleHolds (s : State) (level place : Nat) : Bool :=
  match level with
  | 0 => decide (place < 2304) && s.quiet place
  | 1 => decide (place < 24) && s.quietCluster place
  | 2 => decide (place < 2) && s.quietDie place
  | 3 => decide (place = 0) && s.quietDie 0 && s.quietDie 1 && s.ctxs.all fun e => e.2.launches.isEmpty && e.2.pstate != 2
  | _ => false

/-- The latency of a state is within the tolerance, and the place's condition for it holds. -/
def State.mayIdle (s : State) (level place : Nat) : Bool := decide (exitLatency level ≤ s.ltr) && s.idleHolds level place

/-- The idle places that are still within the tolerance and whose condition still holds. -/
def State.keepIdle (s : State) : State :=
  { s with idlePlaces := s.idlePlaces.filter fun q => s.mayIdle (q / 4096) (q % 4096) }

/-- LTR_MESSAGE: the lower of the two values is the host's tolerance; deeper states than it allows end. -/
def execLtrMessage (snoop noSnoop : Nat) (s : State) : Result := .next { s with ltr := min snoop noSnoop }.keepIdle

/-- The places that hold a place at the levels from its own on, the deepest first. -/
def idleChain (level place : Nat) : List (Nat × Nat) :=
  let die := match level with
    | 0 => place / 1152 | 1 => place / 12 | _ => place
  let up := [(3, 0), (2, die), (1, if level = 0 then place / 96 else place), (0, place)]
  up.filter fun e => decide (level ≤ e.1)

/-- The deepest idle state open to a place: the latency is within the tolerance and the condition holds. -/
def State.deepest (s : State) (level place : Nat) : Option Nat :=
  ((idleChain level place).find? fun e => s.mayIdle e.1 e.2).map fun e => 4096 * e.1 + e.2

/-- A place enters it. -/
def State.goIdle (s : State) (level place : Nat) : State :=
  match s.deepest level place with
  | some q => if s.idlePlaces.contains q then s else { s with idlePlaces := q :: s.idlePlaces }
  | none => s

/-- IDLE_ENTRY. -/
def execIdleEntry (level place : Nat) (s : State) : Result := .next (s.goIdle level place)

/-- The idle places that cover a place or lie within it end with it. -/
def wakes (level place q : Nat) : Bool :=
  let l := q / 4096
  let p := q % 4096
  let die := match level with
    | 0 => place / 1152 | 1 => place / 12 | 2 => place | _ => 0
  match l with
  | 0 => level == 0 && p == place
  | 1 => (level == 0 && p == place / 96) || (level == 1 && p == place)
  | 2 => level == 3 || p == die
  | _ => true

/-- IDLE_WAKE: the place and every deeper state that holds it. -/
def execIdleWake (level place : Nat) (s : State) : Result :=
  .next { s with idlePlaces := s.idlePlaces.filter fun q => !wakes level place q }

/-! ### Power and thermal caps (R365), in force from stage A (R362) -/

/-- A die above its cap falls to it at once; no team waits for a point that the cap no longer allows (R338). -/
def State.fall (s : State) (d : Nat) : State :=
  let s := s.retarget d
  (s.setDie d { s.die d with point := min (s.die d).point (s.capOf d) }).releasePoints

/-- The highest operating point whose measured power is within a limit. -/
def highestPoint (watts : List Nat) (limit : Nat) : Nat :=
  ((List.range 8).filter fun i => decide (watts.getD i (limit + 1) ≤ limit)).foldl max 0

/-- POWER_CAP_EVALUATION: measured power by point. -/
def execPowerCapEvaluation (die : Nat) (watts : List Nat) (s : State) : Result :=
  if 2 ≤ die then .fault .noSuchPlace
  else if s.stage = 0 then .next s
  else .next ((s.setDie die { s.die die with effCap := highestPoint watts s.pf.watts }).fall die)

/-- TCAP set, with its event (R326). -/
def State.setTcap (s : State) (n : Nat) : State :=
  if n = s.pf.tcap then s else ((({ s with pf := { s.pf with tcap := n } }).fall 0).fall 1).raise 0 0

/-- TCAP_STEP: one point up below 95 degrees, one down from 95 to below 105. -/
def execTcapStep (celsius : Nat) (s : State) : Result :=
  .next (if s.stage = 0 then s else s.setTcap (if celsius < 95 then min 7 (s.pf.tcap + 1) else if celsius < 105 then s.pf.tcap - 1 else 0))

/-- THERMAL_CAP_ZERO. -/
def execThermalCapZero (celsius : Nat) (s : State) : Result := .next (if 105 ≤ celsius ∧ s.stage ≠ 0 then s.setTcap 0 else s)

/-- THERMAL_SHUTDOWN: the module shuts down until the next power-on, and the event is kept for the sideband. -/
def execThermalShutdown (celsius : Nat) (s : State) : Result :=
  if celsius < 115 ∨ s.stage = 0 then .next s
  else
    let r := s.afterReset
    .next { r with
      shutdown := true
      msix := s.msix ++ [(0, 0)]
      side := { r.side with kept := leBytes 8 celsius :: s.side.kept } }

end Sys2Proof.Machine
end

