-- ==== Sys2Proof/Machine/Health.lean ====
section
/-!
DEFINITION. Memory health, fabric and Stitch events, and the host's accesses through CXL.mem (R10, R273, R356,
R360, R361, R367 to R372).
-/

namespace Sys2Proof.Machine

/-- A granule of the descriptor carve-out that the scrubber reads (R14, R367). -/
def State.scrubCarve (s : State) (die j : Nat) (outcome : ScrubOutcome) : State :=
  match outcome with
  | .clean => s
  | .corrected => (s.countGranule (carveStack die j) false).rasLog 0x01 (0xA00 + carveStack die j) (carveDetail die j true)
  | .uncorrectable => s.poisonCarve die j true

/-- PATROL_SCRUB: granule 16 b + i of a die is granule i of its block b, and those from 2^35 are the descriptor carve-out's
(log 26); beyond the die's limit A there is no block, and past A / 64 bytes no carve-out, to read (R13, R14). -/
def execPatrolScrub (die granule : Nat) (outcome : ScrubOutcome) (s : State) : Result :=
  if 2 ≤ die ∨ 2 ^ 35 + 2 ^ 29 ≤ granule then .fault .noSuchPlace
  else if s.limit die / 2048 ≤ granule - 2 ^ 35 ∧ 2 ^ 35 ≤ granule ∨ s.limit die / 32 ≤ granule ∧ granule < 2 ^ 35 then .next s
  else if 2 ^ 35 ≤ granule then .next (s.scrubCarve die (granule - 2 ^ 35) outcome)
  else
    let g := die * 2 ^ 35 + granule
    match outcome with
    | .clean => .next s
    | .corrected => .next ((s.countGranule (stackOf (32 * g)) false).rasLog 0x01 (0xA00 + stackOf (32 * g)) (granuleDetail (32 * g) true))
    | .uncorrectable => .next (s.poisonGranule g true)

/-- A pool word of a core takes the poison codeword: a word of a cohort's region, a lane's word of a register, whose load PC is 0, or a
line of the L1, the n-th that it holds at place n (R367; log 75). -/
def State.poisonPool (s : State) (c a : Nat) : State :=
  let k := s.core c
  if a < 16384 * k.bndReg then
    let r := k.teams.foldl (fun (r : Nat × Option (Nat × Nat × Nat)) e =>
      let n := e.2.frameBytes
      (r.1 + n, if r.1 ≤ a ∧ a < r.1 + n then some (e.1, (a - r.1) / (4 * e.2.lanes), (a - r.1) % (4 * e.2.lanes) / 4) else r.2)) (0, none)
    match r.2 with
    | some (slot, v, lane) => match s.team c slot with
      | some t => s.setTeam c slot { t with vpoison := (v, lane, 0) :: t.vpoison }
      | none => s
    | none => s
  else if 16384 * k.bndScr ≤ a then
    let n := (a - 16384 * k.bndScr) / 128
    s.setCore c { k with l1 := k.l1.zipIdx.map fun e => if e.2 = n then { e.1 with bad := true } else e.1 }
  else
    let o := a - 16384 * k.bndReg
    match k.cohorts.find? fun h => decide (h.base ≤ o) && decide (o < h.base + h.scrb) with
    | some h => s.setCohort c (h.setPoison ((o - h.base) / 4 * 4))
    | none => s

/-- An L2 word of a device address takes the poison mark of its line, in the L2 of a die: a line of a COH page at home may be held
there clean (log 18), a replica or a line of an SWM page as the table says (R367). -/
def State.poisonLine (s : State) (d da : Nat) : State :=
  let bad := (List.range 4).map (da / 4 * 4 % 128 + ·)
  match s.line d (lineOf da) with
  | some k => s.setLine d (lineOf da) { k with bad := (k.bad ++ bad).eraseDups }
  | none => if homeDie da = d && s.heldGranules (pageOf da) != 0 then s.setLine d (lineOf da) ⟨false, false, [], [], bad⟩ else s

/-- An error names a granule of HBM, of a block or of a die's descriptor carve-out, a core, or a device address. -/
def State.upsetPlace (s : State) (what a : Nat) : Bool :=
  let j := a - 2 ^ 36
  if what < 2 then decide (a < 2 ^ 36) || (decide (j < 2 ^ 31) && decide (j % 2 ^ 30 < s.limit (j / 2 ^ 30) / 2048))
  else decide (a < if what = 4 ∨ what = 5 then 2 ^ 41 else 2304)

/-- The stack and the place of a granule that an access corrects (R371). -/
def granuleAt (g : Nat) : Nat × Nat :=
  if g < 2 ^ 36 then (stackOf (32 * g), granuleDetail (32 * g) false)
  else (carveStack ((g - 2 ^ 36) / 2 ^ 30) (g % 2 ^ 30), carveDetail ((g - 2 ^ 36) / 2 ^ 30) (g % 2 ^ 30) false)

/-- The die whose L2 word an error hits: the home die, or with `b` odd the other one, where it holds the line. -/
def State.upsetDie (s : State) (da b : Nat) : Nat :=
  let d := homeDie da
  if b % 2 = 1 && (s.line (1 - d) (lineOf da)).isSome then 1 - d else d

/-- An error that a memory word suffers (R367, R371): of HBM, mended or found at the next read; of the pool of a core or of the
L2, mended or poisoned; of an accumulator word (R211). -/
def State.upset (s : State) (what a b : Nat) : State :=
  if !s.upsetPlace what a then s
  else match what with
  | 0 => { s with ras := { s.ras with latent := (a :: s.ras.latent).eraseDups } }
  | 1 => (s.countGranule (granuleAt a).1 false).rasLog 0x01 (0xA00 + (granuleAt a).1) (granuleAt a).2
  | 2 => s.rasLog 0x04 a (b % 2 ^ 20)
  | 3 => (s.poisonPool a b).rasLog 0x05 a (b % 2 ^ 20)
  | 4 => s.rasLog 0x04 (0xB00 + 128 * s.upsetDie a b + sliceOf a) ((Config.sensor 5 a).toNat % 2 ^ 20)
  | 5 => (s.poisonLine (s.upsetDie a b) a).rasLog 0x05 (0xB00 + 128 * s.upsetDie a b + sliceOf a) ((Config.sensor 5 a).toNat % 2 ^ 20)
  | _ =>
    let k := s.core a
    s.setCore a { k with mtx := { k.mtx with accBad := ((b / 32 % 1024, b % 32) :: k.mtx.accBad).eraseDups } }

/-- Ticks in 24 hours. -/
def dayTicks : Nat := 86400000000000

/-- ECS_POLL: a bank's count, its rise within the 24 hours before (from the 0 that RASECS holds up to the first poll), and the repair record
(R369).  After an event the rise is counted anew from the count that raised it (log 77). -/
def execEcsPoll (stack pch bank count row : Nat) (s : State) : Result :=
  if 8 ≤ stack || decide (384 ≤ pch) || decide (64 ≤ bank) then .fault .noSuchPlace
  else
    let key := stack * 2 ^ 15 + pch * 2 ^ 6 + bank
    let now := min count 0xFFFFFFFF
    let past := ((Table.get s.ras.ecsPast key).getD [(s.tick.toNat, 0)]).filter fun e => decide (s.tick.toNat ≤ e.1 + dayTicks)
    let base := past.foldl (fun n e => min n e.2) now
    let s := { s with ras := { s.ras with
      counts := Table.put s.ras.counts key now, ecsPast := Table.put s.ras.ecsPast key ((s.tick.toNat, now) :: past) } }
    if now < base + s.ras.ecsth then .next s
    else
      let s := { s with ras := { s.ras with
        rowRepairs := (key, row) :: s.ras.rowRepairs, ecsPast := Table.put s.ras.ecsPast key [(s.tick.toNat, now)] } }
      .next (s.rasLog 0x03 (0xA00 + stack) (pch * 2 ^ 35 + bank * 2 ^ 29 + now % 65536))

/-- CORE_FAULT_IN_SERVICE: the core stays mapped; a repair entry takes it out at the next start (R10). -/
def execCoreFaultInService (core physical : Nat) (s : State) : Result :=
  if 2304 ≤ core || s.physicalOf core != some physical then .fault .noSuchPlace
  else
    let s := { s with ras := { s.ras with coreRepairs := (s.ras.coreRepairs ++ [(clusterOf core, physical)]).eraseDups } }
    .next (s.rasLog 0x09 core physical)

/-! ### Fabric (R273, R372) -/

/-- A context has work on a die: a team, a saved one, an open bin or a launch placed there. -/
def State.worksOn (s : State) (x d : Nat) : Bool :=
  let k := s.ctx x
  s.allTeams.any (fun e => e.2.ctx == x && dieOf e.1 == d) || k.saved.any (fun e => dieOf e.core == d) ||
    s.bins.any (fun e => e.1 / 12 == d && e.2.any fun b => b.ctx == x) ||
    k.launches.any fun l => match l.rect with
      | some r => r.die == d
      | none => !l.rcd.pany && l.rcd.pdie == d

/-- A hop of a die is down: the contexts that work on the die are torn down and the die is withheld (R370, R372). -/
def State.hopDown (s : State) (die loop : Nat) : State :=
  let gone := (s.ctxs.map (·.1)).filter fun x => s.worksOn x die
  let s := gone.foldl State.teardown s
  let s := s.setDie die { s.die die with withheld := true }
  let s := { s with
    d0ok := s.d0ok && die != 0, d1ok := s.d1ok && die != 1, ras := { s.ras with fatal := true } }
  (s.rasLog 0x07 (0xA10 + die) (loop % 64)).devstatEvent

/-- FABRIC_HOP_RETRY: the flit that leaves a stop, `hop`, on one of its loops fails its CRC; the 8th failure in a row is fatal to the
die. -/
def execFabricHopRetry (die loop hop : Nat) (s : State) : Result :=
  if 2 ≤ die || decide (64 ≤ loop) || decide (stopCount ≤ hop) then .fault .noSuchPlace
  else if !(loopsOf die hop).contains loop then .next s
  else
    let key := (die, loop, hop)
    let n := ((s.hopFails.find? fun e => e.1 == key).map (·.2)).getD 0 + 1
    let rest := s.hopFails.filter fun e => e.1 != key
    if n < 8 then .next { s with hopFails := (key, n) :: rest }
    else .next ({ s with hopFails := rest }.hopDown die loop)

/-- A hop carries its flit: its run of failures is over (R372). -/
def State.hopGood (s : State) (die loop hop : Nat) : State := { s with hopFails := s.hopFails.filter fun e => e.1 != (die, loop, hop) }

/-- The marked slot comes round free, and the stop's packet is injected (R273). -/
def State.inject (s : State) (die stop loop : Nat) : State := { s with starved := s.starved.filter (· != (die, stop, loop)) }

/-- INJECTION_STARVATION: a stop has waited on one of its loops, and the next slot that leaves its neighbour empty comes round
free. -/
def execInjectionStarvation (die stop loop : Nat) (s : State) : Result :=
  if 2 ≤ die || decide (stopCount ≤ stop) || decide (64 ≤ loop) then .fault .noSuchPlace
  else if !(loopsOf die stop).contains loop then .next s
  else .next { s with starved := (s.starved ++ [(die, stop, loop)]).eraseDups }

/-! ### Stitch (R361) -/

/-- STITCH_LANES_LOST: below 4 good lanes the port is down and leaves every MASK.  Ports 16 and 17 stand for the two bridges, whose unit
code the spec does not give (free; log 22); one with fewer than 4 good lanes is down (R372). -/
def execStitchLanesLost (port lanes : Nat) (s : State) : Result :=
  if 18 ≤ port then .fault .noSuchPlace
  else if 16 ≤ port then
    .next (State.rasLog { s with ras := { s.ras with bridgeBad := Table.put s.ras.bridgeBad (port - 16) lanes } } 0x06
      ((Config.sensor 3 port).toNat % 4096) (lanes % 16))
  else
    let s := s.rasLog 0x06 (0xA20 + port) (lanes % 16)
    if 4 ≤ lanes then .next s
    else
      let w := (Table.get s.pf.stPort port).getD 0
      let bit' : Word := BitVec.ofNat 32 (2 ^ port)
      let keep : Word := ~~~0x03000000
      .next { s with pf := { s.pf with
        stPort := Table.put s.pf.stPort port (w &&& keep)
        stRoute := s.pf.stRoute.map fun (e : Nat × Word) => (e.1, e.2 &&& ~~~bit') } }

/-- STITCH_PORT_TRAINED: an enabled port reports its width and its peer. -/
def execStitchPortTrained (port : Nat) (width : BitVec 2) (peer : BitVec 6) (peerPort : BitVec 4) (s : State) : Result :=
  if 16 ≤ port then .fault .noSuchPlace
  else
    let w := (Table.get s.pf.stPort port).getD 0
    if !w.getLsbD 31 then .next s
    else
      let w : Word := 0x80000000 ||| BitVec.ofNat 32 (width.toNat * 2 ^ 24 + peer.toNat * 2 ^ 16 + peerPort.toNat * 2 ^ 8)
      .next { s with pf := { s.pf with stPort := Table.put s.pf.stPort port w } }

/-! ### Host accesses through CXL.mem (R356, R360, R367, R374) -/

/-- A device page is a host window: some context maps it with HW, and none with MET. -/
def State.hostWindow (s : State) (da : Nat) : Bool :=
  let maps := s.deviceLeaves.filter fun l => decide (entryAddr l.1 ≤ da) && decide (da < entryAddr l.1 + l.2)
  maps.any (fun l => bit l.1 6) && maps.all fun l => !bit l.1 8

/-- A page that a leaf maps with UC set: none of its lines stays in L2 after an access (R356). -/
def State.uncached (s : State) (da : Nat) : Bool :=
  s.deviceLeaves.any fun l => decide (entryAddr l.1 ≤ da) && decide (da < entryAddr l.1 + l.2) && bit l.1 7

/-- Bytes that the host writes, performed at the home slice line by line; on a page that is not a host window they are dropped, and the
event is logged once for the page (R249, R356, R360). -/
def State.hostWrite (s : State) (da : Nat) (data : List Byte) : State :=
  ((linesOf da data.length).foldl (fun (r : List Nat × State) e =>
    let bytes := (data.drop (e.1 - da)).take e.2
    if s.hostWindow e.1 then (r.1, r.2.writeLoc (homeDie e.1) (.dev e.1 false (s.uncached e.1) true) bytes)
    else if r.1.contains (pageOf e.1) then r
    else (pageOf e.1 :: r.1, r.2.rasLog 0x08 0xA40 (2 ^ 41 + e.1 % 2 ^ 41))) ([], s)).2

/-- The host writes its own memory, at its coherence point (R249). -/
def State.hostOwn (s : State) (pa : Nat) (bytes : List Byte) : State :=
  (State.keepPast { s with hostMem := Memory.writeList s.hostMem pa bytes } ((Loc.host pa).keys bytes.length))

/-- HOST_CXL_MEM_ACCESS: performed on a host window, a read giving the 64 bytes that hold the address; elsewhere not performed
and logged.  A read of poisoned data, or one that is not performed, gives data marked poisoned: no bytes (R360, R367). -/
def execHostCxlMemAccess (write : Bool) (da : Nat) (data : List (BitVec 8)) (s : State) : Result :=
  if 2 ^ 41 ≤ da then .fault .noSuchPlace
  else if !s.hostWindow da && (!write || data.isEmpty) then
    .next ((if write then s else { s with hostRead := [] }).rasLog 0x08 0xA40 (write.toNat * 2 ^ 41 + da))
  else if write then .next ((s.wakeDie (homeDie da)).hostWrite da data)
  else
    let s := s.wakeDie (homeDie da)
    let loc : Loc := .dev (da / 64 * 64) false false true
    let s := s.readAt (homeDie da) loc
    .next (if s.poisonedLoc (homeDie da) loc then { s with hostRead := [] }.poisonUsed 0xA40 (s.page (pageOf da)).ctx 1
      else { s with hostRead := s.readLoc (homeDie da) loc 64 })

end Sys2Proof.Machine
end

