-- ==== Sys2Proof/Machine/Migration.lean ====
section
/-!
DEFINITION. How a migration ends (R191, R267, R324, R358, R383).
-/

namespace Sys2Proof.Machine

/-- What follows the end of a migration: the next pages start, and root starts that wait check again (R267, R328). -/
def State.afterMigration (s : State) (d : Nat) : State := (s.pump d).retryRoots

/-- A page that root starts and completions asked for is resident (R328, R333). -/
def State.arrived (s : State) (pg : Nat) : State :=
  let at' := fun x va => match s.locate x va with
    | some (.dev da _ _ _) => pageOf da == pg
    | _ => false
  { s with ctxs := s.ctxs.map fun (e : Nat × Ctx) => (e.1, { e.2 with
      rootAsked := e.2.rootAsked.filter (· != pg)
      launches := e.2.launches.map fun l => if l.cwAsked && at' e.1 l.rcd.cwa then { l with cwAsked := false } else l }) }

/-- Trap entries that wait for a page that cannot come find no usable image (R345). -/
def State.failEntries (s : State) (pg : Nat) : State :=
  s.resident.foldl (fun (s : State) e => match e.2.2.entry with
    | some h => if h.page = pg then s.kill e.1 e.2.1 h.cause (((e.2.2.at h.path).map (·.pc)).getD 0) false true else s
    | none => s) s

/-- MIGRATION_COMPLETE (R191, R267, R358); a root start that waits for a page checks again (R328). -/
def execMigrationComplete (page : Nat) (s : State) : Result :=
  let p := s.page page
  let d := homeDie (65536 * page)
  if p.state ≠ .migrating then .next s
  else if p.toTier then .next (((s.leaveHbm page).commandPage page 0).afterMigration d)
  else
    let n := s.pageGranules page
    let s := s.makeRoom d p.ctx n s.pages.length
    if s.reserve d < n then .next s
    else
      let s := (s.takeFree d n).setPage page { s.page page with state := .resident, failed := false, short := false }
      .next ((((s.arrived page).traceMigration page false true n).commandPage page 0).afterMigration d)

/-- MIGRATION_FAILED: the tier cannot be reached, or HBM has no room (R324, R358, R383).  It writes no record of a
migration's end (DESIGN CHOICE, log 80). -/
def execMigrationFailed (page : Nat) (tierLost : Bool) (s : State) : Result :=
  let p := s.page page
  let d := homeDie (65536 * page)
  if p.state ≠ .migrating then .next s
  else if p.toTier then
    if tierLost then .next (((s.setPage page { p with state := .resident, toTier := false }).commandPage page 2).afterMigration d)
    else .next s
  else if tierLost then
    let s := s.setPage page { p with state := .remote, failed := true }
    .next (((((s.parkedOn page).foldl (fun s e => s.unpark e.1 e.2.1 e.2.2.1) s).failEntries page).commandPage page 2).afterMigration d)
  else
    let s := s.makeRoom d p.ctx (s.pageGranules page) s.pages.length
    if (s.pageGranules page : Int) ≤ s.reserve d then .next s
    else
      let waiting := s.parkedOn page
      let s := s.setPage page { s.page page with state := .remote, short := (s.firstParked page).isNone }
      .next (((((waiting.foldl State.trapParked s).denyEvicted page).failEntries page).commandPage page 2).afterMigration d)

end Sys2Proof.Machine
end

