-- ==== Sys2Proof/Machine/Sideband.lean ====
section
/-!
DEFINITION. The sideband's messages, metered regions, reports, checkpoints and attestation (R366, R373 to R382).
-/

namespace Sys2Proof.Machine

/-! ### MCTP, PLDM and SPDM (R366)

The bytes of an answer whose contents the spec does not give are free (log 8). -/

/-- A request answered with bytes the spec does not give; the sideband runs from stage A. -/
def answer (what : Nat) (request : List Byte) (s : State) : Result :=
  .next (s.reply what (Config.signature (leBytes 2 what ++ request)))

/-- MCTP_CONTROL_MESSAGE. -/
def execMctpControlMessage (command : BitVec 8) (s : State) : Result := answer 1 [command] s

/-- The thermal action in force: 0 none, 1 a lowered cap, 2 the cap at 0, 3 the module shut down (log 22). -/
def State.thermalAction (s : State) : Nat := if s.shutdown then 3 else if s.pf.tcap = 0 then 2 else if s.pf.tcap < 7 then 1 else 0

/-- PLDM_SENSOR_READ: the state sensors STAGE, D0OK, D1OK and the thermal action, numbered 0 to 3, say what they name; a numeric
sensor reads as anything (DESIGN CHOICE for the numbers, log 22). -/
def execPldmSensorRead (sensor : Nat) (s : State) : Result :=
  let value := match sensor with
    | 0 => s.stage
    | 1 => s.d0ok.toNat
    | 2 => s.d1ok.toNat
    | 3 => s.thermalAction
    | _ => (Config.sensor (16 + s.fresh) sensor).toNat
  .next ({ s with fresh := s.fresh + 1 }.reply 2 (leBytes 4 value))

/-- PLDM_FIRMWARE_UPDATE: a verified image is staged for the next reset; a bad signature is reported as 0x10. -/
def execPldmFirmwareUpdate (image : Nat) (signatureOk : Bool) (s : State) : Result :=
  if s.stage = 0 then .next s
  else if signatureOk then .next ({ s with side := { s.side with staged := some image } }.reply 3 [0])
  else .next ({ s with side := { s.side with firmwareErr := 0x10 } }.reply 3 [0x10])

/-- GET_VERSION. -/
def execGetVersion (s : State) : Result := answer 4 [] s

/-- GET_CAPABILITIES. -/
def execGetCapabilities (s : State) : Result := answer 5 [] s

/-- NEGOTIATE_ALGORITHMS: ECDSA P-384 and SHA-384 only. -/
def execNegotiateAlgorithms (p384 sha384 : Bool) (s : State) : Result :=
  if s.stage = 0 then .next s
  else .next ({ s with side := { s.side with algorithms := p384 && sha384 } }.reply 6 [if p384 && sha384 then 1 else 0])

/-- GET_DIGESTS. -/
def execGetDigests (s : State) : Result := answer 7 [] s

/-- GET_CERTIFICATE. -/
def execGetCertificate (slot : BitVec 8) (s : State) : Result := answer 8 [slot] s

/-- CHALLENGE. -/
def execChallenge (nonce : BitVec 256) (s : State) : Result := answer 9 (leBytes 32 nonce.toNat) s

/-- GET_MEASUREMENTS. -/
def execGetMeasurements (nonce : BitVec 256) (s : State) : Result := answer 10 (leBytes 32 nonce.toNat) s

/-- VENDOR_REGISTER_ACCESS.  An offset that no mirrored register has changes nothing (log 61). -/
def execVendorRegisterAccess (write : Bool) (offset : Nat) (value : BitVec 64) (s : State) : Result :=
  match mirrored offset with
  | none => .next s
  | some r =>
    if s.stage = 0 then .next s
    else if write then andThen (fun s => writeReg value s r) (fun s => .next (s.reply 11 [])) s
    else .next (s.reply 11 (leBytes 8 (s.readReg r)))

/-! ### Metered regions (R373, R377) -/

/-- No epoch remains: no entry can be enabled (R377). -/
def Meter.exhausted (m : Meter) : Bool := decide (4096 ≤ m.fuse)

/-- MREG_WRITE. -/
def execMregWrite (entry : Nat) (value : BitVec 128) (s : State) : Result :=
  if 1024 ≤ entry then .fault .noSuchPlace
  else if s.stage = 0 then .next s
  else
    let r := (Table.get s.meter.regions entry).getD Region.reset
    let w := value.toNat
    let on := bit w 0
    let tenant : BitVec 16 := BitVec.ofNat 16 (bits w 47 32)
    let rid : BitVec 16 := BitVec.ofNat 16 (bits w 31 16)
    if r.en && on then .next s
    else if on && !r.reported && (tenant != r.tenant || rid != r.rid) then .next s
    else if on && (s.meter.exhausted || s.meter.final) then .next s
    else
      let r := { r with limit := bits w 104 80, base := bits w 72 48, tenant := tenant, rid := rid, en := on, everOn := r.everOn || on }
      .next { s with meter := { s.meter with regions := Table.put s.meter.regions entry r } }

/-! ### Persistence (R377) -/

/-- The entries and counters written to secure flash; with the power gone there are none to write. -/
def Meter.checkpoint (m : Meter) (tick : DWord) (orderly : Bool) : Meter :=
  if m.epoch = 0 then m else { m with flash := some (m.epoch, tick, m.regions, m.seq, orderly), last := tick.toNat }

/-- What the first report of the next epoch tells of the one that ends: none where its power-down wrote a checkpoint, or where no epoch
has begun; else the last checkpoint's epoch and tick, both 0 where there is none (log 24). -/
def Meter.lost (m : Meter) : Option (Nat × DWord) :=
  if m.fuse = 0 then none
  else match m.flash with
    | some (e, t, _, _, orderly) => if orderly && e == m.fuse then none else some (e, t)
    | none => some (0, 0)

/-- METER_POWER_ON: the power-on, with the newest checkpoint of the fused epoch accepted and the next epoch burned; a module that had
shut down can start again (R365). -/
def execMeterPowerOn (s : State) : Result :=
  let m := s.meter
  let kept := match m.flash with
    | some f => if f.1 = m.fuse then some f else none
    | none => none
  let regions := match kept with
    | some f => f.2.2.1
    | none => []
  let next := min 4096 (m.fuse + 1)
  .next { s with shutdown := false, meter := { m with regions := regions, fuse := next, epoch := next, seq := 0, gap := m.lost, last := s.tick.toNat } }

/-- METER_CHECKPOINT: once a second. -/
def execMeterCheckpoint (s : State) : Result := .next { s with meter := s.meter.checkpoint s.tick false }

/-- ORDERLY_POWER_DOWN: a last checkpoint, and the device is off. -/
def execOrderlyPowerDown (s : State) : Result :=
  .next { s.afterReset with meter := (s.meter.checkpoint s.tick true).off }

/-! ### Reports (R378, R379) -/

/-- The entries a report covers, with their indices. -/
def Meter.covered (m : Meter) (tenant : BitVec 16) : List (Nat × Region) :=
  m.regions.filter fun e => e.2.everOn && (tenant == 0xFFFF || e.2.tenant == tenant)

/-- One 32-byte entry of a report. -/
def entryBytes (e : Nat × Region) : List Byte :=
  leBytes 2 e.2.rid.toNat ++ leBytes 2 e.2.tenant.toNat ++ leBytes 2 e.1 ++ leBytes 2 e.2.en.toNat ++
    leBytes 8 (65536 * e.2.base) ++ leBytes 8 (65536 * e.2.limit) ++ leBytes 8 e.2.count.toNat

/-- A report before its signature, and with it: the certificate's hash is SHA-384 of bytes that the spec does not give, the signature
96 bytes that it does not (free; log 8). -/
def Meter.report (m : Meter) (tick : DWord) (nonce : BitVec 256) (tenant : BitVec 16) (final : Bool) : List Byte :=
  let es := m.covered tenant
  let flags := m.gap.isSome.toNat + final.toNat * 2 + (decide (4096 ≤ m.fuse + 64)).toNat * 4
  let body := leBytes 4 0x4D455452 ++ leBytes 2 1 ++ leBytes 2 flags ++ leBytes 8 (m.epoch * 2 ^ 32 + m.seq + 1) ++
    leBytes 8 tick.toNat ++ leBytes 2 tenant.toNat ++ leBytes 2 es.length ++ leBytes 4 ((m.gap.map (·.1)).getD 0) ++
    sha384 (Config.signature [0]) ++ leBytes 32 nonce.toNat ++ leBytes 8 ((m.gap.map (·.2.toNat)).getD 0) ++
    leBytes 8 0 ++ es.flatMap entryBytes
  body ++ padTo 96 (Config.signature body)

/-- A report sent: its entries are REPORTED, its number used, its gap told. -/
def State.sendReport (s : State) (nonce : BitVec 256) (tenant : BitVec 16) (final : Bool) : State :=
  if s.stage = 0 then s
  else
    let m := s.meter
    let names := (m.covered tenant).map (·.1)
    let regions := m.regions.map fun (e : Nat × Region) =>
      (e.1, { e.2 with reported := e.2.reported || names.contains e.1, en := e.2.en && !final })
    ({ s with meter := { m with seq := m.seq + 1, gap := none, regions := regions, final := m.final || final } }).reply 12
      (m.report s.tick nonce tenant final)

/-- METERING_REPORT. -/
def execMeteringReport (nonce : BitVec 256) (tenant : BitVec 16) (s : State) : Result := .next (s.sendReport nonce tenant false)

/-- FINAL_REPORT: closes the chain and disables every entry. -/
def execFinalReport (nonce : BitVec 256) (s : State) : Result := .next (s.sendReport nonce 0xFFFF true)

/-! ### Attestation (R380) -/

/-- ALLOW_LIST_INSTALL over the sideband: the first install enrols the key, and the enrolled key must have signed what replaces list or
key: `signatureOk` says that the signature is that of the key enrolled, at the first install of the key given. -/
def execAllowListInstall (key : Nat) (signatureOk : Bool) (entries : List (BitVec 384)) (s : State) : Result :=
  if s.stage = 0 || !signatureOk || decide (256 < entries.length) then .next s
  else .next { s with side := { s.side with key := some key, allow := entries } }

/-- The bits of the contexts that hold an accepted launch or a saved image. -/
def State.heldMask (s : State) : DWord :=
  BitVec.ofNat 64 ((List.range 64).foldl
    (fun n x => if !(s.ctx x).launches.isEmpty || (s.ctx x).pstate == 2 then n + 2 ^ x else n) 0)

/-- ATTMAP_WRITE: over the sideband; ignored for a context that holds an accepted launch or a saved image.  The handler of a context
whose bit changes is measured afresh (R381). -/
def execAttmapWrite (value : BitVec 64) (s : State) : Result :=
  if s.stage = 0 then .next s
  else
    let map := (s.pf.attMap &&& s.heldMask) ||| (value &&& ~~~s.heldMask)
    let turned := fun (x : Nat) => map.getLsbD x != s.pf.attMap.getLsbD x
    .next { s with
      pf := { s.pf with attMap := map }
      ctxs := s.ctxs.map fun e => if turned e.1 then (e.1, { e.2 with handlerSeen := [] }) else e }

end Sys2Proof.Machine
end

