-- ==== Sys2Proof/Machine/Dispatch.lean ====
section
/-!
DEFINITION. The dispatch of every instruction and event to its meaning.
-/

namespace Sys2Proof.Machine

/-- The meaning of an instruction or event. -/
def exec (i : Instr) (s : State) : Host.Outcome State Fault Refusal :=
  match i with
  | .nop c w => Sys2Proof.Machine.execNop c w s
  | .bra c w o => Sys2Proof.Machine.execBra c w o s
  | .brc c w z k o => Sys2Proof.Machine.execBrc c w z k o s
  | .split c w p o => Sys2Proof.Machine.execSplit c w p o s
  | .join c w => Sys2Proof.Machine.execJoin c w s
  | .call c w l o => Sys2Proof.Machine.execCall c w l o s
  | .calli c w l t => Sys2Proof.Machine.execCalli c w l t s
  | .ret c w t => Sys2Proof.Machine.execRet c w t s
  | .exit c w => Sys2Proof.Machine.execExit c w s
  | .trap c w k => Sys2Proof.Machine.execTrap c w k s
  | .brk c w g => Sys2Proof.Machine.execBrk c w g s
  | .waitcyc c w n => Sys2Proof.Machine.execWaitcyc c w n s
  | .yield c w => Sys2Proof.Machine.execYield c w s
  | .prio c w p => Sys2Proof.Machine.execPrio c w p s
  | .srd c w d n => Sys2Proof.Machine.execSrd c w d n s
  | .swr c w a n => Sys2Proof.Machine.execSwr c w a n s
  | .trtag c w a g => Sys2Proof.Machine.execTrtag c w a g s
  | .rett c w k => Sys2Proof.Machine.execRett c w k s
  | .launch c w a => Sys2Proof.Machine.execLaunch c w a s
  | .spawn c w a e t => Sys2Proof.Machine.execSpawn c w a e t s
  | .waitc c w h a => Sys2Proof.Machine.execWaitc c w h a s
  | .waitci c w h n => Sys2Proof.Machine.execWaitci c w h n s
  | .bar c w b => Sys2Proof.Machine.execBar c w b s
  | .bara c w b => Sys2Proof.Machine.execBara c w b s
  | .barw c w b => Sys2Proof.Machine.execBarw c w b s
  | .fence c w o e => Sys2Proof.Machine.execFence c w o e s
  | .qfence c w m => Sys2Proof.Machine.execQfence c w m s
  | .spout c w n a => Sys2Proof.Machine.execSpout c w n a s
  | .grow c w => Sys2Proof.Machine.execGrow c w s
  | .growt c w k => Sys2Proof.Machine.execGrowt c w k s
  | .shrink c w => Sys2Proof.Machine.execShrink c w s
  | .sadd c w d a b q => Sys2Proof.Machine.execSadd c w d a b q s
  | .ssub c w d a b q => Sys2Proof.Machine.execSsub c w d a b q s
  | .smul c w d a b q => Sys2Proof.Machine.execSmul c w d a b q s
  | .smulh c w d a b q => Sys2Proof.Machine.execSmulh c w d a b q s
  | .sand c w d a b q => Sys2Proof.Machine.execSand c w d a b q s
  | .sor c w d a b q => Sys2Proof.Machine.execSor c w d a b q s
  | .sxor c w d a b q => Sys2Proof.Machine.execSxor c w d a b q s
  | .sshl c w d a b q => Sys2Proof.Machine.execSshl c w d a b q s
  | .sshr c w d a b q => Sys2Proof.Machine.execSshr c w d a b q s
  | .ssra c w d a b q => Sys2Proof.Machine.execSsra c w d a b q s
  | .smin c w d a b q => Sys2Proof.Machine.execSmin c w d a b q s
  | .smax c w d a b q => Sys2Proof.Machine.execSmax c w d a b q s
  | .sminu c w d a b q => Sys2Proof.Machine.execSminu c w d a b q s
  | .smaxu c w d a b q => Sys2Proof.Machine.execSmaxu c w d a b q s
  | .saddw c w d a b q => Sys2Proof.Machine.execSaddw c w d a b q s
  | .scmp c w k e a b q => Sys2Proof.Machine.execScmp c w k e a b q s
  | .saddi c w d a n => Sys2Proof.Machine.execSaddi c w d a n s
  | .smovi c w d n => Sys2Proof.Machine.execSmovi c w d n s
  | .ext x => Sys2Proof.Machine.execExt x s
  | .vadd c w d a b q => Sys2Proof.Machine.execVadd c w d a b q s
  | .vsub c w d a b q => Sys2Proof.Machine.execVsub c w d a b q s
  | .vmul c w d a b q => Sys2Proof.Machine.execVmul c w d a b q s
  | .vmulh c w d a b q => Sys2Proof.Machine.execVmulh c w d a b q s
  | .vmulhu c w d a b q => Sys2Proof.Machine.execVmulhu c w d a b q s
  | .vand c w d a b q => Sys2Proof.Machine.execVand c w d a b q s
  | .vor c w d a b q => Sys2Proof.Machine.execVor c w d a b q s
  | .vxor c w d a b q => Sys2Proof.Machine.execVxor c w d a b q s
  | .vshl c w d a b q => Sys2Proof.Machine.execVshl c w d a b q s
  | .vshr c w d a b q => Sys2Proof.Machine.execVshr c w d a b q s
  | .vsra c w d a b q => Sys2Proof.Machine.execVsra c w d a b q s
  | .vmin c w d a b q => Sys2Proof.Machine.execVmin c w d a b q s
  | .vmax c w d a b q => Sys2Proof.Machine.execVmax c w d a b q s
  | .vminu c w d a b q => Sys2Proof.Machine.execVminu c w d a b q s
  | .vmaxu c w d a b q => Sys2Proof.Machine.execVmaxu c w d a b q s
  | .vaddw c w d a b q => Sys2Proof.Machine.execVaddw c w d a b q s
  | .vaddi c w d a n => Sys2Proof.Machine.execVaddi c w d a n s
  | .vmad c w d a b j => Sys2Proof.Machine.execVmad c w d a b j s
  | .vmov c w d b q => Sys2Proof.Machine.execVmov c w d b q s
  | .vpopc c w d b q => Sys2Proof.Machine.execVpopc c w d b q s
  | .vclz c w d b q => Sys2Proof.Machine.execVclz c w d b q s
  | .vlane c w d => Sys2Proof.Machine.execVlane c w d s
  | .vitem c w d => Sys2Proof.Machine.execVitem c w d s
  | .vbrev c w d b q => Sys2Proof.Machine.execVbrev c w d b q s
  | .vnot c w d b q => Sys2Proof.Machine.execVnot c w d b q s
  | .vabs c w d b q => Sys2Proof.Machine.execVabs c w d b q s
  | .vcvtI2f c w d b q => Sys2Proof.Machine.execVcvtI2f c w d b q s
  | .vcvtU2f c w d b q => Sys2Proof.Machine.execVcvtU2f c w d b q s
  | .vcvtF2i c w d b q => Sys2Proof.Machine.execVcvtF2i c w d b q s
  | .vcvtF2u c w d b q => Sys2Proof.Machine.execVcvtF2u c w d b q s
  | .vcvtF2h c w d b q => Sys2Proof.Machine.execVcvtF2h c w d b q s
  | .vcvtH2f c w d b q => Sys2Proof.Machine.execVcvtH2f c w d b q s
  | .vbfx c w d a b q => Sys2Proof.Machine.execVbfx c w d a b q s
  | .vfadd c w d a b q => Sys2Proof.Machine.execVfadd c w d a b q s
  | .vfsub c w d a b q => Sys2Proof.Machine.execVfsub c w d a b q s
  | .vfmul c w d a b q => Sys2Proof.Machine.execVfmul c w d a b q s
  | .vfmin c w d a b q => Sys2Proof.Machine.execVfmin c w d a b q s
  | .vfmax c w d a b q => Sys2Proof.Machine.execVfmax c w d a b q s
  | .vfneg c w d b q => Sys2Proof.Machine.execVfneg c w d b q s
  | .vfabs c w d b q => Sys2Proof.Machine.execVfabs c w d b q s
  | .vfclass c w d b q => Sys2Proof.Machine.execVfclass c w d b q s
  | .vqfac c w d a b q => Sys2Proof.Machine.execVqfac c w d a b q s
  | .vqnorm c w d a b q => Sys2Proof.Machine.execVqnorm c w d a b q s
  | .vfma c w d a b j => Sys2Proof.Machine.execVfma c w d a b j s
  | .vhadd c w d a b q f => Sys2Proof.Machine.execVhadd c w d a b q f s
  | .vhsub c w d a b q f => Sys2Proof.Machine.execVhsub c w d a b q f s
  | .vhmul c w d a b q f => Sys2Proof.Machine.execVhmul c w d a b q f s
  | .vhmin c w d a b q f => Sys2Proof.Machine.execVhmin c w d a b q f s
  | .vhmax c w d a b q f => Sys2Proof.Machine.execVhmax c w d a b q f s
  | .vhdot c w d a b q f => Sys2Proof.Machine.execVhdot c w d a b q f s
  | .vhneg c w d b q f => Sys2Proof.Machine.execVhneg c w d b q f s
  | .vhabs c w d b q f => Sys2Proof.Machine.execVhabs c w d b q f s
  | .vhfmaBf c w d a b j => Sys2Proof.Machine.execVhfmaBf c w d a b j s
  | .vhfmaHf c w d a b j => Sys2Proof.Machine.execVhfmaHf c w d a b j s
  | .vcmpS c w p e a b q => Sys2Proof.Machine.execVcmpS c w p e a b q s
  | .vcmpU c w p e a b q => Sys2Proof.Machine.execVcmpU c w p e a b q s
  | .vcmpF c w p e a b q => Sys2Proof.Machine.execVcmpF c w p e a b q s
  | .pand c w p a b => Sys2Proof.Machine.execPand c w p a b s
  | .por c w p a b => Sys2Proof.Machine.execPor c w p a b s
  | .pxor c w p a b => Sys2Proof.Machine.execPxor c w p a b s
  | .pnot c w p b => Sys2Proof.Machine.execPnot c w p b s
  | .vsel c w d a b q r => Sys2Proof.Machine.execVsel c w d a b q r s
  | .vrcp c w d b q => Sys2Proof.Machine.execVrcp c w d b q s
  | .vrsq c w d b q => Sys2Proof.Machine.execVrsq c w d b q s
  | .vsqrt c w d b q => Sys2Proof.Machine.execVsqrt c w d b q s
  | .vexp2 c w d b q => Sys2Proof.Machine.execVexp2 c w d b q s
  | .vlog2 c w d b q => Sys2Proof.Machine.execVlog2 c w d b q s
  | .vsin c w d b q => Sys2Proof.Machine.execVsin c w d b q s
  | .vcos c w d b q => Sys2Proof.Machine.execVcos c w d b q s
  | .vtanh c w d b q => Sys2Proof.Machine.execVtanh c w d b q s
  | .vshfl c w d a b q => Sys2Proof.Machine.execVshfl c w d a b q s
  | .vshflu c w d a b q => Sys2Proof.Machine.execVshflu c w d a b q s
  | .vshfld c w d a b q => Sys2Proof.Machine.execVshfld c w d a b q s
  | .vshflx c w d a b q => Sys2Proof.Machine.execVshflx c w d a b q s
  | .vbcast c w d a b q => Sys2Proof.Machine.execVbcast c w d a b q s
  | .vballot c w d p => Sys2Proof.Machine.execVballot c w d p s
  | .vany c w k p => Sys2Proof.Machine.execVany c w k p s
  | .vall c w k p => Sys2Proof.Machine.execVall c w k p s
  | .vmredAdd c w d a b q => Sys2Proof.Machine.execVmredAdd c w d a b q s
  | .vmredMin c w d a b q => Sys2Proof.Machine.execVmredMin c w d a b q s
  | .vmredMax c w d a b q => Sys2Proof.Machine.execVmredMax c w d a b q s
  | .vscanAdd c w d a t => Sys2Proof.Machine.execVscanAdd c w d a t s
  | .vscanxAdd c w d a t => Sys2Proof.Machine.execVscanxAdd c w d a t s
  | .vredgAdd c w d a t => Sys2Proof.Machine.execVredgAdd c w d a t s
  | .vredgMax c w d a t => Sys2Proof.Machine.execVredgMax c w d a t s
  | .vmatch c w d a => Sys2Proof.Machine.execVmatch c w d a s
  | .ldg c w d a o q f => Sys2Proof.Machine.execLdg c w d a o q f s
  | .stg c w d a o q f => Sys2Proof.Machine.execStg c w d a o q f s
  | .ldu c w d a o q f => Sys2Proof.Machine.execLdu c w d a o q f s
  | .lds c w d a o fh fl => Sys2Proof.Machine.execLds c w d a o fh fl s
  | .sts c w d a o fh fl => Sys2Proof.Machine.execSts c w d a o fh fl s
  | .ldsR c w d a x y g => Sys2Proof.Machine.execLdsR c w d a x y g s
  | .stsR c w d a x y g => Sys2Proof.Machine.execStsR c w d a x y g s
  | .atomAdd c w d a o e p r => Sys2Proof.Machine.execAtomAdd c w d a o e p r s
  | .atomMin c w d a o e p r => Sys2Proof.Machine.execAtomMin c w d a o e p r s
  | .atomMax c w d a o e p r => Sys2Proof.Machine.execAtomMax c w d a o e p r s
  | .atomMinu c w d a o e p r => Sys2Proof.Machine.execAtomMinu c w d a o e p r s
  | .atomMaxu c w d a o e p r => Sys2Proof.Machine.execAtomMaxu c w d a o e p r s
  | .atomAnd c w d a o e p r => Sys2Proof.Machine.execAtomAnd c w d a o e p r s
  | .atomOr c w d a o e p r => Sys2Proof.Machine.execAtomOr c w d a o e p r s
  | .atomXor c w d a o e p r => Sys2Proof.Machine.execAtomXor c w d a o e p r s
  | .atomExch c w d a o e p r => Sys2Proof.Machine.execAtomExch c w d a o e p r s
  | .atomCas c w d a o e p r => Sys2Proof.Machine.execAtomCas c w d a o e p r s
  | .atomFaddF32 c w d a o e p r => Sys2Proof.Machine.execAtomFaddF32 c w d a o e p r s
  | .atomFaddBf16x2 c w d a o e p r => Sys2Proof.Machine.execAtomFaddBf16x2 c w d a o e p r s
  | .atomLd c w d a o e p r => Sys2Proof.Machine.execAtomLd c w d a o e p r s
  | .atomSt c w d a o e p r => Sys2Proof.Machine.execAtomSt c w d a o e p r s
  | .atomAddW c w d a o e p r => Sys2Proof.Machine.execAtomAddW c w d a o e p r s
  | .cwb c w a n => Sys2Proof.Machine.execCwb c w a n s
  | .cinv c w a n => Sys2Proof.Machine.execCinv c w a n s
  | .pf c w a n l => Sys2Proof.Machine.execPf c w a n l s
  | .trans c w d t p => Sys2Proof.Machine.execTrans c w d t p s
  | .transS c w d t => Sys2Proof.Machine.execTransS c w d t s
  | .rsvq c w d n => Sys2Proof.Machine.execRsvq c w d n s
  | .blnq c w d => Sys2Proof.Machine.execBlnq c w d s
  | .pgsurr c w d a n => Sys2Proof.Machine.execPgsurr c w d a n s
  | .blnack c w a => Sys2Proof.Machine.execBlnack c w a s
  | .blkq c w d a => Sys2Proof.Machine.execBlkq c w d a s
  | .mzero c w n p q b => Sys2Proof.Machine.execMzero c w n p q b s
  | .mload c w n p q b => Sys2Proof.Machine.execMload c w n p q b s
  | .mloads c w n p q b => Sys2Proof.Machine.execMloads c w n p q b s
  | .mswap c w n p q => Sys2Proof.Machine.execMswap c w n p q s
  | .mstream c w n p q b => Sys2Proof.Machine.execMstream c w n p q b s
  | .mstore c w n p q b => Sys2Proof.Machine.execMstore c w n p q b s
  | .mscale c w n p q b => Sys2Proof.Machine.execMscale c w n p q b s
  | .mfence c w => Sys2Proof.Machine.execMfence c w s
  | .mwait c w b => Sys2Proof.Machine.execMwait c w b s
  | .merrq c w b => Sys2Proof.Machine.execMerrq c w b s
  | .mstat c w b => Sys2Proof.Machine.execMstat c w b s
  | .cpyG2s c w q b n => Sys2Proof.Machine.execCpyG2s c w q b n s
  | .cpyS2g c w q b n => Sys2Proof.Machine.execCpyS2g c w q b n s
  | .cpyS2s c w q b n => Sys2Proof.Machine.execCpyS2s c w q b n s
  | .cpyGth c w q b n => Sys2Proof.Machine.execCpyGth c w q b n s
  | .cpySct c w q b n => Sys2Proof.Machine.execCpySct c w q b n s
  | .cpyFill c w q b n => Sys2Proof.Machine.execCpyFill c w q b n s
  | .cgrp c w b g => Sys2Proof.Machine.execCgrp c w b g s
  | .cag c w b g => Sys2Proof.Machine.execCag c w b g s
  | .crs c w b g => Sys2Proof.Machine.execCrs c w b g s
  | .car c w b g => Sys2Proof.Machine.execCar c w b g s
  | .ca2a c w b g => Sys2Proof.Machine.execCa2a c w b g s
  | .cbar c w g => Sys2Proof.Machine.execCbar c w g s
  | .run c w o => Sys2Proof.Machine.execRun c w o s
  | .rstop c w => Sys2Proof.Machine.execRstop c w s
  | .qpop c w d q => Sys2Proof.Machine.execQpop c w d q s
  | .qpops c w d q => Sys2Proof.Machine.execQpops c w d q s
  | .qpush c w a q f => Sys2Proof.Machine.execQpush c w a q f s
  | .qstat c w d q => Sys2Proof.Machine.execQstat c w d q s
  | .reservedEncoding word => Sys2Proof.Machine.execReservedEncoding word s
  | .comparatorHit core slot path cmp => Sys2Proof.Machine.execComparatorHit core slot path cmp s
  | .dispatchCohort die cluster => Sys2Proof.Machine.execDispatchCohort die cluster s
  | .teamExit core slot => Sys2Proof.Machine.execTeamExit core slot s
  | .binTimerExpiry die cluster bin => Sys2Proof.Machine.execBinTimerExpiry die cluster bin s
  | .binTeamDispatch die cluster => Sys2Proof.Machine.execBinTeamDispatch die cluster s
  | .evictTeam core => Sys2Proof.Machine.execEvictTeam core s
  | .returnEvictedTeam core => Sys2Proof.Machine.execReturnEvictedTeam core s
  | .growGrant core => Sys2Proof.Machine.execGrowGrant core s
  | .launchCompletion ctx launch => Sys2Proof.Machine.execLaunchCompletion ctx launch s
  | .operatingPointStable die => Sys2Proof.Machine.execOperatingPointStable die s
  | .loadReturn core op => Sys2Proof.Machine.execLoadReturn core op s
  | .scratchpadLoadReturn core op => Sys2Proof.Machine.execScratchpadLoadReturn core op s
  | .sfuResultReturn core op => Sys2Proof.Machine.execSfuResultReturn core op s
  | .storePerformed core op => Sys2Proof.Machine.execStorePerformed core op s
  | .remoteStorePerformed core op => Sys2Proof.Machine.execRemoteStorePerformed core op s
  | .atomicPerformed core op lane => Sys2Proof.Machine.execAtomicPerformed core op lane s
  | .cwbComplete core op => Sys2Proof.Machine.execCwbComplete core op s
  | .cinvComplete core op => Sys2Proof.Machine.execCinvComplete core op s
  | .pgsurrPageDone core op => Sys2Proof.Machine.execPgsurrPageDone core op s
  | .transReturn core op => Sys2Proof.Machine.execTransReturn core op s
  | .blockWriteback die block => Sys2Proof.Machine.execBlockWriteback die block s
  | .ladleRefill core slot => Sys2Proof.Machine.execLadleRefill core slot s
  | .ladleReturn core ctx => Sys2Proof.Machine.execLadleReturn core ctx s
  | .migrationComplete page => Sys2Proof.Machine.execMigrationComplete page s
  | .migrationFailed page tierLost => Sys2Proof.Machine.execMigrationFailed page tierLost s
  | .copyOperationComplete core queue => Sys2Proof.Machine.execCopyOperationComplete core queue s
  | .collectiveComplete core op remote => Sys2Proof.Machine.execCollectiveComplete core op remote s
  | .matrixCommandStart core cmd => Sys2Proof.Machine.execMatrixCommandStart core cmd s
  | .matrixCommandRetire core cmd => Sys2Proof.Machine.execMatrixCommandRetire core cmd s
  | .trapEntry core slot path cause fault aux => Sys2Proof.Machine.execTrapEntry core slot path cause fault aux s
  | .yieldSave core slot => Sys2Proof.Machine.execYieldSave core slot s
  | .preemptDeadline ctx => Sys2Proof.Machine.execPreemptDeadline ctx s
  | .saveComplete ctx => Sys2Proof.Machine.execSaveComplete ctx s
  | .restoreComplete ctx => Sys2Proof.Machine.execRestoreComplete ctx s
  | .invalidationDone ctx => Sys2Proof.Machine.execInvalidationDone ctx s
  | .pcSample core sched => Sys2Proof.Machine.execPcSample core sched s
  | .debugStepEnd core slot => Sys2Proof.Machine.execDebugStepEnd core slot s
  | .dependenceRecheck ctx launch => Sys2Proof.Machine.execDependenceRecheck ctx launch s
  | .stopOnTick => Sys2Proof.Machine.execStopOnTick s
  | .replicationWindowClear => Sys2Proof.Machine.execReplicationWindowClear s
  | .meterCheckpoint => Sys2Proof.Machine.execMeterCheckpoint s
  | .rootStart ctx => Sys2Proof.Machine.execRootStart ctx s
  | .preemptRequest ctx => Sys2Proof.Machine.execPreemptRequest ctx s
  | .preemptWithdraw ctx => Sys2Proof.Machine.execPreemptWithdraw ctx s
  | .preemptForce ctx => Sys2Proof.Machine.execPreemptForce ctx s
  | .resume ctx => Sys2Proof.Machine.execResume ctx s
  | .functionLevelReset fn => Sys2Proof.Machine.execFunctionLevelReset fn s
  | .translationInvalidate ctx value => Sys2Proof.Machine.execTranslationInvalidate ctx value s
  | .migrateToCapacityTier die ctx va => Sys2Proof.Machine.execMigrateToCapacityTier die ctx va s
  | .migrateToHbm die ctx va => Sys2Proof.Machine.execMigrateToHbm die ctx va s
  | .pinPage die ctx va => Sys2Proof.Machine.execPinPage die ctx va s
  | .unpinPage die ctx va => Sys2Proof.Machine.execUnpinPage die ctx va s
  | .capcfgWrite die value => Sys2Proof.Machine.execCapcfgWrite die value s
  | .balloonRequest ctx value => Sys2Proof.Machine.execBalloonRequest ctx value s
  | .balloonClose ctx => Sys2Proof.Machine.execBalloonClose ctx s
  | .ctxownWrite ctx value => Sys2Proof.Machine.execCtxownWrite ctx value s
  | .stitchConfigWrite offset value => Sys2Proof.Machine.execStitchConfigWrite offset value s
  | .registerWrite fn offset value => Sys2Proof.Machine.execRegisterWrite fn offset value s
  | .trdropClear ctx => Sys2Proof.Machine.execTrdropClear ctx s
  | .debugAttach ctx => Sys2Proof.Machine.execDebugAttach ctx s
  | .debugDetach ctx => Sys2Proof.Machine.execDebugDetach ctx s
  | .debugStep ctx core slot path => Sys2Proof.Machine.execDebugStep ctx core slot path s
  | .debugStepToRetire ctx core slot path => Sys2Proof.Machine.execDebugStepToRetire ctx core slot path s
  | .debugCancelWait ctx core slot path => Sys2Proof.Machine.execDebugCancelWait ctx core slot path s
  | .debugResume ctx core slot => Sys2Proof.Machine.execDebugResume ctx core slot s
  | .stopArm => Sys2Proof.Machine.execStopArm s
  | .stopRelease => Sys2Proof.Machine.execStopRelease s
  | .perstRelease => Sys2Proof.Machine.execPerstRelease s
  | .stageAComplete => Sys2Proof.Machine.execStageAComplete s
  | .stageBComplete firmwareOk hbm0 hbm1 clusters0 clusters1 => Sys2Proof.Machine.execStageBComplete firmwareOk hbm0 hbm1 clusters0 clusters1 s
  | .stageCComplete fabricOk stitchOk offset => Sys2Proof.Machine.execStageCComplete fabricOk stitchOk offset s
  | .ltrMessage snoop noSnoop => Sys2Proof.Machine.execLtrMessage snoop noSnoop s
  | .idleEntry level place => Sys2Proof.Machine.execIdleEntry level place s
  | .idleWake level place => Sys2Proof.Machine.execIdleWake level place s
  | .powerCapEvaluation die watts => Sys2Proof.Machine.execPowerCapEvaluation die watts s
  | .tcapStep celsius => Sys2Proof.Machine.execTcapStep celsius s
  | .thermalCapZero celsius => Sys2Proof.Machine.execThermalCapZero celsius s
  | .thermalShutdown celsius => Sys2Proof.Machine.execThermalShutdown celsius s
  | .mctpControlMessage command => Sys2Proof.Machine.execMctpControlMessage command s
  | .pldmSensorRead sensor => Sys2Proof.Machine.execPldmSensorRead sensor s
  | .pldmFirmwareUpdate image signatureOk => Sys2Proof.Machine.execPldmFirmwareUpdate image signatureOk s
  | .getVersion => Sys2Proof.Machine.execGetVersion s
  | .getCapabilities => Sys2Proof.Machine.execGetCapabilities s
  | .negotiateAlgorithms p384 sha384 => Sys2Proof.Machine.execNegotiateAlgorithms p384 sha384 s
  | .getDigests => Sys2Proof.Machine.execGetDigests s
  | .getCertificate slot => Sys2Proof.Machine.execGetCertificate slot s
  | .challenge nonce => Sys2Proof.Machine.execChallenge nonce s
  | .getMeasurements nonce => Sys2Proof.Machine.execGetMeasurements nonce s
  | .vendorRegisterAccess write offset value => Sys2Proof.Machine.execVendorRegisterAccess write offset value s
  | .mregWrite entry value => Sys2Proof.Machine.execMregWrite entry value s
  | .meteringReport nonce tenant => Sys2Proof.Machine.execMeteringReport nonce tenant s
  | .finalReport nonce => Sys2Proof.Machine.execFinalReport nonce s
  | .allowListInstall key signatureOk entries => Sys2Proof.Machine.execAllowListInstall key signatureOk entries s
  | .attmapWrite value => Sys2Proof.Machine.execAttmapWrite value s
  | .meterPowerOn => Sys2Proof.Machine.execMeterPowerOn s
  | .orderlyPowerDown => Sys2Proof.Machine.execOrderlyPowerDown s
  | .patrolScrub die granule outcome => Sys2Proof.Machine.execPatrolScrub die granule outcome s
  | .ecsPoll stack pch bank count row => Sys2Proof.Machine.execEcsPoll stack pch bank count row s
  | .fabricHopRetry die loop hop => Sys2Proof.Machine.execFabricHopRetry die loop hop s
  | .stitchLanesLost port lanes => Sys2Proof.Machine.execStitchLanesLost port lanes s
  | .injectionStarvation die stop loop => Sys2Proof.Machine.execInjectionStarvation die stop loop s
  | .hostCxlMemAccess write da data => Sys2Proof.Machine.execHostCxlMemAccess write da data s
  | .reset => Sys2Proof.Machine.execReset s
  | .powerLoss => Sys2Proof.Machine.execPowerLoss s
  | .driverContextTeardown ctx => Sys2Proof.Machine.execDriverContextTeardown ctx s
  | .stitchPortTrained port width peer peerPort => Sys2Proof.Machine.execStitchPortTrained port width peer peerPort s
  | .coreFaultInService core physical => Sys2Proof.Machine.execCoreFaultInService core physical s

end Sys2Proof.Machine
end

