-- ==== Sys2Proof/Machine/Propose.lean ====
section
/-!
DEFINITION. Issue choice (R339, R342): the paths that are ready in a cycle, the one that each issue scheduler of a core proposes,
the shared pipes that two of them contest, and the cycles in which runners take the scalar pipe (R232).
-/

namespace Sys2Proof.Machine

/-! ### The word of a turn -/

/-- What a turn comes to: a word or event that executes, or a state reached without one. -/
inductive Due where
  | run (i : Instr) (s : State)
  | left (s : State)

/-- The fetch of a word asks L2 for a line at the first word of a packet and where a line begins: a demand read, which counts as a read
of its page from the other die (R268, R367; log 79). -/
def State.noteFetch (s : State) (v : View) : State :=
  let va := (codeOf v.team v.side v.run).1 + 64 + 12 * v.path.pc + 4 * v.path.word
  if v.path.word ≠ 0 ∧ va % 128 ≠ 0 then s
  else match s.check v.team.ctx Intent.fetch va with
    | .found loc => ((s.cacheAll (dieOf v.core) v.team.ctx [(0, va)]).clearWay v.core [loc]).readAt (dieOf v.core) loc
    | _ => s

/-- The word that an agent's turn executes; an agent that is gone does nothing. -/
def State.dueAt (s : State) (f : Focus) : Due :=
  let s := { s with here := f }
  match s.view with
  | none => .left s
  | some v => match s.select v with
    | .run i => .run i (s.noteFetch v)
    | .left s' => .left s'

/-! ### Ready paths -/

/-- The pipes that a word needs, with those of the rest of its chain (R63). -/
def State.pipesOf (s : State) (v : View) (i : Instr) : List Nat :=
  let ws := i :: (if (chainOf i).1 = 1 then (s.chainAfter v 2 v.path.word).map (·.2) else [])
  ws.filterMap fun j => pipeIndex v.slot (infoOf j).pipe

/-- The pipes that a word takes if it can issue in this cycle, or is stopped at issue; none while something holds it. -/
def State.wordCan (s : State) (v : View) (i : Instr) : Option (List Nat) :=
  let v := s.paced v i
  if (s.decodeTrap v i).isSome || (holdReads i && (v.sourceTrap i).isSome) then some []
  else if (s.holds v i).isSome then (if s.asksGrow v i && !v.team.growPending then some [] else none)
  else if v.barHeld || s.spawnHeld v i then none
  else some (s.pipesOf v i)

/-- The same of the word at which an agent stands; an EXT issues with the word that it extends (R71). -/
def State.canIssue (s : State) (v : View) : Option (List Nat) :=
  match (if v.run then none else v.team.entry) with
  | some e => if e.path == v.side && !s.pageAway e.page then some [] else none
  | none =>
    if (s.frozen v).isSome || decide (s.cycle v.core < v.time) then none
    else if (s.comparator v).isSome then some []
    else match s.fetch v v.path.pc v.path.word with
      | .word w => match decodeWord w with
        | .ok (.ext x) =>
          if (s.decodeTrap v (.ext x)).isSome then some []
          else match s.fetch v v.path.pc (v.path.word + 1) with
            | .word w' => match decodeWord w' with
              | .ok j => s.wordCan { v with path := { v.path with word := v.path.word + 1, ext := some x } } j
              | .error _ => some []
            | _ => some []
        | .ok i => s.wordCan v i
        | .error _ => some []
      | _ => some []

/-! ### Proposals -/

structure Proposal where
  focus : Focus
  prio : Nat
  age : Nat
  /-- Its path is the one of its team's two that issued last. -/
  again : Bool
  pipes : List Nat
  deriving DecidableEq, Repr

/-- Priority, then age, then the path that did not issue last. -/
def Proposal.before (a b : Proposal) : Bool :=
  decide (b.prio < a.prio) || (a.prio == b.prio && (decide (a.age < b.age) || (a.age == b.age && !a.again && b.again)))

def firstOf : List Proposal → Option Proposal
  | [] => none
  | p :: rest => match firstOf rest with
    | some q => if q.before p then some q else some p
    | none => some p

/-- What an agent would propose. -/
def State.offer (s : State) (f : Focus) : Option Proposal :=
  match s.viewAt f with
  | none => none
  | some v => (s.canIssue v).map fun ps =>
      ⟨f, v.team.prio, v.team.age, v.team.two && v.team.lastPath == f.path, ps⟩

/-- The team in a slot has trapped, or been killed by a trap, between two states. -/
def trapped (s t : State) (core slot : Nat) : Bool :=
  match s.team core slot, t.team core slot with
  | some a, some b => (a.handler.isNone && b.handler.isSome) || (a.entry.isNone && b.entry.isSome) || (!a.killed && b.killed)
  | _, _ => false

/-- The next word of a path raises a trap. -/
def State.raises (s : State) (f : Focus) : Bool :=
  match s.dueAt f with
  | .left t => trapped s t f.core f.slot
  | .run i s' => match exec i s' with
    | .next t => trapped s t f.core f.slot
    | _ => false

/-- The path that a scheduler of a core proposes; where both paths of its team would trap, path A (R342). -/
def State.pick (s : State) (c sched : Nat) (k : Core) : Option Proposal :=
  if s.cycle c < s.freeAt c (6 + sched) then none
  else
    let offers := (k.teams.filter fun e => e.1 % 2 == sched).flatMap fun e =>
      [false, true].filterMap fun side => if (e.2.at side).isSome then s.offer ⟨c, e.1, side, false⟩ else none
    match firstOf offers with
    | none => none
    | some p =>
      if !p.focus.path then some p
      else match offers.find? fun q => q.focus == { p.focus with path := false } with
        | some q => if s.raises p.focus && s.raises q.focus then some q else some p
        | none => some p

/-- Shared pipes that two proposals both need. -/
def Proposal.contests (p q : Proposal) : Bool := p.pipes.any fun n => decide (2 ≤ n) && q.pipes.contains n

/-- Runners of a core that can execute a word in this cycle. -/
def State.runners (s : State) (c : Nat) (k : Core) : List (Proposal × Nat) :=
  if s.cycle c < s.freeAt c 2 then []
  else k.teams.filterMap fun e =>
    if e.2.runner.running && decide (e.2.runner.issuedAt < s.cycle c) then
      (s.offer ⟨c, e.1, false, true⟩).map fun p => (p, s.cycle c - e.2.runner.issuedAt)
    else none

def Proposal.turn (p : Proposal) : Turn :=
  if p.focus.runner then .runner p.focus.core p.focus.slot else .issue p.focus.core p.focus.slot p.focus.path

/-- The schedulers' proposals, each with the paths that lose a shared pipe to it. -/
def contest (ps : List Proposal) : List (Proposal × List Focus) :=
  match ps with
  | [p, q] => if p.contests q then (if q.before p then [(q, [p.focus])] else [(p, [q.focus])]) else [(p, []), (q, [])]
  | ps => ps.map fun p => (p, [])

/-- What can issue on a core next, each with the paths that lose a shared pipe to it: the schedulers' proposals, and a runner
where no team takes the scalar pipe, or first after 15 cycles without issuing, which every other word for that pipe loses (R232,
R339). -/
def State.coreIssue (s : State) (c : Nat) (k : Core) : List (Turn × List Focus) :=
  let all := [s.pick c 0 k, s.pick c 1 k].filterMap id
  let run := s.runners c k
  let scalar := fun (p : Proposal) => p.pipes.contains 2
  match run.find? fun r => decide (16 ≤ r.2) with
  | some r => (r.1.turn, (all.filter scalar).map (·.focus)) :: (contest (all.filter fun p => !scalar p)).map fun e => (e.1.turn, e.2)
  | none =>
    let teams := contest all
    teams.map (fun e => (e.1.turn, e.2)) ++ (if teams.any fun e => scalar e.1 then [] else run.map fun r => (r.1.turn, []))

/-- A path that has lost a shared pipe waits, and its scheduler proposes nothing else in the cycle. -/
def State.lose (s : State) (f : Focus) : State :=
  match s.viewAt f with
  | none => s
  | some v =>
    let now := (Table.get s.pipes f.core).getD (List.replicate 8 0)
    State.modPath { s with pipes := Table.put s.pipes f.core (now.set (6 + f.slot % 2) (s.cycle f.core + 1)) } v fun p =>
      { p with stall := 22 }

end Sys2Proof.Machine
end

