-- ==== Sys2Proof/Machine/Schedule.lean ====
section
/-!
DEFINITION. Which agent moves next (log 1): what is due, then the head of the agenda, or, where the agenda is empty, a free
choice among the proposals of the issue schedulers, the runners, the operations in flight and the events that can happen.
Time passes only in a cycle in which nothing more can issue.
-/

namespace Sys2Proof.Machine

/-! ### What can happen -/

/-- The event by which an operation in flight is performed or returns, unless a packet of it is kept out (R273); a part of it;
a packet of it sent round.  `key` and `put` are the part's free choice (log 44). -/
def State.opTurns (s : State) (c key : Nat) (put : Bool) (o : Op) : List Turn :=
  let out := s.packets c o
  let free := s.openPackets c o
  let whole := fun (t : Instr) => if free.length = out.length then [Turn.happen t] else []
  let round := free.flatMap fun p => (List.range p.way.length).map fun leg => Turn.refuse c o.id p.key leg
  let part := Turn.part c o.id key put
  let parts := if free.isEmpty then [] else [part]
  if o.done then []
  else match o.kind with
    | .load _ _ _ _ _ => whole (.loadReturn c o.id) ++ parts ++ round
    | .loaded _ _ _ _ => [.happen (if o.code = 1 then .scratchpadLoadReturn c o.id else .loadReturn c o.id)]
    | .scratch _ _ _ _ _ _ => whole (.scratchpadLoadReturn c o.id) ++ round
    | .atom _ _ _ (some _) lanes =>
      .happen (.scratchpadLoadReturn c o.id) :: (lanes.filter (·.old.isNone)).map fun e => .happen (.atomicPerformed c o.id e.lane)
    | .atom _ _ _ none lanes =>
      whole (.loadReturn c o.id) ++ round ++
        (lanes.filter fun e => e.old.isNone && free.any fun p => p.key == e.loc.lineKey).map fun e => .happen (.atomicPerformed c o.id e.lane)
    | .store _ => whole (.storePerformed c o.id) ++ parts ++ round
    | .remote _ _ _ => whole (.remoteStorePerformed c o.id) ++ round
    | .cwb _ drop => whole (if drop then .cinvComplete c o.id else .cwbComplete c o.id) ++ round
    | .surrender _ (pg :: _) _ =>
      (if free.any fun p => keyLine p.key == 512 * pg then [.happen (.pgsurrPageDone c o.id)] else []) ++ round
    | .surrender _ [] _ => []
    | .trans _ _ _ _ => [.happen (.transReturn c o.id)]
    | .sfu _ _ _ => [.happen (.sfuResultReturn c o.id)]
    | .rsvq _ _ => [.happen (.loadReturn c o.id)]
    | .blnq _ => [.happen (.loadReturn c o.id)]
    | .blkq _ _ => [.happen (.loadReturn c o.id)]
    | .copy queue _ _ _ _ => whole (.copyOperationComplete c queue) ++ [part] ++ round
    | .col _ _ _ _ _ _ _ => whole (.collectiveComplete c o.id []) ++ [part] ++ round

/-- Granules asked for and not yet answered. -/
def asks (r : Option (Nat × Nat)) : Bool :=
  match r with
  | some (a, b) => a + b != 0
  | none => false

/-- What can happen to a resident team next, its words apart. -/
def State.teamTurns (s : State) (c slot : Nat) (t : Team) : List Turn :=
  let out : List Turn := if s.finished c t then [.happen (.teamExit c slot)] else []
  let granules : List Turn := if asks (t.pathA.bind (·.refill)) || asks (t.pathB.bind (·.refill)) || asks t.runner.refill then
    [.happen (.ladleRefill c slot)] else []
  let save : List Turn := if t.yielding then [.happen (.yieldSave c slot)] else []
  [out, granules, save].flatten

/-- What can happen on a core next. -/
def State.coreTurns (s : State) (c key : Nat) (put : Bool) (k : Core) : List Turn :=
  let teams : List (List Turn) := k.teams.map fun e => s.teamTurns c e.1 e.2
  let ops : List (List Turn) := ((k.teams ++ k.evicted).flatMap fun e => e.2.ops).map (s.opTurns c key put)
  let commands : List (List Turn) := k.mtx.window.map fun m =>
    [Turn.happen (if m.started then .matrixCommandRetire c m.seq else .matrixCommandStart c m.seq), .part c m.seq key put]
  let blocks : List Turn := if k.oldestGrow.isSome then [.happen (.growGrant c), .happen (.evictTeam c)] else []
  let back : List Turn := if k.evicted.isEmpty then [] else [.happen (.returnEvictedTeam c)]
  let ladles : List Turn := (k.ladles.filter (·.returning)).map fun l => Turn.happen (.ladleReturn c l.ctx)
  [teams.flatten, ops.flatten, commands.flatten, blocks, back, ladles].flatten

/-- What the schedulers can dispatch next, and bins that no lane can join any more. -/
def State.dispatchTurns (s : State) : List Turn :=
  let out : List (Option Turn) := (List.range 24).map fun k => (s.nextDispatch k).map fun c =>
    Turn.happen (if c.bin.isSome then .binTeamDispatch (k / 12) (k % 12) else .dispatchCohort (k / 12) (k % 12))
  let shut : List (List Turn) := s.bins.map fun e => e.2.zipIdx.filterMap fun b =>
    if !b.1.closed && s.drained b.1.ctx 12 b.1.opener then some (Turn.happen (.binTimerExpiry (e.1 / 12) (e.1 % 12) b.2)) else none
  out.filterMap id ++ shut.flatten

/-- What can happen to a context next. -/
def State.ctxTurns (s : State) (x : Nat) (k : Ctx) : List Turn :=
  let ends : List Turn := (k.launches.filter (s.complete x)).map fun l => Turn.happen (.launchCompletion x l.id)
  let checks : List Turn := (k.launches.filter fun l => !l.ready).map fun l => Turn.happen (.dependenceRecheck x l.id)
  let inv : List Turn := if k.invDone then [] else [.happen (.invalidationDone x)]
  let state : List Turn := match k.pstate with
    | 1 => [.happen (.saveComplete x)]
    | 3 => [.happen (.restoreComplete x)]
    | _ => []
  [ends, checks, inv, state].flatten

/-- What a die's L2, clock and page migrations, and the fabric, can do next. -/
def State.dieTurns (s : State) : List Turn :=
  let moves : List (List Turn) := (s.pages.filter fun e => e.2.state == .migrating).map fun e =>
    [Turn.happen (.migrationComplete e.1), .happen (.migrationFailed e.1 false)]
  let backs : List (List Turn) := (List.range 2).map fun d =>
    ((s.die d).l2.map (·.1 / 4)).eraseDups.map fun b => Turn.happen (.blockWriteback d b)
  let points : List Turn := ((List.range 2).filter fun d => (s.die d).point != s.targetNow d).map fun d =>
    Turn.happen (.operatingPointStable d)
  let slots : List Turn := s.starved.map fun e => Turn.inject e.1 e.2.1 e.2.2
  let hops : List Turn := s.hopFails.map fun e => Turn.hopGood e.1.1 e.1.2.1 e.1.2.2
  [moves.flatten, backs.flatten, points, slots, hops].flatten

/-- An idle core enters the deepest state open to it (R364). -/
def State.idleTurns (s : State) (core : Nat) : List Turn :=
  if s.ltr < exitLatency 0 then []
  else match s.deepest 0 core with
    | some q => if s.idlePlaces.contains q then [] else [.idle core]
    | none => []

def State.otherTurns (s : State) : List Turn :=
  s.dispatchTurns ++ s.ctxs.flatMap (fun e => s.ctxTurns e.1 e.2) ++ s.dieTurns

/-! ### What is due -/

/-- A second of ticks since the last checkpoint, or since the tick counters were released, has passed (R377). -/
def Meter.overdue (m : Meter) (tick : Nat) : Bool := m.epoch != 0 && decide (m.last + 1000000000 ≤ tick)

/-- The teams whose step command is at its end (R303). -/
def State.stepEnds (s : State) : List Turn :=
  s.resident.filterMap fun e => match e.2.2.step with
    | some (_, true) => if s.commandRetired e.1 e.2.2 then some (.happen (.debugStepEnd e.1 e.2.1)) else none
    | some (side, false) => if (e.2.2.at side).isNone then some (.happen (.debugStepEnd e.1 e.2.1)) else none
    | none => none

/-- What happens at this tick, or in this cycle, before anything else: the armed stop, the end of a replication window, bins whose
timers have run out, ends of steps, a save's deadline, the checkpoint of each second (R34, R268, R303, R305, R347, R377). -/
def State.musts (s : State) : List Turn :=
  let tick := s.tick.toNat
  let stop : List Turn := if s.pf.armed && decide (s.pf.due ≤ s.tick) then [.happen .stopOnTick] else []
  let window : List Turn := if tick / 2 ^ 20 = s.window then [] else [.happen .replicationWindowClear]
  let bins : List (List Turn) := s.bins.map fun e => (e.2.zipIdx.filter fun b => b.1.due tick).map fun b =>
    Turn.happen (.binTimerExpiry (e.1 / 12) (e.1 % 12) b.2)
  let saves : List Turn := (s.ctxs.filter fun e =>
    e.2.pstate == 1 && !e.2.forced && decide (e.2.deadline.toNat ≤ s.die0.cycle - e.2.reqCycle)).map fun e =>
      Turn.happen (.preemptDeadline e.1)
  let flash : List Turn := if s.meter.overdue tick then [.happen .meterCheckpoint] else []
  [stop, window, bins.flatten, s.stepEnds, saves, flash].flatten

/-- Samples due on a core in this cycle (R297). -/
def State.samples (s : State) (c : Nat) (k : Core) : List Turn :=
  if !(k.teams.any fun e => (s.ctx e.2.ctx).trCtl.getLsbD 0) then []
  else [0, 1].filterMap fun n => if !(k.visits n).isEmpty && decide (k.due n ≤ s.cycle c) then some (.happen (.pcSample c n)) else none

/-- SFU results that are to return in this cycle at the latest (R64). -/
def State.sfuDue (s : State) (c : Nat) (k : Core) : List Turn :=
  (k.teams ++ k.evicted).flatMap fun e => e.2.ops.filterMap fun o => match o.kind with
    | .sfu _ _ _ => if !o.done && decide (o.issued + 40 ≤ s.cycle c) then some (.happen (.sfuResultReturn c o.id)) else none
    | _ => none

/-- What happens in this cycle before time passes. -/
def State.lates (s : State) : List Turn := s.cores.flatMap fun e => s.sfuDue e.1 e.2 ++ s.samples e.1 e.2

/-! ### The choice -/

/-- Everything that can move, each with the paths that lose a pipe to it; a core's samples follow its issues, and time passes,
a tick and a cycle of each die at most, where nothing issues and nothing is due. -/
def State.candidates (s : State) : List (Turn × List Focus) :=
  let n := (Config.freeWord (s.fresh * 2 ^ 20 + 2 ^ 20 - 3)).toNat % 7 + 1
  let put := Config.freeBit (s.fresh * 2 ^ 20)
  let key := (Config.freeWord (s.fresh * 2 ^ 20 + 2 ^ 20 - 2)).toNat
  let issues := s.cores.flatMap fun e => s.coreIssue e.1 e.2
  let samples := s.cores.flatMap fun e => if (s.coreIssue e.1 e.2).isEmpty then s.samples e.1 e.2 else []
  let others := (s.cores.flatMap fun e => s.coreTurns e.1 key put e.2) ++ s.otherTurns ++ s.idleTurns (key % 2304) ++ samples
  let time := if issues.isEmpty && s.lates.isEmpty then [Turn.elapse (n % 2) (n / 2 % 2) (n / 4)] else []
  issues ++ (others ++ time).map fun t => (t, [])

/-- The free choice among them (log 1). -/
def State.choose (s : State) : Turn × State :=
  let ts := s.candidates
  let r := ts.getD ((Config.freeWord (s.fresh * 2 ^ 20 + 2 ^ 20 - 1)).toNat % ts.length) (.elapse 0 0 0, [])
  (r.1, r.2.foldl State.lose { s with fresh := s.fresh + 1 })

/-- Requests that a stopped package still serves: power and thermal protection, the sideband, the links and the release
of the stop (R305). -/
def servedStopped : Instr → Bool
  | .stopRelease => true
  | .registerWrite fn offset _ => fn == 0 && offset == 0xB248
  | .vendorRegisterAccess _ _ _ => true
  | .powerCapEvaluation _ _ => true
  | .tcapStep _ => true
  | .thermalCapZero _ => true
  | .thermalShutdown _ => true
  | .stitchLanesLost _ _ => true
  | .stitchPortTrained _ _ _ _ => true
  | .reset => true
  | .powerLoss => true
  | .orderlyPowerDown => true
  | .mctpControlMessage _ => true
  | .pldmSensorRead _ => true
  | .pldmFirmwareUpdate _ _ => true
  | .getVersion => true
  | .getCapabilities => true
  | .negotiateAlgorithms _ _ => true
  | .getDigests => true
  | .getCertificate _ => true
  | .challenge _ => true
  | .getMeasurements _ => true
  | .meteringReport _ _ => true
  | .finalReport _ => true
  | .ltrMessage _ _ => true
  | _ => false

/-- The first turn of a stopped package's agenda that it serves, and the agenda without it. -/
def takeServed : List Turn → Option (Turn × List Turn)
  | [] => none
  | .happen e :: rest =>
    if servedStopped e then some (.happen e, rest) else (takeServed rest).map fun r => (r.1, .happen e :: r.2)
  | t :: rest => (takeServed rest).map fun r => (r.1, t :: r.2)

/-- An agenda's time passes one tick and one cycle at most at once, and after what the cycle still has to see. -/
def State.timeTurn (s : State) (ticks c0 c1 : Nat) (rest : List Turn) : Turn × State :=
  match s.lates.head? with
  | some t => (t, s)
  | none =>
    let left := [ticks - 1, c0 - 1, c1 - 1]
    (.elapse (min 1 ticks) (min 1 c0) (min 1 c1),
      { s with agenda := if left.all (· == 0) then rest else .elapse (ticks - 1) (c0 - 1) (c1 - 1) :: rest })

/-- An agenda's turn of an agent whose word's cycle has not come lets one cycle pass at a time; one whose word is held, and will wait a
cycle, comes after what the cycle still has to see (R64, R297). -/
def State.wordTurn (s : State) (t : Turn) (f : Focus) (rest : List Turn) : Turn × State :=
  match s.viewAt f with
  | none => (t, { s with agenda := rest })
  | some v =>
    let early := decide (s.cycle f.core < v.time)
    match s.lates with
    | u :: _ => if early || (s.canIssue v).isNone then (u, s) else (t, { s with agenda := rest })
    | [] => if early then (.elapse 1 (1 - dieOf f.core) (dieOf f.core), s) else (t, { s with agenda := rest })

/-- Of a write by the sideband and one by the host to the same register in one cycle, the host's comes first (R366). -/
def State.hostFirst (s : State) (t : Turn) (rest : List Turn) : Turn × List Turn :=
  match t with
  | .happen (.vendorRegisterAccess true off _) =>
    let inCycle := rest.takeWhile fun u => match u with | .elapse _ _ _ => false | _ => true
    let same := fun (u : Turn) => match u with
      | .happen (.registerWrite fn at' _) => (mirrored off).isSome && s.regAt fn at' == mirrored off
      | _ => false
    match inCycle.findIdx? same with
    | some n => (rest.getD n t, t :: rest.eraseIdx n)
    | none => (t, rest)
  | _ => (t, rest)

/-- The turn at the head of the agenda, or what comes before it. -/
def State.agendaTurn (s : State) (t : Turn) (rest : List Turn) : Turn × State :=
  match t with
  | .elapse ticks c0 c1 => s.timeTurn ticks c0 c1 rest
  | .issue c slot side => s.wordTurn t ⟨c, slot, side, false⟩ rest
  | .runner c slot => s.wordTurn t ⟨c, slot, false, true⟩ rest
  | t => let r := s.hostFirst t rest; (r.1, { s with agenda := r.2 })

/-- The turn goes on with a chain, or with the word that an EXT extends, in the cycle in which the chain or the EXT has issued (R63,
R71). -/
def State.goesOn (s : State) : Turn → Bool
  | .issue c slot side => match (s.team c slot).bind (·.at side) with
    | some p => p.chainAt == some (s.cycle c) || (p.ext.isSome && p.issuedAt == some (s.cycle c))
    | none => false
  | .runner c slot => match s.team c slot with
    | some t => t.runner.ext.isSome && t.runner.issuedAt == s.cycle c
    | none => false
  | _ => false

/-- The next turn, and the state in which it is taken: what is due, then the agenda, then the free choice. -/
def State.takeTurn (s : State) : Option Turn × State :=
  if s.pf.stopped then
    match takeServed s.agenda with
    | some (t, rest) => (some t, { s with agenda := rest })
    | none => (none, s)
  else
    match s.agenda with
    | t :: rest =>
      if s.goesOn t then (some t, { s with agenda := rest })
      else match s.musts.head? with
        | some u => (some u, s)
        | none => let r := s.agendaTurn t rest; (some r.1, r.2)
    | [] => match s.musts.head? with
      | some t => (some t, s)
      | none => (some s.choose.1, s.choose.2)

/-- A turn taken: a word fetched for its agent, an event, or time. -/
def State.dueTurn (s : State) : Turn → Due
  | .issue c slot side => s.dueAt ⟨c, slot, side, false⟩
  | .runner c slot => s.dueAt ⟨c, slot, false, true⟩
  | .happen e => if (encode e).isSome then .left s else .run e s
  | .elapse ticks c0 c1 => .left (((s.passTicks ticks).passCycles 0 c0).passCycles 1 c1).keepIdle
  | .part c id key put => .left (s.partTurn c id key put)
  | .hostWrite pa bytes => .left (s.hostOwn pa bytes)
  | .refuse c id key leg => .left (s.sendRound c id key leg)
  | .inject die stop loop => .left (s.inject die stop loop)
  | .idle core => .left (s.goIdle 0 core)
  | .hopGood die loop hop => .left (s.hopGood die loop hop)
  | .upset what a b => .left (s.upset what a b)

/-- What the next step comes to. -/
def State.due (s : State) : Due :=
  match s.takeTurn with
  | (some t, s') => s'.dueTurn t
  | (none, s') => .left s'

end Sys2Proof.Machine
end

