-- ==== Sys2Proof/Safety.lean ====
section
/-!
DEFINITION. What counts as a safe run, and the terms in which claims about the machine are stated: when a word
issues with its own effect, what a register holds, what an instruction leaves alone.
-/

namespace Sys2Proof.Machine

/-! ### Safe runs -/

/-- A run of `n` steps in which no step stops the machine. -/
def SafeRun : Nat → State → Prop
  | 0, _ => True
  | n + 1, s => ∃ t, step s = .next t ∧ SafeRun n t

/-- Both memories are in their canonical form. -/
def State.memoryWf (s : State) : Bool := Memory.wf s.mem && Memory.wf s.hostMem

/-! ### When a word issues -/

/-- `v` is the view of the agent of the focus, with the passes that its word `i` takes (R21, R264). -/
abbrev State.Views (s : State) (v : View) (i : Instr) : Prop := s.view.map (s.paced · i) = some v

/-- The agent of the focus is live, and nothing stops or holds the word before its own meaning: the team may be
looked at (R298), no check of R78 fails, no reason of R298 holds the word, CHECKSB finds no early use and no register that it
reads is poisoned (R47, R67), and the spine value it reads is not (R42). -/
abbrev State.Issues (s : State) (v : View) (i : Instr) : Prop :=
  s.Views v i ∧ s.frozen v = none ∧ s.decodeTrap v i = none ∧ s.holds v i = none ∧ v.sourceTrap i = none ∧ s.spinePoison v i = none

/-! ### What registers hold -/

/-- s(n) of the executing path, or a(n) of the runner. -/
def State.sAt (s : State) (v : View) (n : Nat) : Word := wordAt (s.pathOf v).s n
/-- c(n) of the executing path. -/
def State.cAt (s : State) (v : View) (n : Nat) : Bool := (s.pathOf v).cond.getD n false
/-- v(r) of the executing team in a lane. -/
def State.vAt (s : State) (v : View) (r l : Nat) : Word := wordAt ((s.teamOf v).v.getD r []) l
/-- p(n) of the executing team in a lane. -/
def State.pAt (s : State) (v : View) (n l : Nat) : Bool := ((s.teamOf v).p.getD n []).getD l false

/-! ### What stays -/

/-- Every byte of device memory and of host memory reads as before. -/
def SameBytes (s t : State) : Prop :=
  (∀ a, Memory.read t.mem a = Memory.read s.mem a) ∧ ∀ a, Memory.read t.hostMem a = Memory.read s.hostMem a

/-- The state with the executing team, its core's marks of registers written, the time, the pipes in use, the agenda and the
free-value counter blanked. -/
def State.besides (s : State) (v : View) : State :=
  { s.setCore v.core { s.core v.core with teams := Table.put (s.core v.core).teams v.slot v.team, regDirty := [] } with
    agenda := []
    pipes := []
    fresh := 0
    die0 := { s.die0 with tick := 0, cycle := 0 }
    die1 := { s.die1 with tick := 0, cycle := 0 } }

/-- Nothing outside the executing team changes but the time: every other team, core, context, register and byte. -/
def KeepsPackage (v : View) (s t : State) : Prop := t.besides v = s.besides v ∧ SameBytes s t

/-- No unit of the core's register region is marked as written (R53). -/
def KeepsDirty (v : View) (s t : State) : Prop := (t.core v.core).regDirty = (s.core v.core).regDirty

/-- A team with the executing path, or the runner, blanked, and the model's marks of early writes. -/
def View.outside (v : View) (t : Team) : Team :=
  { (if v.run then { t with runner := v.team.runner } else t.setAt v.side none) with
    ops := t.ops.map fun o => { o with clash := [] }
    lastPath := false }

/-- The executing path keeps its masks, FPMODE, FPFLAGS and the tick it latched. -/
def KeepsModes (v : View) (s t : State) : Prop :=
  (t.pathOf v).mask = (s.pathOf v).mask ∧ (t.pathOf v).fpmode = (s.pathOf v).fpmode ∧
    (t.pathOf v).fpflags = (s.pathOf v).fpflags ∧ (t.pathOf v).tick = (s.pathOf v).tick

/-- Scalar registers but those listed keep their values. -/
def KeepsScalars (v : View) (s t : State) (but : List Nat) : Prop := ∀ n, n ∉ but → t.sAt v n = s.sAt v n
def KeepsConditions (v : View) (s t : State) (but : List Nat) : Prop := ∀ n, n ∉ but → t.cAt v n = s.cAt v n
/-- Vector registers but those listed keep their values in every lane. -/
def KeepsVectors (v : View) (s t : State) (but : List Nat) : Prop := ∀ r, r ∉ but → ∀ l, t.vAt v r l = s.vAt v r l
def KeepsPredicates (v : View) (s t : State) (but : List Nat) : Prop := ∀ n, n ∉ but → ∀ l, t.pAt v n l = s.pAt v n l

/-- The vector column of a register has one value per lane. -/
def View.hasColumn (v : View) (r : Nat) : Prop := r < v.team.v.length ∧ (v.team.v.getD r []).length = v.team.lanes

/-! ### Shapes of result statements -/

/-- A word that writes one scalar register: its value, every other register, and the frame. -/
def ScalarResult (i : Instr) (d : Nat) (value : State → View → Word) : Prop :=
  ∀ s v, s.Issues v i → d < v.path.s.length →
    ∃ t, exec i s = .next t ∧
      t.sAt v d = (if v.run = false ∧ d = 63 then s.sAt v 63 else value (s.atIssue v) v) ∧
      KeepsScalars v s t [d] ∧ KeepsConditions v s t [] ∧ KeepsVectors v s t [] ∧ KeepsPredicates v s t [] ∧
      KeepsModes v s t ∧ (v.team.step = none → KeepsPackage v s t ∧ KeepsDirty v s t ∧ v.outside (t.teamOf v) = v.outside v.team)

/-- A word that writes a scalar pair: the low half in the even register (R46). -/
def PairResult (i : Instr) (d : Nat) (value : State → View → DWord) : Prop :=
  ∀ s v, s.Issues v i → d + 1 < v.path.s.length →
    ∃ t, exec i s = .next t ∧ t.sAt v d = (value (s.atIssue v) v).setWidth 32 ∧
      t.sAt v (d + 1) = (if v.run = false ∧ d + 1 = 63 then s.sAt v 63 else ((value (s.atIssue v) v) >>> 32).setWidth 32) ∧
      KeepsScalars v s t [d, d + 1] ∧ KeepsConditions v s t [] ∧ KeepsVectors v s t [] ∧ KeepsPredicates v s t [] ∧
      KeepsModes v s t ∧ (v.team.step = none → KeepsPackage v s t ∧ KeepsDirty v s t ∧ v.outside (t.teamOf v) = v.outside v.team)

/-- A word that writes one condition. -/
def ConditionResult (i : Instr) (k : Nat) (value : State → View → Bool) : Prop :=
  ∀ s v, s.Issues v i → k < v.path.cond.length →
    ∃ t, exec i s = .next t ∧ t.cAt v k = value (s.atIssue v) v ∧
      KeepsConditions v s t [k] ∧ KeepsScalars v s t [] ∧ KeepsVectors v s t [] ∧ KeepsPredicates v s t [] ∧
      KeepsModes v s t ∧ (v.team.step = none → KeepsPackage v s t ∧ KeepsDirty v s t ∧ v.outside (t.teamOf v) = v.outside v.team)

/-- The executing team outside vector registers, predicates and the executing path. -/
def SameTeamBut (v : View) (s t : State) : Prop :=
  v.outside { t.teamOf v with v := [], p := [], vpoison := [] } = v.outside { s.teamOf v with v := [], p := [], vpoison := [] }

/-- A word that writes one vector register in its active lanes (R126); inactive lanes keep their value.  `H` is what
it needs of the team. -/
def VectorResultWhen (H : View → Prop) (i : Instr) (d : Nat) (value : State → View → Nat → Word) : Prop :=
  ∀ s v, s.Issues v i → H v → v.hasColumn d →
    ∃ t, exec i s = .next t ∧ (∀ l, l ∈ v.active → t.vAt v d l = value (s.atIssue v) v l) ∧
      (∀ l, l ∉ v.active → t.vAt v d l = s.vAt v d l) ∧
      KeepsVectors v s t [d] ∧ KeepsScalars v s t [] ∧ KeepsConditions v s t [] ∧ KeepsPredicates v s t [] ∧
      KeepsModes v s t ∧ (v.team.step = none → KeepsPackage v s t ∧ SameTeamBut v s t)

def VectorResult (i : Instr) (d : Nat) (value : State → View → Nat → Word) : Prop :=
  VectorResultWhen (fun _ => True) i d value

/-- A word that writes a vector pair in its active lanes. -/
def VectorPairResult (i : Instr) (d : Nat) (value : State → View → Nat → DWord) : Prop :=
  ∀ s v, s.Issues v i → v.hasColumn d → v.hasColumn (d + 1) →
    ∃ t, exec i s = .next t ∧
      (∀ l, l ∈ v.active → t.vAt v d l = (value (s.atIssue v) v l).setWidth 32 ∧
        t.vAt v (d + 1) l = (value (s.atIssue v) v l >>> 32).setWidth 32) ∧
      (∀ l, l ∉ v.active → t.vAt v d l = s.vAt v d l ∧ t.vAt v (d + 1) l = s.vAt v (d + 1) l) ∧
      KeepsVectors v s t [d, d + 1] ∧ KeepsScalars v s t [] ∧ KeepsConditions v s t [] ∧ KeepsPredicates v s t [] ∧
      KeepsModes v s t ∧ (v.team.step = none → KeepsPackage v s t ∧ SameTeamBut v s t)

/-- A word that writes one predicate in its active lanes; a write to p7 is discarded (R68). -/
def PredicateResult (i : Instr) (n : Nat) (value : State → View → Nat → Bool) : Prop :=
  ∀ s v, s.Issues v i → n < v.team.p.length → (v.team.p.getD n []).length = v.team.lanes →
    ∃ t, exec i s = .next t ∧
      (∀ l, l ∈ v.active → t.pAt v n l = (if n = 7 then s.pAt v n l else value (s.atIssue v) v l)) ∧
      (∀ l, l ∉ v.active → t.pAt v n l = s.pAt v n l) ∧
      KeepsPredicates v s t [n] ∧ KeepsVectors v s t [] ∧ KeepsScalars v s t [] ∧ KeepsConditions v s t [] ∧
      KeepsModes v s t ∧ (v.team.step = none → KeepsPackage v s t ∧ KeepsDirty v s t ∧ SameTeamBut v s t)

/-- The flags that a floating-point word raises over its active lanes. -/
def View.flagsOf (v : View) (f : Nat → Word × Nat) : Nat := orFlags (v.active.map fun l => (l, f l))

/-- A floating-point word: with no raised flag enabled it writes every active lane and its flags are added to
FPFLAGS; with one enabled it writes no lane and raises trap 0x11 with the flags (R51, R127).  `H` is what it needs of the team. -/
def FloatResultWhen (H : View → Prop) (i : Instr) (d : Nat) (f : State → View → Nat → Word × Nat) : Prop :=
  (∀ s v, s.Issues v i → H v → v.hasColumn d → v.path.enabled (v.flagsOf (f (s.atIssue v) v)) = false →
    ∃ t, exec i s = .next t ∧ (∀ l, l ∈ v.active → t.vAt v d l = (f (s.atIssue v) v l).1) ∧
      (∀ l, l ∉ v.active → t.vAt v d l = s.vAt v d l) ∧
      (t.pathOf v).fpflags = v.path.fpflags ||| BitVec.ofNat 32 (v.flagsOf (f (s.atIssue v) v)) ∧
      (t.pathOf v).fpmode = v.path.fpmode ∧ (t.pathOf v).mask = v.path.mask ∧
      KeepsVectors v s t [d] ∧ KeepsScalars v s t [] ∧ KeepsConditions v s t [] ∧ KeepsPredicates v s t [] ∧
      (v.team.step = none → KeepsPackage v s t ∧ SameTeamBut v s t)) ∧
  ∀ s v, s.Issues v i → H v → v.path.enabled (v.flagsOf (f (s.atIssue v) v)) = true →
    exec i s = .next (((s.atIssue v).trapView v 0x11 0 0 (v.flagsOf (f (s.atIssue v) v))).used)

def FloatResult (i : Instr) (d : Nat) (f : State → View → Nat → Word × Nat) : Prop := FloatResultWhen (fun _ => True) i d f

/-- The values that a lane combines in a prefix sum: those of its group's active lanes up to it, ascending (R155). -/
def View.prefixOf (v : View) (a l : Nat) (own : Bool) : List Word :=
  (v.active.filter fun k => k / v.team.group == l / v.team.group && (decide (k < l) || (own && k == l))).map (v.v a)

/-- A running sum in FP32: the first value as FPMODE reads it, each later one rnd(previous + a), with that sum's flags (R155). -/
def runningSum (e : FpEnv) : List Word → Word × Nat
  | [] => (0, 0)
  | x :: rest => rest.foldl (fun p y => fpWord (fadd .fp32 e p.1.toNat y.toNat)) (BitVec.ofNat 32 (ftzIn .fp32 e x.toNat), 0)

/-- w[k] of the tree of R156 after the round of distance 2^(n - 1), with the flags of its combinations. -/
def treeAt (comb : Word → Word → Word × Nat) (w : Nat → Option Word) : Nat → Nat → Option Word × Nat
  | 0, k => (w k, 0)
  | n + 1, k =>
    let x := treeAt comb w n (min k (k ^^^ 2 ^ n))
    let y := treeAt comb w n (max k (k ^^^ 2 ^ n))
    match x.1, y.1 with
    | some p, some q => (some (comb p q).1, x.2 ||| y.2 ||| (comb p q).2)
    | some p, none => (some p, x.2 ||| y.2)
    | none, q => (q, x.2 ||| y.2)

/-- The operation that a word of a view posts: numbered by its core, with the word's packet and place. -/
def View.op (v : View) (s : State) (code : Nat) (kind : OpKind) (charged : List Nat) : Op :=
  ⟨(s.core v.core).nextOp, code, v.path.pc, v.path.word, v.side, v.path.pid, v.path.pid, v.run, kind, false, false, false, [], charged,
    v.time + v.lastPass, [], [], []⟩

/-- A word that posts one operation and writes no register and no byte of memory as it issues; `H` is what it
needs of the state and its operands. -/
def PostResult (i : Instr) (H : State → View → Prop) (code : State → View → Nat) (kind : State → View → OpKind) : Prop :=
  ∀ s v, s.Issues v i → H (s.atIssue v) v →
    ∃ t, exec i s = .next t ∧
      (t.teamOf v).ops = v.team.ops ++ [v.op s (code (s.atIssue v) v) (kind (s.atIssue v) v) []] ∧
      (t.core v.core).nextOp = (s.core v.core).nextOp + 1 ∧
      KeepsVectors v s t [] ∧ KeepsScalars v s t [] ∧ KeepsConditions v s t [] ∧ KeepsPredicates v s t [] ∧
      KeepsModes v s t ∧ (v.team.step = none → SameBytes s t)

/-- A VSFU word of function `fn`: counted on SFU, with the values and flags of R147 for its active lanes. -/
def SfuResult (i : Instr) (fn : Nat) (d b : BitVec 6) (q : BitVec 2) : Prop :=
  PostResult i (fun _ _ => True) (fun _ _ => 2) fun s v =>
    .sfu d.toNat (v.active.map fun l => (l, BitVec.ofNat 32 (sfuValue v.path.env fn (s.bV v (.fp .fp32) q b l)).1, none))
      (BitVec.ofNat 32 (v.active.foldl (fun n l => n ||| (sfuValue v.path.env fn (s.bV v (.fp .fp32) q b l)).2) 0))

/-- A mask word: bit k of an active lane's mask says that lane g + k is active and satisfies `on`; G = 64 fills a
pair, a smaller group one register (R152). -/
def MaskResult (i : Instr) (d : BitVec 6) (on : View → Nat → Nat → Bool) : Prop :=
  ∀ s v, s.Issues v i → v.hasColumn d.toNat →
    let bit' := fun (l k : Nat) =>
      decide (k < v.team.group ∧ l / v.team.group * v.team.group + k ∈ v.active ∧ on v l (l / v.team.group * v.team.group + k) = true)
    (v.team.group ≤ 32 →
      ∃ t, exec i s = .next t ∧ (∀ l ∈ v.active, ∀ k < 32, (t.vAt v d.toNat l).getLsbD k = bit' l k) ∧
        (∀ l, l ∉ v.active → t.vAt v d.toNat l = s.vAt v d.toNat l) ∧ KeepsVectors v s t [d.toNat] ∧ KeepsScalars v s t [] ∧
        KeepsPredicates v s t [] ∧ (v.team.step = none → KeepsPackage v s t)) ∧
    (v.team.group = 64 → d.toNat % 2 = 0 → d.toNat + 1 < v.team.held → v.hasColumn (d.toNat + 1) →
      ∃ t, exec i s = .next t ∧ (∀ l ∈ v.active, ∀ k < 32, (t.vAt v d.toNat l).getLsbD k = bit' l k ∧
          (t.vAt v (d.toNat + 1) l).getLsbD k = bit' l (32 + k)) ∧
        KeepsVectors v s t [d.toNat, d.toNat + 1] ∧ KeepsScalars v s t [] ∧ KeepsPredicates v s t [] ∧
        (v.team.step = none → KeepsPackage v s t))

/-- A reduction by key: the lowest active lane of each key of a group receives the total and 1 in d + 1, the others 0
there and nothing in d (R154). -/
def KeyedResult (i : Instr) (d a b : BitVec 6) (q : BitVec 2) (f : Word → Word → Word) : Prop :=
  ∀ s v, s.Issues v i → v.hasColumn d.toNat → v.hasColumn (d.toNat + 1) →
    let same := fun l => v.active.filter fun k => k / v.team.group == l / v.team.group && v.v a.toNat k == v.v a.toNat l
    ∃ t, exec i s = .next t ∧
      (∀ l ∈ v.active, (∀ k ∈ same l, l ≤ k) → t.vAt v (d.toNat + 1) l = 1 ∧
        ∀ x rest, (same l).map ((s.atIssue v).bV v .int q b) = x :: rest → t.vAt v d.toNat l = rest.foldl f x) ∧
      (∀ l ∈ v.active, (∃ k ∈ same l, k < l) → t.vAt v (d.toNat + 1) l = 0 ∧ t.vAt v d.toNat l = s.vAt v d.toNat l) ∧
      (∀ l, l ∉ v.active → t.vAt v d.toNat l = s.vAt v d.toNat l ∧ t.vAt v (d.toNat + 1) l = s.vAt v (d.toNat + 1) l) ∧
      KeepsVectors v s t [d.toNat, d.toNat + 1] ∧ KeepsScalars v s t [] ∧ KeepsPredicates v s t [] ∧
      (v.team.step = none → KeepsPackage v s t)

/-- A word over groups whose flags no mode bit enables completes with its effect. -/
def GroupResult (i : Instr) (effect : State → View → Effect) : Prop :=
  ∀ s v, s.Issues v i → bits v.path.fpmode.toNat 8 4 = 0 →
    ∃ s', effect (s.atIssue v) v = .done s' ∧ exec i s = .next (s'.finish v i)

/-- A word completes with this effect: its state, at the next word. -/
def Completes (i : Instr) (H : State → View → Prop) (effect : State → View → State) : Prop :=
  ∀ s v, s.Issues v i → H (s.atIssue v) v → exec i s = .next ((effect (s.atIssue v) v).finish v i)

/-- A word completes with a transfer to word 0 of a packet (R62). -/
def Transfers (i : Instr) (H : State → View → Prop) (effect : State → View → State) (target : State → View → Nat) : Prop :=
  ∀ s v, s.Issues v i → H (s.atIssue v) v →
    exec i s = .next ((effect (s.atIssue v) v).transfer v i (target (s.atIssue v) v))

/-- A word raises a trap with no effect of its own. -/
def Traps (i : Instr) (H : State → View → Prop) (cause : BitVec 8) (fault : State → View → DWord) (aux : State → View → Word) : Prop :=
  ∀ s v, s.Issues v i → H (s.atIssue v) v →
    exec i s = .next (((s.atIssue v).trapView v cause (fault (s.atIssue v) v) (aux (s.atIssue v) v) 0).used)

/-- No condition. -/
def always (_ : State) (_ : View) : Prop := True

/-- The locations of an access's lanes: each address is a multiple of the footprint, and its page is mapped,
permitted and in HBM (R160). -/
def Reaches (s : State) (v : View) (i : Intent) (size : Nat) (addrs : List (Nat × Nat)) (locs : Nat → Loc) : Prop :=
  ∀ e ∈ addrs, e.2 % size = 0 ∧ s.check v.team.ctx i e.2 = .found (locs e.1)

/-- The accesses of lanes at locations. -/
def accessesOf (addrs : List (Nat × Nat)) (locs : Nat → Loc) (size : Nat) : List Access :=
  addrs.map fun e => ⟨e.1, locs e.1, size⟩

/-- Each address of a scratchpad access is aligned and inside the team's region, and no race is checked (R160). -/
def InRegion (v : View) (size : Nat) (addrs : List (Nat × Nat)) : Prop :=
  v.team.race = false ∧ ∀ e ∈ addrs, e.2 % size = 0 ∧ e.2 + size ≤ v.team.scrb

/-- A word leaves its path where its effect places it. -/
def Ends (i : Instr) (H : State → View → Prop) (effect : State → View → State) : Prop :=
  ∀ s v, s.Issues v i → H (s.atIssue v) v → exec i s = .next ((effect (s.atIssue v) v).used.occupy v i)

/-- A word waits with a stall reason, from this state, and is issued again. -/
def Waits (i : Instr) (H : State → View → Prop) (effect : State → View → State) (reason : Nat) : Prop :=
  ∀ s v, s.Issues v i → H (s.atIssue v) v → exec i s = .next ((effect (s.atIssue v) v).held v reason)

/-- Scalar, vector, predicate and condition registers keep their values. -/
def KeepsRegisters (v : View) (s t : State) : Prop :=
  KeepsVectors v s t [] ∧ KeepsScalars v s t [] ∧ KeepsConditions v s t [] ∧ KeepsPredicates v s t []

/-- The core's ladle of the context covers what a write of these accesses is charged on each die (R174), and no refill has been
answered for it. -/
def State.Covered (s : State) (v : View) (accs : List Access) (l : Ladle) : Prop :=
  (s.pathOf v).answer = none ∧ s.ladle v.core v.team.ctx = some l ∧ chargeOn 0 (charged accs) ≤ l.bal0 ∧ chargeOn 1 (charged accs) ≤ l.bal1

/-- The charge of a covered write: from the balances to the granules in transit (R174). -/
def State.paid (s : State) (v : View) (accs : List Access) (l : Ladle) : State :=
  let n0 := chargeOn 0 (charged accs)
  let n1 := chargeOn 1 (charged accs)
  let s := s.modPath v fun p => { p with refill := none, answer := none }
  if charged accs = [] then s
  else s.setLadle v.core { l with bal0 := l.bal0 - n0, bal1 := l.bal1 - n1, transit0 := l.transit0 + n0, transit1 := l.transit1 + n1 }

/-- An atomic word (R169 to R171): with every active lane's address aligned and reached, and its blocks covered by the ladle
unless it only loads, it completes and posts one operation, counted on LD or, for the scratchpad, on SP. -/
def AtomResult (i : Instr) (op : Nat) (d a : BitVec 6) (o : BitVec 2) (e : BitVec 3) (p r : BitVec 1) : Prop :=
  (∀ (locs : Nat → Loc) (s : State) (v : View) (l : Ladle), p = 0 → s.Issues v i →
    let addrs := v.active.map fun l => (l, (v.vPair a.toNat l).toNat)
    let accs := accessesOf addrs locs (atomSize op)
    let lanes := accs.map fun k => (⟨k.lane, k.loc, if op = 9 ∨ op = 14 then v.vPair d.toNat k.lane else (v.v d.toNat k.lane).setWidth 64, none⟩ : AtomLane)
    Reaches (s.atIssue v) v (if op = 12 then Intent.other else Intent.atomic) (atomSize op) addrs locs →
    (op ≠ 12 → (s.atIssue v).Covered v accs l) →
    let s1 := if op = 12 then s.atIssue v else (s.atIssue v).paid v accs l
    let blocks := if op = 12 then [] else charged accs
    exec i s = .next (((((s1.cacheAll (dieOf v.core) v.team.ctx addrs).orderRelease v o e).addOp v 0 (.atom op d.toNat (r == 1) none lanes) blocks).orderAcquire
      v o e p (s.core v.core).nextOp).finish v i)) ∧
  ∀ (s : State) (v : View), p = 1 → s.Issues v i →
    let addrs := v.active.map fun l => (l, (v.v a.toNat l).toNat)
    let lanes := addrs.map fun k =>
      (⟨k.1, .dev k.2 false false false, if op = 9 ∨ op = 14 then v.vPair d.toNat k.1 else (v.v d.toNat k.1).setWidth 64, none⟩ : AtomLane)
    InRegion v (atomSize op) addrs → (s.cohort v.core v.team.cohort).isSome = true →
    exec i s = .next (((((s.atIssue v).orderRelease v o e).addOp v 1 (.atom op d.toNat (r == 1) (some (v.core, v.team.cohort)) lanes) []).orderAcquire
      v o e p (s.core v.core).nextOp).finish v i)

/-- The global byte runs of a copy's rows: row, address, length, in ascending order (R215). -/
def CopyPlan.pieces (p : CopyPlan) (va : Nat → Nat) : List (Nat × Nat × Nat) :=
  if p.global then p.rows.zipIdx.flatMap fun e => (linesOf (va e.2) p.len).map fun k => (e.2, k.1, k.2) else []

/-- A copy word: with its operands legal, every row aligned, inside the region and reached, no race checked, and its
blocks covered by the ladle if it writes global memory, it completes: one operation with its rows enters the queue and is counted
on CPY. -/
def CopyResult (op : Nat) (i : Instr) (q : BitVec 2) (b n : BitVec 6) : Prop :=
  ∀ (locs : Nat → Loc) (s : State) (v : View) (l : Ladle) (src dst : Nat × Nat) (h : Cohort), s.Issues v i →
    let r := fun k => v.s (b.toNat + k) 0
    let p := copyPlan op r (n.toNat + 1)
    let va := fun (j : Nat) => match p.index with
      | some x => (((r 1).append (r 0)).toNat + (h.word (x + 4 * j)).toNat * p.len) % 2 ^ 64
      | none => (p.rows.getD j (0, 0, 0)).1
    let pieces := p.pieces va
    let addrs := pieces.zipIdx.map fun e => (e.2, e.1.2.1)
    let accs := addrs.map fun e => (⟨e.1, locs e.1, (pieces.getD e.1 (0, 0, 0)).2.2⟩ : Access)
    let rows := p.rows.zipIdx.map fun e =>
      (⟨((accs.zip pieces).filter fun a => a.2.1 == e.2).map (·.1), e.1.2.1, e.1.2.2, p.len⟩ : CopyRow)
    let metered := (((s.launch v.team.ctx v.team.launch).map (·.rcd.metered)).getD false)
    copyReserved op r = false → (s.atIssue v).copySides v op r = .ok (src, dst) → (∀ e ∈ p.aligned, e.1 % 4 = 0) →
    (∀ e ∈ p.scratchReads (n.toNat + 1) ++ p.scratchWrites, e.1 + e.2 ≤ v.team.scrb) → v.team.race = false →
    s.cohort v.core v.team.cohort = some h →
    Reaches (s.atIssue v) v (if p.writesGlobal then Intent.store else { Intent.load with metered := metered }) 1 addrs locs →
    (p.writesGlobal = true → (s.atIssue v).Covered v accs l) →
    let s1 := if p.writesGlobal then (s.atIssue v).paid v accs l else s.atIssue v
    let blocks := if p.writesGlobal then charged accs else []
    exec i s = .next ((((s1.cacheAll (dieOf v.core) v.team.ctx addrs).addOp v 3 (.copy q.toNat p.kind src dst rows) blocks).noteCommand v
      (s.core v.core).nextOp).finish v i)

/-- A graph command: with its format block aligned and inside the region, its operands legal, and its runs aligned and
inside the region, it enters the window of the core's engine, which its launch then owns (R194 to R200). -/
def MatrixResult (op nregs : Nat) (i : Instr) (id p q : BitVec 5) (base : Nat) : Prop :=
  ∀ (s : State) (v : View) (h : Cohort), s.Issues v i → s.cohort v.core v.team.cohort = some h →
    let ws := (List.range nregs).map fun k => v.s (base + k) 0
    let block := (wordAt ws 1).toNat
    let f : BitVec 256 := if hasBlock op then BitVec.ofNat 256 (leNat (h.read block 32)) else 0
    (hasBlock op = true → block % 32 = 0 ∧ block + 32 ≤ v.team.scrb) → contentsBad op ws f = false →
    (∀ r ∈ matrixRuns op ws f, r.1 % r.2.1 = 0 ∧ (r.2.2 ≠ 0 → r.1 + r.2.2 ≤ v.team.scrb)) →
    let m := (s.core v.core).mtx.take v.team.ctx v.team.launch
    ∃ t, exec i s = .next t ∧
      (t.core v.core).mtx = { m with window := m.window ++
        [⟨(s.core v.core).nextOp, v.team.uid, v.slot, v.team.ctx, v.team.launch, op, id.toNat,
          (s.predecessor v p ++ s.predecessor v q).eraseDups, ws, f, v.team.batch, false, v.path.pc, [], [], [], [], []⟩] } ∧
      Table.get (t.teamOf v).commandIds id.toNat = some (s.core v.core).nextOp ∧
      (t.core v.core).nextOp = (s.core v.core).nextOp + 1 ∧ KeepsRegisters v s t ∧ (v.team.step = none → SameBytes s t)

end Sys2Proof.Machine
end

