-- ==== Sys2Proof/Certificates/Slice0/Obligations.lean ====
section
/-!
DEFINITION. The statements for the provers: encodings, the step, memory, registers, each instruction's result with
its frame, exceptions and their return, and the package's events.
-/

section
open Sys2Proof Sys2Proof.Machine

/-! ### Encodings -/

/-- Words written out from the encoding tables decode to the instruction they stand for (R60, R72 to R76). -/
def Obligations.DecodesSpecWords : Prop :=
  decodeWord 0x2016FFFE = .ok (.brc 0 1 1 2 65534) ∧
  decodeWord 0x001D0123 = .ok (.split 0 0 5 291) ∧
  decodeWord 0x010E0021 = .ok (.waitci 0 0 6 33) ∧
  decodeWord 0xC2468540 = .ok (.sadd 1 2 17 40 21 0) ∧
  decodeWord 0x0416ABCD = .ok (.smovi 0 0 5 175053) ∧
  decodeWord 0x65847F90 = .ok (.vadd 0 3 33 7 62 1) ∧
  decodeWord 0x0930327C = .ok (.vfma 0 0 12 3 9 60) ∧
  decodeWord 0x0A10518D = .ok (.vhdot 0 0 4 5 6 0 1) ∧
  decodeWord 0x0DCCBCB1 = .ok (.vcmpU 0 0 6 3 11 50 3) ∧
  decodeWord 0x0E280501 = .ok (.vrsq 0 0 10 20 0) ∧
  decodeWord 0x0F209073 = .ok (.vshflx 0 0 8 9 1 3) ∧
  decodeWord 0x10408FD6 = .ok (.ldg 0 0 16 8 63 1 6) ∧
  decodeWord 0x13187082 = .ok (.sts 0 0 6 7 2 0 2) ∧
  decodeWord 0x143969E2 = .ok (.atomCas 0 0 14 22 3 4 0 1) ∧
  decodeWord 0x151BCA30 = .ok (.trans 0 0 30 20 3) ∧
  decodeWord 0x1644A3EB = .ok (.mstream 0 0 9 8 31 11) ∧
  decodeWord 0x1704060F = .ok (.cpyG2s 0 0 1 24 15) ∧
  decodeWord 0x18300802 = .ok (.car 0 0 32 2) ∧
  decodeWord 0x1921DC00 = .ok (.qpush 0 0 14 3 1)

/-- A word that encodes an instruction decodes to that instruction, whatever its operand fields hold. -/
def Obligations.DecodeOfEncode : Prop :=
  ∀ (i : Instr) (w : Word), encode i = some w → decodeWord w = .ok i

/-- A word that decodes is the encoding of the instruction it decodes to: no bit of it is ignored. -/
def Obligations.EncodeOfDecode : Prop :=
  ∀ (w : Word) (i : Instr), decodeWord w = .ok i → encode i = some w

/-- A fetched word that no instruction has raises trap 0x12 for major 0x1F and trap 0x01 otherwise; majors 0x1D to
0x1F are no instruction (R75, R78).  A word of an instruction whose fields are ill formed raises trap 0x01, and the later
checks of R78 raise their traps, each before the word has any effect: SWR of a special register other than FPMODE and FPFLAGS
(R49), a vector register not held, a barrier beyond NBAR, an early use under CHECKSB of a word that trap 0x03 has not stopped
before, a poisoned source. -/
def Obligations.ReservedWordsTrap : Prop :=
  (∀ w : Word, 0x1D ≤ (field w 24 5).toNat → ∃ r, decodeWord w = .error r) ∧
  (∀ (w : Word) (s : State) (v : View), s.view = some v →
    exec (.reservedEncoding w) s =
      .next (((s.reach v).trapView v (if (field w 24 5).toNat = 0x1F then 0x12 else 0x01) 0 0 0).used)) ∧
  ∀ (i : Instr) (w : Word) (s : State) (v : View), encode i = some w → s.Views v i → s.frozen v = none →
    let traps := fun (cause : BitVec 8) (fault : DWord) (aux : Word) =>
      exec i s = .next (((s.reach v).trapView v cause fault aux 0).used)
    (i.wellFormed = false → traps 0x01 0 0) ∧
    (∀ c x d n, i = .swr c x d n → n ≠ 19 → n ≠ 20 → s.malformed v i = false → traps 0x12 0 0) ∧
    (s.malformed v i = false → (∀ c x d n, i ≠ .swr c x d n) →
      (∀ r, ((v.info i).reads ++ (v.info i).writes).find? (fun r => decide (64 + v.team.held ≤ r) && decide (r < 128)) = some r →
        traps 0x02 (BitVec.ofNat 64 (r - 64)) 0) ∧
      (((v.info i).reads ++ (v.info i).writes).find? (fun r => decide (64 + v.team.held ≤ r) && decide (r < 128)) = none →
        ∀ b, barrierOf i = some b → v.team.nbar ≤ b → traps 0x0A (BitVec.ofNat 64 b) 0)) ∧
    (s.decodeTrap v i = none → s.holds v i = none ∨ holdReads i = true →
      (∀ r, v.team.checkSb = true → v.run = false → v.path.exempt = false → v.tooEarly i = some r →
        traps 0x03 (BitVec.ofNat 64 (classNumber r)) 0) ∧
      ∀ r pc, (v.team.checkSb = false ∨ v.run = true ∨ v.path.exempt = true ∨ v.tooEarly i = none) → v.poisoned i = some (r, pc) →
        traps 0x06 (BitVec.ofNat 64 r) (BitVec.ofNat 32 pc))

/-! ### The step -/

/-- The step of an agent whose turn it is, when nothing is due before it and the cycle of its word has come, executes the
instruction that the word at its PC decodes to, after the read that the fetch is (R268); a word that decodes to none is executed as
a reserved encoding.  Whose turn it is stands in the model's own agenda (log 1). -/
def Obligations.StepRunsDecodedWord : Prop :=
  ∀ (s : State) (turn : Turn) (f : Focus) (rest : List Turn) (v : View) (w : Word),
    s.pf.stopped = false → s.agenda = turn :: rest → s.musts = [] → s.lates = [] → v.time ≤ s.cycle f.core →
    (turn = .issue f.core f.slot f.path ∧ f.runner = false ∨ turn = .runner f.core f.slot ∧ f.path = false ∧ f.runner = true) →
    ({ s with agenda := rest, here := f }).view = some v →
    (f.runner = false → v.team.entry = none) →
    ({ s with agenda := rest, here := f }).frozen v = none →
    ({ s with agenda := rest, here := f }).comparator v = none →
    ({ s with agenda := rest, here := f }).fetch v v.path.pc v.path.word = .word w →
    (∀ i, decodeWord w = .ok i → step s = exec i (({ s with agenda := rest, here := f }).noteFetch v)) ∧
      (∀ r, decodeWord w = .error r → step s = exec (.reservedEncoding w) (({ s with agenda := rest, here := f }).noteFetch v))

/-- The step whose turn is an event executes it, once what is due is done: whatever is due comes before any turn of the agenda.
A turn of time lets at most a tick and a cycle of each die pass, after which idle states whose condition no longer holds have ended (R364), and changes nothing
else; it is taken only after what the cycle still has to see, whose events it executes first.  A stopped package does nothing that it
does not serve while stopped, and its ticks stand still (R305).  The agenda is the model's own (log 1). -/
def Obligations.TurnsOfTheStep : Prop :=
  ((∀ (s : State) (e : Instr) (rest : List Turn), s.pf.stopped = false → s.agenda = .happen e :: rest → encode e = none →
    s.musts = [] → (∀ off w, e ≠ .vendorRegisterAccess true off w) → step s = exec e { s with agenda := rest }) ∧
  (∀ (s : State) (e : Instr) (t : Turn) (rest more : List Turn), s.pf.stopped = false → s.agenda = t :: rest →
    s.goesOn t = false → s.musts = .happen e :: more → encode e = none → step s = exec e s) ∧
  ∀ (s : State) (n c0 c1 : Nat) (rest : List Turn), s.pf.stopped = false → s.agenda = .elapse n c0 c1 :: rest →
    (∀ (e : Instr) (more : List Turn), s.musts ++ s.lates = .happen e :: more → encode e = none → step s = exec e s) ∧
    (s.musts ++ s.lates = [] →
      step s = .next ((((({ s with agenda := if n ≤ 1 ∧ c0 ≤ 1 ∧ c1 ≤ 1 then rest else .elapse (n - 1) (c0 - 1) (c1 - 1) :: rest }).passTicks
        (min 1 n)).passCycles 0 (min 1 c0)).passCycles 1 (min 1 c1)).keepIdle))) ∧
  ((∀ s : State, s.pf.stopped = true → takeServed s.agenda = none → step s = .next s) ∧
  (∀ (s : State) (n : Nat), s.pf.stopped = true → s.passTicks n = s) ∧
  ∀ (s : State) (e : Instr) (rest : List Turn), s.pf.stopped = true → s.agenda = .happen e :: rest → servedStopped e = true →
    encode e = none → step s = exec e { s with agenda := rest }) ∧
  ∀ (s : State) (n d : Nat),
    (s.keepIdle = { s with idlePlaces := s.keepIdle.idlePlaces }) ∧
    (s.ticksRun = true → s.pf.stopped = false → s.pf.armed = false →
      s.passTicks n = { s with die0 := { s.die0 with tick := s.die0.tick + BitVec.ofNat 64 n }
                               die1 := { s.die1 with tick := s.die1.tick + BitVec.ofNat 64 n } }) ∧
    (s.ticksRun = false → s.passTicks n = s) ∧
    s.passCycles d n = s.setDie d { s.die d with cycle := (s.die d).cycle + n }

/-- Word w of the packet at PC n lies at byte header + 64 + 12n + 4w, and fetch reads those four bytes, lowest first
(R61); a packet beyond the code raises trap 0x01 with the PC as its fault address (R62). -/
def Obligations.FetchReadsCode : Prop :=
  (∀ (s : State) (v : View) (n w : Nat) (loc : Loc), v.team.handler = none → n < v.team.codesz / 12 →
    s.check v.team.ctx Intent.fetch (v.team.image + 64 + 12 * n + 4 * w) = .found loc →
    s.pf.attMap.getLsbD v.team.ctx = false ∨ v.team.image ∉ (s.ctx v.team.ctx).unmeasured →
    s.fetch v n w = .word (BitVec.ofNat 32 (leNat (s.readLoc (dieOf v.core) loc 4)))) ∧
  ∀ (s : State) (v : View) (n w : Nat), v.team.handler = none → v.team.codesz / 12 ≤ n →
    s.fetch v n w = .trap 0x01 (BitVec.ofNat 64 n) 0

/-! ### Reset -/

/-- What the spec gives for reset: the stage and the usable dies (R363), ticks at zero and not running, offset zero
(R291), an empty package, the context registers (R325, R340), CAPCFG's overcommit (R359) and PWRCTL (R365).  That RESET and
POWER_LOSS lose the contents of device memory, leave those of host memory, and that a loss of power takes the live meter counters, is
the model's reading (log 24). -/
def Obligations.ResetValues : Prop :=
  State.reset.stage = 0 ∧ State.reset.stageErr = 0 ∧ State.reset.d0ok = false ∧ State.reset.d1ok = false ∧
  State.reset.ticksRun = false ∧ State.reset.tick = 0 ∧ State.reset.tickOffset = 0 ∧
  State.reset.resident = [] ∧ State.reset.readReg .devStat = 0 ∧
  State.reset.readReg (.cap 0 0) = 512 ∧ State.reset.readReg (.cap 1 0) = 512 ∧
  State.reset.readReg .pwrCtl = 2800 + 7 * 2 ^ 16 ∧
  (∀ x, State.reset.readReg (.start x 0x0C) = 0 ∧ State.reset.readReg (.start x 0x18) = 0 ∧
    State.reset.readReg (.start x 0x2C) = 0 ∧ State.reset.readReg (.start x 0x30) = 0x00100000) ∧
  ∀ s, exec .reset s = .next s.afterReset ∧ exec .powerLoss s = .next { s.afterReset with meter := s.meter.off } ∧ s.afterReset.cores = [] ∧
    s.afterReset.stage = 0 ∧ s.afterReset.mem = [] ∧ s.afterReset.hostMem = s.hostMem

/-! ### Memory -/

/-- The reset state's memories are in canonical form, no page is backed, and every address of device memory reads as 0, which the
model takes from the zeros of unbacked pages (R161, R189; log 5). -/
def Obligations.ResetMemoryForm : Prop :=
  State.reset.memoryWf = true ∧ (∀ a, Memory.read State.reset.mem a = 0) ∧ ∀ p, (State.reset.page p).state = .unbacked

/-- Every step keeps the canonical form of device memory and of host memory. -/
def Obligations.StepKeepsMemoryForm : Prop :=
  ∀ s t : State, s.memoryWf = true → step s = .next t → t.memoryWf = true

/-- A byte read after a write is the byte written, and every other address reads as before; the form stays.
Two memories in canonical form that read alike are the same list. -/
def Obligations.MemoryLaws : Prop :=
  (∀ (m : List Host.Cell) (a : Nat) (b : Byte), Memory.wf m = true →
    Memory.read (Memory.write m a b) a = b ∧ (∀ c, c ≠ a → Memory.read (Memory.write m a b) c = Memory.read m c) ∧
      Memory.wf (Memory.write m a b) = true) ∧
  (∀ m n : List Host.Cell, Memory.wf m = true → Memory.wf n = true → (∀ a, Memory.read m a = Memory.read n a) → m = n)

/-- A number stored in n bytes of device or host memory reads back with the byte at the lowest address holding bits [7:0] (R1). -/
def Obligations.LittleEndian : Prop :=
  ∀ (m : List Host.Cell) (a n x : Nat), Memory.wf m = true →
    leNat (Memory.readList (Memory.writeList m a (leBytes n x)) a n) = x % 256 ^ n ∧
    (0 < n → Memory.read (Memory.writeList m a (leBytes n x)) a = BitVec.ofNat 8 x) ∧
    ∀ c, c < a ∨ a + n ≤ c → Memory.read (Memory.writeList m a (leBytes n x)) c = Memory.read m c

/-- A run of bytes written to a page of device memory that is not SWM changes exactly those bytes of memory; to an SWM
page it changes none, and the writing die then reads those bytes, and every other byte of the line as before, from its L2 copy; host
memory likewise (R239, R246). -/
def Obligations.WrittenBytes : Prop :=
  (∀ (s : State) (d da : Nat) (uc hw : Bool) (bs : List Byte), s.memoryWf = true →
    (∀ a, Memory.read (s.writeLoc d (.dev da false uc hw) bs).mem a =
      if da ≤ a ∧ a < da + bs.length then bs.getD (a - da) 0 else Memory.read s.mem a) ∧
    (s.writeLoc d (.dev da false uc hw) bs).hostMem = s.hostMem) ∧
  (∀ (s : State) (d da : Nat) (uc hw : Bool) (bs : List Byte),
    (s.writeLoc d (.dev da true uc hw) bs).mem = s.mem ∧ (s.writeLoc d (.dev da true uc hw) bs).hostMem = s.hostMem ∧
    (da % 128 + bs.length ≤ 128 → (∀ k, s.line d (da / 128) = some k → k.data.length = 128) →
      let t := s.writeLoc d (.dev da true uc hw) bs
      (t.mixed (da / 65536) = false → t.readLoc d (.dev da true uc hw) bs.length = bs) ∧
      ∀ a, a / 128 = da / 128 → (a < da ∨ da + bs.length ≤ a) → s.mixed (da / 65536) = false → t.mixed (da / 65536) = false →
        t.readLoc d (.dev a true uc hw) 1 = s.readLoc d (.dev a true uc hw) 1)) ∧
  ∀ (s : State) (d pa : Nat) (bs : List Byte), s.memoryWf = true →
    (∀ a, Memory.read (s.writeLoc d (.host pa) bs).hostMem a =
      if pa ≤ a ∧ a < pa + bs.length then bs.getD (a - pa) 0 else Memory.read s.hostMem a) ∧
    (s.writeLoc d (.host pa) bs).mem = s.mem

/-- Load formats: integer formats zero-extend or sign-extend, B32, B64 and B128 fill their registers from the lowest
byte up; store formats B8 to B128 store the low bits of their registers (R161, R164). -/
def Obligations.FormatsOfLoadsAndStores : Prop :=
  (∀ b : Byte, loadWords 0 [b] = [b.setWidth 32] ∧ loadWords 1 [b] = [b.signExtend 32]) ∧
  (∀ b0 b1 : Byte, loadWords 2 [b0, b1] = [(b1 ++ b0).setWidth 32] ∧ loadWords 3 [b0, b1] = [(b1 ++ b0).signExtend 32]) ∧
  (∀ w r : Word, loadWords 4 (storeBytes 4 [w] r) = [w] ∧ storeBytes 0 [w] r = [w.setWidth 8] ∧
    storeBytes 2 [w] r = [w.setWidth 8, (w >>> 8).setWidth 8]) ∧
  (∀ w0 w1 r : Word, loadWords 5 (storeBytes 5 [w0, w1] r) = [w0, w1]) ∧
  ∀ w0 w1 w2 w3 r : Word, loadWords 6 (storeBytes 6 [w0, w1, w2, w3] r) = [w0, w1, w2, w3]

/-! ### Registers and operands -/

/-- A result of latency L written at cycle p: a read at t ≥ p + L sees the new value, an earlier one the value before
(R66); one of latency 1 is always read new. -/
def Obligations.FixedLatencyReads : Prop :=
  ∀ (v : View) (p : Path) (n lat : Nat) (w : Word), n < p.s.length → (v.run = false → n ≠ 63) →
    wordAt (v.setS p n w lat).s n = w ∧
    (∀ t, v.time + lat ≤ t → (v.setS p n w lat).lagged n 0 0 t = none) ∧
    (1 < lat → ∀ t, t < v.time + lat → (v.setS p n w lat).lagged n 0 0 t = some (wordAt p.s n)) ∧
    (lat ≤ 1 → ∀ t, (v.setS p n w lat).lagged n 0 0 t = none)

/-- s63 of a team reads as zero and ignores writes; p7 reads all-true and ignores writes (R46, R68). -/
def Obligations.HardwiredRegisters : Prop :=
  (∀ (v : View) (k : Nat), v.run = false → v.s 63 k = 0) ∧
  (∀ (v : View) (p : Path) (w : Word) (lat : Nat), v.run = false → v.setS p 63 w lat = p) ∧
  (∀ (v : View) (l : Nat), v.p 7 l = true) ∧
  ∀ (s : State) (v : View) (vals : List (Nat × Bool)) (lat : Nat), s.setP v 7 vals lat = s

/-- The classes of the B operand (R69) and the values of immediates with and without EXT (R70, R71). -/
def Obligations.OperandForms : Prop :=
  (∀ (s : State) (v : View) (k : Kind) (b : BitVec 6) (l : Nat),
    s.bV v k 0 b l = v.v b.toNat l ∧ s.bV v k 1 b l = v.s b.toNat (v.passAt l) ∧
    (∀ w, s.spineRead v.team (b.toNat % 4) (b.toNat / 4 + 1) = .value w → s.bV v k 2 b l = w ∧ s.bS v 2 b = w) ∧
    s.bS v 0 b = v.s b.toNat 0 ∧ s.bS v 3 b = immInt v.path.ext b ∧ s.bV v .int 3 b l = immInt v.path.ext b) ∧
  (∀ (n : Nat) (f : BitVec n), immInt none f = f.signExtend 32) ∧
  (∀ (x : BitVec 24) (n : Nat) (f : BitVec n), immInt (some x) f = (x.append f).signExtend 32) ∧
  (∀ f : BitVec 6, immOff none f = f.setWidth 32) ∧ ∀ (x : BitVec 24) (f : BitVec 6), immOff (some x) f = immInt (some x) f

/-! ### Scalar words -/

/-- SALU results are 32-bit with wrap-around, and nothing but s(D) changes (R119). -/
def Obligations.ScalarArithmetic : Prop :=
  ∀ (c : BitVec 1) (w : BitVec 2) (d a b : BitVec 6) (q : BitVec 2),
    ScalarResult (.sadd c w d a b q) d.toNat (fun s v => v.s a.toNat 0 + s.bS v q b) ∧
    ScalarResult (.ssub c w d a b q) d.toNat (fun s v => v.s a.toNat 0 - s.bS v q b) ∧
    ScalarResult (.smul c w d a b q) d.toNat (fun s v => v.s a.toNat 0 * s.bS v q b) ∧
    ScalarResult (.smulh c w d a b q) d.toNat (fun s v =>
      ((v.s a.toNat 0).signExtend 64 * (s.bS v q b).signExtend 64).extractLsb' 32 32) ∧
    ScalarResult (.sand c w d a b q) d.toNat (fun s v => v.s a.toNat 0 &&& s.bS v q b) ∧
    ScalarResult (.sor c w d a b q) d.toNat (fun s v => v.s a.toNat 0 ||| s.bS v q b) ∧
    ScalarResult (.sxor c w d a b q) d.toNat (fun s v => v.s a.toNat 0 ^^^ s.bS v q b) ∧
    ScalarResult (.sshl c w d a b q) d.toNat (fun s v => v.s a.toNat 0 <<< ((s.bS v q b).toNat % 32)) ∧
    ScalarResult (.sshr c w d a b q) d.toNat (fun s v => v.s a.toNat 0 >>> ((s.bS v q b).toNat % 32)) ∧
    ScalarResult (.ssra c w d a b q) d.toNat (fun s v => (v.s a.toNat 0).sshiftRight ((s.bS v q b).toNat % 32)) ∧
    ScalarResult (.smin c w d a b q) d.toNat (fun s v =>
      if (v.s a.toNat 0).toInt ≤ (s.bS v q b).toInt then v.s a.toNat 0 else s.bS v q b) ∧
    ScalarResult (.smax c w d a b q) d.toNat (fun s v =>
      if (v.s a.toNat 0).toInt ≤ (s.bS v q b).toInt then s.bS v q b else v.s a.toNat 0) ∧
    ScalarResult (.sminu c w d a b q) d.toNat (fun s v =>
      if (v.s a.toNat 0).toNat ≤ (s.bS v q b).toNat then v.s a.toNat 0 else s.bS v q b) ∧
    ScalarResult (.smaxu c w d a b q) d.toNat (fun s v =>
      if (v.s a.toNat 0).toNat ≤ (s.bS v q b).toNat then s.bS v q b else v.s a.toNat 0)

/-- SADDW, SADDI, SMOVI, SCMP and QSTAT with their frames, and EXT, which gives X to the next word of its packet
(R120 to R123, R71, R233). -/
def Obligations.ScalarWideAndImmediate : Prop :=
  (∀ (c : BitVec 1) (w : BitVec 2) (d a b : BitVec 6) (q : BitVec 2),
    PairResult (.saddw c w d a b q) d.toNat (fun s v => v.sPair a.toNat 0 + s.bSPair v q b)) ∧
  (∀ (c : BitVec 1) (w : BitVec 2) (d a : BitVec 6) (i : BitVec 12),
    ScalarResult (.saddi c w d a i) d.toNat (fun _ v => v.s a.toNat 0 + immInt v.path.ext i)) ∧
  (∀ (c : BitVec 1) (w : BitVec 2) (d : BitVec 6) (i : BitVec 18),
    ScalarResult (.smovi c w d i) d.toNat (fun _ v => immInt v.path.ext i)) ∧
  (∀ (c : BitVec 1) (w : BitVec 2) (k : BitVec 2) (e : BitVec 3) (a b : BitVec 6) (q : BitVec 2),
    ConditionResult (.scmp c w k e a b q) k.toNat (fun s v =>
      let x := (v.s a.toNat 0).toInt
      let y := (s.bS v q b).toInt
      match e.toNat with
      | 0 => decide (x = y)
      | 1 => decide (x ≠ y)
      | 2 => decide (x < y)
      | 3 => decide (x ≤ y)
      | 4 => decide (y < x)
      | 5 => decide (y ≤ x)
      | 6 => true
      | _ => false)) ∧
  (∀ (c : BitVec 1) (w : BitVec 2) (d : BitVec 6) (q : BitVec 2),
    ScalarResult (.qstat c w d q) d.toNat (fun _ v => v.team.qstat q.toNat)) ∧
  ∀ x : BitVec 24, Completes (.ext x) always (fun s v => s.modPath v fun p => { p with ext := some x })

/-! ### Vector words -/

/-- VINT's functions on 32-bit values with wrap-around in each active lane (R128).
VADDW, VADDI, VMAD, the unary words, VLANE, VITEM and VBFX (R129 to R133). -/
def Obligations.VectorIntegers : Prop :=
  (∀ (c : BitVec 1) (w : BitVec 2) (d a b : BitVec 6) (q : BitVec 2),
    VectorResult (.vadd c w d a b q) d.toNat (fun s v l => v.v a.toNat l + s.bV v .int q b l) ∧
    VectorResult (.vsub c w d a b q) d.toNat (fun s v l => v.v a.toNat l - s.bV v .int q b l) ∧
    VectorResult (.vmul c w d a b q) d.toNat (fun s v l => v.v a.toNat l * s.bV v .int q b l) ∧
    VectorResult (.vmulh c w d a b q) d.toNat (fun s v l =>
      ((v.v a.toNat l).signExtend 64 * (s.bV v .int q b l).signExtend 64).extractLsb' 32 32) ∧
    VectorResult (.vmulhu c w d a b q) d.toNat (fun s v l =>
      ((v.v a.toNat l).setWidth 64 * (s.bV v .int q b l).setWidth 64).extractLsb' 32 32) ∧
    VectorResult (.vand c w d a b q) d.toNat (fun s v l => v.v a.toNat l &&& s.bV v .int q b l) ∧
    VectorResult (.vor c w d a b q) d.toNat (fun s v l => v.v a.toNat l ||| s.bV v .int q b l) ∧
    VectorResult (.vxor c w d a b q) d.toNat (fun s v l => v.v a.toNat l ^^^ s.bV v .int q b l) ∧
    VectorResult (.vshl c w d a b q) d.toNat (fun s v l => v.v a.toNat l <<< ((s.bV v .int q b l).toNat % 32)) ∧
    VectorResult (.vshr c w d a b q) d.toNat (fun s v l => v.v a.toNat l >>> ((s.bV v .int q b l).toNat % 32)) ∧
    VectorResult (.vsra c w d a b q) d.toNat (fun s v l => (v.v a.toNat l).sshiftRight ((s.bV v .int q b l).toNat % 32)) ∧
    VectorResult (.vmin c w d a b q) d.toNat (fun s v l =>
      if (v.v a.toNat l).toInt ≤ (s.bV v .int q b l).toInt then v.v a.toNat l else s.bV v .int q b l) ∧
    VectorResult (.vmax c w d a b q) d.toNat (fun s v l =>
      if (v.v a.toNat l).toInt ≤ (s.bV v .int q b l).toInt then s.bV v .int q b l else v.v a.toNat l) ∧
    VectorResult (.vminu c w d a b q) d.toNat (fun s v l =>
      if (v.v a.toNat l).toNat ≤ (s.bV v .int q b l).toNat then v.v a.toNat l else s.bV v .int q b l) ∧
    VectorResult (.vmaxu c w d a b q) d.toNat (fun s v l =>
      if (v.v a.toNat l).toNat ≤ (s.bV v .int q b l).toNat then s.bV v .int q b l else v.v a.toNat l)) ∧
  ((∀ (c : BitVec 1) (w : BitVec 2) (d a b : BitVec 6) (q : BitVec 2),
    VectorPairResult (.vaddw c w d a b q) d.toNat (fun s v l => v.vPair a.toNat l + s.bVPair v q b l) ∧
    VectorResult (.vbfx c w d a b q) d.toNat (fun s v l =>
      let pos := (s.bV v .int q b l).toNat % 32
      let n := if (s.bV v .int q b l).toNat / 256 % 32 = 0 then 32 else (s.bV v .int q b l).toNat / 256 % 32
      BitVec.ofNat 32 ((v.v a.toNat l).toNat / 2 ^ pos % 2 ^ n))) ∧
  (∀ (c : BitVec 1) (w : BitVec 2) (d a : BitVec 6) (i : BitVec 12),
    VectorResult (.vaddi c w d a i) d.toNat (fun _ v l => v.v a.toNat l + immInt v.path.ext i)) ∧
  (∀ (c : BitVec 1) (w : BitVec 2) (d a b j : BitVec 6),
    VectorResult (.vmad c w d a b j) d.toNat (fun _ v l => v.v a.toNat l * v.v b.toNat l + v.v j.toNat l)) ∧
  (∀ (c : BitVec 1) (w : BitVec 2) (d b : BitVec 6) (q : BitVec 2),
    VectorResult (.vmov c w d b q) d.toNat (fun s v l => s.bV v .int q b l) ∧
    VectorResult (.vpopc c w d b q) d.toNat (fun s v l =>
      BitVec.ofNat 32 ((List.range 32).filter fun i => (s.bV v .int q b l).getLsbD i).length) ∧
    VectorResult (.vclz c w d b q) d.toNat (fun s v l => BitVec.ofNat 32
      ((List.range 33).find? fun n => n == 32 || (s.bV v .int q b l).getLsbD (31 - n)).get!) ∧
    VectorResult (.vbrev c w d b q) d.toNat (fun s v l => (s.bV v .int q b l).reverse) ∧
    VectorResult (.vnot c w d b q) d.toNat (fun s v l => ~~~ s.bV v .int q b l) ∧
    VectorResult (.vabs c w d b q) d.toNat (fun s v l => BitVec.ofNat 32 (s.bV v .int q b l).toInt.natAbs)) ∧
  ∀ (c : BitVec 1) (w : BitVec 2) (d : BitVec 6),
    VectorResult (.vlane c w d) d.toNat (fun _ _ l => BitVec.ofNat 32 l) ∧
    VectorResult (.vitem c w d) d.toNat (fun _ v l => BitVec.ofNat 32 (v.team.item.toNat * v.team.lanes + l)))

/-- Integer compares, predicate logic and VSEL in each active lane (R143 to R145); VCMP.F with its IV flag. -/
def Obligations.PredicatesAndSelect : Prop :=
  (∀ (c : BitVec 1) (w : BitVec 2) (p e : BitVec 3) (a b : BitVec 6) (q : BitVec 2),
    PredicateResult (.vcmpS c w p e a b q) p.toNat (fun s v l => compareS e (v.v a.toNat l) (s.bV v .int q b l)) ∧
    PredicateResult (.vcmpU c w p e a b q) p.toNat (fun s v l => compareU e (v.v a.toNat l) (s.bV v .int q b l)) ∧
    Completes (.vcmpF c w p e a b q)
      (fun s v => v.path.enabled (v.active.foldl (fun n l => n ||| (compareF v.path.env e (v.v a.toNat l) (s.bV v (.fp .fp32) q b l)).2) 0) = false)
      (fun s v => (s.setP v p.toNat (v.active.map fun l => (l, (compareF v.path.env e (v.v a.toNat l) (s.bV v (.fp .fp32) q b l)).1)) 2).raiseFlags v
        (v.active.foldl (fun n l => n ||| (compareF v.path.env e (v.v a.toNat l) (s.bV v (.fp .fp32) q b l)).2) 0))) ∧
  (∀ x y : Word, compareS 2 x y = decide (x.toInt < y.toInt) ∧ compareS 3 x y = decide (x.toInt ≤ y.toInt) ∧
    compareU 2 x y = decide (x.toNat < y.toNat) ∧ compareU 5 x y = decide (y.toNat ≤ x.toNat) ∧
    compareS 0 x y = decide (x = y) ∧ compareU 1 x y = decide (x ≠ y)) ∧
  (∀ (c : BitVec 1) (w : BitVec 2) (p a b : BitVec 3),
    PredicateResult (.pand c w p a b) p.toNat (fun _ v l => v.p a.toNat l && v.p b.toNat l) ∧
    PredicateResult (.por c w p a b) p.toNat (fun _ v l => v.p a.toNat l || v.p b.toNat l) ∧
    PredicateResult (.pxor c w p a b) p.toNat (fun _ v l => v.p a.toNat l ^^ v.p b.toNat l) ∧
    PredicateResult (.pnot c w p b) p.toNat (fun _ v l => !v.p b.toNat l)) ∧
  ∀ (c : BitVec 1) (w : BitVec 2) (d a b : BitVec 6) (q : BitVec 2) (r : BitVec 3),
    VectorResult (.vsel c w d a b q r) d.toNat (fun s v l => if v.p r.toNat l then v.v a.toNat l else s.bV v .int q b l)

/-! ### Floating point -/

/-- FP32 words under FPMODE: results in the active lanes, flags added to FPFLAGS, an enabled flag traps with nothing
written (R51, R127, R135 to R137). -/
def Obligations.FloatArithmetic : Prop :=
  (∀ (c : BitVec 1) (w : BitVec 2) (d a b : BitVec 6) (q : BitVec 2),
    FloatResult (.vfadd c w d a b q) d.toNat (fun s v l => fpWord (fadd .fp32 v.path.env (v.v a.toNat l).toNat (s.bV v (.fp .fp32) q b l).toNat)) ∧
    FloatResult (.vfsub c w d a b q) d.toNat (fun s v l => fpWord (fsub .fp32 v.path.env (v.v a.toNat l).toNat (s.bV v (.fp .fp32) q b l).toNat)) ∧
    FloatResult (.vfmul c w d a b q) d.toNat (fun s v l => fpWord (fmul .fp32 v.path.env (v.v a.toNat l).toNat (s.bV v (.fp .fp32) q b l).toNat)) ∧
    FloatResult (.vfmin c w d a b q) d.toNat (fun s v l => fpWord (fminmax .fp32 v.path.env false (v.v a.toNat l).toNat (s.bV v (.fp .fp32) q b l).toNat)) ∧
    FloatResult (.vfmax c w d a b q) d.toNat (fun s v l => fpWord (fminmax .fp32 v.path.env true (v.v a.toNat l).toNat (s.bV v (.fp .fp32) q b l).toNat))) ∧
  (∀ (c : BitVec 1) (w : BitVec 2) (d a b j : BitVec 6),
    FloatResult (.vfma c w d a b j) d.toNat (fun _ v l =>
      fpWord (ffma .fp32 v.path.env (v.v a.toNat l).toNat (v.v b.toNat l).toNat (v.v j.toNat l).toNat))) ∧
  ∀ (c : BitVec 1) (w : BitVec 2) (d b : BitVec 6) (q : BitVec 2),
    VectorResult (.vfneg c w d b q) d.toNat (fun s v l => s.bV v (.fp .fp32) q b l ^^^ 0x80000000) ∧
    VectorResult (.vfabs c w d b q) d.toNat (fun s v l => s.bV v (.fp .fp32) q b l &&& 0x7FFFFFFF) ∧
    VectorResult (.vfclass c w d b q) d.toNat (fun s v l => classMask (s.bV v (.fp .fp32) q b l).toNat)

/-- Conversions (R134): their results in the active lanes, with flags.
NaN and infinity rules that every FP32 sum and product follows, whatever the mode: the first NaN operand quieted,
IV for a signalling one, the default NaN with IV for ∞ − ∞ and 0 × ∞, and the other input for one quiet NaN of a
minimum or maximum (R87, R135). -/
def Obligations.FloatConversions : Prop :=
  ((∀ (c : BitVec 1) (w : BitVec 2) (d b : BitVec 6) (q : BitVec 2),
    FloatResult (.vcvtI2f c w d b q) d.toNat (fun s v l => fpWord (ofInt v.path.env (s.bV v .int q b l).toInt)) ∧
    FloatResult (.vcvtU2f c w d b q) d.toNat (fun s v l => fpWord (ofInt v.path.env (s.bV v .int q b l).toNat)) ∧
    FloatResult (.vcvtF2i c w d b q) d.toNat (fun s v l => toInt v.path.env true (s.bV v .int q b l).toNat) ∧
    FloatResult (.vcvtF2u c w d b q) d.toNat (fun s v l => toInt v.path.env false (s.bV v .int q b l).toNat) ∧
    FloatResult (.vcvtF2h c w d b q) d.toNat (fun s v l => fpWord (f2h v.path.env (s.bV v .int q b l).toNat)) ∧
    FloatResult (.vcvtH2f c w d b q) d.toNat (fun s v l =>
      fpWord (convert .fp16 .fp32 .rn (ftzIn .fp16 v.path.env ((s.bV v .int q b l).toNat % 65536))))) ∧
  ∀ e : FpEnv, ofInt e 0 = (0, 0) ∧ ofInt e 1 = (0x3F800000, 0) ∧ ofInt e (-2) = (0xC0000000, 0) ∧ toInt e true 0x7FC00000 = (0, flagIV) ∧
    toInt e true 0x3F800000 = (1, 0)) ∧
  ((∀ (e : FpEnv) (a b : Nat), Fmt.fp32.isNan a = true →
    fadd .fp32 e a b = (Fmt.fp32.quiet a, if Fmt.fp32.isSnan a || Fmt.fp32.isSnan (ftzIn .fp32 e b) then flagIV else 0) ∧
    fmul .fp32 e a b = (Fmt.fp32.quiet a, if Fmt.fp32.isSnan a || Fmt.fp32.isSnan (ftzIn .fp32 e b) then flagIV else 0)) ∧
  (∀ e : FpEnv, fadd .fp32 e 0x7F800000 0xFF800000 = (0x7FC00000, flagIV) ∧ fmul .fp32 e 0 0x7F800000 = (0x7FC00000, flagIV) ∧
    fsub .fp32 e 0x7F800000 0x7F800000 = (0x7FC00000, flagIV)) ∧
  (∀ (e : FpEnv) (b : Nat), Fmt.fp32.isNan b = false → fminmax .fp32 e true 0x7FC00000 b = (ftzIn .fp32 e b, 0) ∧
    fminmax .fp32 e false 0x7FC00000 b = (ftzIn .fp32 e b, 0)) ∧
  ∀ (e : FpEnv) (b : Nat), b < 2 ^ 32 → Fmt.fp32.isNan b = false → Fmt.fp32.isInf b = false →
    fadd .fp32 e 0x7F800000 b = (0x7F800000, 0) ∧ fadd .fp32 e b 0x7F800000 = (0x7F800000, 0))

/-- Packed 16-bit words on both halves, VHDOT and the packed multiply-adds (R140 to R142). -/
def Obligations.PackedArithmetic : Prop :=
  (∀ (c : BitVec 1) (w : BitVec 2) (d a b : BitVec 6) (q : BitVec 2) (f : BitVec 1),
    FloatResult (.vhadd c w d a b q f) d.toNat (fun s v l => packed (fadd (halfFmt f) (v.path.env.half f)) (v.v a.toNat l) (s.bV v (.fp (halfFmt f)) q b l)) ∧
    FloatResult (.vhsub c w d a b q f) d.toNat (fun s v l => packed (fsub (halfFmt f) (v.path.env.half f)) (v.v a.toNat l) (s.bV v (.fp (halfFmt f)) q b l)) ∧
    FloatResult (.vhmul c w d a b q f) d.toNat (fun s v l => packed (fmul (halfFmt f) (v.path.env.half f)) (v.v a.toNat l) (s.bV v (.fp (halfFmt f)) q b l)) ∧
    FloatResult (.vhmin c w d a b q f) d.toNat (fun s v l => packed (fminmax (halfFmt f) (v.path.env.half f) false) (v.v a.toNat l) (s.bV v (.fp (halfFmt f)) q b l)) ∧
    FloatResult (.vhmax c w d a b q f) d.toNat (fun s v l => packed (fminmax (halfFmt f) (v.path.env.half f) true) (v.v a.toNat l) (s.bV v (.fp (halfFmt f)) q b l)) ∧
    FloatResult (.vhdot c w d a b q f) d.toNat (fun s v l =>
      fpWord (dotProduct (halfFmt f) v.path.env (v.path.env.half f) (v.v d.toNat l) (v.v a.toNat l) (s.bV v (.fp (halfFmt f)) q b l)))) ∧
  (∀ (c : BitVec 1) (w : BitVec 2) (d b : BitVec 6) (q : BitVec 2) (f : BitVec 1),
    VectorResult (.vhneg c w d b q f) d.toNat (fun s v l => s.bV v (.fp (halfFmt f)) q b l ^^^ 0x80008000) ∧
    VectorResult (.vhabs c w d b q f) d.toNat (fun s v l => s.bV v (.fp (halfFmt f)) q b l &&& 0x7FFF7FFF)) ∧
  ∀ (c : BitVec 1) (w : BitVec 2) (d a b j : BitVec 6),
    FloatResult (.vhfmaBf c w d a b j) d.toNat (fun _ v l => packed3 (ffma .bf16 (v.path.env.half 0)) (v.v a.toNat l) (v.v b.toNat l) (v.v j.toNat l)) ∧
    FloatResult (.vhfmaHf c w d a b j) d.toNat (fun _ v l => packed3 (ffma .fp16 (v.path.env.half 1)) (v.v a.toNat l) (v.v b.toNat l) (v.v j.toNat l))

/-- A VSFU word is counted on SFU and writes nothing as it issues; its values are the table's (R146, R147); VQFAC and
VQNORM share the queue (R138, R139).  The special operands and the exact results of R147's rows; VSQRT of any other operand, FTZ apart, is the
correctly rounded root in the path's mode, with NX where the root is not exact; every other result, FTZ apart, is the
nearest value or one within the row's bound of the function's value, as the model computes it.  The values within a bound are the
model's free ones (log 7). -/
def Obligations.SfuWords : Prop :=
  (∀ (c : BitVec 1) (w : BitVec 2) (d b : BitVec 6) (q : BitVec 2),
    SfuResult (.vrcp c w d b q) 0 d b q ∧ SfuResult (.vrsq c w d b q) 1 d b q ∧ SfuResult (.vsqrt c w d b q) 2 d b q ∧
    SfuResult (.vexp2 c w d b q) 3 d b q ∧ SfuResult (.vlog2 c w d b q) 4 d b q ∧ SfuResult (.vsin c w d b q) 5 d b q ∧
    SfuResult (.vcos c w d b q) 6 d b q ∧ SfuResult (.vtanh c w d b q) 7 d b q) ∧
  (∀ (c : BitVec 1) (w : BitVec 2) (d a b : BitVec 6) (q : BitVec 2),
    PostResult (.vqfac c w d a b q) always (fun _ _ => 2) (fun s v => .sfu d.toNat (v.active.map fun l =>
      (l, BitVec.ofNat 32 (quireFactor (v.v a.toNat l).toNat (s.bV v (.fp .fp32) q b l).toNat).1,
        some (BitVec.ofNat 32 (quireFactor (v.v a.toNat l).toNat (s.bV v (.fp .fp32) q b l).toNat).2.1))) 0) ∧
    PostResult (.vqnorm c w d a b q) always (fun _ _ => 2) (fun s v => .sfu d.toNat (v.active.map fun l =>
      (l, BitVec.ofNat 32 (quireNorm (v.v a.toNat l).toNat (s.bV v (.fp .fp32) q b l).toNat), none)) 0)) ∧
  (∀ e : FpEnv,
    let inf := 0x7F800000
    let neg := 2147483648
    (∀ (fn : Nat) (x : Word), Fmt.fp32.isNan x.toNat = true →
      sfuValue e fn x = (Fmt.fp32.quiet x.toNat, if Fmt.fp32.isSnan x.toNat then flagIV else 0)) ∧
    sfuValue e 0 0 = (inf, flagDZ) ∧ sfuValue e 0 0x80000000 = (neg + inf, flagDZ) ∧ sfuValue e 0 0x7F800000 = (0, 0) ∧
    sfuValue e 0 0xFF800000 = (neg, 0) ∧
    sfuValue e 1 0 = (inf, flagDZ) ∧ sfuValue e 1 0x80000000 = (neg + inf, flagDZ) ∧ sfuValue e 1 0x7F800000 = (0, 0) ∧
    sfuValue e 2 0x80000000 = (neg, 0) ∧ sfuValue e 2 0x7F800000 = (inf, 0) ∧
    sfuValue e 3 0xFF800000 = (0, 0) ∧ sfuValue e 3 0x7F800000 = (inf, 0) ∧
    sfuValue e 4 0 = (neg + inf, flagDZ) ∧ sfuValue e 4 0x80000000 = (neg + inf, flagDZ) ∧ sfuValue e 4 0x7F800000 = (inf, 0) ∧
    sfuValue e 4 0x3F800000 = (0, 0) ∧
    sfuValue e 5 0 = (0, 0) ∧ sfuValue e 5 0x80000000 = (neg, 0) ∧ sfuValue e 6 0 = (0x3F800000, 0) ∧ sfuValue e 6 0x80000000 = (0x3F800000, 0) ∧
    (∀ fn, fn = 5 ∨ fn = 6 → sfuValue e fn 0x7F800000 = (0x7FC00000, flagIV) ∧ sfuValue e fn 0xFF800000 = (0x7FC00000, flagIV)) ∧
    sfuValue e 7 0 = (0, 0) ∧ sfuValue e 7 0x80000000 = (neg, 0) ∧ sfuValue e 7 0x7F800000 = (0x3F800000, 0) ∧
    sfuValue e 7 0xFF800000 = (0xBF800000, 0) ∧
    (∀ (fn : Nat) (x : Word), fn = 1 ∨ fn = 2 ∨ fn = 4 → 0x80800000 ≤ x.toNat → x.toNat ≤ 0xFF800000 →
      sfuValue e fn x = (0x7FC00000, flagIV)) ∧
    (∀ i < 253, sfuValue e 0 (BitVec.ofNat 32 ((i + 1) * 2 ^ 23)) = ((253 - i) * 2 ^ 23, 0)) ∧
    (∀ i < 127, sfuValue e 1 (BitVec.ofNat 32 ((2 * i + 1) * 2 ^ 23)) = ((190 - i) * 2 ^ 23, 0) ∧
      sfuValue e 2 (BitVec.ofNat 32 ((2 * i + 1) * 2 ^ 23)) = ((i + 64) * 2 ^ 23, 0)) ∧
    ∀ i : Nat, i < 254 → sfuValue e 3 (BitVec.ofNat 32 (ofInt e ((i : Int) - 126)).1) = ((i + 1) * 2 ^ 23, 0) ∧
      sfuValue e 4 (BitVec.ofNat 32 ((i + 1) * 2 ^ 23)) = ((ofInt e ((i : Int) - 126)).1, 0)) ∧
  ∀ (rm : Rm) (x : Word) (n : Bool) (m : Nat) (ex : Int), Fmt.fp32.value x.toNat = .fin n m ex → m ≠ 0 →
    let near := fun (fn : Nat) (neg : Bool) (k : Nat) (p : Int) (bm : Nat) (be : Int) =>
      let r := (sfuValue ⟨rm, false⟩ fn x).1
      r = (roundTo .fp32 .rn neg k p).1 ∨ withinBound r neg k p bm be = true
    let r := recipOf m ex
    let q := rsqrtOf m ex
    let g := log2Of m ex
    let inside : Bool := decide (0x3F000000 ≤ x.toNat) && decide (x.toNat ≤ 0x40000000)
    near 0 n r.1 r.2 1 (ulpOf r.1 r.2) ∧
    (n = false → let big := (if ex % 2 = 0 then m else 2 * m) * 2 ^ 160
      ∃ root : Nat, root * root ≤ big ∧ big < (root + 1) * (root + 1) ∧
        (sfuValue ⟨rm, false⟩ 2 x).1 = (roundTo .fp32 rm false (2 * root + if root * root = big then 0 else 1) ((ex - ex % 2) / 2 - 81)).1 ∧
        (sfuValue ⟨rm, false⟩ 2 x).2 = if root * root = big then 0 else flagNX) ∧
    (n = false → near 1 false q.2.1 q.2.2 2 (ulpOf q.2.1 q.2.2)) ∧
    near 3 false (exp2Of n m ex).1 (exp2Of n m ex).2 2 (ulpOf (exp2Of n m ex).1 (exp2Of n m ex).2) ∧
    (n = false → near 4 g.1 g.2.1 g.2.2 (if inside then 1 else 2) (if inside then -22 else ulpOf g.2.1 g.2.2)) ∧
    near 7 n (tanhOf m ex).1 (tanhOf m ex).2 2 (ulpOf (tanhOf m ex).1 (tanhOf m ex).2) ∧
    ∀ fn, fn = 5 ∨ fn = 6 →
      (ex + Nat.log2 m < 15 ∨ (ex + Nat.log2 m = 15 ∧ powerOfTwo m = true) →
        near fn (trigOf (fn == 6) n m ex).1 (trigOf (fn == 6) n m ex).2.1 (trigOf (fn == 6) n m ex).2.2 1 (-21)) ∧
      (15 < ex + Nat.log2 m ∨ (ex + Nat.log2 m = 15 ∧ powerOfTwo m = false) →
        (sfuValue ⟨rm, false⟩ fn x).1 = 0 ∨ withinBound (sfuValue ⟨rm, false⟩ fn x).1 false 0 0 1 0 = true)

/-! ### Cross-lane words -/

/-- Shuffles and VBCAST: an invalid or inactive source leaves the lane's own a (R150, R151). -/
def Obligations.Shuffles : Prop :=
  ∀ (c : BitVec 1) (w : BitVec 2) (d a b : BitVec 6) (q : BitVec 2),
    let from' := fun (v : View) (l : Nat) (j : Nat) =>
      if l / v.team.group * v.team.group + j ∈ v.active then v.v a.toNat (l / v.team.group * v.team.group + j) else v.v a.toNat l
    let x := fun (s : State) (v : View) (l : Nat) => (s.bV v .int q b l).toNat
    VectorResult (.vshfl c w d a b q) d.toNat (fun s v l => from' v l (x s v l % v.team.group)) ∧
    VectorResult (.vshflu c w d a b q) d.toNat (fun s v l =>
      if x s v l ≤ l % v.team.group then from' v l (l % v.team.group - x s v l) else v.v a.toNat l) ∧
    VectorResult (.vshfld c w d a b q) d.toNat (fun s v l =>
      if l % v.team.group + x s v l < v.team.group then from' v l (l % v.team.group + x s v l) else v.v a.toNat l) ∧
    VectorResult (.vshflx c w d a b q) d.toNat (fun s v l => from' v l (l % v.team.group ^^^ (x s v l % v.team.group))) ∧
    VectorResult (.vbcast c w d a b q) d.toNat (fun s v l => from' v l (x s v l % v.team.group))

/-- VBALLOT, VMATCH, VANY, VALL, VMRED, VSCAN and VREDG (R152 to R156): the prefix sums and the totals of type 0 as sums and signed
maxima of the group's active lanes, those of type 1 by the rounding of each sum in lane order, and in the tree of R156. -/
def Obligations.VotesAndReductions : Prop :=
  (∀ (c : BitVec 1) (w : BitVec 2) (d : BitVec 6) (p : BitVec 3),
    MaskResult (.vballot c w d p) d (fun v _ j => v.p p.toNat j)) ∧
  (∀ (c : BitVec 1) (w : BitVec 2) (d a : BitVec 6),
    MaskResult (.vmatch c w d a) d (fun v l j => v.v a.toNat j == v.v a.toNat l)) ∧
  (∀ (c : BitVec 1) (w : BitVec 2) (k : BitVec 2) (p : BitVec 3),
    ConditionResult (.vany c w k p) k.toNat (fun _ v => decide (∃ l ∈ v.active, v.p p.toNat l = true)) ∧
    ConditionResult (.vall c w k p) k.toNat (fun _ v => decide (∀ l ∈ v.active, v.p p.toNat l = true))) ∧
  (∀ (c : BitVec 1) (w : BitVec 2) (d a b : BitVec 6) (q : BitVec 2),
    KeyedResult (.vmredAdd c w d a b q) d a b q (fun x y => x + y) ∧
    KeyedResult (.vmredMin c w d a b q) d a b q (fun x y => if x.toInt ≤ y.toInt then x else y) ∧
    KeyedResult (.vmredMax c w d a b q) d a b q (fun x y => if x.toInt ≤ y.toInt then y else x)) ∧
  (∀ (c : BitVec 1) (w : BitVec 2) (d a : BitVec 6),
    VectorResultWhen (fun v => v.team.lanes % v.team.group = 0) (.vscanAdd c w d a 0) d.toNat (fun _ v l =>
      (((v.active.filter fun k => k / v.team.group == l / v.team.group && decide (k ≤ l)).map (v.v a.toNat)).foldl (· + ·) 0)) ∧
    VectorResultWhen (fun v => v.team.lanes % v.team.group = 0) (.vscanxAdd c w d a 0) d.toNat (fun _ v l =>
      (((v.active.filter fun k => k / v.team.group == l / v.team.group && decide (k < l)).map (v.v a.toNat)).foldl (· + ·) 0))) ∧
  (∀ (c : BitVec 1) (w : BitVec 2) (d a : BitVec 6) (t : BitVec 1),
    GroupResult (.vscanAdd c w d a t) (scanWord false d a t) ∧ GroupResult (.vscanxAdd c w d a t) (scanWord true d a t) ∧
    GroupResult (.vredgAdd c w d a t) (reduceWord false d a t) ∧ GroupResult (.vredgMax c w d a t) (reduceWord true d a t)) ∧
  ∀ (c : BitVec 1) (w : BitVec 2) (d a : BitVec 6),
    let whole := fun (v : View) => v.team.lanes % v.team.group = 0
    let group := fun (v : View) => whole v ∧ ∃ n ≤ 6, v.team.group = 2 ^ n
    let mine := fun (v : View) (l : Nat) => (v.active.filter fun k => k / v.team.group == l / v.team.group).map (v.v a.toNat)
    let tree := fun (comb : Nat → Nat → Nat × Nat) (v : View) (l : Nat) =>
      let r := treeAt (fun x y => fpWord (comb x.toNat y.toNat)) (fun k =>
        let j := l / v.team.group * v.team.group + k
        if j ∈ v.active then some (BitVec.ofNat 32 (ftzIn .fp32 v.path.env (v.v a.toNat j).toNat)) else none)
        (Nat.log2 v.team.group) (l % v.team.group)
      (r.1.getD 0, r.2)
    VectorResultWhen group (.vredgAdd c w d a 0) d.toNat (fun _ v l => (mine v l).foldl (· + ·) 0) ∧
    VectorResultWhen group (.vredgMax c w d a 0) d.toNat (fun _ v l =>
      (mine v l).foldl (fun x y => if x.toInt ≤ y.toInt then y else x) 0x80000000) ∧
    FloatResultWhen whole (.vscanAdd c w d a 1) d.toNat (fun _ v l => runningSum v.path.env (v.prefixOf a.toNat l true)) ∧
    FloatResultWhen whole (.vscanxAdd c w d a 1) d.toNat (fun _ v l =>
      ((runningSum v.path.env (v.prefixOf a.toNat l false)).1, (runningSum v.path.env (v.prefixOf a.toNat l true)).2)) ∧
    FloatResultWhen group (.vredgAdd c w d a 1) d.toNat (fun _ v l => tree (fadd .fp32 v.path.env) v l) ∧
    FloatResultWhen group (.vredgMax c w d a 1) d.toNat (fun _ v l => tree (fminmax .fp32 v.path.env true) v l)

/-! ### Loads and stores -/

/-- LDG posts a load of every active lane's address, counted on LD; LDU posts one, counted on LD for a path and nowhere
for a runner; neither writes anything as it issues (R158, R161, R163, R232). -/
def Obligations.GlobalLoads : Prop :=
  ∀ (c : BitVec 1) (w : BitVec 2) (d a o : BitVec 6) (q : BitVec 2) (f : BitVec 4) (locs : Nat → Loc),
    let size := loadSize f.toNat
    let lanes := fun (v : View) => v.active.map fun l => (l, address (v.vPair a.toNat l) (immOff v.path.ext o) size)
    let one := fun (v : View) => [(0, address (v.sPair a.toNat 0) (immOff v.path.ext o) size)]
    PostResult (.ldg c w d a o q f) (fun s v => Reaches s v Intent.load size (lanes v) locs) (fun _ _ => 0)
      (fun _ v => .load f.toNat d.toNat false (!q.getLsbD 0) (accessesOf (lanes v) locs size)) ∧
    PostResult (.ldu c w d a o q f) (fun s v => Reaches s v Intent.load size (one v) locs) (fun _ v => if v.run then 7 else 0)
      (fun _ v => .load f.toNat d.toNat true (!q.getLsbD 0) (accessesOf (one v) locs size))

/-- STG posts a store of every active lane's bytes, counted on ST, once the ladles cover 16 granules for each block it
touches; the charge leaves the balances for the granules in transit (R164, R174).  Format 13 draws in the active
lanes (R89).  A charge that the ladles do not cover asks the crucibles for the shortfall; once a grant has covered it the store goes
on, and a refusal raises trap 0x05 at the first block not covered (R175). -/
def Obligations.GlobalStores : Prop :=
  ∀ (c : BitVec 1) (w : BitVec 2) (d a o : BitVec 6) (q : BitVec 2) (f : BitVec 4) (locs : Nat → Loc) (s : State) (v : View) (l : Ladle),
    let size := storeSize f.toNat
    let addrs := v.active.map fun l => (l, address (v.vPair a.toNat l) (immOff v.path.ext o) size)
    let accs := accessesOf addrs locs size
    let n0 := chargeOn 0 (charged accs)
    let n1 := chargeOn 1 (charged accs)
    let drawn := fun k => nextRandom (wordAt v.team.gen k)
    s.Issues v (.stg c w d a o q f) → Reaches (s.atIssue v) v Intent.store size addrs locs →
    s.ladle v.core v.team.ctx = some l →
    let stores := fun (t : State) =>
      (t.teamOf v).ops = v.team.ops ++ [v.op s 6 (.store (accs.map fun (e : Access) =>
        (e, storeBytes f.toNat ((List.range (storeRegs f)).map fun i => v.v (d.toNat + i) e.lane) (drawn e.lane)))) (charged accs)] ∧
      (t.teamOf v).gen = (if f.toNat = 13 then v.active.foldl (fun g k => g.set k (drawn k)) v.team.gen else v.team.gen) ∧
      KeepsRegisters v s t ∧ KeepsModes v s t ∧ (v.team.step = none → SameBytes s t)
    (v.path.answer = none → n0 ≤ l.bal0 ∧ n1 ≤ l.bal1 →
      ∃ t, exec (.stg c w d a o q f) s = .next t ∧ stores t ∧
        t.ladle v.core v.team.ctx = some { l with
          bal0 := l.bal0 - n0, bal1 := l.bal1 - n1, transit0 := l.transit0 + n0, transit1 := l.transit1 + n1 }) ∧
    (v.path.answer = some (true, n0, n1) →
      ∃ t, exec (.stg c w d a o q f) s = .next t ∧ stores t ∧ t.ladle v.core v.team.ctx = some l) ∧
    (v.path.answer = none → ¬ (n0 ≤ l.bal0 ∧ n1 ≤ l.bal1) →
      exec (.stg c w d a o q f) s = .next (((s.atIssue v).modPath v fun p =>
        { p with refill := some (n0 - l.bal0, n1 - l.bal1), needs := (n0, n1) }).held v 18)) ∧
    ∀ b0 b1 b k va, v.path.answer = some (false, b0, b1) → firstUncovered (fun j => if j = 0 then b0 else b1) (charged accs) 0 0 = some b →
      (accs.find? fun x => x.loc.block.1 == b) = some k → (addrs.find? fun x => x.1 == k.lane) = some (k.lane, va) →
      let short := chargeOn (payDie b) (charged accs) - (if payDie b = 0 then b0 else b1)
      exec (.stg c w d a o q f) s = .next (((((s.atIssue v).traceCapacity v.team.ctx (payDie b) short true).trapView v 0x05
        (BitVec.ofNat 64 (va / 512 * 512)) (BitVec.ofNat 32 (min short 0x7FFFFFFF)) 0).used).occupy v (.stg c w d a o q f))

/-- An access whose address is no multiple of its footprint raises trap 0x07 at the lowest such lane; aligned ones of
which a lane's page is not mapped or not permitted raise trap 0x04 at the lowest such lane (R160), and then one that reaches a page
marked short raises trap 0x05 and does not park (R383), also where another lane's page is away (log 82).  What a page lookup comes to (R353, R160). -/
def Obligations.AccessTraps : Prop :=
  (∀ (c : BitVec 1) (w : BitVec 2) (d a o : BitVec 6) (q : BitVec 2) (f : BitVec 4) (s : State) (v : View) (e : Nat × Nat),
    let ld := v.active.map fun l => (l, address (v.vPair a.toNat l) (immOff v.path.ext o) (loadSize f.toNat))
    let st := v.active.map fun l => (l, address (v.vPair a.toNat l) (immOff v.path.ext o) (storeSize f.toNat))
    let trapped := fun (cause : BitVec 8) (fault : DWord) (aux : Word) => (Host.Outcome.next (((s.atIssue v).trapView v cause fault aux 0).used) : Result)
    (s.Issues v (.ldg c w d a o q f) → ld.find? (fun e => e.2 % loadSize f.toNat != 0) = some e →
      exec (.ldg c w d a o q f) s = trapped 0x07 (BitVec.ofNat 64 e.2) 0) ∧
    (s.Issues v (.stg c w d a o q f) → st.find? (fun e => e.2 % storeSize f.toNat != 0) = some e →
      exec (.stg c w d a o q f) s = trapped 0x07 (BitVec.ofNat 64 e.2) 0) ∧
    ∀ aux : Word,
      (s.Issues v (.ldg c w d a o q f) → (∀ e ∈ ld, e.2 % loadSize f.toNat = 0) →
        ld.find? (fun e => match (s.atIssue v).check v.team.ctx Intent.load e.2 with | .fault _ => true | _ => false) = some e →
        (s.atIssue v).check v.team.ctx Intent.load e.2 = .fault aux →
        exec (.ldg c w d a o q f) s = trapped 0x04 (failVa aux e.2) aux) ∧
      (s.Issues v (.stg c w d a o q f) → (∀ e ∈ st, e.2 % storeSize f.toNat = 0) →
        st.find? (fun e => match (s.atIssue v).check v.team.ctx Intent.store e.2 with | .fault _ => true | _ => false) = some e →
        (s.atIssue v).check v.team.ctx Intent.store e.2 = .fault aux →
        exec (.stg c w d a o q f) s = trapped 0x04 (failVa aux e.2) aux) ∧
      (s.Issues v (.ldg c w d a o q f) → (∀ e ∈ ld, e.2 % loadSize f.toNat = 0) →
        (∀ e ∈ ld, ∀ aux, (s.atIssue v).check v.team.ctx Intent.load e.2 ≠ .fault aux) →
        ld.find? (fun e => match (s.atIssue v).check v.team.ctx Intent.load e.2 with | .short _ => true | _ => false) = some e →
        exec (.ldg c w d a o q f) s = trapped 0x05 (BitVec.ofNat 64 (e.2 / 65536 * 65536)) 0x80000000)) ∧
  ∀ (s : State) (x va : Nat) (i : Intent),
    (2 ^ 48 ≤ va → s.check x i va = .fault (BitVec.ofNat 32 i.kind ||| 4)) ∧
    (va < 2 ^ 48 → s.lookup x va = none → s.check x i va = .fault (BitVec.ofNat 32 i.kind)) ∧
    ∀ e size, va < 2 ^ 48 → s.lookup x va = some (e, size) →
      (i.write = true → bit e 2 = false → s.check x i va = .fault (BitVec.ofNat 32 i.kind ||| 8)) ∧
      (i.code = true → bit e 3 = false → s.check x i va = .fault (BitVec.ofNat 32 i.kind ||| 8))

/-- LDS posts a load of its region, counted on SP; STS writes its bytes as it issues; LDS.R and STS.R act on the oldest
cohort of the launch at the place offset, or raise trap 0x09 where there is none (R11, R158, R166, R167).  That the local address wraps
modulo 2^32 before its check is the model's choice (log 11). -/
def Obligations.ScratchpadWords : Prop :=
  (∀ (c : BitVec 1) (w : BitVec 2) (d a o : BitVec 6) (fh : BitVec 1) (fl : BitVec 2),
    let fmt := if fh = 0 then fl.toNat else 4 + fl.toNat
    let addrs := fun (v : View) (size : Nat) => v.active.map fun l => (l, (v.v a.toNat l + immOff v.path.ext o * BitVec.ofNat 32 size).toNat)
    PostResult (.lds c w d a o fh fl)
      (fun s v => InRegion v (loadSize fmt) (addrs v (loadSize fmt)) ∧ (s.cohort v.core v.team.cohort).isSome = true) (fun _ _ => 1)
      (fun _ v => .scratch fmt d.toNat v.core v.team.cohort (addrs v (loadSize fmt)) (loadSize fmt)) ∧
    Completes (.sts c w d a o fh fl)
      (fun s v => InRegion v (storeSize fmt) (addrs v (storeSize fmt)) ∧ (s.cohort v.core v.team.cohort).isSome = true)
      (fun s v => (addrs v (storeSize fmt)).foldl (fun s e =>
        s.scratchWrite v.core v.team.cohort e.2 (storeBytes fmt ((List.range (storeRegs (BitVec.ofNat 4 fmt))).map fun i => v.v (d.toNat + i) e.1) 0))
        (s.performScratch v.core v.team.uid))) ∧
  (∀ (s : State) (c id a : Nat) (bs : List Byte) (h : Cohort), s.cohort c id = some h →
    ∃ g, (s.scratchWrite c id a bs).cohort c id = some g ∧
      (∀ x, g.byte x = if a ≤ x ∧ x < a + bs.length then bs.getD (x - a) 0 else h.byte x) ∧ SameBytes s (s.scratchWrite c id a bs)) ∧
  (∀ (c : BitVec 1) (w : BitVec 2) (d a : BitVec 6) (x : BitVec 5) (y : BitVec 4) (g : BitVec 2) (tc : Nat) (h : Cohort),
    let fmt := 4 + g.toNat
    let addrs := fun (v : View) => v.active.map fun l => (l, (v.v a.toNat l).toNat)
    let at' := fun (s : State) (v : View) =>
      placeAt v.core x.toInt y.toInt = some tc ∧ s.oldestCohort tc v.team.ctx v.team.launch = some h
    PostResult (.ldsR c w d a x y g) (fun s v => at' s v ∧ InRegion v (loadSize fmt) (addrs v)) (fun _ _ => 1)
      (fun _ v => .scratch fmt d.toNat tc h.id (addrs v) (loadSize fmt)) ∧
    PostResult (.stsR c w d a x y g) (fun s v => at' s v ∧ InRegion v (storeSize fmt) (addrs v)) (fun _ _ => 7)
      (fun _ v => .remote tc h.id ((addrs v).map fun e =>
        (e.2, storeBytes fmt ((List.range (storeRegs (BitVec.ofNat 4 fmt))).map fun i => v.v (d.toNat + i) e.1) 0)))) ∧
  ∀ (c : BitVec 1) (w : BitVec 2) (d a : BitVec 6) (x : BitVec 5) (y : BitVec 4) (g : BitVec 2),
    let gone := fun (s : State) (v : View) => match placeAt v.core x.toInt y.toInt with
      | none => True
      | some tc => s.oldestCohort tc v.team.ctx v.team.launch = none
    let lane := fun (_ : State) (v : View) => BitVec.ofNat 64 (((v.active.map fun l => (v.v a.toNat l).toNat).head?).getD 0)
    Traps (.ldsR c w d a x y g) gone 0x09 lane (fun _ _ => BitVec.ofNat 32 (x.toNat + y.toNat * 32)) ∧
    Traps (.stsR c w d a x y g) gone 0x09 lane (fun _ _ => BitVec.ofNat 32 (x.toNat + y.toNat * 32))

/-- The fifteen atomics post their lanes (R169 to R171), and what each stores (R169): FADD.F32 the sum rounded to nearest, FADD.BF16X2
that of each half, with the first NaN quieted and the default NaN for opposite infinities, whatever FPMODE says. -/
def Obligations.AtomicWords : Prop :=
  (∀ (c : BitVec 1) (w : BitVec 2) (d a : BitVec 6) (o : BitVec 2) (e : BitVec 3) (p r : BitVec 1),
    AtomResult (.atomAdd c w d a o e p r) 0 d a o e p r ∧ AtomResult (.atomMin c w d a o e p r) 1 d a o e p r ∧
    AtomResult (.atomMax c w d a o e p r) 2 d a o e p r ∧ AtomResult (.atomMinu c w d a o e p r) 3 d a o e p r ∧
    AtomResult (.atomMaxu c w d a o e p r) 4 d a o e p r ∧ AtomResult (.atomAnd c w d a o e p r) 5 d a o e p r ∧
    AtomResult (.atomOr c w d a o e p r) 6 d a o e p r ∧ AtomResult (.atomXor c w d a o e p r) 7 d a o e p r ∧
    AtomResult (.atomExch c w d a o e p r) 8 d a o e p r ∧ AtomResult (.atomCas c w d a o e p r) 9 d a o e p r ∧
    AtomResult (.atomFaddF32 c w d a o e p r) 10 d a o e p r ∧ AtomResult (.atomFaddBf16x2 c w d a o e p r) 11 d a o e p r ∧
    AtomResult (.atomLd c w d a o e p r) 12 d a o e p r ∧ AtomResult (.atomSt c w d a o e p r) 13 d a o e p r ∧
    AtomResult (.atomAddW c w d a o e p r) 14 d a o e p r) ∧
  ∀ m b : DWord,
    let x : Word := m.setWidth 32
    let y : Word := b.setWidth 32
    atomValue 0 m b = some ((x + y).setWidth 64) ∧
    atomValue 1 m b = some ((if x.toInt ≤ y.toInt then x else y).setWidth 64) ∧
    atomValue 2 m b = some ((if y.toInt ≤ x.toInt then x else y).setWidth 64) ∧
    atomValue 3 m b = some ((if x.toNat ≤ y.toNat then x else y).setWidth 64) ∧
    atomValue 4 m b = some ((if y.toNat ≤ x.toNat then x else y).setWidth 64) ∧
    atomValue 5 m b = some ((x &&& y).setWidth 64) ∧ atomValue 6 m b = some ((x ||| y).setWidth 64) ∧
    atomValue 7 m b = some ((x ^^^ y).setWidth 64) ∧ atomValue 8 m b = some (y.setWidth 64) ∧
    atomValue 9 m b = (if x = y then some (b >>> 32) else none) ∧ atomValue 12 m b = none ∧
    atomValue 13 m b = some (y.setWidth 64) ∧ atomValue 14 m b = some (m + b) ∧
    (let f := fun (p q : Nat) => (fadd .fp32 ⟨.rn, false⟩ p q).1
     let h := fun (p q : Nat) => (fadd .bf16 ⟨.rn, false⟩ p q).1
     atomValue 10 m b = some ((BitVec.ofNat 32 (f x.toNat y.toNat)).setWidth 64) ∧
     atomValue 11 m b = some ((BitVec.ofNat 32 (h (x.toNat % 65536) (y.toNat % 65536) + 65536 * h (x.toNat / 65536) (y.toNat / 65536))).setWidth 64) ∧
     (Fmt.fp32.isNan x.toNat = true → f x.toNat y.toNat = Fmt.fp32.quiet x.toNat) ∧
     (Fmt.fp32.isNan x.toNat = false → Fmt.fp32.isNan y.toNat = true → f x.toNat y.toNat = Fmt.fp32.quiet y.toNat) ∧
     f 0x7F800000 0xFF800000 = 0x7FC00000 ∧ f 0xFF800000 0x7F800000 = 0x7FC00000 ∧ h 0x7F80 0xFF80 = 0x7FC0 ∧
     f 1 1 = 2 ∧ f 0x3F800000 0x33800000 = 0x3F800000 ∧ f 0x3F800001 0x33800000 = 0x3F800002 ∧ h 0x3F80 0x3B80 = 0x3F80 ∧ h 0x3F81 0x3B80 = 0x3F82)

/-! ### Capacity, ranges and translation words -/

/-- CWB and CINV post the lines of a range on ST, PF only prefetches, the queries post on LD, PGSURR posts its pages on
ST, BLNACK closes the request whose identifier it names (R178 to R189).
TRANS and TRANS.S post the addresses that the block table gives, and the place of a block's entry (R182, R183).  That the capacity
record of an acknowledged request has the source of the acknowledging core's die is the model's reading (log 49). -/
def Obligations.MemxWords : Prop :=
  ((∀ (c : BitVec 1) (w : BitVec 2) (a n : BitVec 6) (locs : Nat → Loc),
    let pages := fun (v : View) => pagesOf (v.sPair a.toNat 0).toNat (v.s n.toNat 0).toNat
    let H := fun (s : State) (v : View) => pages v ≠ [] ∧ ∀ p ∈ pages v, s.check v.team.ctx Intent.other p.2.1 = .found (locs p.1)
    let runs := fun (v : View) => (pages v).filterMap fun p => match locs p.1 with
      | .dev da _ _ _ => some (da / 128, (da + p.2.2 - 1) / 128 + 1 - da / 128)
      | .host _ => none
    PostResult (.cwb c w a n) H (fun _ _ => 6) (fun _ v => .cwb (runs v) false) ∧
    PostResult (.cinv c w a n) H (fun _ _ => 6) (fun _ v => .cwb (runs v) true) ∧
    Completes (.cwb c w a n) (fun _ v => v.s n.toNat 0 = 0) (fun s _ => s) ∧
    Completes (.cinv c w a n) (fun _ v => v.s n.toNat 0 = 0) (fun s _ => s) ∧
    ∀ (l : BitVec 1) (s : State) (v : View), s.Issues v (.pf c w a n l) →
      ∃ t, exec (.pf c w a n l) s = .next t ∧ KeepsRegisters v s t ∧ KeepsModes v s t ∧
        ((s.ctx v.team.ctx).trCtl.getLsbD 0 = false → v.team.step = none → SameBytes s t)) ∧
  (∀ (c : BitVec 1) (w : BitVec 2) (d a : BitVec 6) (i : BitVec 2),
    PostResult (.rsvq c w d i) always (fun _ _ => 0) (fun _ v => .rsvq d.toNat (if i = 0 then dieOf v.core else i.toNat - 1)) ∧
    PostResult (.blnq c w d) always (fun _ _ => 0) (fun _ _ => .blnq d.toNat) ∧
    PostResult (.blkq c w d a) (fun s v => ∀ aux, s.check v.team.ctx Intent.load (v.sPair a.toNat 0).toNat ≠ .fault aux) (fun _ _ => 0)
      (fun s v => .blkq d.toNat (s.daOf v.team.ctx (v.sPair a.toNat 0).toNat)) ∧
    Completes (.blnack c w a)
      (fun s v => (s.ctx v.team.ctx).blnOpen = true ∧ (s.ctx v.team.ctx).blnId = v.s a.toNat 0)
      (fun s v => ((s.setCtx v.team.ctx { s.ctx v.team.ctx with blnOpen := false, blnAck := true }).traceBalloon v.team.ctx
        (dieOf v.core) 2).contextEvent v.team.ctx) ∧
    Completes (.blnack c w a)
      (fun s v => ¬ ((s.ctx v.team.ctx).blnOpen = true ∧ (s.ctx v.team.ctx).blnId = v.s a.toNat 0)) (fun s _ => s)) ∧
  ∀ (c : BitVec 1) (w : BitVec 2) (d a n : BitVec 6) (pages : List Nat),
    Completes (.pgsurr c w d a n) (fun _ v => v.s n.toNat 0 = 0) (fun s _ => s) ∧
    PostResult (.pgsurr c w d a n)
      (fun s v => let va := (v.sPair a.toNat 0).toNat
        let k := (v.s n.toNat 0).toNat
        k ≠ 0 ∧ va % 65536 = 0 ∧ pages.length = k ∧
          ∀ i, i < k → s.surrenderCheck v.team.ctx va (va + 65536 * k) (va + 65536 * i) = .ok (pages.getD i 0))
      (fun _ _ => 6) (fun _ _ => .surrender d.toNat pages 0) ∧
    Traps (.pgsurr c w d a n) (fun _ v => v.s n.toNat 0 ≠ 0 ∧ (v.sPair a.toNat 0).toNat % 65536 ≠ 0) 0x07
      (fun _ v => v.sPair a.toNat 0) (fun _ _ => 0)) ∧
  ((∀ (c : BitVec 1) (w : BitVec 2) (d t : BitVec 6) (p : BitVec 3) (s s1 : State) (v : View) (res : List (Nat × Nat × Option Nat)),
    (s.Issues v (.trans c w d t p) →
      (s.atIssue v).translate v t.toNat false (v.active.map fun l => (l, v.v d.toNat l, v.v (d.toNat + 1) l)) = .ok (res, s1) →
      exec (.trans c w d t p) s = .next (((res.foldl (fun s e => match e.2.2 with
        | some pg => s.beginMigration v.team.ctx pg
        | none => s) s1).addOp v 4 (.trans d.toNat p.toNat false (res.map fun e =>
          (e.1, if e.2.2.isSome then none else some e.2.1))) []).finish v (.trans c w d t p))) ∧
    (s.Issues v (.transS c w d t) →
      (s.atIssue v).translate v t.toNat true [(0, v.s d.toNat 0, v.s (d.toNat + 1) 0)] = .ok (res, s1) →
      exec (.transS c w d t) s = .next ((s1.addOp v (if v.run then 7 else 4)
        (.trans d.toNat 0 true (res.map fun e => (e.1, some e.2.1))) []).finish v (.transS c w d t)))) ∧
  (∀ (s : State) (v : View) (t : Nat) (single : Bool) (lanes : List (Nat × Word × Word)) (accs : List Access), t + 3 < 64 →
    let w2 := v.s (t + 2) 0
    let place := fun (e : Nat × Word × Word) => blockEntry (v.sPair t 0) w2 (v.s (t + 3) 0) e.2.1 e.2.2
    let s1 := accs.foldl (fun s a => s.demand a.loc)
      ((s.performEarlier v.core (s.core v.core).nextOp (accs.map fun a => (a.loc.lineKey, 1))).clearWay v.core (accs.map (·.loc)))
    let s2 := (firstOfPass accs).foldl (fun s a => s.noteRead (dieOf v.core) a.loc) s1
    let entry := fun (a : Access) => leNat (s1.readLoc (dieOf v.core) a.loc 8)
    let ea := fun (x : (Nat × Word × Word) × Access) => (entry x.2 + (place x.1).2.2) % 2 ^ 64
    w2.toNat % 65536 ≠ 0 → w2.toNat / 65536 ≤ 20 → (∀ e ∈ lanes, (place e).2.1 = false) →
    s.lookAll v Intent.trans 8 (lanes.map fun e => (e.1, (place e).1)) = .ok accs →
    (∀ x ∈ lanes.zip accs, 0 < entry x.2 ∧ entry x.2 < 2 ^ 48 ∧ (∀ aux, s2.check v.team.ctx Intent.trans (ea x) ≠ .fault aux) ∧
      (∀ n, s2.check v.team.ctx Intent.trans (ea x) ≠ .short n) ∧
      (single = true → ∀ pg, s2.check v.team.ctx Intent.trans (ea x) ≠ .away pg)) →
    s.translate v t single lanes = .ok ((lanes.zip accs).map fun x => (x.1.1, ea x, match s2.check v.team.ctx Intent.trans (ea x) with
      | .away pg => some pg
      | _ => none), s2.cacheLooks s (dieOf v.core) v.team.ctx (lanes.map fun e => (e.1, (place e).1)) ((lanes.zip accs).map fun x => (x.1.1, ea x)))) ∧
  ∀ (base : DWord) (w2 w3 seq pos : Word),
    let tpb := w2.toNat % 65536
    let str := w3.toNat % 65536
    blockEntry base w2 w3 seq pos =
      ((base.toNat + 8 * (seq.toNat * str + pos.toNat / tpb)) % 2 ^ 64,
        (decide (w3.toNat / 65536 ≤ seq.toNat) || decide (str ≤ pos.toNat / tpb)),
        pos.toNat % tpb * 2 ^ (w2.toNat / 65536 % 32)))

/-! ### Control -/

/-- NOP, branches, calls and returns: targets in packets from the branch's own packet, the link the next packet's number,
the target of CALLI read before the link is written (R60, R62, R98, R100).
WAITCYC sets the earliest cycle of the next word, PRIO the team's priority within the launch's, YIELD yields while a
preemption is requested, TRTAG writes a tag record (R104 to R106, R108). -/
def Obligations.ControlWords : Prop :=
  (∀ (c : BitVec 1) (w : BitVec 2),
    let goal := fun (v : View) (off : Word) => (BitVec.ofNat 32 v.path.pc + off).toNat
    Completes (.nop c w) always (fun s _ => s) ∧
    (∀ o : BitVec 19, Transfers (.bra c w o) always (fun s _ => s) (fun _ v => goal v (immInt v.path.ext o))) ∧
    (∀ (z : BitVec 1) (k : BitVec 2) (o : BitVec 16),
      Transfers (.brc c w z k o) (fun _ v => v.c k.toNat = decide (z = 0)) (fun s _ => s) (fun _ v => goal v (immInt v.path.ext o)) ∧
      Completes (.brc c w z k o) (fun _ v => v.c k.toNat ≠ decide (z = 0)) (fun s _ => s)) ∧
    (∀ (l : BitVec 6) (o : BitVec 13), Transfers (.call c w l o) always
      (fun s v => s.setS v l.toNat (BitVec.ofNat 32 (v.path.pc + 1)) 1) (fun _ v => goal v (immInt v.path.ext o))) ∧
    (∀ l t : BitVec 6, Transfers (.calli c w l t) always
      (fun s v => s.setS v l.toNat (BitVec.ofNat 32 (v.path.pc + 1)) 1) (fun _ v => (v.s t.toNat 0).toNat)) ∧
    ∀ t : BitVec 6, Transfers (.ret c w t) always (fun s _ => s) (fun _ v => (v.s t.toNat 0).toNat)) ∧
  (∀ (c : BitVec 1) (w : BitVec 2),
    (∀ n : BitVec 16, Completes (.waitcyc c w n) always
      (fun s v => s.modPath v fun p => { p with nextAt := v.time + 1 + n.toNat + w.toNat })) ∧
    (∀ p : BitVec 3, Completes (.prio c w p) always (fun s v => s.modTeam v fun t =>
      { t with prio := min p.toNat (((s.launch t.ctx t.launch).map (·.rcd.prio)).getD 0) })) ∧
    Completes (.yield c w) (fun s v => (s.ctx v.team.ctx).req = false ∨ v.team.two = true) (fun s _ => s) ∧
    Completes (.yield c w) (fun s v => (s.ctx v.team.ctx).req = true ∧ v.team.two = false)
      (fun s v => s.modTeam v fun t => { t with yielding := true }) ∧
    ∀ (a : BitVec 6) (g : BitVec 12), Completes (.trtag c w a g) always (fun s v =>
      s.traceWord v.core v.slot v.side 11 (g.toNat + (v.s a.toNat 0).toNat * 2 ^ 32 + v.team.launch * 2 ^ 96)))

/-- A completed word leaves every register and every byte as its effect left them and places the path at its next word;
a transfer places it at word 0 of the target (R61, R62).
EXIT ends the path (R29, R101); a runner's stops it (R77, R233); in a handler it kills the team with the held cause and PC
(R346); the last path's leaves its registers for the spine (R40). -/
def Obligations.PathsGoOnAndEnd : Prop :=
  (∀ (s : State) (v : View) (i : Instr) (pc : Nat), (s.team v.core v.slot).isSome = true →
    (v.run = false → ((s.teamOf v).at v.side).isSome = true) →
    (let t := s.finish v i
     KeepsRegisters v s t ∧ KeepsModes v s t ∧ ((s.teamOf v).step = none → SameBytes s t) ∧
       (t.pathOf v).pc = (if (s.pathOf v).word = 2 then (s.pathOf v).pc + 1 else (s.pathOf v).pc) ∧
       (t.pathOf v).word = (if (s.pathOf v).word = 2 then 0 else (s.pathOf v).word + 1)) ∧
    (let t := s.transfer v i pc
     KeepsRegisters v s t ∧ KeepsModes v s t ∧ ((s.teamOf v).step = none → SameBytes s t) ∧
       (t.pathOf v).pc = pc ∧ (t.pathOf v).word = 0 ∧ (t.pathOf v).ext = none)) ∧
  (∀ (c : BitVec 1) (w : BitVec 2),
    Ends (.exit c w) (fun _ v => v.run = false ∧ v.team.handler = none)
      (fun s v => (s.modTeam v fun t => { (t.exitPath v.side) with lastPath := v.side }).endStep v) ∧
    Ends (.exit c w) (fun _ v => v.run = true)
      (fun s v => s.modTeam v fun t => { t with runner := { t.runner with running := false, exited := true } }) ∧
    (∀ h, Ends (.exit c w) (fun _ v => v.run = false ∧ v.team.handler = some h)
      (fun s v => s.kill v.core v.slot ((wordAt h.h 0).setWidth 8) (wordAt h.h 1).toNat false false)) ∧
    ∀ (t : Team) (side : Bool) (p : Path), t.at side = some p → t.at (!side) = none → t.recs = [] →
      (t.exitPath side).pathA = none ∧ (t.exitPath side).pathB = none ∧ (t.exitPath side).lastS = p.s ∧ (t.exitPath side).v = t.v)

/-- SPLIT: with all or none of the active lanes true the path goes on alone under a one-sided record; otherwise path A
takes the true lanes and the next packet, path B the others and the target, each with its own copy of the registers,
and a sibling is suspended (R23, R24, R27, R99); a sixteenth record raises trap 0x01.  That the true lanes go on in slot A and the
others in slot B, whichever slot split, is the model's choice (log 68). -/
def Obligations.SplitPaths : Prop :=
  ∀ (c : BitVec 1) (w : BitVec 2) (p : BitVec 3) (o : BitVec 16),
    let els := fun (v : View) => (BitVec.ofNat 32 v.path.pc + immInt v.path.ext o).toNat
    let one := fun (s : State) (v : View) => s.modTeam v fun t => { t with recs := ⟨false, v.side, none, false, false, 0, [], [], [], false⟩ :: t.recs }
    Traps (.split c w p o) (fun _ v => 15 ≤ v.team.recs.length) 0x01 (fun _ _ => 0) (fun _ _ => 0) ∧
    Transfers (.split c w p o) (fun _ v => v.team.recs.length < 15 ∧ ∀ l ∈ v.active, v.p p.toNat l = true) one (fun _ v => v.path.pc + 1) ∧
    Transfers (.split c w p o) (fun _ v => v.team.recs.length < 15 ∧ v.active ≠ [] ∧ ∀ l ∈ v.active, v.p p.toNat l = false) one (fun _ v => els v) ∧
    ∀ s v, s.Issues v (.split c w p o) → v.team.recs.length < 15 → (∃ l ∈ v.active, v.p p.toNat l = true) →
      (∃ l ∈ v.active, v.p p.toNat l = false) → v.team.lanes ≤ 32 * v.path.mask.length →
      ∃ t a b r, exec (.split c w p o) s = .next t ∧ (t.teamOf v).pathA = some a ∧ (t.teamOf v).pathB = some b ∧
        (t.teamOf v).recs = r :: v.team.recs ∧ r.two = true ∧ r.slot = v.side ∧ r.suspended = v.team.at (!v.side) ∧
        a.pc = v.path.pc + 1 ∧ a.word = 0 ∧ b.pc = els v ∧ b.word = 0 ∧
        (∀ l, l < v.team.lanes → laneOn a.mask l = (laneOn v.path.mask l && v.p p.toNat l) ∧
          laneOn b.mask l = (laneOn v.path.mask l && !v.p p.toNat l)) ∧
        a.s = v.path.s ∧ b.s = v.path.s ∧ a.cond = v.path.cond ∧ b.cond = v.path.cond ∧
        a.fpmode = v.path.fpmode ∧ b.fpmode = v.path.fpmode ∧ a.fpflags = v.path.fpflags ∧ b.fpflags = v.path.fpflags ∧
        KeepsVectors v s t [] ∧ KeepsPredicates v s t []

/-- JOIN: outside a record, or under a one-sided one, the path goes on; the first half of a two-sided record waits, and the
second gives way to the merged path in the slot the splitting path held, with its sibling resumed (R25, R99).
The merge of a JOIN: the union of the masks; path A's copy but for registers that only path B wrote; FPFLAGS joined by
OR; the packet after the JOIN (R25, R27).  Which slot the halves stand in is the model's choice (log 68). -/
def Obligations.JoinPaths : Prop :=
  (∀ (c : BitVec 1) (w : BitVec 2),
    Transfers (.join c w) (fun _ v => v.team.recs = []) (fun s _ => s) (fun _ v => v.path.pc + 1) ∧
    Transfers (.join c w) (fun _ v => ∃ r rest, v.team.recs = r :: rest ∧ r.two = false ∧ r.slot = v.side)
      (fun s v => s.modTeam v fun t => { t with recs := t.recs.tail }) (fun _ v => v.path.pc + 1) ∧
    ∀ s v r rest, s.Issues v (.join c w) → v.team.recs = r :: rest → r.two = true → r.exitedA = false → r.exitedB = false →
      ∀ q, v.team.at (!v.side) = some q → v.team.at v.side = some v.path → v.run = false →
        (q.joined = false → ∃ t p, exec (.join c w) s = .next t ∧ (t.teamOf v).recs = r :: rest ∧
          (t.teamOf v).at v.side = some p ∧ p.joined = true ∧ p.s = v.path.s ∧ p.pc = v.path.pc ∧ p.mask = v.path.mask ∧
          (t.teamOf v).at (!v.side) = some q) ∧
        (q.joined = true → ∃ t p a b, exec (.join c w) s = .next t ∧ (t.teamOf v).recs = rest ∧
          (t.teamOf v).at r.slot = some p ∧ (t.teamOf v).at (!r.slot) = r.suspended ∧
          mergePaths r (some a) (some b) = some p ∧ (if v.side then a = q else b = q) ∧
          (let me := if v.side then b else a
           me.s = v.path.s ∧ me.mask = v.path.mask ∧ me.pc = v.path.pc ∧ me.fpflags = v.path.fpflags ∧
             me.wroteS = v.path.wroteS ∧ me.cond = v.path.cond))) ∧
  (∀ (r : Recon) (a b : Path), a.mask.length = b.mask.length →
    ∃ p, mergePaths r (some a) (some b) = some p ∧ p.pc = a.pc + 1 ∧ p.word = 0 ∧ p.joined = false ∧
      (∀ l, laneOn p.mask l = (laneOn a.mask l || laneOn b.mask l)) ∧
      (∀ n, n < 64 → wordAt p.s n = if n ∈ b.wroteS ∧ n ∉ a.wroteS then wordAt b.s n else wordAt a.s n) ∧
      (∀ n, n < 4 → p.cond.getD n false = if n ∈ b.wroteC ∧ n ∉ a.wroteC then b.cond.getD n false else a.cond.getD n false) ∧
      p.fpmode = (if b.wroteMode = true ∧ a.wroteMode = false then b.fpmode else a.fpmode) ∧
      p.fpflags = (a.fpflags ||| b.fpflags ||| r.exitFlags) ∧
      (∀ n, n ∈ p.wroteS ↔ n ∈ r.outerS ∨ n ∈ a.wroteS ∨ n ∈ b.wroteS))

/-! ### Special registers, exceptions -/

/-- SRD gives each special register's value (R48, R107): the identities, the modes, the launch's depth, ARGS and items, MSTATUS, and
TICK, whose low half also latches the tick that its high half then gives; SWR writes FPMODE and FPFLAGS but for their reserved bits, and
of any other special register raises trap 0x12, and of a number that names none trap 0x01 (R4, R49 to R51, R107). -/
def Obligations.SpecialRegisters : Prop :=
  (∀ (c : BitVec 1) (w : BitVec 2) (d : BitVec 6) (n : BitVec 8), n ≠ 0 →
    ScalarResult (.srd c w d n) d.toNat (fun s v => s.special v n.toNat)) ∧
  (∀ (c : BitVec 1) (w : BitVec 2) (d : BitVec 6) (s : State) (v : View), s.Issues v (.srd c w d 0) → v.run = false → d.toNat < v.path.s.length →
    ∃ t, exec (.srd c w d 0) s = .next t ∧ (d.toNat ≠ 63 → t.sAt v d.toNat = (s.atIssue v).tick.setWidth 32) ∧
      (t.pathOf v).tick = some (s.atIssue v).tick ∧ KeepsScalars v s t [d.toNat] ∧ KeepsVectors v s t [] ∧
      KeepsConditions v s t [] ∧ KeepsPredicates v s t [] ∧ (v.team.step = none → SameBytes s t)) ∧
  (∀ (s : State) (v : View),
    s.special v 1 = ((v.path.tick.getD s.tick) >>> 32).setWidth 32 ∧ s.special v 2 = v.team.item.setWidth 32 ∧
    s.special v 3 = (v.team.item >>> 32).setWidth 32 ∧ s.special v 4 = BitVec.ofNat 32 v.team.lanes ∧
    s.special v 5 = BitVec.ofNat 32 v.team.group ∧ s.special v 6 = BitVec.ofNat 32 v.team.cohortSize ∧
    s.special v 7 = BitVec.ofNat 32 v.team.teamIdx ∧ s.special v 8 = BitVec.ofNat 32 (v.core % 96 % 12) ∧
    s.special v 9 = BitVec.ofNat 32 (v.core % 96 / 12) ∧ s.special v 12 = BitVec.ofNat 32 (v.core / 1152) ∧
    s.special v 14 = BitVec.ofNat 32 v.team.launch ∧ s.special v 18 = (if (s.ctx v.team.ctx).req then 1 else 0) ∧
    s.special v 19 = v.path.fpmode ∧ s.special v 20 = v.path.fpflags ∧ s.special v 22 = v.team.batch ∧
    s.special v 23 = BitVec.ofNat 32 v.team.ctx ∧
    s.special v 10 = BitVec.ofNat 32 (v.core / 96 % 12 % 4) ∧ s.special v 11 = BitVec.ofNat 32 (v.core / 96 % 12 / 4) ∧
    s.special v 13 = BitVec.ofNat 32 (if s.pf.stDev.toNat / 256 % 128 = 0 then 0 else s.pf.stDev.toNat % 64) ∧
    s.special v 21 = BitVec.ofNat 32 (((s.core v.core).mtx.window.filter fun m => m.team == v.team.uid).length * 256 +
      (if (s.core v.core).mtx.window = [] then 0 else 4) + (if v.team.logovf then 2 else 0) + if v.team.operr then 1 else 0) ∧
    ∀ l, s.launch v.team.ctx v.team.launch = some l →
      let items := if l.spawned.isSome then v.team.item.toNat + 1 else l.rcd.nitems
      s.special v 15 = BitVec.ofNat 32 l.depth ∧ s.special v 16 = BitVec.ofNat 32 l.rcd.args ∧
        s.special v 17 = BitVec.ofNat 32 (l.rcd.args / 2 ^ 32) ∧
        s.special v 24 = BitVec.ofNat 32 items ∧ s.special v 25 = BitVec.ofNat 32 (items / 2 ^ 32)) ∧
  (∀ (c : BitVec 1) (w : BitVec 2) (a : BitVec 6) (n : BitVec 8) (s : State) (v : View), s.Views v (.swr c w a n) → s.frozen v = none →
    (26 ≤ n.toNat → exec (.swr c w a n) s = .next (((s.reach v).trapView v 0x01 0 0 0).used)) ∧
    (n ≠ 19 → n ≠ 20 → s.malformed v (.swr c w a n) = false →
      exec (.swr c w a n) s = .next (((s.reach v).trapView v 0x12 0 0 0).used))) ∧
  ∀ (c : BitVec 1) (w : BitVec 2) (a : BitVec 6) (s : State) (v : View), v.run = false →
    (s.Issues v (.swr c w a 19) → ∃ t, exec (.swr c w a 19) s = .next t ∧ (t.pathOf v).fpmode = v.s a.toNat 0 &&& 0x1F7 ∧
      (t.pathOf v).fpflags = v.path.fpflags ∧ KeepsRegisters v s t ∧ (v.team.step = none → SameBytes s t)) ∧
    (s.Issues v (.swr c w a 20) → ∃ t, exec (.swr c w a 20) s = .next t ∧ (t.pathOf v).fpflags = v.s a.toNat 0 &&& 0x1F ∧
      (t.pathOf v).fpmode = v.path.fpmode ∧ KeepsRegisters v s t ∧ (v.team.step = none → SameBytes s t))

/-- TRAP raises trap 0x0E with its code as the fault address, BRK trap 0x0D with its tag, and RETT returns from the handler:
s48 to s55 restored, the faulting word retried, or passed over with SKIP; outside a handler it raises trap 0x12 (R102, R103, R345).  A path that the debugger
has let pass its BRK goes on (the model's reading, log 20). -/
def Obligations.ExceptionWords : Prop :=
  (∀ (c : BitVec 1) (w : BitVec 2) (k : BitVec 8),
    Traps (.trap c w k) always 0x0E (fun _ _ => k.setWidth 64) (fun _ _ => 0) ∧
    Traps (.brk c w k) (fun _ v => v.path.passed = false) 0x0D (fun _ _ => k.setWidth 64) (fun _ _ => 0) ∧
    Completes (.brk c w k) (fun _ v => v.path.passed = true) (fun s _ => s)) ∧
  (∀ (c : BitVec 1) (w : BitVec 2) (k : BitVec 1),
    Traps (.rett c w k) (fun _ v => v.team.handler = none) 0x12 (fun _ _ => 0) (fun _ _ => 0)) ∧
  ∀ (c : BitVec 1) (w : BitVec 2) (k : BitVec 1) (s : State) (v : View) (h : Handler), s.Issues v (.rett c w k) →
    v.team.handler = some h → h.path = v.side → v.run = false → 56 ≤ v.path.s.length → h.bank.length = 8 →
    ∃ t p, exec (.rett c w k) s = .next t ∧ (t.teamOf v).handler = none ∧ (t.teamOf v).at v.side = some p ∧
      (k = 0 → p.pc = h.retryPc ∧ p.word = h.retryWord) ∧
      (k = 1 → p.pc = (if h.faultWord = 2 then h.retryPc + 1 else h.retryPc) ∧ p.word = if h.faultWord = 2 then 0 else h.faultWord + 1) ∧
      (∀ n, wordAt p.s n = if 48 ≤ n ∧ n < 56 then wordAt h.bank (n - 48) else wordAt v.path.s n) ∧
      p.mask = v.path.mask ∧ p.fpmode = v.path.fpmode ∧ p.fpflags = v.path.fpflags ∧ p.cond = v.path.cond ∧
      (t.teamOf v).v = v.team.v ∧ (t.teamOf v).p = v.team.p ∧ (t.teamOf v).at (!v.side) = v.team.at (!v.side) ∧
      (v.team.step = none → SameBytes s t)

/-- Trap entry: the team's results in flight land, then h0 to h4 take the cause with the word, the path and the flags, the PC,
the fault address and the auxiliary word, h5 the mask's summary; the old s48 to s55 are banked; the path starts packet 0 of the
handler image, and the other path is held (R343, R345).  Trap 0x11's flags are those that its word raised (R51), so they are stated of
the entry that every word that traps shares; TRAP_ENTRY names no flags.  What is read before the header, and that a charge asked for
goes back, are the model's readings (logs 79 and 93). -/
def Obligations.TrapEntry : Prop :=
  ∀ (core slot : Nat) (side : Bool) (cause : BitVec 8) (fault : BitVec 64) (aux : BitVec 32) (s : State) (t : Team) (p : Path) (va codesz : Nat),
    s.team core slot = some t → (t.at side).isSome = true → t.handler = none → ¬ (cause = 0x0D ∧ (s.ctx t.ctx).attach = true) →
    let s0 := (if cause = 6 then s.poisonUsed core t.ctx 0 else s).uncharge core slot (some side)
    let t0 := (s0.team core slot).getD t
    let s1 := (s0.beforeHeader core slot side cause fault t0).readHandler (dieOf core) t.ctx
    s1.handlerImage (dieOf core) t.ctx = .usable va codesz → t0.landed.at side = some p → 56 ≤ p.s.length →
    let entered := fun (u : State) (flags : Nat) =>
      ∃ t' q h, u.team core slot = some t' ∧ t'.at side = some q ∧
      t'.handler = some h ∧ q.pc = 0 ∧ q.word = 0 ∧ q.ext = none ∧
      wordAt q.s 48 = BitVec.ofNat 32 (cause.toNat + p.word * 256 + side.toNat * 1024 + flags * 65536) ∧ wordAt q.s 49 = BitVec.ofNat 32 p.pc ∧
      wordAt q.s 50 = fault.setWidth 32 ∧ wordAt q.s 51 = (fault >>> 32).setWidth 32 ∧ wordAt q.s 52 = aux ∧
      wordAt q.s 53 = summary p.mask ∧ wordAt q.s 54 = 0 ∧ wordAt q.s 55 = 0 ∧
      (∀ n, n < 48 ∨ 56 ≤ n → wordAt q.s n = wordAt p.s n) ∧ q.mask = p.mask ∧ q.cond = p.cond ∧ q.fpmode = p.fpmode ∧
      h.path = side ∧ h.bank = (p.s.drop 48).take 8 ∧ h.image = va ∧ h.codesz = codesz ∧ h.retryPc = p.pc ∧ h.faultWord = p.word ∧
      h.retryWord = (if p.ext.isSome then p.word - 1 else p.word) ∧ t'.p = t0.landed.p ∧ t'.v = t0.landed.v ∧
      (∀ k : Team, codeOf { k with handler := some h } side false = (va, codesz)) ∧
      ∀ (w : View), w.team = t' → w.run = false → w.side = !side → 23 ∈ u.pathReasons w
    (cause ≠ 0x11 → ∃ u, exec (.trapEntry core slot side cause fault aux) s = .next u ∧ entered u 0) ∧
    ∀ flags < 32, cause = 0x11 ∨ flags = 0 → entered (s.takeTrap core slot side cause fault aux flags) flags

/-- What lands at trap entry changes nothing where no SFU result and no TRANS word is in flight (R285, R343).
Without a usable handler image, and in a handler, a trap kills the team: its paths end, its unpublished spine values are
poisoned, and the context records the first killed team (R346, R340).  A header on a page that is away keeps the entry until
the page has come (R345). -/
def Obligations.TrapsThatKill : Prop :=
  (∀ (t : Team), (∀ o ∈ t.ops, (∀ d vals fl, o.kind ≠ .sfu d vals fl) ∧ ∀ d q sc res, o.kind ≠ .trans d q sc res) →
    t.landed.v = t.v ∧ t.landed.p = t.p ∧ t.landed.ops = t.ops ∧
      ∀ side p, t.at side = some p → ∃ q, t.landed.at side = some q ∧ q.s = p.s ∧ q.pc = p.pc ∧ q.word = p.word ∧ q.ext = p.ext ∧
        q.mask = p.mask ∧ q.cond = p.cond ∧ q.fpmode = p.fpmode ∧ q.fpflags = p.fpflags) ∧
  (∀ (core slot : Nat) (side : Bool) (cause : BitVec 8) (fault : BitVec 64) (aux : BitVec 32) (s : State) (t : Team) (p : Path),
    s.team core slot = some t → t.at side = some p → ¬ (cause = 0x0D ∧ (s.ctx t.ctx).attach = true) →
    let s0 := (if cause = 6 then s.poisonUsed core t.ctx 0 else s).uncharge core slot (some side)
    let t0 := (s0.team core slot).getD t
    let s1 := (s0.beforeHeader core slot side cause fault t0).readHandler (dieOf core) t.ctx
    (t.handler.isSome = true ∨ s1.handlerImage (dieOf core) t.ctx = .none ∨ s1.handlerImage (dieOf core) t.ctx = .rejected) →
    ∃ u t', exec (.trapEntry core slot side cause fault aux) s = .next u ∧ u.team core slot = some t' ∧
      t'.pathA = none ∧ t'.pathB = none ∧ t'.killed = true ∧ t'.handler = none ∧ t'.runner.running = false ∧
      t'.v = (if t.handler.isSome then t.v else t0.landed.v) ∧
      ((s.ctx t.ctx).trCtl.getLsbD 0 = false → (∀ l, s.launch t.ctx t.launch = some l → l.slots = []) → SameBytes s u) ∧
      ((s.ctx t.ctx).faultReg.getLsbD 0 = true → (u.ctx t.ctx).faultReg = (s.ctx t.ctx).faultReg ∧ (u.ctx t.ctx).fpc = (s.ctx t.ctx).fpc) ∧
      ((s.ctx t.ctx).faultReg.getLsbD 0 = false → (u.ctx t.ctx).fpc = BitVec.ofNat 32 p.pc ∧ (u.ctx t.ctx).faultReg.getLsbD 0 = true)) ∧
  ∀ (core slot : Nat) (side : Bool) (cause : BitVec 8) (fault : BitVec 64) (aux : BitVec 32) (s : State) (t : Team) (pg : Nat),
    s.team core slot = some t → (t.at side).isSome = true → t.handler = none → ¬ (cause = 0x0D ∧ (s.ctx t.ctx).attach = true) →
    let s0 := (if cause = 6 then s.poisonUsed core t.ctx 0 else s).uncharge core slot (some side)
    let t0 := (s0.team core slot).getD t
    let s1 := (s0.beforeHeader core slot side cause fault t0).readHandler (dieOf core) t.ctx
    s1.handlerImage (dieOf core) t.ctx = .away pg →
    ∃ u t', exec (.trapEntry core slot side cause fault aux) s = .next u ∧ u.team core slot = some t' ∧
      t'.entry = some ⟨side, cause, fault, aux, 0, pg⟩ ∧ t'.v = t0.landed.v ∧
      ∀ (w : View), w.team = t' → w.run = false → 23 ∈ u.pathReasons w

/-! ### Waiting, barriers, fences -/

/-- WAITC and WAITCI complete when the counter is at or below its threshold and wait, for the counter's own reason, while it is above
(R112); QFENCE completes when no operation of a queue that it names is outstanding (R116), BARW when the team has not arrived on the
barrier or the phase of its arrival has completed (R113), MWAIT when every closed batch that it names has retired (R209); a wait on COL
observes the CBARs, and it or a QFENCE that names COL raises trap 0x01 with the oldest recorded mismatch (R224, R228).
A path waiting one cycle changes nothing but the time, its stall reason and the model's counter: not its team's operations, queues,
groups or other path. -/
def Obligations.WaitsOnCounters : Prop :=
  ((∀ (c : BitVec 1) (w : BitVec 2) (h : BitVec 3) (a n : BitVec 6) (m b : BitVec 5) (k : BitVec 4),
    let seen := fun (s : State) (v : View) => s.modTeam v fun t => { t with gc := t.gc + t.cbars, cbars := 0 }
    Completes (.waitc c w h a) (fun _ _ => h ≠ 5) (fun s _ => s) ∧ Completes (.waitci c w h n) (fun _ _ => h ≠ 5) (fun s _ => s) ∧
    Completes (.waitc c w 5 a) (fun _ v => v.team.mismatches = []) seen ∧ Completes (.waitci c w 5 n) (fun _ v => v.team.mismatches = []) seen ∧
    Completes (.qfence c w m) (fun _ v => m.getLsbD 3 = false ∨ v.team.mismatches = []) (fun s _ => s) ∧
    Completes (.barw c w k) always (fun s _ => s) ∧ Completes (.mwait c w b) always (fun s _ => s) ∧
    ∀ (x : Nat) (rest : List Nat),
      let mismatch := fun (s : State) (v : View) =>
        (s.modTeam v fun t => { t with mismatches := rest }).trapView v 0x01 (BitVec.ofNat 64 x) 0 0
      Ends (.waitc c w 5 a) (fun _ v => v.team.mismatches = x :: rest) mismatch ∧
      Ends (.waitci c w 5 n) (fun _ v => v.team.mismatches = x :: rest) mismatch ∧
      Ends (.qfence c w m) (fun _ v => m.getLsbD 3 = true ∧ v.team.mismatches = x :: rest) mismatch) ∧
  (∀ (w : BitVec 2) (h : BitVec 3) (a n : BitVec 6) (m b : BitVec 5) (k : BitVec 4) (s : State) (v : View),
    let free := fun (i : Instr) => s.Views v i ∧ s.pathReasons v = [] ∧ v.path.chainAt = none ∧ s.decodeTrap v i = none ∧
      v.sourceTrap i = none ∧ s.pipeBusy v i = false
    let out := (v.team.ops.filter fun o => o.code == h.toNat).length
    let counted := fun (code : Nat) => ∃ o ∈ v.team.ops, o.code = code
    let copies := fun (q : Nat) => ∃ o ∈ v.team.ops, o.done = false ∧ ∃ kind src dst rows, o.kind = .copy q kind src dst rows
    let mine := fun (c : MatCmd) => c ∈ (s.core v.core).mtx.window ∧ c.team = v.team.uid
    let x := v.s (2 * b.toNat) 0
    (free (.waitc 0 w h a) → h ≠ 5 → out ≤ (v.s a.toNat 0).toNat →
      exec (.waitc 0 w h a) s = .next ((s.atIssue v).finish v (.waitc 0 w h a))) ∧
    (free (.waitci 0 w h n) → h ≠ 5 → out ≤ n.toNat → exec (.waitci 0 w h n) s = .next ((s.atIssue v).finish v (.waitci 0 w h n))) ∧
    (free (.qfence 0 w m) → (m.getLsbD 0 = true → ¬ copies 0) → (m.getLsbD 1 = true → ¬ copies 1) → (m.getLsbD 2 = true → ¬ counted 4) →
      (m.getLsbD 3 = true → v.team.mismatches = [] ∧ ¬ counted 5) → (m.getLsbD 4 = true → ∀ c, ¬ mine c) →
      exec (.qfence 0 w m) s = .next ((s.atIssue v).finish v (.qfence 0 w m))) ∧
    (free (.barw 0 w k) →
      (∀ p, Table.get v.team.arrivals k.toNat = some p → ∀ g, s.cohort v.core v.team.cohort = some g → p < (g.bar k.toNat).phase) →
      exec (.barw 0 w k) s = .next ((s.atIssue v).finish v (.barw 0 w k))) ∧
    (free (.mwait 0 w b) → (∀ c, mine c → c.batch ≠ v.team.batch → 2 ^ 31 ≤ (x - c.batch).toNat) →
      exec (.mwait 0 w b) s = .next ((s.atIssue v).finish v (.mwait 0 w b))) ∧
    (free (.waitc 0 w h a) → (h = 5 → v.team.mismatches = []) → (v.s a.toNat 0).toNat < out →
      exec (.waitc 0 w h a) s = .next (s.waiting v (3 + h.toNat))) ∧
    (free (.waitci 0 w h n) → (h = 5 → v.team.mismatches = []) → n.toNat < out →
      exec (.waitci 0 w h n) s = .next (s.waiting v (3 + h.toNat)))) ∧
  ∀ (c : BitVec 1) (w : BitVec 2) (h : BitVec 3) (a n : BitVec 6) (s : State) (v : View), s.frozen v = none → v.path.chainAt = none →
    (h = 5 → v.team.mismatches = []) →
    (s.Views v (.waitc c w h a) → s.decodeTrap v (.waitc c w h a) = none → v.sourceTrap (.waitc c w h a) = none →
      (v.s a.toNat 0).toNat < v.team.count h.toNat →
      ∃ r, exec (.waitc c w h a) s = .next (s.heldBack v (.waitc c w h a) r)) ∧
    (s.Views v (.waitci c w h n) → s.decodeTrap v (.waitci c w h n) = none → n.toNat < v.team.count h.toNat →
      ∃ r, exec (.waitci c w h n) s = .next (s.heldBack v (.waitci c w h n) r))) ∧
  (∀ (s : State) (v : View) (i : Instr) (r : Nat), s.Views v i →
    let t := s.waiting v r
    KeepsRegisters v s t ∧ KeepsModes v s t ∧ KeepsPackage v s t ∧ KeepsDirty v s t ∧
      (t.pathOf v).pc = v.path.pc ∧ (t.pathOf v).word = v.path.word ∧
      t.teamOf v = (if v.run then v.team else v.team.setAt v.side (some { v.path with stall := r })) ∧
      (t.die (dieOf v.core)).cycle = (s.die (dieOf v.core)).cycle + 1 ∧ t.fresh = s.fresh + 1)

/-- With one path, BARA arrives and goes on; BAR arrives and goes on if that completes the phase, else waits in it and then goes
on; a phase completes when every team of the cohort has arrived or exited (R113).  With two paths the first one's BAR or BARA waits for
its sibling, and the second's arrives for both: it goes on as with one path, and its sibling waits in the phase (R28). -/
def Obligations.Barriers : Prop :=
  (∀ (c : BitVec 1) (w : BitVec 2) (b : BitVec 4),
    let alone := fun (s : State) (v : View) => v.run = false ∧ (s.teamOf v).at (!v.side) = none ∧ (s.pathOf v).bar = none
    let there := fun (s : State) (v : View) => (s.modPath v fun p => { p with bar := none }).arrive v b.toNat
    let num := fun (s : State) (v : View) => ((s.cohort v.core v.team.cohort).map fun h => (h.bar b.toNat).phase).getD 0
    Completes (.bara c w b) alone there ∧
    Completes (.bar c w b) (fun s v => alone s v ∧ (there s v).phaseOpen v b.toNat (num s v) = false) there ∧
    Waits (.bar c w b) (fun s v => alone s v ∧ (there s v).phaseOpen v b.toNat (num s v) = true)
      (fun s v => (there s v).modPath v fun p => { p with bar := some (.phase b.toNat (num s v)) }) 10 ∧
    Completes (.bar c w b) (fun s v => ∃ x y, (s.pathOf v).bar = some (.phase x y) ∧ s.phaseOpen v x y = false)
      (fun s v => s.modPath v fun p => { p with bar := none }) ∧
    Completes (.bara c w b) (fun s v => ∃ x y, (s.pathOf v).bar = some (.phase x y)) (fun s v => s.modPath v fun p => { p with bar := none }) ∧
    let begun := fun (s : State) (v : View) => ∃ x y, (s.pathOf v).bar = some (.phase x y)
    let first := fun (s : State) (v : View) => ¬ begun s v ∧ ∃ q, (s.teamOf v).at (!v.side) = some q ∧ ∀ st, q.bar ≠ some (.arrive b.toNat st)
    Waits (.bar c w b) first (fun s v => s.modPath v fun p => { p with bar := some (.arrive b.toNat true) }) 10 ∧
    Waits (.bara c w b) first (fun s v => s.modPath v fun p => { p with bar := some (.arrive b.toNat false) }) 10 ∧
    ∀ q : Path,
      let second := fun (s : State) (v : View) => ¬ begun s v ∧ (s.teamOf v).at (!v.side) = some q ∧ ∃ st, q.bar = some (.arrive b.toNat st)
      let both := fun (s : State) (v : View) => there
        (s.modTeam v fun t => t.setAt (!v.side) (some { q with bar := some (.phase b.toNat (num s v)) })) v
      Completes (.bara c w b) second both ∧
      Completes (.bar c w b) (fun s v => second s v ∧ (both s v).phaseOpen v b.toNat (num s v) = false) both ∧
      Waits (.bar c w b) (fun s v => second s v ∧ (both s v).phaseOpen v b.toNat (num s v) = true)
        (fun s v => (both s v).modPath v fun p => { p with bar := some (.phase b.toNat (num s v)) }) 10) ∧
  ∀ (s : State) (c id b : Nat) (h : Cohort), s.cohort c id = some h →
    ((h.exited ++ (h.bar b).arrived).eraseDups.length < h.size → s.completePhase c id b = s) ∧
    (h.size ≤ (h.exited ++ (h.bar b).arrived).eraseDups.length →
      ∃ g, (s.completePhase c id b).cohort c id = some g ∧ (g.bar b).phase = (h.bar b).phase + 1 ∧ (g.bar b).arrived = [] ∧
        g.bytes = h.bytes ∧ ∀ k, k ≠ b → g.bar k = h.bar k)

/-- FENCE: a release holds the path's next word until the reads have returned and the writes it covers have been performed, an
acquire its next access until the reads have returned; a release waits as well for writes of the core that an earlier release has
placed before it (the model's reading, log 84); SPOUT publishes a slot's value once; GROW, GROWT and SHRINK take and
give the extended registers, zeroed, and a GROW whose block has been granted meanwhile goes on (R30, R31, R115, R117, R118). -/
def Obligations.FencesSpineAndBlocks : Prop :=
  (∀ (c : BitVec 1) (w : BitVec 2) (o : BitVec 2) (e : BitVec 3) (s : State) (v : View), s.Issues v (.fence c w o e) → v.run = false →
    ((o = 1 ∨ o = 3) → e = 6 → v.path.chainAt = none) →
    ∃ t, exec (.fence c w o e) s = .next t ∧
      (o = 2 ∨ o = 3 → (t.pathOf v).releaseOps = (v.team.ops.filter fun x => x.blocksRelease e.toNat).map (·.id) ++
        (if o = 3 ∧ e = 6 then (s.atIssue v).promote else s.atIssue v).pastReleases v e.toNat) ∧
      (o = 1 ∨ o = 3 → (t.pathOf v).acquireOps = (v.team.ops.filter fun x => !x.byRunner && x.isRead).map (·.id)) ∧
      (e ≠ 6 → KeepsRegisters v s t ∧ KeepsModes v s t ∧ (v.team.step = none → SameBytes s t))) ∧
  (∀ (i : Instr) (w : Word) (s : State) (v : View), encode i = some w → s.Views v i → s.frozen v = none → s.decodeTrap v i = none →
    (holdReads i = true → v.sourceTrap i = none) →
    ((∃ x ∈ s.coreOps v.core, x.2.id ∈ v.path.releaseOps) → ∃ r ≤ 9, exec i s = .next (s.heldBack v i r)) ∧
    (accessWord i = true → ∀ x ∈ v.team.ops, x.id ∈ v.path.acquireOps → x.isRead = true →
      ∃ r ≤ 3 + x.code, exec i s = .next (s.heldBack v i r))) ∧
  (∀ (c : BitVec 1) (w : BitVec 2) (n : BitVec 2) (a : BitVec 6) (l : Launch),
    Completes (.spout c w n a)
      (fun s v => s.launch v.team.ctx v.team.launch = some l ∧ l.rcd.ordered = true ∧ (l.slotInfo n.toNat).declared = true)
      (fun s v => s.publish v.team.ctx l (clusterOf v.core) v.team.item.toNat n.toNat (v.s a.toNat 0) false) ∧
    Traps (.spout c w n a)
      (fun s v => s.launch v.team.ctx v.team.launch = some l ∧ (l.rcd.ordered = false ∨ (l.slotInfo n.toNat).declared = false))
      0x01 (fun _ _ => 0) (fun _ _ => 0)) ∧
  ∀ (c : BitVec 1) (w : BitVec 2) (k : BitVec 2),
    let may := fun (v : View) => v.team.granted = false ∧ v.team.two = false ∧ v.team.extHeld = false ∧ v.team.extn ≠ 0
    Completes (.grow c w) (fun s v => may v ∧ s.canGrow v.core (s.teamOf v) = true) (fun s v => s.modTeam v Team.grown) ∧
    Waits (.grow c w) (fun s v => may v ∧ s.canGrow v.core (s.teamOf v) = false)
      (fun s v => s.modTeam v fun t => { t with growPending := true }) 14 ∧
    Completes (.grow c w) (fun _ v => v.team.granted = true) (fun s v => s.modTeam v fun t => { t with granted := false }) ∧
    Completes (.growt c w k) (fun _ v => may v)
      (fun s v => (if s.canGrow v.core (s.teamOf v) then s.modTeam v Team.grown else s).setC v k.toNat (s.canGrow v.core (s.teamOf v)) (v.time + 1)) ∧
    Completes (.shrink c w) (fun _ v => v.team.two = false ∧ v.team.extHeld = true)
      (fun s v => s.modTeam v fun t => { t.clearExt with extHeld := false }) ∧
    Completes (.shrink c w) (fun _ v => v.team.two = false ∧ v.team.extHeld = false) (fun s _ => s) ∧
    ∀ (t : Team) (r l : Nat), r < t.v.length → l < t.lanes →
      wordAt (t.clearExt.v.getD r []) l = if t.base ≤ r ∧ r < t.base + t.extn then 0 else wordAt (t.v.getD r []) l

/-! ### Launching -/

/-- LAUNCH accepts a valid record at depth + 1; SPAWN joins every active lane to its bin, and every lane finds one while the
cluster has fewer than 64 open bins and the context fewer than 1,024 launches for it; both raise trap 0x0B at depth 10 and
0x07 on a misaligned record or key (R109 to R111, R330).  R111 gives SPAWN's traps the lane's key as fault address where R344's
table gives 0x0B none; the model follows R111 (log 27).  The reads of their checks count as reads of their pages (log 79). -/
def Obligations.LaunchAndSpawn : Prop :=
  (∀ (c : BitVec 1) (w : BitVec 2) (a : BitVec 6) (r : Record) (h : Header) (ds : List Word),
    let va := fun (v : View) => (v.sPair a.toNat 0).toNat
    let depth := fun (s : State) (v : View) => ((s.launch v.team.ctx v.team.launch).map (·.depth)).getD 0
    let read := fun (s : State) (v : View) =>
      (s.clearWay v.core (s.linesAt v.team.ctx [va v])).readRecord v.team.ctx (dieOf v.core) (va v)
    Completes (.launch c w a)
      (fun s v => depth s v ≠ 10 ∧ va v % 64 = 0 ∧ va v < 2 ^ 48 ∧ (read s v).examine v.team.ctx (dieOf v.core) (va v) = .good r h ds)
      (fun s v => (((read s v).modTeam v Team.markReleased).accept v.team.ctx (some v.team.launch) (depth s v + 1) r h ds none).2) ∧
    Traps (.launch c w a) (fun s v => depth s v = 10) 0x0B (fun _ _ => 0) (fun _ _ => 10) ∧
    Traps (.launch c w a) (fun s v => depth s v ≠ 10 ∧ va v % 64 ≠ 0) 0x07 (fun _ v => v.sPair a.toNat 0) (fun _ _ => 0) ∧
    Traps (.launch c w a)
      (fun s v => depth s v ≠ 10 ∧ va v % 64 = 0 ∧ va v < 2 ^ 48 ∧ (read s v).examine v.team.ctx (dieOf v.core) (va v) = .invalid) 0x01
      (fun _ _ => 0) (fun _ _ => 0)) ∧
  (∀ (c : BitVec 1) (w : BitVec 2) (a e t : BitVec 6) (s s1 : State) (v : View) (l : Launch) (hdr : Nat → Nat) (joined : List Nat),
    s.Issues v (.spawn c w a e t) →
    let s0 := if v.path.spawned.isEmpty then (s.atIssue v).readKeys v (v.active.map (v.spawnKey e)) else s.atIssue v
    s0.launch v.team.ctx v.team.launch = some l → l.depth ≠ 10 →
    (∀ k ∈ v.active, let key := (v.vPair e.toNat k).toNat
      key % 64 = 0 ∧ key < 2 ^ 48 ∧ s0.spawnHeader v key = .bytes (hdr k) ∧ spawnFits l.inForce (parseHeader (hdr k)) = true ∧
        s0.measure (dieOf v.core) v.team.ctx key (parseHeader (hdr k)).codesz (parseHeader (hdr k)).moff = .passes) →
    State.joinAll v (v.s t.toNat 0).toNat (v.spawnKey e) (fun k => v.v a.toNat k) (v.active.filter fun k => !v.path.spawned.contains k)
      v.path.spawned (s0.modTeam v Team.markReleased) = (joined, true, s1) →
    exec (.spawn c w a e t) s = .next (((s1.modPath v fun p => { p with spawned := [] }).closeBins (clusterOf v.core) v.core
      fun b => b.atEnd == some (v.team.uid, v.path.pid)).finish v (.spawn c w a e t))) ∧
  (∀ (v : View) (timer : Nat) (key : Nat → Nat) (arg : Nat → Word) (lanes joined : List Nat) (s : State),
    (s.launch v.team.ctx v.team.launch).isSome = true → s.openBins (clusterOf v.core) + lanes.length ≤ 64 →
    (s.ctx v.team.ctx).launches.length + lanes.length ≤ 1024 →
    ∃ all s1, State.joinAll v timer key arg lanes joined s = (all, true, s1)) ∧
  ∀ (c : BitVec 1) (w : BitVec 2) (a e t : BitVec 6) (l : Launch) (k : Nat),
    let keys := fun (v : View) => v.active.map (v.spawnKey e)
    Traps (.spawn c w a e t) (fun s v => v.path.spawned = [] ∧ s.launch v.team.ctx v.team.launch = some l ∧ l.depth = 10) 0x0B
      (fun _ v => BitVec.ofNat 64 ((keys v).headD 0)) (fun _ _ => 10) ∧
    Traps (.spawn c w a e t)
      (fun s v => v.path.spawned = [] ∧ s.launch v.team.ctx v.team.launch = some l ∧ l.depth ≠ 10 ∧ (∀ j ∈ keys v, j < 2 ^ 48) ∧
        (keys v).find? (fun j => j % 64 != 0) = some k) 0x07 (fun _ _ => BitVec.ofNat 64 k) (fun _ _ => 0)

/-! ### Engines -/

/-- The six copy words enter their queue with their rows (R214 to R217).
The seven graph commands enter the window (R194 to R208); MFENCE closes the open batch, MERRQ reads an entry of a kept, retired batch's log, else says GONE, MSTAT reads
MSTATUS and clears its sticky bits (R209 to R211). -/
def Obligations.EngineWords : Prop :=
  (∀ (c : BitVec 1) (w : BitVec 2) (q : BitVec 2) (b n : BitVec 6),
    CopyResult 0 (.cpyG2s c w q b n) q b n ∧ CopyResult 1 (.cpyS2g c w q b n) q b n ∧ CopyResult 2 (.cpyS2s c w q b n) q b n ∧
    CopyResult 3 (.cpyGth c w q b n) q b n ∧ CopyResult 4 (.cpySct c w q b n) q b n ∧ CopyResult 5 (.cpyFill c w q b n) q b n) ∧
  ((∀ (c : BitVec 1) (w : BitVec 2) (i p q b : BitVec 5),
    MatrixResult 0 1 (.mzero c w i p q b) i p q (2 * b.toNat) ∧ MatrixResult 1 2 (.mload c w i p q b) i p q (2 * b.toNat) ∧
    MatrixResult 2 3 (.mloads c w i p q b) i p q (2 * b.toNat) ∧ MatrixResult 3 0 (.mswap c w i p q) i p q 0 ∧
    MatrixResult 4 4 (.mstream c w i p q b) i p q (2 * b.toNat) ∧ MatrixResult 5 4 (.mstore c w i p q b) i p q (2 * b.toNat) ∧
    MatrixResult 6 2 (.mscale c w i p q b) i p q (2 * b.toNat)) ∧
  ∀ (c : BitVec 1) (w : BitVec 2) (b : BitVec 5),
    Completes (.mfence c w) always (fun s v => s.modTeam v fun t => { t with
      batch := t.batch + 1
      fences := ((t.batch, v.path.pc, v.path.word) :: t.fences).filter fun e => (s.commandsOf v.core v.team.uid).any fun m => m.batch == e.1
      oldErrors := ((t.logs.drop 3).map (fun l => (l.batch, l.entries.length)) ++ t.oldErrors).filter fun e =>
        (s.commandsOf v.core v.team.uid).any fun m => m.batch == e.1
      logs := ({ t.openLog with batch := t.batch } :: t.logs).take 4
      openLog := ⟨t.batch + 1, [], false⟩ }) ∧
    Completes (.mstat c w b) always (fun s v =>
      ((s.setS v (2 * b.toNat) (s.mstatus v.core (s.teamOf v)) 2).setS v (2 * b.toNat + 1)
        (BitVec.ofNat 32 (s.commandsOf v.core v.team.uid).length) 2).modTeam v fun t => { t with operr := false, logovf := false }) ∧
    Completes (.merrq c w b)
      (fun s v => (v.s (2 * b.toNat) 0).toNat < 2 ^ 19 ∧
        ∀ l ∈ (s.teamOf v).logs, l.batch.toNat % 65536 ≠ (v.s (2 * b.toNat) 0).toNat % 65536)
      (fun s v => s.setSPair v (2 * b.toNat) (BitVec.ofNat 64 (2 ^ 53)) 2) ∧
    (∀ (l : BatchLog) (before after : List BatchLog),
      let kept := fun (s : State) (v : View) => (v.s (2 * b.toNat) 0).toNat < 2 ^ 19 ∧ (s.teamOf v).logs = before ++ l :: after ∧
        (∀ k ∈ before, k.batch.toNat % 65536 ≠ (v.s (2 * b.toNat) 0).toNat % 65536) ∧
        l.batch.toNat % 65536 = (v.s (2 * b.toNat) 0).toNat % 65536
      let retired := fun (s : State) (v : View) => ∀ m ∈ s.commandsOf v.core v.team.uid, m.batch ≠ l.batch
      let gives := fun (x : Nat) (s : State) (v : View) => s.setSPair v (2 * b.toNat) (BitVec.ofNat 64 x) 2
      Completes (.merrq c w b) (fun s v => kept s v ∧ ¬ retired s v) (gives (2 ^ 53)) ∧
      (∀ n e, l.entries[n]? = some e → Completes (.merrq c w b)
        (fun s v => kept s v ∧ retired s v ∧ (v.s (2 * b.toNat) 0).toNat / 65536 = n)
        (gives (2 ^ 63 + (if l.more then 2 ^ 62 else 0) + e.opnd * 2 ^ 59 + e.id * 2 ^ 54 + e.i * 2 ^ 40 + e.k * 2 ^ 32 + e.n * 2 ^ 24 +
          e.addr % 2 ^ 20))) ∧
      Completes (.merrq c w b) (fun s v => kept s v ∧ retired s v ∧ l.entries.length ≤ (v.s (2 * b.toNat) 0).toNat / 65536)
        (gives (if l.more then 2 ^ 62 else 0))) ∧
    Traps (.merrq c w b) (fun _ v => 2 ^ 19 ≤ (v.s (2 * b.toNat) 0).toNat) 0x01 (fun _ _ => 0) (fun _ _ => 0))

/-- CGRP declares a group and writes the rank and the size; the four collectives and CBAR enter the team's list with the group's
next sequence number, counted on COL (R222 to R225, R228).  That bits [7:4] of s(SB+3) are ignored is the model's choice (log 73). -/
def Obligations.CollectiveWords : Prop :=
  (∀ (c : BitVec 1) (w : BitVec 2) (b : BitVec 6) (g : BitVec 2) (s s1 : State) (v : View) (own : List Nat) (devs : List Nat),
    let w0 := (v.s b.toNat 0).toNat
    let w1 := (v.s (b.toNat + 1) 0).toNat
    let n := w1 % 128
    let cores := (if bit w0 26 then [0, 1] else [dieOf v.core]).flatMap fun d => (groupCores v.core d w0).getD []
    let members := devs.flatMap fun d => cores.map fun k => (d, k)
    let old := v.team.groups.getD g.toNat ⟨[], 0, [], false, 0⟩
    s.Issues v (.cgrp c w b g) → groupReserved w0 w1 = false → groupCores v.core (dieOf v.core) w0 = some own →
    (if n = 0 then devs = [s.device] ∧ s1 = s.atIssue v
      else (s.atIssue v).deviceList v (v.sPair (b.toNat + 2) 0).toNat n = .ok (devs, s1) ∧ ∀ d ∈ devs, s1.routeEmpty d = false) →
    devs.eraseDups.length = devs.length → (∀ d ∈ devs, d < 64) → s1.device ∈ devs → s1.device = s.device →
    let made : Group := ⟨[v.s b.toNat 0, v.s (b.toNat + 1) 0, v.s (b.toNat + 2) 0, v.s (b.toNat + 3) 0], members.idxOf (s.device, v.core),
      members, true, old.issued⟩
    exec (.cgrp c w b g) s = .next ((((s1.modTeam v fun t => { t with groups := t.groups.set g.toNat made }).setS v (b.toNat + 4) (BitVec.ofNat 32 (members.idxOf (s.device, v.core))) 1).setS v (b.toNat + 5)
        (BitVec.ofNat 32 members.length) 1).finish v (.cgrp c w b g))) ∧
  (∀ (c : BitVec 1) (w : BitVec 2) (b : BitVec 6) (g : BitVec 2) (k : Group),
    let x := fun (v : View) (i : Nat) => (v.s (b.toNat + i) 0).toNat
    let red := fun (v : View) => x v 3 % 16
    let H := fun (op : Nat) (folds : Bool) (_ : State) (v : View) =>
      v.team.groups.getD g.toNat ⟨[], 0, [], false, 0⟩ = k ∧ k.declared = true ∧ red v < 4 ∧ x v 3 < 65536 ∧
        (folds = true → red v ≠ 3 → x v 3 / 256 = 0) ∧ 0 < x v 2 ∧ x v 2 ≤ 65536 ∧ x v 0 % 4 = 0 ∧ x v 1 % 4 = 0 ∧
        (let sh := (⟨op, if folds then red v else 0, if folds && red v == 3 then x v 3 / 256 + 1 else 0, x v 2, k.members⟩ : ColTerms).shape
         x v 0 + 4 * sh.1 * sh.2.2 ≤ v.team.scrb ∧ x v 1 + 4 * sh.2.1 * sh.2.2 ≤ v.team.scrb)
    let op' := fun (op : Nat) (folds : Bool) (_ : State) (v : View) =>
      OpKind.col g.toNat k.issued ⟨op, if folds then red v else 0, if folds && red v == 3 then x v 3 / 256 + 1 else 0, x v 2, k.members⟩
        k.rank (x v 0) (x v 1) v.team.cohort
    PostResult (.cag c w b g) (H 1 false) (fun _ _ => 5) (op' 1 false) ∧ PostResult (.crs c w b g) (H 2 true) (fun _ _ => 5) (op' 2 true) ∧
    PostResult (.car c w b g) (H 3 true) (fun _ _ => 5) (op' 3 true) ∧ PostResult (.ca2a c w b g) (H 4 false) (fun _ _ => 5) (op' 4 false)) ∧
  ∀ (c : BitVec 1) (w : BitVec 2) (g : BitVec 2) (k : Group) (s : State) (v : View), s.Issues v (.cbar c w g) →
    v.team.groups.getD g.toNat ⟨[], 0, [], false, 0⟩ = k → k.declared = true →
    ∃ t, exec (.cbar c w g) s = .next t ∧
      (t.teamOf v).ops = v.team.markReleased.ops ++ [v.op s 5 (.col g.toNat k.issued ⟨5, 0, 0, 0, k.members⟩ k.rank 0 0 v.team.cohort) []] ∧
      (t.teamOf v).groups = v.team.groups.set g.toNat { k with issued := k.issued + 1 } ∧
      KeepsRegisters v s t ∧ KeepsModes v s t ∧ (v.team.step = none → SameBytes s t)

/-- RUN starts the runner with s0 to s15 as a0 to a15, RSTOP stops it; QPUSH adds its pair at the tail of a queue, QPOP and QPOPS
take the oldest entries; a pop that too few entries answer while the runner is stopped raises trap 0x01 with QSTAT's word
(R231 to R235).  That a RUN reads the runner mark by a fetch is the model's choice (log 78). -/
def Obligations.RunnerWords : Prop :=
  (∀ (c : BitVec 1) (w : BitVec 2) (o : BitVec 16),
    let read := fun (s : State) (v : View) =>
      (s.clearWay v.core (s.linesAt v.team.ctx [v.team.image + 64])).readRun (dieOf v.core) v.team.ctx (v.team.image + 64) 4
    Completes (.run c w o)
      (fun s v => v.team.runner.running = false ∧ v.team.two = false ∧ (read s v).runnerMark v = .word 0x60000000)
      (fun s v => (read s v).modTeam v fun t => { t with
        runner := ⟨(BitVec.ofNat 32 v.path.pc + immInt v.path.ext o).toNat, 0, (List.range 16).map fun n => v.s n 0, [],
          [false, false, false, false], none, true, false, false, false, 0, none, none, (0, 0), none, v.time⟩
        ops := t.ops.filter fun x => !(x.byRunner && x.code == 7) }) ∧
    Traps (.run c w o) (fun _ v => v.team.runner.running = true ∨ v.team.two = true) 0x01 (fun _ _ => 0) (fun _ _ => 0)) ∧
  (∀ (c : BitVec 1) (w : BitVec 2),
    Completes (.rstop c w) (fun _ v => v.team.runner.running = true → v.team.runner.parked = none ∧ v.team.runner.refill = none)
      (fun s v => s.modTeam v fun t => { t with runner := { t.runner with running := false } }) ∧
    Completes (.rstop c w) (fun _ v => v.team.runner.running = true ∧ (v.team.runner.parked.isSome = true ∨ v.team.runner.refill.isSome = true))
      (fun s v => s.modTeam v fun t => { t with runner := { t.runner with stopping := true } })) ∧
  ∀ (c : BitVec 1) (w : BitVec 2) (d a : BitVec 6) (q : BitVec 2) (f : BitVec 1) (s : State) (v : View),
    let held := v.team.queues.getD q.toNat []
    (s.Issues v (.qpush c w a q f) → q.toNat < v.team.queues.length →
      ∃ t, exec (.qpush c w a q f) s = .next t ∧
        (t.teamOf v).queues.getD q.toNat [] = held ++ [⟨v.sPair a.toNat 0, v.path.poison.any fun e => e.1 == a.toNat || e.1 == a.toNat + 1⟩] ∧
        (∀ k, k ≠ q.toNat → (t.teamOf v).queues.getD k [] = v.team.queues.getD k []) ∧
        KeepsRegisters v s t ∧ KeepsModes v s t ∧ (v.team.step = none → SameBytes s t)) ∧
    (s.Issues v (.qpops c w d q) → v.run = false → ∀ e rest, held = e :: rest → d.toNat + 1 < 63 → 63 ≤ v.path.s.length →
      q.toNat < v.team.queues.length →
      ∃ t, exec (.qpops c w d q) s = .next t ∧ t.sAt v d.toNat = e.value.setWidth 32 ∧ t.sAt v (d.toNat + 1) = (e.value >>> 32).setWidth 32 ∧
        (t.teamOf v).queues.getD q.toNat [] = rest ∧ KeepsScalars v s t [d.toNat, d.toNat + 1] ∧ KeepsVectors v s t [] ∧
        KeepsPredicates v s t [] ∧ KeepsConditions v s t [] ∧ (v.team.step = none → SameBytes s t)) ∧
    (s.Issues v (.qpops c w d q) → held = [] →
      exec (.qpops c w d q) s = .next (((s.atIssue v).trapView v 0x01 ((v.team.qstat q.toNat).setWidth 64) 0 0).used)) ∧
    (s.Issues v (.qpop c w d q) → v.run = false → v.active.length ≤ 32 → v.active.length ≤ held.length →
      q.toNat < v.team.queues.length → v.hasColumn d.toNat → v.hasColumn (d.toNat + 1) →
      ∃ t, exec (.qpop c w d q) s = .next t ∧
        (∀ k, k < v.active.length → let l := v.active.getD k 0
          t.vAt v d.toNat l = ((held.getD k ⟨0, false⟩).value).setWidth 32 ∧ t.vAt v (d.toNat + 1) l = ((held.getD k ⟨0, false⟩).value >>> 32).setWidth 32) ∧
        (t.teamOf v).queues.getD q.toNat [] = held.drop v.active.length ∧
        KeepsVectors v s t [d.toNat, d.toNat + 1] ∧ KeepsScalars v s t [] ∧ KeepsPredicates v s t [] ∧ (v.team.step = none → SameBytes s t)) ∧
    (s.Issues v (.qpop c w d q) → v.active.length ≤ 32 → held.length < v.active.length →
      exec (.qpop c w d q) s = .next (((s.atIssue v).trapView v 0x01 ((v.team.qstat q.toNat).setWidth 64) 0 0).used))

/-! ### Operations that return -/

/-- An operation in flight that no PGSURR of a migrating page keeps waiting is performed when its event comes, and returns after the
earlier ones of its counter (R52): loads and
queries, scratchpad loads, SFU results, translations, stores, remote stores, atomics, ranges and surrendered pages
(R146, R161 to R170, R179 to R187).  That an ATOMIC_PERFORMED performs every lane of one location together, and what a load's line
request reads, are the model's readings (logs 17 and 79). -/
def Obligations.OperationReturns : Prop :=
  (∀ (s : State) (c id : Nat) (t : Team) (o : Op), s.opAt c id = some (t, o) → o.done = false → s.stuckOp c id = false →
    (∀ f d bs, s.queryBytes t.ctx o.kind = some (f, d, bs) → exec (.loadReturn c id) s =
      .next ({ s with fresh := s.fresh + 1 }.completeOp c t.uid { o with kind := .loaded f d true [(0, bs, false)] })) ∧
    (∀ f d sc ca lanes, o.kind = .load f d sc ca lanes →
      exec (.loadReturn c id) s = .next ((s.performOp c t.uid o).2.completeOp c t.uid (s.performOp c t.uid o).1)) ∧
    (∀ f d co r lanes n, o.kind = .scratch f d co r lanes n →
      let r := (s.makeWay c [o]).performKind c t.uid o
      exec (.scratchpadLoadReturn c id) s = .next (r.2.completeOp c t.uid r.1)) ∧
    (∀ d vals fl, o.kind = .sfu d vals fl → exec (.sfuResultReturn c id) s = .next (s.completeOp c t.uid o)) ∧
    (∀ d p sc res, o.kind = .trans d p sc res → exec (.transReturn c id) s = .next (s.completeOp c t.uid o)) ∧
    (∀ lanes, o.kind = .store lanes →
      exec (.storePerformed c id) s = .next ((s.performOp c t.uid o).2.completeOp c t.uid (s.performOp c t.uid o).1)) ∧
    (∀ a b lanes, o.kind = .remote a b lanes → s.coreOps c = [(t.uid, o)] →
      exec (.remoteStorePerformed c id) s = .next ((s.makeWay c [o]).performId c id)) ∧
    (∀ op d r tg lanes lane, o.kind = .atom op d r tg lanes →
      let s1 := (s.performEarlier c o.id o.lineRuns).makeWay c [o]
      let p := s1.atomPart c t (s1.opNow c o) (sameLocation lanes lane)
      exec (.atomicPerformed c id lane) s = .next (p.2.putOp c t.uid p.1)) ∧
    (∀ op d r lanes, o.kind = .atom op d r none lanes → o.rmt = false →
      let p := s.performOp c t.uid (s.opNow c o)
      exec (.loadReturn c id) s = .next (p.2.completeOp c t.uid p.1)) ∧
    (∀ runs, o.kind = .cwb runs false →
      exec (.cwbComplete c id) s = .next ((s.performOp c t.uid o).2.completeOp c t.uid (s.performOp c t.uid o).1)) ∧
    (∀ runs, o.kind = .cwb runs true →
      exec (.cinvComplete c id) s = .next ((s.performOp c t.uid o).2.completeOp c t.uid (s.performOp c t.uid o).1)) ∧
    ∀ d pg rest n, o.kind = .surrender d (pg :: rest) n → (s.page pg).state ≠ .migrating → (s.page pg).torn = false →
      (s.ctx t.ctx).blnOpen = false → s.halves = [] →
      ∃ u, exec (.pgsurrPageDone c id) s = .next u ∧
        (∀ a, Memory.read u.mem a = if a / 65536 = pg then 0 else Memory.read s.mem a)) ∧
  (∀ (s : State) (c x : Nat) (lanes : List Access) (key : Nat), s.ras.latent = [] →
    (∀ a ∈ lanes, a.loc.offset + a.size ≤ 128 ∧ match a.loc with
      | .dev da swm _ _ => swm = false ∧ s.mixed (pageOf da) = false
      | .host _ => True) →
    (s.readLanes c x false lanes key).1 = lanes.map fun a => (a.lane, s.readLoc (dieOf c) a.loc a.size, s.poisonedLoc (dieOf c) a.loc)) ∧
  (∀ (s : State) (c uid : Nat) (o : Op) (lanes : List (Access × List Byte)), o.kind = .store lanes → o.junk = [] →
    s.stuckOp c o.id = false → (s.ctx (s.ctxOf c uid)).trWr = 0 →
    (s.performKind c uid o).2.mem = (lanes.foldl (fun s e => s.writeLoc (dieOf c) e.1.loc e.2) s).mem ∧
      (s.performKind c uid o).1.done = true) ∧
  ∀ (t : Team) (o : Op) (f d : Nat) (data : List (Nat × List Byte × Bool)), o.kind = .loaded f d false data → o.clash = [] →
    o.byRunner = false → (data.map (·.1)).Nodup →
    ∀ i, i < loadCount f → d + i < t.v.length → (∀ e ∈ data, e.1 < (t.v.getD (d + i) []).length) →
      (∀ e ∈ data, wordAt ((t.retire o).v.getD (d + i) []) e.1 = wordAt (loadWords f e.2.1) i) ∧
      ∀ l, l ∉ data.map (·.1) → wordAt ((t.retire o).v.getD (d + i) []) l = wordAt (t.v.getD (d + i) []) l

/-- The oldest operation of a copy queue takes effect (R214); a collective whose members have all issued completes, in its turn, for
those that agree, else ends with the mismatch fate (R224); a matrix command starts once it may, and retires with its effect (R200).  Which team of a
core is the member, in which order members complete, and that a copy whose page is away waits, are the model's readings (logs 45 and
46). -/
def Obligations.EngineEvents : Prop :=
  (∀ (s : State) (c q uid : Nat) (o : Op) (t : Team) (q' : Nat) (kind : CopyKind) (src dst : Nat × Nat) (rows : List CopyRow),
    s.copyHead c q = some (uid, o) → s.teamUid c uid = some t → o.kind = .copy q' kind src dst rows →
    ∃ u, exec (.copyOperationComplete c q) s = .next u ∧
      (s.copyAway rows = [] →
        let s1 := (s.copyReady c o rows).copyServe uid kind rows
        (s1.opNow c o).junk = [] → (kind.global = true → (s1.ctx t.ctx).trWr = 0) → u.mem = (s1.copyRows c (s1.opNow c o) kind src dst rows).mem)) ∧
  (∀ (s : State) (c : Nat) (o : Op) (value : Word) (src dst : Nat × Nat) (row : CopyRow) (h : Cohort), s.cohort dst.1 dst.2 = some h →
    row.len % 4 = 0 → o.got = [] → o.put = [] →
    ∃ g, (s.copyRows c o (.fill value) src dst [row]).cohort dst.1 dst.2 = some g ∧
      ∀ i, g.byte i = if row.scr ≤ i ∧ i < row.scr + row.len then (value >>> (8 * ((i - row.scr) % 4))).setWidth 8 else h.byte i) ∧
  (∀ (s : State) (c id : Nat) (remote : List (Nat × List (BitVec 32))) (t : Team) (o : Op) (g seq rank src dst region : Nat) (terms : ColTerms),
    s.opAt c id = some (t, o) → o.done = false → o.kind = .col g seq terms rank src dst region →
    let ps := s.posted c t g seq terms remote
    (∀ p ∈ ps, ∃ k u, p = .here k u terms) → t.colWaits o = false → colTurn ps g seq = true →
    let s1 := s.colWay g seq ps
    let qs := s1.posted c t g seq terms remote
    exec (.collectiveComplete c id remote) s = .next (qs.foldl (fun (s' : State) p => match p with
      | .here k u _ => s'.finishMember k u.uid g seq (qs.map (s1.sourceOf g seq terms))
      | _ => s') s1)) ∧
  (∀ (s : State) (c id : Nat) (remote : List (Nat × List (BitVec 32))) (t : Team) (o : Op) (g seq rank src dst region : Nat) (terms : ColTerms),
    s.opAt c id = some (t, o) → o.done = false → o.kind = .col g seq terms rank src dst region → terms.op = 5 →
    let ps := s.posted c t g seq terms remote
    (∀ p ∈ ps, ∃ k u x, p = .here k u x) → (∃ k u x, .here k u x ∈ ps ∧ x ≠ terms) → t.colWaits o = false →
    exec (.collectiveComplete c id remote) s = .next (s.finishCol c t.uid o true)) ∧
  ∀ (s : State) (c n : Nat) (m : MatCmd) (t : Team), ((s.core c).mtx.window.find? fun q => q.seq == n) = some m → s.teamUid c m.team = some t →
    ((t.yielding = true → (s.ctx t.ctx).forced = false) → (s.core c).mtx.canStart m = true →
      ∃ u, exec (.matrixCommandStart c n) s = .next u ∧ SameBytes s u ∧
        (u.core c).mtx.window = (s.core c).mtx.window.map fun q => if q.seq = n then { q with started := true } else q) ∧
    (m.started = true →
      exec (.matrixCommandRetire c n) s = .next ((((s.matrixEffect c m t).setCore c { (s.matrixEffect c m t).core c with
        mtx := { ((s.matrixEffect c m t).core c).mtx with
          window := ((s.matrixEffect c m t).core c).mtx.window.filter fun q => q.seq != n } })).freeEngine c)) ∧
    (m.started = false → exec (.matrixCommandRetire c n) s = .next s)

/-! ### The scheduler -/

/-- Dispatch makes the next cohort of a launch resident, one team a slot, each at packet 0 (R18, R336); a closed bin's team
at packet 0 with the lanes' arguments in v0 and the lanes without one masked off (R35); a finished team leaves its slot (R29); bins
close (R34); eviction, return and a granted GROW (R31 to R33); a launch ends, with its completion word written or dropped (R333), and a
die reaches its point (R338).  The ages of teams that become resident together, and the place of an evicted team's section, are the
model's choices (logs 65 and 59). -/
def Obligations.SchedulerEvents : Prop :=
  (∀ (s : State) (die cluster : Nat) (c : Candidate) (r : Rect), s.nextDispatch (12 * die + cluster) = some c → c.bin = none → c.rect = some r →
    s.launch c.ctx c.launch.id = some c.launch → c.launch.nextCohort ≤ (s.core c.core).freeSlots.length →
    ∃ u l, exec (.dispatchCohort die cluster) s = .next u ∧ u.launch c.ctx c.launch.id = some l ∧
      l.nextItem = c.launch.nextItem + c.launch.nextCohort ∧
      l.live = c.launch.live ++ (List.range c.launch.nextCohort).map (c.launch.nextItem + ·) ∧
      (∃ g ∈ (u.core c.core).cohorts, g.ctx = c.ctx ∧ g.launch = c.launch.id ∧ g.size = c.launch.nextCohort ∧ g.scrb = c.launch.hdr.scrb) ∧
      ∀ j, j < c.launch.nextCohort → ∃ t, u.team c.core ((s.core c.core).freeSlots.getD j 0) = some t ∧
        t.item = BitVec.ofNat 64 (c.launch.nextItem + j) ∧ t.launch = c.launch.id ∧ t.teamIdx = j ∧ t.lanes = c.launch.rcd.lanes ∧
        t.pathA = some (Path.fresh (fullMask c.launch.rcd.lanes)) ∧ t.pathB = none) ∧
  (∀ (s : State) (die cluster : Nat) (c : Candidate) (i : Nat) (b : Bin), s.nextDispatch (12 * die + cluster) = some c → c.bin = some i →
    (s.cluster (12 * die + cluster))[i]? = some b → s.launch c.ctx c.launch.id = some c.launch → 0 < c.launch.hdr.bb →
    (s.core c.core).freeSlots ≠ [] →
    let item := ((s.binTeams.find? fun e => e.1 == (12 * die + cluster, b.key, b.opener, b.ctx)).map (·.2)).getD 0
    ∃ u t l, exec (.binTeamDispatch die cluster) s = .next u ∧
      u.cluster (12 * die + cluster) = (s.cluster (12 * die + cluster)).eraseIdx i ∧
      u.launch c.ctx c.launch.id = some l ∧ l.live = c.launch.live ++ [item] ∧
      u.team c.core ((s.core c.core).freeSlots.getD 0 0) = some t ∧ t.item = BitVec.ofNat 64 item ∧ t.launch = c.launch.id ∧
      t.ctx = c.ctx ∧ t.teamIdx = 0 ∧ t.cohortSize = 1 ∧ t.lanes = c.launch.rcd.lanes ∧ t.pathB = none ∧
      t.pathA = some (Path.fresh (maskOf (c.launch.rcd.lanes / 32) fun k => decide (k < b.args.length))) ∧
      (∀ k, k < c.launch.rcd.lanes → wordAt (t.v.getD 0 []) k = b.args.getD k 0) ∧
      ∀ r k, 0 < r → r < 8 * c.launch.hdr.bb → wordAt (t.v.getD r []) k = 0) ∧
  (∀ (s : State) (c slot : Nat) (t : Team), s.team c slot = some t →
    (s.finished c t = true → ∃ u, exec (.teamExit c slot) s = .next u ∧ u.team c slot = none) ∧
    (s.finished c t = false → exec (.teamExit c slot) s = .next s)) ∧
  (∀ (s : State) (die cluster n : Nat) (b : Bin), (s.cluster (12 * die + cluster))[n]? = some b → b.closed = false →
    b.atEnd = none → b.timer ≤ s.tick.toNat →
    ∃ u, exec (.binTimerExpiry die cluster n) s = .next u ∧
      (u.cluster (12 * die + cluster))[n]? = some { b with closed := true, closedSeq := s.serial }) ∧
  (∀ (s : State) (c x slot : Nat) (g t : Team), (s.core c).oldestGrow = some (x, g) → s.canGrow c g = false →
    (∀ e ∈ (s.core c).teams, s.blocked c e.1 e.2 = true) → (s.core c).youngest g.uid = some (slot, t) →
    Table.get (s.core c).teams slot = some t → (∀ pg, (s.page pg).replicated = false) →
    let bytes := imageSection (t.section' c slot)
    let place := spillPlace (s.spilled t.ctx) bytes.length
    let kept := bytes.take (4096 * (s.ctx t.ctx).saveSize.toNat - place)
    s.imageAway t.ctx ((s.ctx t.ctx).save + place) kept.length = [] →
    ∃ u, exec (.evictTeam c) s = .next u ∧ u.team c slot = none ∧
      (u.core c).evicted = (s.core c).evicted ++ [(slot, { t with spillAt := (place, kept.length) })]) ∧
  (∀ (s : State) (c slot : Nat) (t : Team), s.oldestEvicted c = some (slot, t) → slot ∈ (s.core c).freeSlots →
    (∀ e ∈ (s.core c).teams, e.2.growPending = true → t.age ≤ e.2.age) → (s.core c).regBytes + t.frameBytes ≤ 16384 * (s.core c).bndReg →
    t.denied = [] → ∃ u, exec (.returnEvictedTeam c) s = .next u ∧ u.team c slot = some t) ∧
  (∀ (s : State) (c slot : Nat) (t : Team), (s.core c).oldestGrow = some (slot, t) → s.canGrow c t = true →
    exec (.growGrant c) s = .next (s.setTeam c slot { t.grown with granted := true })) ∧
  (∀ (s : State) (x n : Nat) (l : Launch), s.launch x n = some l → s.complete x l = true → l.rcd.cwa = 0 →
    ∃ u, exec (.launchCompletion x n) s = .next u ∧ u.launch x n = none ∧ (l.parent = none → (u.ctx x).state = 0)) ∧
  (∀ (s : State) (x n : Nat) (l : Launch), s.launch x n = some l → s.complete x l = true → l.rcd.cwa ≠ 0 →
    (∀ da uc hw, s.check x Intent.store l.rcd.cwa = .found (.dev da false uc hw) →
      ∃ u, exec (.launchCompletion x n) s = .next u ∧ u.launch x n = none ∧ (l.parent = none → (u.ctx x).state = 0) ∧
        ((s.ctx x).trCtl.getLsbD 0 = false → Memory.readList u.mem da 4 = leBytes 4 l.rcd.cwv.toNat)) ∧
    (∀ aux, s.check x Intent.store l.rcd.cwa = .fault aux → aux.getLsbD 4 = false →
      ∃ u, exec (.launchCompletion x n) s = .next u ∧ u.launch x n = none ∧ (l.parent = none → (u.ctx x).state = 0) ∧
        (u.ctx x).cwf = true)) ∧
  (∀ (s : State) (d : Nat), ∃ u, exec (.operatingPointStable d) s = .next u ∧ (u.die d).point = (u.die d).target ∧
    (u.die d).target = min (s.capOf d) ((s.hints d).foldl max 0) ∧
    ∀ c slot t, dieOf c = d → u.team c slot = some t → t.pointWait = false) ∧
  ∀ (s : State) (x n : Nat) (l : Launch), s.launch x n = some l →
    ∃ u m, exec (.dependenceRecheck x n) s = .next u ∧ u.launch x n = some m ∧
      m.ready = (l.ready || ((l.dep0Met || s.depMet x l.rcd.dep0a l.rcd.dep0v) && (l.dep1Met || s.depMet x l.rcd.dep1a l.rcd.dep1v)))

/-- A root start (R327, R328): refused with 0x04 while a root holds the context, 0x05 before stage C or without a page table, 0x03
without a record, 0x02 for a failed read, 0x01 for a record not valid, 0x06 for an image not attested; else the launch is
accepted at depth 0 and the context holds its root. -/
def Obligations.RootStart : Prop :=
  ∀ (s : State) (x : Nat), x < 64 →
    let k := s.ctx x
    let refused := fun (err : BitVec 8) (st : Nat) => ∃ u, exec (.rootStart x) s = .next u ∧ (u.ctx x).err = err ∧ (u.ctx x).state = st ∧
      (u.ctx x).launches = k.launches
    (k.state = 2 → refused 0x04 2) ∧ (k.state = 1 → refused 0x04 1) ∧
    (k.state ≠ 2 → k.state ≠ 1 → s.stage ≠ 3 ∨ k.ptb = 0 → refused 0x05 3) ∧
    (k.state ≠ 2 → k.state ≠ 1 → s.stage = 3 → k.ptb ≠ 0 →
      (k.csrec = 0 → refused 0x03 3) ∧
      (k.csrec ≠ 0 →
        let s1 := s.readRecord x 0 k.csrec
        (s1.examine x 0 k.csrec = .invalid → refused 0x01 3) ∧
        (∀ va aux, s1.examine x 0 k.csrec = .stop (.fault va aux) → aux.getLsbD 4 = false → refused 0x02 3) ∧
        (s1.examine x 0 k.csrec = .withheld → refused 0x05 3) ∧
        (s1.examine x 0 k.csrec = .unattested → refused 0x06 3) ∧
        ∀ r h ds, s1.examine x 0 k.csrec = .good r h ds →
          ∃ u, exec (.rootStart x) s = .next u ∧ (u.ctx x).state = 2 ∧ (u.ctx x).err = 0 ∧
            (u.ctx x).root = BitVec.ofNat 32 (s1.accept x none 0 r h ds none).1 ∧ (u.ctx x).launches.length = k.launches.length + 1))

/-! ### Capacity -/

/-- Writeback, ladles and migration (R173 to R177, R191, R267, R324): lines leave L2, a refill answers and the store issues
again, an unused ladle returns, a page comes in, goes out, or stays away.  That the path issues again at once, and that a die evicts
all its lines of a block together, are the model's choices (logs 1 and 18). -/
def Obligations.CapacityEvents : Prop :=
  (∀ (s : State) (d b : Nat), d < 2 → ∃ u, exec (.blockWriteback d b) s = .next u ∧ ∀ i, i < 4 → u.line d (4 * b + i) = none) ∧
  (∀ (s : State) (c slot a b : Nat) (t : Team) (p : Path), s.team c slot = some t → t.pathA = some p → p.refill = some (a, b) → a + b ≠ 0 →
    (s.ctx t.ctx).trCtl.getLsbD 0 = false →
    let l := (s.ladle c t.ctx).getD ⟨t.ctx, 0, 0, 0, 0, false⟩
    let b0 := l.bal0 + if a = 0 then 0 else grantOf (s.reserve 0) a
    let b1 := l.bal1 + if b = 0 then 0 else grantOf (s.reserve 1) b
    ∃ u t', exec (.ladleRefill c slot) s = .next u ∧ u.team c slot = some t' ∧
      t'.pathA = some { p with
        refill := some (0, 0), answer := some (if p.needs.1 ≤ b0 ∧ p.needs.2 ≤ b1 then (true, p.needs) else (false, b0, b1)) } ∧
      u.agenda = .issue c slot false :: s.agenda ∧ t'.v = t.v) ∧
  (∀ (r : Int) (n : Nat), 0 < n →
    (((4096 * ((n + 4095) / 4096) : Nat) : Int) ≤ r → grantOf r n = 4096 * ((n + 4095) / 4096)) ∧
    (r < ((4096 * ((n + 4095) / 4096) : Nat) : Int) → ((16 * ((n + 15) / 16) : Nat) : Int) ≤ r → grantOf r n = 16 * ((n + 15) / 16)) ∧
    (r < ((16 * ((n + 15) / 16) : Nat) : Int) → grantOf r n = 0)) ∧
  (∀ (s : State) (c x : Nat) (l : Ladle), s.ladle c x = some l → l.transit0 = 0 → l.transit1 = 0 → (∀ e ∈ (s.core c).teams, e.2.ctx ≠ x) →
    ∃ u, exec (.ladleReturn c x) s = .next u ∧ u.ladle c x = none ∧ u.die0.free = s.die0.free + l.bal0 ∧ u.die1.free = s.die1.free + l.bal1) ∧
  (∀ (s : State) (pg : Nat), (s.page pg).state = .migrating → (∀ e ∈ s.ctxs, e.2.state ≠ 1) → (∀ e ∈ s.pages, e.1 = pg → e.2.queued = none) →
    ((s.page pg).toTier = true → ∃ u, exec (.migrationComplete pg) s = .next u ∧ (u.page pg).state = .remote) ∧
    ((s.page pg).toTier = false → (s.pageGranules pg : Int) ≤ s.reserve (homeDie (65536 * pg)) →
      ∃ u, exec (.migrationComplete pg) s = .next u ∧ (u.page pg).state = .resident) ∧
    ((s.page pg).toTier = false → ∃ u, exec (.migrationFailed pg true) s = .next u ∧ (u.page pg).state = .remote ∧ (u.page pg).failed = true) ∧
    ((s.page pg).toTier = true → ∃ u, exec (.migrationFailed pg true) s = .next u ∧ (u.page pg).state = .resident)) ∧
  ∀ s : State, s.tick.toNat / 2 ^ 20 ≠ s.window →
    ∃ u, exec .replicationWindowClear s = .next u ∧ u.window = s.tick.toNat / 2 ^ 20 ∧ ∀ e ∈ u.pages, e.2.reads = 0 ∧ e.2.writes = 0

/-- The driver's commands on a page, of which 32 move at once on a die and others wait (R267), its capacity policy, its balloon
requests and its invalidations (R14, R357 to R359).  What a command comes to for each state of a page, and that commanded migrations
wait among the others, are the model's readings (logs 48 and 50). -/
def Obligations.DriverEvents : Prop :=
  (∀ (s : State) (d x : Nat) (va : BitVec 48), d < 2 → (s.die d).migSt ≠ 1 → (s.ctx x).trCtl.getLsbD 0 = false →
    let at' := s.mappedPage x (va.toNat / 65536 * 65536)
    let ends := fun (e : Instr) (st why : Nat) => ∃ u, exec e s = .next u ∧ (u.die d).migSt = st ∧ (u.die d).migWhy = why
    (at' = none → ends (.migrateToCapacityTier d x va) 3 3 ∧ ends (.migrateToHbm d x va) 3 3 ∧ ends (.pinPage d x va) 3 3 ∧ ends (.unpinPage d x va) 3 3) ∧
    ∀ pg pin, at' = some (pg, pin) →
      ((pin = true ∨ (s.page pg).pin = true) → (s.page pg).state = .resident ∨ (s.page pg).state = .migrating →
        ends (.migrateToCapacityTier d x va) 3 1) ∧
      ((s.page pg).state = .remote ∨ (s.page pg).state = .unbacked → ends (.migrateToCapacityTier d x va) 2 0) ∧
      (pin = false → (s.page pg).pin = false → (s.page pg).window = false → (s.page pg).state = .resident → s.tierFull = false →
        (s.page pg).queued = none → ∃ u, exec (.migrateToCapacityTier d x va) s = .next u ∧ (u.page pg).toTier = true ∧ (u.die d).migSt = 1 ∧
          (s.migrating (homeDie (65536 * pg)) < 32 → (u.page pg).state = .migrating) ∧
          (32 ≤ s.migrating (homeDie (65536 * pg)) → (u.page pg).state = .resident ∧ (u.page pg).queued = some s.serial)) ∧
      ((s.page pg).state = .remote → (s.page pg).queued = none → ∃ u, exec (.migrateToHbm d x va) s = .next u ∧
        (u.page pg).toTier = false ∧ (u.die d).migSt = 1 ∧
        (s.migrating (homeDie (65536 * pg)) < 32 → (u.page pg).state = .migrating) ∧
        (32 ≤ s.migrating (homeDie (65536 * pg)) → (u.page pg).state = .remote ∧ (u.page pg).queued = some s.serial)) ∧
      ((s.page pg).state = .resident ∨ (s.page pg).state = .unbacked → ends (.migrateToHbm d x va) 2 0) ∧
      (∃ u, exec (.pinPage d x va) s = .next u ∧ (u.page pg).pin = true ∧ (u.die d).migSt = 2) ∧
      ∃ u, exec (.unpinPage d x va) s = .next u ∧ (u.page pg).pin = false ∧ (u.die d).migSt = 2) ∧
  (∀ (s : State) (d : Nat) (w : BitVec 32), d < 2 →
    ((∀ e ∈ s.ctxs, e.2.ptb = 0) → ∃ u, exec (.capcfgWrite d w) s = .next u ∧ (u.die d).ovc = max 256 (min 768 (w.toNat % 1024)) ∧
      SameBytes s u) ∧
    ((∃ e ∈ s.ctxs, e.2.ptb ≠ 0) → exec (.capcfgWrite d w) s = .next s)) ∧
  (∀ (s : State) (x : Nat) (w : BitVec 32), x < 64 →
    (w ≠ 0 → ∃ u, exec (.balloonRequest x w) s = .next u ∧ (u.ctx x).blnReq = w ∧ (u.ctx x).blnOpen = true ∧ (u.ctx x).blnCred = 0 ∧
      (u.ctx x).blnId = (if (s.ctx x).blnId + 1 = 0 then 1 else (s.ctx x).blnId + 1) ∧
      (u.ctx x).blnRepl = ((s.ctx x).blnOpen || (s.ctx x).blnRepl)) ∧
    ∃ u, exec (.balloonClose x) s = .next u ∧ (u.ctx x).blnOpen = false) ∧
  ∀ (s : State) (x : Nat) (w : BitVec 64), x < 64 →
    ((s.ctx x).invDone = true → ∃ u, exec (.translationInvalidate x w) s = .next u ∧ (u.ctx x).invDone = !w.getLsbD 0 ∧
      (u.ctx x).invReg = w &&& 0xFFFFFFFFFFFF0004 ∧ (w.getLsbD 0 = true → (u.ctx x).invRange = (u.ctx x).invReg)) ∧
    ((s.ctx x).invDone = false → w.getLsbD 0 = true → exec (.translationInvalidate x w) s = .next s) ∧
    ((s.ctx x).invDone = false → s.accessing x = false → ∃ u, exec (.invalidationDone x) s = .next u ∧ (u.ctx x).invDone = true ∧
      ((s.ctx x).invRange.getLsbD 2 = true → (u.ctx x).xlat = []) ∧
      let first := bits (s.ctx x).invRange.toNat 47 16 * 65536
      let past := first + 65536 * (bits (s.ctx x).invRange.toNat 63 48 + 1)
      (∀ e ∈ (u.ctx x).xlat, ¬ (e.1 < past ∧ first < e.1 + e.2.1)) ∧
        ∀ e ∈ u.former, e.1 = x → ¬ (e.2.1 < past ∧ first < e.2.1 + e.2.2.1))

/-! ### Preemption and the end of a context -/

/-- A request starts a save, or sets SZERR where the area is too small; the deadline and FORCE force it; a team with nothing in
flight is saved and its slot freed; a save ends in state 010; RESUME restores the image this device wrote; a teardown leaves
the context as reset (R340, R347 to R351, R360).  That RESUME compares the image with the one written, and on which die the
deadline's cycles are counted, are the model's readings (logs 21, 23), and so is which registers a teardown leaves as reset (log 57). -/
def Obligations.PreemptionEvents : Prop :=
  (∀ (s : State) (x : Nat), x < 64 → (s.ctx x).pstate = 0 →
    (s.saveBound x ≤ (s.ctx x).saveSize.toNat * 4096 → ∃ u, exec (.preemptRequest x) s = .next u ∧ (u.ctx x).pstate = 1 ∧ (u.ctx x).req = true) ∧
    ((s.ctx x).saveSize.toNat * 4096 < s.saveBound x → ∃ u, exec (.preemptRequest x) s = .next u ∧ (u.ctx x).szerr = true ∧
      (u.ctx x).pstate = 0 ∧ (u.ctx x).req = (s.ctx x).req)) ∧
  (∀ (s : State) (x : Nat), x < 64 →
    ((s.ctx x).pstate ≠ 0 → exec (.preemptRequest x) s = .next (s.setCtx x { s.ctx x with req := true })) ∧
    ((s.ctx x).pstate ≠ 1 → exec (.preemptWithdraw x) s = .next (s.setCtx x { s.ctx x with req := false }))) ∧
  (∀ (s : State) (x : Nat), x < 64 → (s.ctx x).pstate = 1 → (s.ctx x).forced = false →
    let held := fun (u : State) => (u.ctx x).forced = true ∧ ∀ c slot t, u.team c slot = some t → t.ctx = x → t.yielding = true
    ((s.ctx x).deadline.toNat ≤ s.die0.cycle - (s.ctx x).reqCycle → ∃ u, exec (.preemptDeadline x) s = .next u ∧ held u) ∧
    (s.die0.cycle - (s.ctx x).reqCycle < (s.ctx x).deadline.toNat → exec (.preemptDeadline x) s = .next s) ∧
    (∃ u, exec (.preemptForce x) s = .next u ∧ held u) ∧
    ((s.ctx x).saved = [] → ∃ u, exec (.preemptWithdraw x) s = .next u ∧ (u.ctx x).pstate = 0 ∧ (u.ctx x).req = false) ∧
    ((s.ctx x).saved ≠ [] → ∃ u, exec (.preemptWithdraw x) s = .next u ∧ (u.ctx x).pstate = 3 ∧ (u.ctx x).req = false)) ∧
  (∀ (s : State) (c slot : Nat) (t : Team), s.team c slot = some t → t.yielding = true → (s.ctx t.ctx).pstate = 1 → s.mustFinish c t = false →
    ∃ u, exec (.yieldSave c slot) s = .next u ∧ u.team c slot = none ∧
      ∃ e ∈ (u.ctx t.ctx).saved, e.core = c ∧ (Table.get e.teams slot).isSome = true) ∧
  (∀ (s : State) (x : Nat), (s.ctx x).pstate = 1 → (∀ e ∈ s.resident, e.2.2.ctx ≠ x) →
    (∀ e ∈ s.cores, (∀ l ∈ e.2.ladles, l.ctx ≠ x) ∧ (∀ h ∈ e.2.cohorts, h.ctx ≠ x) ∧ (∀ t ∈ e.2.evicted, t.2.ctx ≠ x) ∧
      ∀ o, e.2.mtx.owner = some o → o.1 ≠ x) →
    s.imageAway x (s.ctx x).save ((s.putBins x).ctx x).image.length = [] →
    ∃ u, exec (.saveComplete x) s = .next u ∧ (u.ctx x).pstate = 2) ∧
  (∀ (s : State) (x : Nat), x < 64 → (s.ctx x).pstate = 2 →
    (∀ e, s.imageAt x = some e → ∃ u, exec (.resume x) s = .next u ∧ (u.ctx x).pstate = 3 ∧ (u.ctx x).saved = e.saved) ∧
    (s.imageAt x = none → ∃ u, exec (.resume x) s = .next u ∧ (u.ctx x).pstate = 2 ∧ (u.ctx x).err = 0x07)) ∧
  (∀ (s : State) (x : Nat), (s.ctx x).pstate = 3 → (s.ctx x).forced = false → (s.ctx x).saved = [] →
    (∀ e ∈ s.cores, ∀ t ∈ e.2.evicted, t.2.ctx = x → t.2.uid ∉ (s.ctx x).awaited) →
    ∃ u, exec (.restoreComplete x) s = .next u ∧ (u.ctx x).pstate = 0 ∧ (u.ctx x).req = false) ∧
  (∀ (s : State) (x : Nat), x < 64 → ∃ u, exec (.driverContextTeardown x) s = .next u ∧ u.ctx x = Ctx.reset ∧
    (∀ c slot t, u.team c slot = some t → t.ctx ≠ x) ∧ u.pf.ctxOwn = s.pf.ctxOwn) ∧
  ∀ (s : State) (fn : Nat), 0 < fn → fn < 32 → ∃ u, exec (.functionLevelReset fn) s = .next u ∧
    ∀ x n, x < 64 → s.owner x = some (fn, n) → u.ctx x = Ctx.reset

/-! ### Debugging -/

/-- Attach and detach, stepping, cancelling and resuming a stopped team, comparators and stop-on-tick (R292, R302 to R305), and a
PC sample, which moves its scheduler to the next slot and comes no sooner than a period after the last (R297).  How a command is
cancelled, and the phase of the period, are the model's readings (logs 20 and 51). -/
def Obligations.DebugEvents : Prop :=
  (∀ (s : State) (x : Nat), x < 64 →
    (∃ u, exec (.debugAttach x) s = .next u ∧ (u.ctx x).attach = true ∧ u.cores = s.cores) ∧
    ∃ u, exec (.debugDetach x) s = .next u ∧ (u.ctx x).attach = false ∧
      ∀ c slot t, u.team c slot = some t → t.ctx = x → t.stopped = false) ∧
  (∀ (s : State) (x c slot : Nat) (side : Bool), x < 64 → (s.ctx x).dbgBusy = false →
    (s.debugTeam x c slot = none →
      (∃ u, exec (.debugStep x c slot side) s = .next u ∧ (u.ctx x).dbgErr = true) ∧
      (∃ u, exec (.debugStepToRetire x c slot side) s = .next u ∧ (u.ctx x).dbgErr = true) ∧
      ∃ u, exec (.debugResume x c slot) s = .next u ∧ (u.ctx x).dbgErr = true) ∧
    ∀ t, s.debugTeam x c slot = some t →
      (∃ u t', exec (.debugResume x c slot) s = .next u ∧ u.team c slot = some t' ∧ t'.stopped = false ∧ t'.step = none) ∧
      ((t.at side).isSome = true → ∃ u t', exec (.debugStep x c slot side) s = .next u ∧ u.team c slot = some t' ∧ t'.stopped = false ∧
        t'.step = some (side, false) ∧ (u.ctx x).dbgBusy = true) ∧
      let waits := { t.letGo with step := some (side, true), stepCommand := (t.at side).bind (·.lastCommand) }
      (s.commandRetired c waits = true → exec (.debugStepToRetire x c slot side) s = .next s) ∧
      (s.commandRetired c waits = false → ∃ u t', exec (.debugStepToRetire x c slot side) s = .next u ∧ u.team c slot = some t' ∧
        t'.stopped = false ∧ t'.step = some (side, true) ∧ (u.ctx x).dbgBusy = true)) ∧
  (∀ (s : State) (c slot : Nat) (t : Team) (side : Bool), s.team c slot = some t →
    (t.step = some (side, false) → t.ctx < 64 → ∃ u t', exec (.debugCancelWait t.ctx c slot side) s = .next u ∧ u.team c slot = some t' ∧
      t'.stopped = true ∧ t'.step = none ∧ (u.ctx t.ctx).dbgBusy = false) ∧
    ((t.step = some (side, true) ∧ s.commandRetired c t = true) ∨ (t.step = some (side, false) ∧ t.at side = none) →
      ∃ u t', exec (.debugStepEnd c slot) s = .next u ∧ u.team c slot = some t' ∧ t'.stopped = true ∧ t'.step = none) ∧
    ∀ n p, n < 8 → t.at side = some p →
      ((s.ctx t.ctx).attach = true → ∃ u t' p', exec (.comparatorHit c slot side n) s = .next u ∧ u.team c slot = some t' ∧ t'.stopped = true ∧
        t'.at side = some p' ∧ p'.pc = p.pc ∧ p'.word = p.word ∧ p'.s = p.s) ∧
      ((s.ctx t.ctx).attach = false →
        exec (.comparatorHit c slot side n) s = .next (s.takeTrap c slot side 0x0D (BitVec.ofNat 64 (0x100 + n)) 0 0).used)) ∧
  (∀ (s : State) (c slot n : Nat) (t : Team) (rest : List (Nat × Team)), c < 2304 → n < 2 → (s.core c).visits n = (slot, t) :: rest →
    (s.cycle c < (s.core c).due n → exec (.pcSample c n) s = .next s) ∧
    ((s.core c).due n ≤ s.cycle c → ∃ u, exec (.pcSample c n) s = .next u ∧ s.cycle c < (u.core c).due n ∧
      (u.core c).sample0 = (if n = 0 then slot + 1 else (s.core c).sample0) ∧
      (u.core c).sample1 = if n = 0 then (s.core c).sample1 else slot + 1)) ∧
  ∀ s : State,
    (s.pf.stopped = false → ∃ u, exec .stopArm s = .next u ∧ u.pf.armed = true ∧
      u.pf.due = if s.tick < s.pf.stopTick then s.pf.stopTick else s.tick + 1) ∧
    (s.pf.armed = true → s.pf.stopped = false → s.pf.due ≤ s.tick → (∀ pg, (s.page pg).replicated = false) →
      ∃ u, exec .stopOnTick s = .next u ∧ u.pf.stopped = true ∧ u.pf.stopAt = s.tick ∧ u.cores = s.cores) ∧
    (s.pf.stopped = true → ∃ u, exec .stopRelease s = .next u ∧ u.pf.stopped = false ∧ u.pf.armed = false ∧ u.cores = s.cores ∧
      SameBytes s u ∧ u.die0.tick = if s.ticksRun then s.die0.tick + 1 else s.die0.tick)

/-! ### Registers -/

/-- A write to a register gives back, when read, the bits the register keeps; read-only registers ignore writes (R4, R292, R295, R325,
R340, R352, R358, R360, R361, R365, R373, R380), once stage C is complete (R362).  That an offset naming no register ignores a write is
the model's choice (log 61). -/
def Obligations.RegisterWrites : Prop :=
  (∀ (s : State) (fn off : Nat) (r : Reg) (w : BitVec 64), s.stage = 3 → fn < 32 → s.regAt fn off = some r →
    let reads := fun (m : Nat) => ∃ u, exec (.registerWrite fn off w) s = .next u ∧ u.readReg r = m ∧ SameBytes s u ∧ u.cores = s.cores
    (∀ x, r = .start x 0x00 → reads (w &&& 0x0000FFFFFFFFFFC0).toNat) ∧ (∀ x, r = .start x 0x18 → reads (w &&& 0x0000FFFFFFFFFFC0).toNat) ∧
    (∀ x, r = .start x 0x20 → reads (w &&& 0x0000FFFFFFFFF000).toNat) ∧ (∀ x, r = .start x 0x28 → reads (w.toNat % 2 ^ 32)) ∧
    (∀ x, r = .start x 0x30 → reads (w.toNat % 2 ^ 32)) ∧ (∀ x, r = .start x 0x40 → reads (w &&& 0x000001FFFFFFF000).toNat) ∧
    (∀ x, r = .window x 0x00 → reads w.toNat) ∧ (∀ x, r = .window x 0x08 → reads (w.toNat % 2 ^ 32)) ∧
    (∀ x, r = .window x 0x14 → reads 0) ∧ (∀ x, r = .window x 0x18 → reads ((w.toNat % 2 ^ 32) &&& 0x001F1FFF)) ∧
    (∀ n, r = .hmRange n → reads (w &&& 0xFFFFFFFFFFFF0000).toNat) ∧ (∀ n, r = .cmp n → reads (w &&& 0x80FFFFFFFFFFFFFF).toNat) ∧
    (r = .stopTick → reads w.toNat) ∧ (r = .pwrCtl → reads (max 600 (min 2800 (w.toNat % 4096)) + s.pf.tcap * 2 ^ 16)) ∧
    ((∃ h, r = .mreg h) ∨ r = .attMap ∨ r = .devStat ∨ r = .stopAt ∨ (∃ h, r = .rasLog h) ∨ (∃ k, r = .rasCnt k) →
      exec (.registerWrite fn off w) s = .next s)) ∧
  (∀ (s : State) (fn off : Nat) (w : BitVec 64), fn < 32 →
    (s.regAt fn off = none → exec (.registerWrite fn off w) s = .next s) ∧
    ∀ d, s.stage = 3 → d < 2 → s.regAt fn off = some (.mig d 0) → ∃ u, exec (.registerWrite fn off w) s = .next u ∧
      u.readReg (.mig d 0) = (w &&& 0x0000FFFFFFFF3F00).toNat) ∧
  (∀ (s : State) (x : Nat) (w : BitVec 32), x < 64 →
    ((s.ctx x).launches = [] → (s.ctx x).pstate ≠ 2 → ∃ u, exec (.ctxownWrite x w) s = .next u ∧
      u.readReg (.ctxOwn x) = (w &&& 0x801F003F).toNat ∧ ∀ y, y ≠ x → u.owner y = s.owner y) ∧
    ((s.ctx x).launches ≠ [] ∨ (s.ctx x).pstate = 2 → exec (.ctxownWrite x w) s = .next s) ∧
    ∃ u, exec (.trdropClear x) s = .next u ∧ (u.ctx x).trDrop = 0) ∧
  (∀ (s : State) (w : BitVec 32) (d : Nat), d < 64 →
    ((∀ e ∈ s.ctxs, e.2.launches = []) →
      (∃ u, exec (.stitchConfigWrite 0xA000 w) s = .next u ∧ u.readReg .stDev = (w &&& 0x00007F3F).toNat) ∧
      ∃ u, exec (.stitchConfigWrite (0xA100 + 4 * d) w) s = .next u ∧ u.readReg (.stRoute d) = (w &&& 0xFFFF).toNat) ∧
    ((∃ e ∈ s.ctxs, e.2.launches ≠ []) → exec (.stitchConfigWrite 0xA000 w) s = .next s)) ∧
  ∀ (s : State) (w : BitVec 64), s.stage ≠ 0 → ∃ u, exec (.attmapWrite w) s = .next u ∧
    ∀ x, x < 64 → u.pf.attMap.getLsbD x =
      if (s.ctx x).launches ≠ [] ∨ (s.ctx x).pstate = 2 then s.pf.attMap.getLsbD x else w.getLsbD x

/-! ### Start, power, sideband, metering, health -/

/-- Staged start and its failures, with the core maps and the routes of the fabric that it fixes (R10, R271, R362, R363), idle states
(R364), operating points under power and thermal caps (R365).  The record of fused cores and the places of stops on the loops are the
model's (logs 25 and 76). -/
def Obligations.StartAndPower : Prop :=
  (∀ s : State, (s.shutdown = false → s.meter.epoch ≠ 0 → ∃ u, exec .perstRelease s = .next u ∧ u.released = true ∧ u.stage = s.stage) ∧
    (s.stage = 0 → s.released = true → s.shutdown = false → s.meter.epoch ≠ 0 → ∃ u, exec .stageAComplete s = .next u ∧ u.stage = 1 ∧ u.ticksRun = true ∧
      u.side.replies = s.side.kept.map (0, ·) ++ s.side.replies) ∧
    (s.stage = 0 → s.released = false → exec .stageAComplete s = .next s) ∧
    (s.shutdown = true ∨ s.meter.epoch = 0 → exec .perstRelease s = .next s ∧ exec .stageAComplete s = .next s)) ∧
  (∀ (s : State) (fw h0 h1 c0 c1 : Bool), s.stage = 1 →
    (fw = false → ∃ u, exec (.stageBComplete fw h0 h1 c0 c1) s = .next u ∧ u.stage = 4 ∧ u.stageErr = 0x10) ∧
    (fw = true → h0 = false → h1 = false → ∃ u, exec (.stageBComplete fw h0 h1 c0 c1) s = .next u ∧ u.stage = 4 ∧ u.stageErr = 0x11) ∧
    (fw = true → h0 = true ∨ h1 = true → ∃ u, exec (.stageBComplete fw h0 h1 c0 c1) s = .next u ∧ u.stage = 2 ∧
      u.ras.mapped = s.ras.faulty ∧ u.ras.rowRepairs = [] ∧ (h0 = false ∨ c0 = false ∨ s.ras.broken 0 ≠ [] → u.die0.withheld = true) ∧
      (h1 = false ∨ c1 = false ∨ s.ras.broken 1 ≠ [] → u.die1.withheld = true))) ∧
  (∀ (s : State) (fa st : Bool) (off : BitVec 64), s.stage = 2 →
    (fa = false → ∃ u, exec (.stageCComplete fa st off) s = .next u ∧ u.stage = 4 ∧ u.stageErr = 0x12) ∧
    (fa = true → st = false → ∃ u, exec (.stageCComplete fa st off) s = .next u ∧ u.stage = 4 ∧ u.stageErr = 0x13) ∧
    (fa = true → st = true → ∃ u, exec (.stageCComplete fa st off) s = .next u ∧ u.stage = 3 ∧ u.tickOffset = off ∧
      u.routes = allRoutes ∧
      u.d0ok = !s.die0.withheld ∧ u.d1ok = !s.die1.withheld ∧ u.die0.free = u.die0.pool ∧ u.die1.free = u.die1.pool)) ∧
  (∀ (s : State) (a b level place : Nat),
    (∃ u, exec (.ltrMessage a b) s = .next u ∧ u.ltr = min a b ∧ ∀ q ∈ u.idlePlaces, exitLatency (q / 4096) ≤ min a b) ∧
    (s.idleHolds level place = true → exitLatency level ≤ s.ltr →
      ∃ u l p, exec (.idleEntry level place) s = .next u ∧ 4096 * l + p ∈ u.idlePlaces ∧ (l, p) ∈ idleChain level place ∧
        s.idleHolds l p = true ∧ exitLatency l ≤ s.ltr ∧
        ∀ e ∈ idleChain level place, l < e.1 → s.idleHolds e.1 e.2 = false ∨ s.ltr < exitLatency e.1) ∧
    ((∀ e ∈ idleChain level place, s.idleHolds e.1 e.2 = false ∨ s.ltr < exitLatency e.1) →
      exec (.idleEntry level place) s = .next s) ∧
    (place < 4096 → level ≤ 3 → ∃ u, exec (.idleWake level place) s = .next u ∧
      (level = 0 → place ∉ u.idlePlaces ∧ 4096 + place / 96 ∉ u.idlePlaces ∧ 8192 + place / 1152 ∉ u.idlePlaces ∧ 12288 ∉ u.idlePlaces))) ∧
  (∀ (s : State) (d : Nat) (watts : List Nat), d < 2 → s.stage ≠ 0 → ∃ u, exec (.powerCapEvaluation d watts) s = .next u ∧
    (u.die d).effCap = highestPoint watts s.pf.watts ∧ (u.die d).point ≤ u.capOf d) ∧
  ∀ (s : State) (c : Nat), s.stage ≠ 0 →
    (∃ u, exec (.tcapStep c) s = .next u ∧ u.pf.tcap = if c < 95 then min 7 (s.pf.tcap + 1) else if c < 105 then s.pf.tcap - 1 else 0) ∧
    (105 ≤ c → ∃ u, exec (.thermalCapZero c) s = .next u ∧ u.pf.tcap = 0) ∧ (c < 105 → exec (.thermalCapZero c) s = .next s) ∧
    (115 ≤ c → ∃ u, exec (.thermalShutdown c) s = .next u ∧ u.shutdown = true ∧ u.cores = [] ∧ u.stage = 0 ∧
      u.side.kept = leBytes 8 c :: s.side.kept) ∧
    (c < 115 → exec (.thermalShutdown c) s = .next s)

/-- From stage A on every sideband request is answered by one message (R366); writes of region entries, reports, checkpoints, the
power-on and the allow-list (R373, R377 to R380).  Contents that the spec does not give are free (log 8); the numbers of the state
sensors, and the gap told where no checkpoint exists, are the model's (logs 22 and 24). -/
def Obligations.SidebandAndMetering : Prop :=
  (∀ (s : State) (cmd slot : BitVec 8) (sensor image off : Nat) (ok p h : Bool) (nonce : BitVec 256) (r : Reg), s.stage ≠ 0 →
    let answers := fun (e : Instr) (n : Nat) => ∃ u bs, exec e s = .next u ∧ u.side.replies = (n, bs) :: s.side.replies ∧ SameBytes s u ∧
      u.cores = s.cores
    answers (.mctpControlMessage cmd) 1 ∧ answers (.pldmSensorRead sensor) 2 ∧ answers (.pldmFirmwareUpdate image ok) 3 ∧
    answers .getVersion 4 ∧ answers .getCapabilities 5 ∧ answers (.negotiateAlgorithms p h) 6 ∧ answers .getDigests 7 ∧
    answers (.getCertificate slot) 8 ∧ answers (.challenge nonce) 9 ∧ answers (.getMeasurements nonce) 10 ∧
    (mirrored off = some r → ∃ u, exec (.vendorRegisterAccess false off 0) s = .next u ∧
      u.side.replies = (11, leBytes 8 (s.readReg r)) :: s.side.replies) ∧
    (∃ u, exec (.pldmFirmwareUpdate image true) s = .next u ∧ u.side.staged = some image) ∧
    let reads := fun (n value : Nat) => ∃ u, exec (.pldmSensorRead n) s = .next u ∧ u.side.replies = (2, leBytes 4 value) :: s.side.replies
    reads 0 s.stage ∧ reads 1 s.d0ok.toNat ∧ reads 2 s.d1ok.toNat ∧
      reads 3 (if s.shutdown = true then 3 else if s.pf.tcap = 0 then 2 else if s.pf.tcap < 7 then 1 else 0)) ∧
  (∀ (s : State) (n : Nat) (w : BitVec 128), n < 1024 → s.stage ≠ 0 →
    let old := (Table.get s.meter.regions n).getD Region.reset
    let on := w.getLsbD 0
    (old.en = true → on = true → exec (.mregWrite n w) s = .next s) ∧
    (on = true → old.en = false → old.reported = false →
      BitVec.ofNat 16 (bits w.toNat 47 32) ≠ old.tenant ∨ BitVec.ofNat 16 (bits w.toNat 31 16) ≠ old.rid → exec (.mregWrite n w) s = .next s) ∧
    (on = false ∨ (old.en = false ∧ old.reported = true ∧ s.meter.fuse < 4096 ∧ s.meter.final = false) →
      ∃ u g, exec (.mregWrite n w) s = .next u ∧ Table.get u.meter.regions n = some g ∧ g.en = on ∧ g.limit = bits w.toNat 104 80 ∧
        g.base = bits w.toNat 72 48 ∧ g.tenant = BitVec.ofNat 16 (bits w.toNat 47 32) ∧ g.rid = BitVec.ofNat 16 (bits w.toNat 31 16) ∧
        g.count = old.count ∧ g.reported = old.reported)) ∧
  (∀ (s : State) (nonce : BitVec 256) (tenant : BitVec 16), s.stage ≠ 0 →
    (∃ u, exec (.meteringReport nonce tenant) s = .next u ∧ u.meter.seq = s.meter.seq + 1 ∧ u.meter.gap = none ∧
      (∃ bs rest, u.side.replies = (12, bs) :: rest) ∧
      ∀ e ∈ u.meter.regions, e.2.everOn = true → tenant = 0xFFFF ∨ e.2.tenant = tenant → e.2.reported = true) ∧
    ∃ u, exec (.finalReport nonce) s = .next u ∧ u.meter.final = true ∧ ∀ e ∈ u.meter.regions, e.2.en = false) ∧
  (∀ s : State,
    (∃ u, exec .meterPowerOn s = .next u ∧ u.meter.epoch = min 4096 (s.meter.fuse + 1) ∧ u.meter.fuse = u.meter.epoch ∧ u.meter.seq = 0 ∧
      u.shutdown = false ∧ (s.meter.fuse = 0 → u.meter.gap = none) ∧ (s.meter.flash = none → u.meter.regions = []) ∧
      (s.meter.fuse ≠ 0 → s.meter.flash = none → u.meter.gap = some (0, 0)) ∧
      (∀ e t rs q o, s.meter.flash = some (e, t, rs, q, o) → e ≠ s.meter.fuse → u.meter.regions = [] ∧
        (s.meter.fuse ≠ 0 → u.meter.gap = some (e, t))) ∧
      (∀ t rs q, s.meter.flash = some (s.meter.fuse, t, rs, q, true) → u.meter.regions = rs ∧ u.meter.gap = none) ∧
      (∀ t rs q, s.meter.flash = some (s.meter.fuse, t, rs, q, false) → u.meter.regions = rs ∧
        (s.meter.fuse ≠ 0 → u.meter.gap = some (s.meter.fuse, t)))) ∧
    (s.meter.epoch ≠ 0 →
      ∃ u, exec .meterCheckpoint s = .next u ∧ u.meter.flash = some (s.meter.epoch, s.tick, s.meter.regions, s.meter.seq, false)) ∧
    ∃ u, exec .orderlyPowerDown s = .next u ∧ u.stage = 0 ∧ u.meter.regions = [] ∧ u.meter.fuse = s.meter.fuse ∧
      (s.meter.epoch ≠ 0 → u.meter.flash = some (s.meter.epoch, s.tick, s.meter.regions, s.meter.seq, true))) ∧
  ∀ (s : State) (key : Nat) (ok : Bool) (es : List (BitVec 384)),
    (ok = true → s.stage ≠ 0 → es.length ≤ 256 →
      ∃ u, exec (.allowListInstall key ok es) s = .next u ∧ u.side.allow = es ∧ u.side.key = some key) ∧
    (ok = false ∨ 256 < es.length ∨ s.stage = 0 → exec (.allowListInstall key ok es) s = .next s)

/-- Memory scrubbing and ECS counts, core faults, hop failures, starved stops, Stitch ports and the host's window (R10, R273, R356, R361,
R367 to R372).  Which block a scrubbed granule lies in, and which loops a stop sits on, are the model's (logs 26 and 76), and so are the base of a bank's first poll (log 77), that the
bridges are named ports 16 and 17 (log 22), and the record of a core that fails in service (log 25). -/
def Obligations.HealthEvents : Prop :=
  (∀ (s : State) (d j : Nat), d < 2 → j < 2 ^ 29 → s.limit d / 2048 ≤ j → ∀ o, exec (.patrolScrub d (2 ^ 35 + j) o) s = .next s) ∧
  (∀ (s : State) (d g : Nat), d < 2 → g < 2 ^ 35 → s.limit d / 32 ≤ g → ∀ o, exec (.patrolScrub d g o) s = .next s) ∧
  (∀ (s : State) (d j : Nat), d < 2 → j < 2 ^ 29 → j < s.limit d / 2048 →
    exec (.patrolScrub d (2 ^ 35 + j) .clean) s = .next s ∧
    (∃ u, exec (.patrolScrub d (2 ^ 35 + j) .corrected) s = .next u ∧ SameBytes s u) ∧
    ∃ u, exec (.patrolScrub d (2 ^ 35 + j) .uncorrectable) s = .next u ∧ (s.ras.logWr - s.ras.logRd ≠ 256 → u.ras.ue = true) ∧
      ∀ i < 4, (u.block (d * 2 ^ 31 + 4 * j + i)).poison = true) ∧
  (∀ (s : State) (d g : Nat), d < 2 → g < 2 ^ 35 → g < s.limit d / 32 →
    let stack := stackOf (32 * (d * 2 ^ 35 + g))
    let c := (Table.get s.ras.ceue stack).getD (0, 0)
    exec (.patrolScrub d g .clean) s = .next s ∧
    (∃ u, exec (.patrolScrub d g .corrected) s = .next u ∧ Table.get u.ras.ceue stack = some (min (c.1 + 1) 0xFFFFFFFF, c.2) ∧ SameBytes s u) ∧
    ∃ u, exec (.patrolScrub d g .uncorrectable) s = .next u ∧ Table.get u.ras.ceue stack = some (c.1, min (c.2 + 1) 0xFFFFFFFF) ∧
      d * 2 ^ 35 + g ∉ u.ras.latent ∧ (s.ras.logWr - s.ras.logRd ≠ 256 → u.ras.ue = true) ∧
      (g % 16 < (s.block (d * 2 ^ 31 + g / 16)).slots → (u.block (d * 2 ^ 31 + g / 16)).poison = true)) ∧
  (∀ (s : State) (stack pch bank n row : Nat), stack < 8 → pch < 384 → bank < 64 →
    ∃ u, exec (.ecsPoll stack pch bank n row) s = .next u ∧
      Table.get u.ras.counts (stack * 2 ^ 15 + pch * 2 ^ 6 + bank) = some (min n 0xFFFFFFFF) ∧
      (Table.get s.ras.ecsPast (stack * 2 ^ 15 + pch * 2 ^ 6 + bank) = none → s.ras.ecsth ≤ min n 0xFFFFFFFF →
        (stack * 2 ^ 15 + pch * 2 ^ 6 + bank, row) ∈ u.ras.rowRepairs)) ∧
  (∀ (s : State) (c p : Nat), c < 2304 → s.physicalOf c = some p → ∃ u, exec (.coreFaultInService c p) s = .next u ∧
    (clusterOf c, p) ∈ u.ras.coreRepairs ∧ u.ras.mapped = s.ras.mapped ∧ u.cores = s.cores) ∧
  (∀ (s : State) (d loop hop : Nat), d < 2 → loop < 64 → hop < stopCount → loop ∈ loopsOf d hop →
    let n := ((s.hopFails.find? fun e => e.1 == (d, loop, hop)).map (·.2)).getD 0 + 1
    (n < 8 → ∃ u, exec (.fabricHopRetry d loop hop) s = .next u ∧ ((d, loop, hop), n) ∈ u.hopFails ∧ u.cores = s.cores) ∧
    (8 ≤ n → ∃ u, exec (.fabricHopRetry d loop hop) s = .next u ∧ (u.die d).withheld = true ∧ u.ras.fatal = true ∧ (d = 0 → u.d0ok = false) ∧
      (d = 1 → u.d1ok = false))) ∧
  (∀ (s : State) (d stop loop : Nat), d < 2 → stop < stopCount → loop < 64 →
    (loop ∈ loopsOf d stop → ∃ u, exec (.injectionStarvation d stop loop) s = .next u ∧ (d, stop, loop) ∈ u.starved ∧ u.cores = s.cores) ∧
    (loop ∉ loopsOf d stop → exec (.injectionStarvation d stop loop) s = .next s)) ∧
  (∀ (s : State) (port lanes : Nat), port < 16 →
    (4 ≤ lanes → ∃ u, exec (.stitchLanesLost port lanes) s = .next u ∧ u.pf = s.pf) ∧
    (lanes < 4 → ∃ u, exec (.stitchLanesLost port lanes) s = .next u ∧ bits (u.readReg (.stPort port)) 25 24 = 0 ∧
      ∀ e ∈ u.pf.stRoute, e.2.getLsbD port = false)) ∧
  (∀ (s : State) (port lanes : Nat), 16 ≤ port → port < 18 →
    ∃ u, exec (.stitchLanesLost port lanes) s = .next u ∧ Table.get u.ras.bridgeBad (port - 16) = some lanes ∧ u.pf = s.pf ∧
      u.cores = s.cores) ∧
  (∀ (s : State) (port : Nat) (w : BitVec 2) (peer : BitVec 6) (pp : BitVec 4), port < 16 →
    (((Table.get s.pf.stPort port).getD 0).getLsbD 31 = true → ∃ u, exec (.stitchPortTrained port w peer pp) s = .next u ∧
      u.readReg (.stPort port) = 2 ^ 31 + w.toNat * 2 ^ 24 + peer.toNat * 2 ^ 16 + pp.toNat * 2 ^ 8) ∧
    (((Table.get s.pf.stPort port).getD 0).getLsbD 31 = false → exec (.stitchPortTrained port w peer pp) s = .next s)) ∧
  ∀ (s : State) (da : Nat) (data : List (BitVec 8)), da < 2 ^ 41 → s.memoryWf = true →
    ((∀ e ∈ linesOf da data.length, s.hostWindow e.1 = false) → s.hostWindow da = false →
      ∃ u, exec (.hostCxlMemAccess true da data) s = .next u ∧ SameBytes s u) ∧
    (s.hostWindow da = false → ∃ u, exec (.hostCxlMemAccess false da data) s = .next u ∧ SameBytes s u ∧ u.hostRead = []) ∧
    ((∀ e ∈ linesOf da data.length, s.hostWindow e.1 = true) → s.hostWindow da = true →
      ∃ u, exec (.hostCxlMemAccess true da data) s = .next u ∧ ∀ a, Memory.read u.mem a =
        if da ≤ a ∧ a < da + data.length then data.getD (a - da) 0 else Memory.read s.mem a) ∧
    (s.hostWindow da = true →
      ∃ u, exec (.hostCxlMemAccess false da data) s = .next u ∧ SameBytes s u ∧
        (s.poisonedLoc (homeDie da) (.dev (da / 64 * 64) false false true) = false → s.ras.latent = [] →
          u.hostRead = s.readLoc (homeDie da) (.dev (da / 64 * 64) false false true) 64))

end
end

