-- ==== Sys2Proof/Laws/State.lean ====
section
/-!
SUPPORT. What each update of the state leaves alone: one lemma per update and field.
-/

namespace Sys2Proof.Machine

/-! ### setCore -/

@[simp] theorem State.setCore_released (s : State) (c : Nat) (k : Core) : (s.setCore c k).released = s.released := rfl
@[simp] theorem State.setCore_here (s : State) (c : Nat) (k : Core) : (s.setCore c k).here = s.here := rfl
@[simp] theorem State.setCore_agenda (s : State) (c : Nat) (k : Core) : (s.setCore c k).agenda = s.agenda := rfl
@[simp] theorem State.setCore_fresh (s : State) (c : Nat) (k : Core) : (s.setCore c k).fresh = s.fresh := rfl
@[simp] theorem State.setCore_serial (s : State) (c : Nat) (k : Core) : (s.setCore c k).serial = s.serial := rfl
@[simp] theorem State.setCore_pipes (s : State) (c : Nat) (k : Core) : (s.setCore c k).pipes = s.pipes := rfl
@[simp] theorem State.setCore_past (s : State) (c : Nat) (k : Core) : (s.setCore c k).past = s.past := rfl
@[simp] theorem State.setCore_bins (s : State) (c : Nat) (k : Core) : (s.setCore c k).bins = s.bins := rfl
@[simp] theorem State.setCore_binTeams (s : State) (c : Nat) (k : Core) : (s.setCore c k).binTeams = s.binTeams := rfl
@[simp] theorem State.setCore_ctxs (s : State) (c : Nat) (k : Core) : (s.setCore c k).ctxs = s.ctxs := rfl
@[simp] theorem State.setCore_die0 (s : State) (c : Nat) (k : Core) : (s.setCore c k).die0 = s.die0 := rfl
@[simp] theorem State.setCore_die1 (s : State) (c : Nat) (k : Core) : (s.setCore c k).die1 = s.die1 := rfl
@[simp] theorem State.setCore_mem (s : State) (c : Nat) (k : Core) : (s.setCore c k).mem = s.mem := rfl
@[simp] theorem State.setCore_hostMem (s : State) (c : Nat) (k : Core) : (s.setCore c k).hostMem = s.hostMem := rfl
@[simp] theorem State.setCore_blocks (s : State) (c : Nat) (k : Core) : (s.setCore c k).blocks = s.blocks := rfl
@[simp] theorem State.setCore_pages (s : State) (c : Nat) (k : Core) : (s.setCore c k).pages = s.pages := rfl
@[simp] theorem State.setCore_stage (s : State) (c : Nat) (k : Core) : (s.setCore c k).stage = s.stage := rfl
@[simp] theorem State.setCore_stageErr (s : State) (c : Nat) (k : Core) : (s.setCore c k).stageErr = s.stageErr := rfl
@[simp] theorem State.setCore_d0ok (s : State) (c : Nat) (k : Core) : (s.setCore c k).d0ok = s.d0ok := rfl
@[simp] theorem State.setCore_d1ok (s : State) (c : Nat) (k : Core) : (s.setCore c k).d1ok = s.d1ok := rfl
@[simp] theorem State.setCore_ticksRun (s : State) (c : Nat) (k : Core) : (s.setCore c k).ticksRun = s.ticksRun := rfl
@[simp] theorem State.setCore_tickOffset (s : State) (c : Nat) (k : Core) : (s.setCore c k).tickOffset = s.tickOffset := rfl
@[simp] theorem State.setCore_pf (s : State) (c : Nat) (k : Core) : (s.setCore c k).pf = s.pf := rfl
@[simp] theorem State.setCore_ras (s : State) (c : Nat) (k : Core) : (s.setCore c k).ras = s.ras := rfl
@[simp] theorem State.setCore_meter (s : State) (c : Nat) (k : Core) : (s.setCore c k).meter = s.meter := rfl
@[simp] theorem State.setCore_side (s : State) (c : Nat) (k : Core) : (s.setCore c k).side = s.side := rfl
@[simp] theorem State.setCore_msix (s : State) (c : Nat) (k : Core) : (s.setCore c k).msix = s.msix := rfl
@[simp] theorem State.setCore_ltr (s : State) (c : Nat) (k : Core) : (s.setCore c k).ltr = s.ltr := rfl
@[simp] theorem State.setCore_idlePlaces (s : State) (c : Nat) (k : Core) : (s.setCore c k).idlePlaces = s.idlePlaces := rfl
@[simp] theorem State.setCore_hopFails (s : State) (c : Nat) (k : Core) : (s.setCore c k).hopFails = s.hopFails := rfl
@[simp] theorem State.setCore_window (s : State) (c : Nat) (k : Core) : (s.setCore c k).window = s.window := rfl
@[simp] theorem State.setCore_starved (s : State) (c : Nat) (k : Core) : (s.setCore c k).starved = s.starved := rfl
@[simp] theorem State.setCore_routes (s : State) (c : Nat) (k : Core) : (s.setCore c k).routes = s.routes := rfl
@[simp] theorem State.setCore_circling (s : State) (c : Nat) (k : Core) : (s.setCore c k).circling = s.circling := rfl
@[simp] theorem State.setCore_halves (s : State) (c : Nat) (k : Core) : (s.setCore c k).halves = s.halves := rfl
@[simp] theorem State.setCore_former (s : State) (c : Nat) (k : Core) : (s.setCore c k).former = s.former := rfl
@[simp] theorem State.setCore_hostRead (s : State) (c : Nat) (k : Core) : (s.setCore c k).hostRead = s.hostRead := rfl
@[simp] theorem State.setCore_images (s : State) (c : Nat) (k : Core) : (s.setCore c k).images = s.images := rfl
@[simp] theorem State.setCore_shutdown (s : State) (c : Nat) (k : Core) : (s.setCore c k).shutdown = s.shutdown := rfl

/-! ### setTeam -/

@[simp] theorem State.setTeam_released (s : State) (c i : Nat) (t : Team) : (s.setTeam c i t).released = s.released := rfl
@[simp] theorem State.setTeam_here (s : State) (c i : Nat) (t : Team) : (s.setTeam c i t).here = s.here := rfl
@[simp] theorem State.setTeam_agenda (s : State) (c i : Nat) (t : Team) : (s.setTeam c i t).agenda = s.agenda := rfl
@[simp] theorem State.setTeam_fresh (s : State) (c i : Nat) (t : Team) : (s.setTeam c i t).fresh = s.fresh := rfl
@[simp] theorem State.setTeam_serial (s : State) (c i : Nat) (t : Team) : (s.setTeam c i t).serial = s.serial := rfl
@[simp] theorem State.setTeam_pipes (s : State) (c i : Nat) (t : Team) : (s.setTeam c i t).pipes = s.pipes := rfl
@[simp] theorem State.setTeam_past (s : State) (c i : Nat) (t : Team) : (s.setTeam c i t).past = s.past := rfl
@[simp] theorem State.setTeam_bins (s : State) (c i : Nat) (t : Team) : (s.setTeam c i t).bins = s.bins := rfl
@[simp] theorem State.setTeam_binTeams (s : State) (c i : Nat) (t : Team) : (s.setTeam c i t).binTeams = s.binTeams := rfl
@[simp] theorem State.setTeam_ctxs (s : State) (c i : Nat) (t : Team) : (s.setTeam c i t).ctxs = s.ctxs := rfl
@[simp] theorem State.setTeam_die0 (s : State) (c i : Nat) (t : Team) : (s.setTeam c i t).die0 = s.die0 := rfl
@[simp] theorem State.setTeam_die1 (s : State) (c i : Nat) (t : Team) : (s.setTeam c i t).die1 = s.die1 := rfl
@[simp] theorem State.setTeam_mem (s : State) (c i : Nat) (t : Team) : (s.setTeam c i t).mem = s.mem := rfl
@[simp] theorem State.setTeam_hostMem (s : State) (c i : Nat) (t : Team) : (s.setTeam c i t).hostMem = s.hostMem := rfl
@[simp] theorem State.setTeam_blocks (s : State) (c i : Nat) (t : Team) : (s.setTeam c i t).blocks = s.blocks := rfl
@[simp] theorem State.setTeam_pages (s : State) (c i : Nat) (t : Team) : (s.setTeam c i t).pages = s.pages := rfl
@[simp] theorem State.setTeam_stage (s : State) (c i : Nat) (t : Team) : (s.setTeam c i t).stage = s.stage := rfl
@[simp] theorem State.setTeam_stageErr (s : State) (c i : Nat) (t : Team) : (s.setTeam c i t).stageErr = s.stageErr := rfl
@[simp] theorem State.setTeam_d0ok (s : State) (c i : Nat) (t : Team) : (s.setTeam c i t).d0ok = s.d0ok := rfl
@[simp] theorem State.setTeam_d1ok (s : State) (c i : Nat) (t : Team) : (s.setTeam c i t).d1ok = s.d1ok := rfl
@[simp] theorem State.setTeam_ticksRun (s : State) (c i : Nat) (t : Team) : (s.setTeam c i t).ticksRun = s.ticksRun := rfl
@[simp] theorem State.setTeam_tickOffset (s : State) (c i : Nat) (t : Team) : (s.setTeam c i t).tickOffset = s.tickOffset := rfl
@[simp] theorem State.setTeam_pf (s : State) (c i : Nat) (t : Team) : (s.setTeam c i t).pf = s.pf := rfl
@[simp] theorem State.setTeam_ras (s : State) (c i : Nat) (t : Team) : (s.setTeam c i t).ras = s.ras := rfl
@[simp] theorem State.setTeam_meter (s : State) (c i : Nat) (t : Team) : (s.setTeam c i t).meter = s.meter := rfl
@[simp] theorem State.setTeam_side (s : State) (c i : Nat) (t : Team) : (s.setTeam c i t).side = s.side := rfl
@[simp] theorem State.setTeam_msix (s : State) (c i : Nat) (t : Team) : (s.setTeam c i t).msix = s.msix := rfl
@[simp] theorem State.setTeam_ltr (s : State) (c i : Nat) (t : Team) : (s.setTeam c i t).ltr = s.ltr := rfl
@[simp] theorem State.setTeam_idlePlaces (s : State) (c i : Nat) (t : Team) : (s.setTeam c i t).idlePlaces = s.idlePlaces := rfl
@[simp] theorem State.setTeam_hopFails (s : State) (c i : Nat) (t : Team) : (s.setTeam c i t).hopFails = s.hopFails := rfl
@[simp] theorem State.setTeam_window (s : State) (c i : Nat) (t : Team) : (s.setTeam c i t).window = s.window := rfl
@[simp] theorem State.setTeam_starved (s : State) (c i : Nat) (t : Team) : (s.setTeam c i t).starved = s.starved := rfl
@[simp] theorem State.setTeam_routes (s : State) (c i : Nat) (t : Team) : (s.setTeam c i t).routes = s.routes := rfl
@[simp] theorem State.setTeam_circling (s : State) (c i : Nat) (t : Team) : (s.setTeam c i t).circling = s.circling := rfl
@[simp] theorem State.setTeam_halves (s : State) (c i : Nat) (t : Team) : (s.setTeam c i t).halves = s.halves := rfl
@[simp] theorem State.setTeam_former (s : State) (c i : Nat) (t : Team) : (s.setTeam c i t).former = s.former := rfl
@[simp] theorem State.setTeam_hostRead (s : State) (c i : Nat) (t : Team) : (s.setTeam c i t).hostRead = s.hostRead := rfl
@[simp] theorem State.setTeam_images (s : State) (c i : Nat) (t : Team) : (s.setTeam c i t).images = s.images := rfl
@[simp] theorem State.setTeam_shutdown (s : State) (c i : Nat) (t : Team) : (s.setTeam c i t).shutdown = s.shutdown := rfl

/-! ### dropTeam -/

@[simp] theorem State.dropTeam_released (s : State) (c i : Nat) : (s.dropTeam c i).released = s.released := rfl
@[simp] theorem State.dropTeam_here (s : State) (c i : Nat) : (s.dropTeam c i).here = s.here := rfl
@[simp] theorem State.dropTeam_agenda (s : State) (c i : Nat) : (s.dropTeam c i).agenda = s.agenda := rfl
@[simp] theorem State.dropTeam_fresh (s : State) (c i : Nat) : (s.dropTeam c i).fresh = s.fresh := rfl
@[simp] theorem State.dropTeam_serial (s : State) (c i : Nat) : (s.dropTeam c i).serial = s.serial := rfl
@[simp] theorem State.dropTeam_pipes (s : State) (c i : Nat) : (s.dropTeam c i).pipes = s.pipes := rfl
@[simp] theorem State.dropTeam_past (s : State) (c i : Nat) : (s.dropTeam c i).past = s.past := rfl
@[simp] theorem State.dropTeam_bins (s : State) (c i : Nat) : (s.dropTeam c i).bins = s.bins := rfl
@[simp] theorem State.dropTeam_binTeams (s : State) (c i : Nat) : (s.dropTeam c i).binTeams = s.binTeams := rfl
@[simp] theorem State.dropTeam_ctxs (s : State) (c i : Nat) : (s.dropTeam c i).ctxs = s.ctxs := rfl
@[simp] theorem State.dropTeam_die0 (s : State) (c i : Nat) : (s.dropTeam c i).die0 = s.die0 := rfl
@[simp] theorem State.dropTeam_die1 (s : State) (c i : Nat) : (s.dropTeam c i).die1 = s.die1 := rfl
@[simp] theorem State.dropTeam_mem (s : State) (c i : Nat) : (s.dropTeam c i).mem = s.mem := rfl
@[simp] theorem State.dropTeam_hostMem (s : State) (c i : Nat) : (s.dropTeam c i).hostMem = s.hostMem := rfl
@[simp] theorem State.dropTeam_blocks (s : State) (c i : Nat) : (s.dropTeam c i).blocks = s.blocks := rfl
@[simp] theorem State.dropTeam_pages (s : State) (c i : Nat) : (s.dropTeam c i).pages = s.pages := rfl
@[simp] theorem State.dropTeam_stage (s : State) (c i : Nat) : (s.dropTeam c i).stage = s.stage := rfl
@[simp] theorem State.dropTeam_stageErr (s : State) (c i : Nat) : (s.dropTeam c i).stageErr = s.stageErr := rfl
@[simp] theorem State.dropTeam_d0ok (s : State) (c i : Nat) : (s.dropTeam c i).d0ok = s.d0ok := rfl
@[simp] theorem State.dropTeam_d1ok (s : State) (c i : Nat) : (s.dropTeam c i).d1ok = s.d1ok := rfl
@[simp] theorem State.dropTeam_ticksRun (s : State) (c i : Nat) : (s.dropTeam c i).ticksRun = s.ticksRun := rfl
@[simp] theorem State.dropTeam_tickOffset (s : State) (c i : Nat) : (s.dropTeam c i).tickOffset = s.tickOffset := rfl
@[simp] theorem State.dropTeam_pf (s : State) (c i : Nat) : (s.dropTeam c i).pf = s.pf := rfl
@[simp] theorem State.dropTeam_ras (s : State) (c i : Nat) : (s.dropTeam c i).ras = s.ras := rfl
@[simp] theorem State.dropTeam_meter (s : State) (c i : Nat) : (s.dropTeam c i).meter = s.meter := rfl
@[simp] theorem State.dropTeam_side (s : State) (c i : Nat) : (s.dropTeam c i).side = s.side := rfl
@[simp] theorem State.dropTeam_msix (s : State) (c i : Nat) : (s.dropTeam c i).msix = s.msix := rfl
@[simp] theorem State.dropTeam_ltr (s : State) (c i : Nat) : (s.dropTeam c i).ltr = s.ltr := rfl
@[simp] theorem State.dropTeam_idlePlaces (s : State) (c i : Nat) : (s.dropTeam c i).idlePlaces = s.idlePlaces := rfl
@[simp] theorem State.dropTeam_hopFails (s : State) (c i : Nat) : (s.dropTeam c i).hopFails = s.hopFails := rfl
@[simp] theorem State.dropTeam_window (s : State) (c i : Nat) : (s.dropTeam c i).window = s.window := rfl
@[simp] theorem State.dropTeam_starved (s : State) (c i : Nat) : (s.dropTeam c i).starved = s.starved := rfl
@[simp] theorem State.dropTeam_routes (s : State) (c i : Nat) : (s.dropTeam c i).routes = s.routes := rfl
@[simp] theorem State.dropTeam_circling (s : State) (c i : Nat) : (s.dropTeam c i).circling = s.circling := rfl
@[simp] theorem State.dropTeam_halves (s : State) (c i : Nat) : (s.dropTeam c i).halves = s.halves := rfl
@[simp] theorem State.dropTeam_former (s : State) (c i : Nat) : (s.dropTeam c i).former = s.former := rfl
@[simp] theorem State.dropTeam_hostRead (s : State) (c i : Nat) : (s.dropTeam c i).hostRead = s.hostRead := rfl
@[simp] theorem State.dropTeam_images (s : State) (c i : Nat) : (s.dropTeam c i).images = s.images := rfl
@[simp] theorem State.dropTeam_shutdown (s : State) (c i : Nat) : (s.dropTeam c i).shutdown = s.shutdown := rfl

/-! ### setCohort -/

@[simp] theorem State.setCohort_released (s : State) (c : Nat) (h : Cohort) : (s.setCohort c h).released = s.released := rfl
@[simp] theorem State.setCohort_here (s : State) (c : Nat) (h : Cohort) : (s.setCohort c h).here = s.here := rfl
@[simp] theorem State.setCohort_agenda (s : State) (c : Nat) (h : Cohort) : (s.setCohort c h).agenda = s.agenda := rfl
@[simp] theorem State.setCohort_fresh (s : State) (c : Nat) (h : Cohort) : (s.setCohort c h).fresh = s.fresh := rfl
@[simp] theorem State.setCohort_serial (s : State) (c : Nat) (h : Cohort) : (s.setCohort c h).serial = s.serial := rfl
@[simp] theorem State.setCohort_pipes (s : State) (c : Nat) (h : Cohort) : (s.setCohort c h).pipes = s.pipes := rfl
@[simp] theorem State.setCohort_past (s : State) (c : Nat) (h : Cohort) : (s.setCohort c h).past = s.past := rfl
@[simp] theorem State.setCohort_bins (s : State) (c : Nat) (h : Cohort) : (s.setCohort c h).bins = s.bins := rfl
@[simp] theorem State.setCohort_binTeams (s : State) (c : Nat) (h : Cohort) : (s.setCohort c h).binTeams = s.binTeams := rfl
@[simp] theorem State.setCohort_ctxs (s : State) (c : Nat) (h : Cohort) : (s.setCohort c h).ctxs = s.ctxs := rfl
@[simp] theorem State.setCohort_die0 (s : State) (c : Nat) (h : Cohort) : (s.setCohort c h).die0 = s.die0 := rfl
@[simp] theorem State.setCohort_die1 (s : State) (c : Nat) (h : Cohort) : (s.setCohort c h).die1 = s.die1 := rfl
@[simp] theorem State.setCohort_mem (s : State) (c : Nat) (h : Cohort) : (s.setCohort c h).mem = s.mem := rfl
@[simp] theorem State.setCohort_hostMem (s : State) (c : Nat) (h : Cohort) : (s.setCohort c h).hostMem = s.hostMem := rfl
@[simp] theorem State.setCohort_blocks (s : State) (c : Nat) (h : Cohort) : (s.setCohort c h).blocks = s.blocks := rfl
@[simp] theorem State.setCohort_pages (s : State) (c : Nat) (h : Cohort) : (s.setCohort c h).pages = s.pages := rfl
@[simp] theorem State.setCohort_stage (s : State) (c : Nat) (h : Cohort) : (s.setCohort c h).stage = s.stage := rfl
@[simp] theorem State.setCohort_stageErr (s : State) (c : Nat) (h : Cohort) : (s.setCohort c h).stageErr = s.stageErr := rfl
@[simp] theorem State.setCohort_d0ok (s : State) (c : Nat) (h : Cohort) : (s.setCohort c h).d0ok = s.d0ok := rfl
@[simp] theorem State.setCohort_d1ok (s : State) (c : Nat) (h : Cohort) : (s.setCohort c h).d1ok = s.d1ok := rfl
@[simp] theorem State.setCohort_ticksRun (s : State) (c : Nat) (h : Cohort) : (s.setCohort c h).ticksRun = s.ticksRun := rfl
@[simp] theorem State.setCohort_tickOffset (s : State) (c : Nat) (h : Cohort) : (s.setCohort c h).tickOffset = s.tickOffset := rfl
@[simp] theorem State.setCohort_pf (s : State) (c : Nat) (h : Cohort) : (s.setCohort c h).pf = s.pf := rfl
@[simp] theorem State.setCohort_ras (s : State) (c : Nat) (h : Cohort) : (s.setCohort c h).ras = s.ras := rfl
@[simp] theorem State.setCohort_meter (s : State) (c : Nat) (h : Cohort) : (s.setCohort c h).meter = s.meter := rfl
@[simp] theorem State.setCohort_side (s : State) (c : Nat) (h : Cohort) : (s.setCohort c h).side = s.side := rfl
@[simp] theorem State.setCohort_msix (s : State) (c : Nat) (h : Cohort) : (s.setCohort c h).msix = s.msix := rfl
@[simp] theorem State.setCohort_ltr (s : State) (c : Nat) (h : Cohort) : (s.setCohort c h).ltr = s.ltr := rfl
@[simp] theorem State.setCohort_idlePlaces (s : State) (c : Nat) (h : Cohort) : (s.setCohort c h).idlePlaces = s.idlePlaces := rfl
@[simp] theorem State.setCohort_hopFails (s : State) (c : Nat) (h : Cohort) : (s.setCohort c h).hopFails = s.hopFails := rfl
@[simp] theorem State.setCohort_window (s : State) (c : Nat) (h : Cohort) : (s.setCohort c h).window = s.window := rfl
@[simp] theorem State.setCohort_starved (s : State) (c : Nat) (h : Cohort) : (s.setCohort c h).starved = s.starved := rfl
@[simp] theorem State.setCohort_routes (s : State) (c : Nat) (h : Cohort) : (s.setCohort c h).routes = s.routes := rfl
@[simp] theorem State.setCohort_circling (s : State) (c : Nat) (h : Cohort) : (s.setCohort c h).circling = s.circling := rfl
@[simp] theorem State.setCohort_halves (s : State) (c : Nat) (h : Cohort) : (s.setCohort c h).halves = s.halves := rfl
@[simp] theorem State.setCohort_former (s : State) (c : Nat) (h : Cohort) : (s.setCohort c h).former = s.former := rfl
@[simp] theorem State.setCohort_hostRead (s : State) (c : Nat) (h : Cohort) : (s.setCohort c h).hostRead = s.hostRead := rfl
@[simp] theorem State.setCohort_images (s : State) (c : Nat) (h : Cohort) : (s.setCohort c h).images = s.images := rfl
@[simp] theorem State.setCohort_shutdown (s : State) (c : Nat) (h : Cohort) : (s.setCohort c h).shutdown = s.shutdown := rfl

/-! ### modTeam -/

@[simp] theorem State.modTeam_released (s : State) (v : View) (f : Team → Team) : (s.modTeam v f).released = s.released := rfl
@[simp] theorem State.modTeam_here (s : State) (v : View) (f : Team → Team) : (s.modTeam v f).here = s.here := rfl
@[simp] theorem State.modTeam_agenda (s : State) (v : View) (f : Team → Team) : (s.modTeam v f).agenda = s.agenda := rfl
@[simp] theorem State.modTeam_fresh (s : State) (v : View) (f : Team → Team) : (s.modTeam v f).fresh = s.fresh := rfl
@[simp] theorem State.modTeam_serial (s : State) (v : View) (f : Team → Team) : (s.modTeam v f).serial = s.serial := rfl
@[simp] theorem State.modTeam_pipes (s : State) (v : View) (f : Team → Team) : (s.modTeam v f).pipes = s.pipes := rfl
@[simp] theorem State.modTeam_past (s : State) (v : View) (f : Team → Team) : (s.modTeam v f).past = s.past := rfl
@[simp] theorem State.modTeam_bins (s : State) (v : View) (f : Team → Team) : (s.modTeam v f).bins = s.bins := rfl
@[simp] theorem State.modTeam_binTeams (s : State) (v : View) (f : Team → Team) : (s.modTeam v f).binTeams = s.binTeams := rfl
@[simp] theorem State.modTeam_ctxs (s : State) (v : View) (f : Team → Team) : (s.modTeam v f).ctxs = s.ctxs := rfl
@[simp] theorem State.modTeam_die0 (s : State) (v : View) (f : Team → Team) : (s.modTeam v f).die0 = s.die0 := rfl
@[simp] theorem State.modTeam_die1 (s : State) (v : View) (f : Team → Team) : (s.modTeam v f).die1 = s.die1 := rfl
@[simp] theorem State.modTeam_mem (s : State) (v : View) (f : Team → Team) : (s.modTeam v f).mem = s.mem := rfl
@[simp] theorem State.modTeam_hostMem (s : State) (v : View) (f : Team → Team) : (s.modTeam v f).hostMem = s.hostMem := rfl
@[simp] theorem State.modTeam_blocks (s : State) (v : View) (f : Team → Team) : (s.modTeam v f).blocks = s.blocks := rfl
@[simp] theorem State.modTeam_pages (s : State) (v : View) (f : Team → Team) : (s.modTeam v f).pages = s.pages := rfl
@[simp] theorem State.modTeam_stage (s : State) (v : View) (f : Team → Team) : (s.modTeam v f).stage = s.stage := rfl
@[simp] theorem State.modTeam_stageErr (s : State) (v : View) (f : Team → Team) : (s.modTeam v f).stageErr = s.stageErr := rfl
@[simp] theorem State.modTeam_d0ok (s : State) (v : View) (f : Team → Team) : (s.modTeam v f).d0ok = s.d0ok := rfl
@[simp] theorem State.modTeam_d1ok (s : State) (v : View) (f : Team → Team) : (s.modTeam v f).d1ok = s.d1ok := rfl
@[simp] theorem State.modTeam_ticksRun (s : State) (v : View) (f : Team → Team) : (s.modTeam v f).ticksRun = s.ticksRun := rfl
@[simp] theorem State.modTeam_tickOffset (s : State) (v : View) (f : Team → Team) : (s.modTeam v f).tickOffset = s.tickOffset := rfl
@[simp] theorem State.modTeam_pf (s : State) (v : View) (f : Team → Team) : (s.modTeam v f).pf = s.pf := rfl
@[simp] theorem State.modTeam_ras (s : State) (v : View) (f : Team → Team) : (s.modTeam v f).ras = s.ras := rfl
@[simp] theorem State.modTeam_meter (s : State) (v : View) (f : Team → Team) : (s.modTeam v f).meter = s.meter := rfl
@[simp] theorem State.modTeam_side (s : State) (v : View) (f : Team → Team) : (s.modTeam v f).side = s.side := rfl
@[simp] theorem State.modTeam_msix (s : State) (v : View) (f : Team → Team) : (s.modTeam v f).msix = s.msix := rfl
@[simp] theorem State.modTeam_ltr (s : State) (v : View) (f : Team → Team) : (s.modTeam v f).ltr = s.ltr := rfl
@[simp] theorem State.modTeam_idlePlaces (s : State) (v : View) (f : Team → Team) : (s.modTeam v f).idlePlaces = s.idlePlaces := rfl
@[simp] theorem State.modTeam_hopFails (s : State) (v : View) (f : Team → Team) : (s.modTeam v f).hopFails = s.hopFails := rfl
@[simp] theorem State.modTeam_window (s : State) (v : View) (f : Team → Team) : (s.modTeam v f).window = s.window := rfl
@[simp] theorem State.modTeam_starved (s : State) (v : View) (f : Team → Team) : (s.modTeam v f).starved = s.starved := rfl
@[simp] theorem State.modTeam_routes (s : State) (v : View) (f : Team → Team) : (s.modTeam v f).routes = s.routes := rfl
@[simp] theorem State.modTeam_circling (s : State) (v : View) (f : Team → Team) : (s.modTeam v f).circling = s.circling := rfl
@[simp] theorem State.modTeam_halves (s : State) (v : View) (f : Team → Team) : (s.modTeam v f).halves = s.halves := rfl
@[simp] theorem State.modTeam_former (s : State) (v : View) (f : Team → Team) : (s.modTeam v f).former = s.former := rfl
@[simp] theorem State.modTeam_hostRead (s : State) (v : View) (f : Team → Team) : (s.modTeam v f).hostRead = s.hostRead := rfl
@[simp] theorem State.modTeam_images (s : State) (v : View) (f : Team → Team) : (s.modTeam v f).images = s.images := rfl
@[simp] theorem State.modTeam_shutdown (s : State) (v : View) (f : Team → Team) : (s.modTeam v f).shutdown = s.shutdown := rfl

/-! ### putPath -/

@[simp] theorem State.putPath_released (s : State) (v : View) (p : Path) : (s.putPath v p).released = s.released := rfl
@[simp] theorem State.putPath_here (s : State) (v : View) (p : Path) : (s.putPath v p).here = s.here := rfl
@[simp] theorem State.putPath_agenda (s : State) (v : View) (p : Path) : (s.putPath v p).agenda = s.agenda := rfl
@[simp] theorem State.putPath_fresh (s : State) (v : View) (p : Path) : (s.putPath v p).fresh = s.fresh := rfl
@[simp] theorem State.putPath_serial (s : State) (v : View) (p : Path) : (s.putPath v p).serial = s.serial := rfl
@[simp] theorem State.putPath_pipes (s : State) (v : View) (p : Path) : (s.putPath v p).pipes = s.pipes := rfl
@[simp] theorem State.putPath_past (s : State) (v : View) (p : Path) : (s.putPath v p).past = s.past := rfl
@[simp] theorem State.putPath_bins (s : State) (v : View) (p : Path) : (s.putPath v p).bins = s.bins := rfl
@[simp] theorem State.putPath_binTeams (s : State) (v : View) (p : Path) : (s.putPath v p).binTeams = s.binTeams := rfl
@[simp] theorem State.putPath_ctxs (s : State) (v : View) (p : Path) : (s.putPath v p).ctxs = s.ctxs := rfl
@[simp] theorem State.putPath_die0 (s : State) (v : View) (p : Path) : (s.putPath v p).die0 = s.die0 := rfl
@[simp] theorem State.putPath_die1 (s : State) (v : View) (p : Path) : (s.putPath v p).die1 = s.die1 := rfl
@[simp] theorem State.putPath_mem (s : State) (v : View) (p : Path) : (s.putPath v p).mem = s.mem := rfl
@[simp] theorem State.putPath_hostMem (s : State) (v : View) (p : Path) : (s.putPath v p).hostMem = s.hostMem := rfl
@[simp] theorem State.putPath_blocks (s : State) (v : View) (p : Path) : (s.putPath v p).blocks = s.blocks := rfl
@[simp] theorem State.putPath_pages (s : State) (v : View) (p : Path) : (s.putPath v p).pages = s.pages := rfl
@[simp] theorem State.putPath_stage (s : State) (v : View) (p : Path) : (s.putPath v p).stage = s.stage := rfl
@[simp] theorem State.putPath_stageErr (s : State) (v : View) (p : Path) : (s.putPath v p).stageErr = s.stageErr := rfl
@[simp] theorem State.putPath_d0ok (s : State) (v : View) (p : Path) : (s.putPath v p).d0ok = s.d0ok := rfl
@[simp] theorem State.putPath_d1ok (s : State) (v : View) (p : Path) : (s.putPath v p).d1ok = s.d1ok := rfl
@[simp] theorem State.putPath_ticksRun (s : State) (v : View) (p : Path) : (s.putPath v p).ticksRun = s.ticksRun := rfl
@[simp] theorem State.putPath_tickOffset (s : State) (v : View) (p : Path) : (s.putPath v p).tickOffset = s.tickOffset := rfl
@[simp] theorem State.putPath_pf (s : State) (v : View) (p : Path) : (s.putPath v p).pf = s.pf := rfl
@[simp] theorem State.putPath_ras (s : State) (v : View) (p : Path) : (s.putPath v p).ras = s.ras := rfl
@[simp] theorem State.putPath_meter (s : State) (v : View) (p : Path) : (s.putPath v p).meter = s.meter := rfl
@[simp] theorem State.putPath_side (s : State) (v : View) (p : Path) : (s.putPath v p).side = s.side := rfl
@[simp] theorem State.putPath_msix (s : State) (v : View) (p : Path) : (s.putPath v p).msix = s.msix := rfl
@[simp] theorem State.putPath_ltr (s : State) (v : View) (p : Path) : (s.putPath v p).ltr = s.ltr := rfl
@[simp] theorem State.putPath_idlePlaces (s : State) (v : View) (p : Path) : (s.putPath v p).idlePlaces = s.idlePlaces := rfl
@[simp] theorem State.putPath_hopFails (s : State) (v : View) (p : Path) : (s.putPath v p).hopFails = s.hopFails := rfl
@[simp] theorem State.putPath_window (s : State) (v : View) (p : Path) : (s.putPath v p).window = s.window := rfl
@[simp] theorem State.putPath_starved (s : State) (v : View) (p : Path) : (s.putPath v p).starved = s.starved := rfl
@[simp] theorem State.putPath_routes (s : State) (v : View) (p : Path) : (s.putPath v p).routes = s.routes := rfl
@[simp] theorem State.putPath_circling (s : State) (v : View) (p : Path) : (s.putPath v p).circling = s.circling := rfl
@[simp] theorem State.putPath_halves (s : State) (v : View) (p : Path) : (s.putPath v p).halves = s.halves := rfl
@[simp] theorem State.putPath_former (s : State) (v : View) (p : Path) : (s.putPath v p).former = s.former := rfl
@[simp] theorem State.putPath_hostRead (s : State) (v : View) (p : Path) : (s.putPath v p).hostRead = s.hostRead := rfl
@[simp] theorem State.putPath_images (s : State) (v : View) (p : Path) : (s.putPath v p).images = s.images := rfl
@[simp] theorem State.putPath_shutdown (s : State) (v : View) (p : Path) : (s.putPath v p).shutdown = s.shutdown := rfl

/-! ### modPath -/

@[simp] theorem State.modPath_released (s : State) (v : View) (f : Path → Path) : (s.modPath v f).released = s.released := rfl
@[simp] theorem State.modPath_here (s : State) (v : View) (f : Path → Path) : (s.modPath v f).here = s.here := rfl
@[simp] theorem State.modPath_agenda (s : State) (v : View) (f : Path → Path) : (s.modPath v f).agenda = s.agenda := rfl
@[simp] theorem State.modPath_fresh (s : State) (v : View) (f : Path → Path) : (s.modPath v f).fresh = s.fresh := rfl
@[simp] theorem State.modPath_serial (s : State) (v : View) (f : Path → Path) : (s.modPath v f).serial = s.serial := rfl
@[simp] theorem State.modPath_pipes (s : State) (v : View) (f : Path → Path) : (s.modPath v f).pipes = s.pipes := rfl
@[simp] theorem State.modPath_past (s : State) (v : View) (f : Path → Path) : (s.modPath v f).past = s.past := rfl
@[simp] theorem State.modPath_bins (s : State) (v : View) (f : Path → Path) : (s.modPath v f).bins = s.bins := rfl
@[simp] theorem State.modPath_binTeams (s : State) (v : View) (f : Path → Path) : (s.modPath v f).binTeams = s.binTeams := rfl
@[simp] theorem State.modPath_ctxs (s : State) (v : View) (f : Path → Path) : (s.modPath v f).ctxs = s.ctxs := rfl
@[simp] theorem State.modPath_die0 (s : State) (v : View) (f : Path → Path) : (s.modPath v f).die0 = s.die0 := rfl
@[simp] theorem State.modPath_die1 (s : State) (v : View) (f : Path → Path) : (s.modPath v f).die1 = s.die1 := rfl
@[simp] theorem State.modPath_mem (s : State) (v : View) (f : Path → Path) : (s.modPath v f).mem = s.mem := rfl
@[simp] theorem State.modPath_hostMem (s : State) (v : View) (f : Path → Path) : (s.modPath v f).hostMem = s.hostMem := rfl
@[simp] theorem State.modPath_blocks (s : State) (v : View) (f : Path → Path) : (s.modPath v f).blocks = s.blocks := rfl
@[simp] theorem State.modPath_pages (s : State) (v : View) (f : Path → Path) : (s.modPath v f).pages = s.pages := rfl
@[simp] theorem State.modPath_stage (s : State) (v : View) (f : Path → Path) : (s.modPath v f).stage = s.stage := rfl
@[simp] theorem State.modPath_stageErr (s : State) (v : View) (f : Path → Path) : (s.modPath v f).stageErr = s.stageErr := rfl
@[simp] theorem State.modPath_d0ok (s : State) (v : View) (f : Path → Path) : (s.modPath v f).d0ok = s.d0ok := rfl
@[simp] theorem State.modPath_d1ok (s : State) (v : View) (f : Path → Path) : (s.modPath v f).d1ok = s.d1ok := rfl
@[simp] theorem State.modPath_ticksRun (s : State) (v : View) (f : Path → Path) : (s.modPath v f).ticksRun = s.ticksRun := rfl
@[simp] theorem State.modPath_tickOffset (s : State) (v : View) (f : Path → Path) : (s.modPath v f).tickOffset = s.tickOffset := rfl
@[simp] theorem State.modPath_pf (s : State) (v : View) (f : Path → Path) : (s.modPath v f).pf = s.pf := rfl
@[simp] theorem State.modPath_ras (s : State) (v : View) (f : Path → Path) : (s.modPath v f).ras = s.ras := rfl
@[simp] theorem State.modPath_meter (s : State) (v : View) (f : Path → Path) : (s.modPath v f).meter = s.meter := rfl
@[simp] theorem State.modPath_side (s : State) (v : View) (f : Path → Path) : (s.modPath v f).side = s.side := rfl
@[simp] theorem State.modPath_msix (s : State) (v : View) (f : Path → Path) : (s.modPath v f).msix = s.msix := rfl
@[simp] theorem State.modPath_ltr (s : State) (v : View) (f : Path → Path) : (s.modPath v f).ltr = s.ltr := rfl
@[simp] theorem State.modPath_idlePlaces (s : State) (v : View) (f : Path → Path) : (s.modPath v f).idlePlaces = s.idlePlaces := rfl
@[simp] theorem State.modPath_hopFails (s : State) (v : View) (f : Path → Path) : (s.modPath v f).hopFails = s.hopFails := rfl
@[simp] theorem State.modPath_window (s : State) (v : View) (f : Path → Path) : (s.modPath v f).window = s.window := rfl
@[simp] theorem State.modPath_starved (s : State) (v : View) (f : Path → Path) : (s.modPath v f).starved = s.starved := rfl
@[simp] theorem State.modPath_routes (s : State) (v : View) (f : Path → Path) : (s.modPath v f).routes = s.routes := rfl
@[simp] theorem State.modPath_circling (s : State) (v : View) (f : Path → Path) : (s.modPath v f).circling = s.circling := rfl
@[simp] theorem State.modPath_halves (s : State) (v : View) (f : Path → Path) : (s.modPath v f).halves = s.halves := rfl
@[simp] theorem State.modPath_former (s : State) (v : View) (f : Path → Path) : (s.modPath v f).former = s.former := rfl
@[simp] theorem State.modPath_hostRead (s : State) (v : View) (f : Path → Path) : (s.modPath v f).hostRead = s.hostRead := rfl
@[simp] theorem State.modPath_images (s : State) (v : View) (f : Path → Path) : (s.modPath v f).images = s.images := rfl
@[simp] theorem State.modPath_shutdown (s : State) (v : View) (f : Path → Path) : (s.modPath v f).shutdown = s.shutdown := rfl

/-! ### setCtx -/

@[simp] theorem State.setCtx_released (s : State) (x : Nat) (k : Ctx) : (s.setCtx x k).released = s.released := rfl
@[simp] theorem State.setCtx_here (s : State) (x : Nat) (k : Ctx) : (s.setCtx x k).here = s.here := rfl
@[simp] theorem State.setCtx_agenda (s : State) (x : Nat) (k : Ctx) : (s.setCtx x k).agenda = s.agenda := rfl
@[simp] theorem State.setCtx_fresh (s : State) (x : Nat) (k : Ctx) : (s.setCtx x k).fresh = s.fresh := rfl
@[simp] theorem State.setCtx_serial (s : State) (x : Nat) (k : Ctx) : (s.setCtx x k).serial = s.serial := rfl
@[simp] theorem State.setCtx_cores (s : State) (x : Nat) (k : Ctx) : (s.setCtx x k).cores = s.cores := rfl
@[simp] theorem State.setCtx_pipes (s : State) (x : Nat) (k : Ctx) : (s.setCtx x k).pipes = s.pipes := rfl
@[simp] theorem State.setCtx_past (s : State) (x : Nat) (k : Ctx) : (s.setCtx x k).past = s.past := rfl
@[simp] theorem State.setCtx_bins (s : State) (x : Nat) (k : Ctx) : (s.setCtx x k).bins = s.bins := rfl
@[simp] theorem State.setCtx_binTeams (s : State) (x : Nat) (k : Ctx) : (s.setCtx x k).binTeams = s.binTeams := rfl
@[simp] theorem State.setCtx_die0 (s : State) (x : Nat) (k : Ctx) : (s.setCtx x k).die0 = s.die0 := rfl
@[simp] theorem State.setCtx_die1 (s : State) (x : Nat) (k : Ctx) : (s.setCtx x k).die1 = s.die1 := rfl
@[simp] theorem State.setCtx_mem (s : State) (x : Nat) (k : Ctx) : (s.setCtx x k).mem = s.mem := rfl
@[simp] theorem State.setCtx_hostMem (s : State) (x : Nat) (k : Ctx) : (s.setCtx x k).hostMem = s.hostMem := rfl
@[simp] theorem State.setCtx_blocks (s : State) (x : Nat) (k : Ctx) : (s.setCtx x k).blocks = s.blocks := rfl
@[simp] theorem State.setCtx_pages (s : State) (x : Nat) (k : Ctx) : (s.setCtx x k).pages = s.pages := rfl
@[simp] theorem State.setCtx_stage (s : State) (x : Nat) (k : Ctx) : (s.setCtx x k).stage = s.stage := rfl
@[simp] theorem State.setCtx_stageErr (s : State) (x : Nat) (k : Ctx) : (s.setCtx x k).stageErr = s.stageErr := rfl
@[simp] theorem State.setCtx_d0ok (s : State) (x : Nat) (k : Ctx) : (s.setCtx x k).d0ok = s.d0ok := rfl
@[simp] theorem State.setCtx_d1ok (s : State) (x : Nat) (k : Ctx) : (s.setCtx x k).d1ok = s.d1ok := rfl
@[simp] theorem State.setCtx_ticksRun (s : State) (x : Nat) (k : Ctx) : (s.setCtx x k).ticksRun = s.ticksRun := rfl
@[simp] theorem State.setCtx_tickOffset (s : State) (x : Nat) (k : Ctx) : (s.setCtx x k).tickOffset = s.tickOffset := rfl
@[simp] theorem State.setCtx_pf (s : State) (x : Nat) (k : Ctx) : (s.setCtx x k).pf = s.pf := rfl
@[simp] theorem State.setCtx_ras (s : State) (x : Nat) (k : Ctx) : (s.setCtx x k).ras = s.ras := rfl
@[simp] theorem State.setCtx_meter (s : State) (x : Nat) (k : Ctx) : (s.setCtx x k).meter = s.meter := rfl
@[simp] theorem State.setCtx_side (s : State) (x : Nat) (k : Ctx) : (s.setCtx x k).side = s.side := rfl
@[simp] theorem State.setCtx_msix (s : State) (x : Nat) (k : Ctx) : (s.setCtx x k).msix = s.msix := rfl
@[simp] theorem State.setCtx_ltr (s : State) (x : Nat) (k : Ctx) : (s.setCtx x k).ltr = s.ltr := rfl
@[simp] theorem State.setCtx_idlePlaces (s : State) (x : Nat) (k : Ctx) : (s.setCtx x k).idlePlaces = s.idlePlaces := rfl
@[simp] theorem State.setCtx_hopFails (s : State) (x : Nat) (k : Ctx) : (s.setCtx x k).hopFails = s.hopFails := rfl
@[simp] theorem State.setCtx_window (s : State) (x : Nat) (k : Ctx) : (s.setCtx x k).window = s.window := rfl
@[simp] theorem State.setCtx_starved (s : State) (x : Nat) (k : Ctx) : (s.setCtx x k).starved = s.starved := rfl
@[simp] theorem State.setCtx_routes (s : State) (x : Nat) (k : Ctx) : (s.setCtx x k).routes = s.routes := rfl
@[simp] theorem State.setCtx_circling (s : State) (x : Nat) (k : Ctx) : (s.setCtx x k).circling = s.circling := rfl
@[simp] theorem State.setCtx_halves (s : State) (x : Nat) (k : Ctx) : (s.setCtx x k).halves = s.halves := rfl
@[simp] theorem State.setCtx_former (s : State) (x : Nat) (k : Ctx) : (s.setCtx x k).former = s.former := rfl
@[simp] theorem State.setCtx_hostRead (s : State) (x : Nat) (k : Ctx) : (s.setCtx x k).hostRead = s.hostRead := rfl
@[simp] theorem State.setCtx_images (s : State) (x : Nat) (k : Ctx) : (s.setCtx x k).images = s.images := rfl
@[simp] theorem State.setCtx_shutdown (s : State) (x : Nat) (k : Ctx) : (s.setCtx x k).shutdown = s.shutdown := rfl

/-! ### setLaunch -/

@[simp] theorem State.setLaunch_released (s : State) (x : Nat) (l : Launch) : (s.setLaunch x l).released = s.released := rfl
@[simp] theorem State.setLaunch_here (s : State) (x : Nat) (l : Launch) : (s.setLaunch x l).here = s.here := rfl
@[simp] theorem State.setLaunch_agenda (s : State) (x : Nat) (l : Launch) : (s.setLaunch x l).agenda = s.agenda := rfl
@[simp] theorem State.setLaunch_fresh (s : State) (x : Nat) (l : Launch) : (s.setLaunch x l).fresh = s.fresh := rfl
@[simp] theorem State.setLaunch_serial (s : State) (x : Nat) (l : Launch) : (s.setLaunch x l).serial = s.serial := rfl
@[simp] theorem State.setLaunch_cores (s : State) (x : Nat) (l : Launch) : (s.setLaunch x l).cores = s.cores := rfl
@[simp] theorem State.setLaunch_pipes (s : State) (x : Nat) (l : Launch) : (s.setLaunch x l).pipes = s.pipes := rfl
@[simp] theorem State.setLaunch_past (s : State) (x : Nat) (l : Launch) : (s.setLaunch x l).past = s.past := rfl
@[simp] theorem State.setLaunch_bins (s : State) (x : Nat) (l : Launch) : (s.setLaunch x l).bins = s.bins := rfl
@[simp] theorem State.setLaunch_binTeams (s : State) (x : Nat) (l : Launch) : (s.setLaunch x l).binTeams = s.binTeams := rfl
@[simp] theorem State.setLaunch_die0 (s : State) (x : Nat) (l : Launch) : (s.setLaunch x l).die0 = s.die0 := rfl
@[simp] theorem State.setLaunch_die1 (s : State) (x : Nat) (l : Launch) : (s.setLaunch x l).die1 = s.die1 := rfl
@[simp] theorem State.setLaunch_mem (s : State) (x : Nat) (l : Launch) : (s.setLaunch x l).mem = s.mem := rfl
@[simp] theorem State.setLaunch_hostMem (s : State) (x : Nat) (l : Launch) : (s.setLaunch x l).hostMem = s.hostMem := rfl
@[simp] theorem State.setLaunch_blocks (s : State) (x : Nat) (l : Launch) : (s.setLaunch x l).blocks = s.blocks := rfl
@[simp] theorem State.setLaunch_pages (s : State) (x : Nat) (l : Launch) : (s.setLaunch x l).pages = s.pages := rfl
@[simp] theorem State.setLaunch_stage (s : State) (x : Nat) (l : Launch) : (s.setLaunch x l).stage = s.stage := rfl
@[simp] theorem State.setLaunch_stageErr (s : State) (x : Nat) (l : Launch) : (s.setLaunch x l).stageErr = s.stageErr := rfl
@[simp] theorem State.setLaunch_d0ok (s : State) (x : Nat) (l : Launch) : (s.setLaunch x l).d0ok = s.d0ok := rfl
@[simp] theorem State.setLaunch_d1ok (s : State) (x : Nat) (l : Launch) : (s.setLaunch x l).d1ok = s.d1ok := rfl
@[simp] theorem State.setLaunch_ticksRun (s : State) (x : Nat) (l : Launch) : (s.setLaunch x l).ticksRun = s.ticksRun := rfl
@[simp] theorem State.setLaunch_tickOffset (s : State) (x : Nat) (l : Launch) : (s.setLaunch x l).tickOffset = s.tickOffset := rfl
@[simp] theorem State.setLaunch_pf (s : State) (x : Nat) (l : Launch) : (s.setLaunch x l).pf = s.pf := rfl
@[simp] theorem State.setLaunch_ras (s : State) (x : Nat) (l : Launch) : (s.setLaunch x l).ras = s.ras := rfl
@[simp] theorem State.setLaunch_meter (s : State) (x : Nat) (l : Launch) : (s.setLaunch x l).meter = s.meter := rfl
@[simp] theorem State.setLaunch_side (s : State) (x : Nat) (l : Launch) : (s.setLaunch x l).side = s.side := rfl
@[simp] theorem State.setLaunch_msix (s : State) (x : Nat) (l : Launch) : (s.setLaunch x l).msix = s.msix := rfl
@[simp] theorem State.setLaunch_ltr (s : State) (x : Nat) (l : Launch) : (s.setLaunch x l).ltr = s.ltr := rfl
@[simp] theorem State.setLaunch_idlePlaces (s : State) (x : Nat) (l : Launch) : (s.setLaunch x l).idlePlaces = s.idlePlaces := rfl
@[simp] theorem State.setLaunch_hopFails (s : State) (x : Nat) (l : Launch) : (s.setLaunch x l).hopFails = s.hopFails := rfl
@[simp] theorem State.setLaunch_window (s : State) (x : Nat) (l : Launch) : (s.setLaunch x l).window = s.window := rfl
@[simp] theorem State.setLaunch_starved (s : State) (x : Nat) (l : Launch) : (s.setLaunch x l).starved = s.starved := rfl
@[simp] theorem State.setLaunch_routes (s : State) (x : Nat) (l : Launch) : (s.setLaunch x l).routes = s.routes := rfl
@[simp] theorem State.setLaunch_circling (s : State) (x : Nat) (l : Launch) : (s.setLaunch x l).circling = s.circling := rfl
@[simp] theorem State.setLaunch_halves (s : State) (x : Nat) (l : Launch) : (s.setLaunch x l).halves = s.halves := rfl
@[simp] theorem State.setLaunch_former (s : State) (x : Nat) (l : Launch) : (s.setLaunch x l).former = s.former := rfl
@[simp] theorem State.setLaunch_hostRead (s : State) (x : Nat) (l : Launch) : (s.setLaunch x l).hostRead = s.hostRead := rfl
@[simp] theorem State.setLaunch_images (s : State) (x : Nat) (l : Launch) : (s.setLaunch x l).images = s.images := rfl
@[simp] theorem State.setLaunch_shutdown (s : State) (x : Nat) (l : Launch) : (s.setLaunch x l).shutdown = s.shutdown := rfl

/-! ### setBlock -/

@[simp] theorem State.setBlock_released (s : State) (b : Nat) (k : Block) : (s.setBlock b k).released = s.released := rfl
@[simp] theorem State.setBlock_here (s : State) (b : Nat) (k : Block) : (s.setBlock b k).here = s.here := rfl
@[simp] theorem State.setBlock_agenda (s : State) (b : Nat) (k : Block) : (s.setBlock b k).agenda = s.agenda := rfl
@[simp] theorem State.setBlock_fresh (s : State) (b : Nat) (k : Block) : (s.setBlock b k).fresh = s.fresh := rfl
@[simp] theorem State.setBlock_serial (s : State) (b : Nat) (k : Block) : (s.setBlock b k).serial = s.serial := rfl
@[simp] theorem State.setBlock_cores (s : State) (b : Nat) (k : Block) : (s.setBlock b k).cores = s.cores := rfl
@[simp] theorem State.setBlock_pipes (s : State) (b : Nat) (k : Block) : (s.setBlock b k).pipes = s.pipes := rfl
@[simp] theorem State.setBlock_past (s : State) (b : Nat) (k : Block) : (s.setBlock b k).past = s.past := rfl
@[simp] theorem State.setBlock_bins (s : State) (b : Nat) (k : Block) : (s.setBlock b k).bins = s.bins := rfl
@[simp] theorem State.setBlock_binTeams (s : State) (b : Nat) (k : Block) : (s.setBlock b k).binTeams = s.binTeams := rfl
@[simp] theorem State.setBlock_ctxs (s : State) (b : Nat) (k : Block) : (s.setBlock b k).ctxs = s.ctxs := rfl
@[simp] theorem State.setBlock_die0 (s : State) (b : Nat) (k : Block) : (s.setBlock b k).die0 = s.die0 := rfl
@[simp] theorem State.setBlock_die1 (s : State) (b : Nat) (k : Block) : (s.setBlock b k).die1 = s.die1 := rfl
@[simp] theorem State.setBlock_mem (s : State) (b : Nat) (k : Block) : (s.setBlock b k).mem = s.mem := rfl
@[simp] theorem State.setBlock_hostMem (s : State) (b : Nat) (k : Block) : (s.setBlock b k).hostMem = s.hostMem := rfl
@[simp] theorem State.setBlock_pages (s : State) (b : Nat) (k : Block) : (s.setBlock b k).pages = s.pages := rfl
@[simp] theorem State.setBlock_stage (s : State) (b : Nat) (k : Block) : (s.setBlock b k).stage = s.stage := rfl
@[simp] theorem State.setBlock_stageErr (s : State) (b : Nat) (k : Block) : (s.setBlock b k).stageErr = s.stageErr := rfl
@[simp] theorem State.setBlock_d0ok (s : State) (b : Nat) (k : Block) : (s.setBlock b k).d0ok = s.d0ok := rfl
@[simp] theorem State.setBlock_d1ok (s : State) (b : Nat) (k : Block) : (s.setBlock b k).d1ok = s.d1ok := rfl
@[simp] theorem State.setBlock_ticksRun (s : State) (b : Nat) (k : Block) : (s.setBlock b k).ticksRun = s.ticksRun := rfl
@[simp] theorem State.setBlock_tickOffset (s : State) (b : Nat) (k : Block) : (s.setBlock b k).tickOffset = s.tickOffset := rfl
@[simp] theorem State.setBlock_pf (s : State) (b : Nat) (k : Block) : (s.setBlock b k).pf = s.pf := rfl
@[simp] theorem State.setBlock_ras (s : State) (b : Nat) (k : Block) : (s.setBlock b k).ras = s.ras := rfl
@[simp] theorem State.setBlock_meter (s : State) (b : Nat) (k : Block) : (s.setBlock b k).meter = s.meter := rfl
@[simp] theorem State.setBlock_side (s : State) (b : Nat) (k : Block) : (s.setBlock b k).side = s.side := rfl
@[simp] theorem State.setBlock_msix (s : State) (b : Nat) (k : Block) : (s.setBlock b k).msix = s.msix := rfl
@[simp] theorem State.setBlock_ltr (s : State) (b : Nat) (k : Block) : (s.setBlock b k).ltr = s.ltr := rfl
@[simp] theorem State.setBlock_idlePlaces (s : State) (b : Nat) (k : Block) : (s.setBlock b k).idlePlaces = s.idlePlaces := rfl
@[simp] theorem State.setBlock_hopFails (s : State) (b : Nat) (k : Block) : (s.setBlock b k).hopFails = s.hopFails := rfl
@[simp] theorem State.setBlock_window (s : State) (b : Nat) (k : Block) : (s.setBlock b k).window = s.window := rfl
@[simp] theorem State.setBlock_starved (s : State) (b : Nat) (k : Block) : (s.setBlock b k).starved = s.starved := rfl
@[simp] theorem State.setBlock_routes (s : State) (b : Nat) (k : Block) : (s.setBlock b k).routes = s.routes := rfl
@[simp] theorem State.setBlock_circling (s : State) (b : Nat) (k : Block) : (s.setBlock b k).circling = s.circling := rfl
@[simp] theorem State.setBlock_halves (s : State) (b : Nat) (k : Block) : (s.setBlock b k).halves = s.halves := rfl
@[simp] theorem State.setBlock_former (s : State) (b : Nat) (k : Block) : (s.setBlock b k).former = s.former := rfl
@[simp] theorem State.setBlock_hostRead (s : State) (b : Nat) (k : Block) : (s.setBlock b k).hostRead = s.hostRead := rfl
@[simp] theorem State.setBlock_images (s : State) (b : Nat) (k : Block) : (s.setBlock b k).images = s.images := rfl
@[simp] theorem State.setBlock_shutdown (s : State) (b : Nat) (k : Block) : (s.setBlock b k).shutdown = s.shutdown := rfl

/-! ### setPage -/

@[simp] theorem State.setPage_released (s : State) (p : Nat) (k : Page) : (s.setPage p k).released = s.released := rfl
@[simp] theorem State.setPage_here (s : State) (p : Nat) (k : Page) : (s.setPage p k).here = s.here := rfl
@[simp] theorem State.setPage_agenda (s : State) (p : Nat) (k : Page) : (s.setPage p k).agenda = s.agenda := rfl
@[simp] theorem State.setPage_fresh (s : State) (p : Nat) (k : Page) : (s.setPage p k).fresh = s.fresh := rfl
@[simp] theorem State.setPage_serial (s : State) (p : Nat) (k : Page) : (s.setPage p k).serial = s.serial := rfl
@[simp] theorem State.setPage_cores (s : State) (p : Nat) (k : Page) : (s.setPage p k).cores = s.cores := rfl
@[simp] theorem State.setPage_pipes (s : State) (p : Nat) (k : Page) : (s.setPage p k).pipes = s.pipes := rfl
@[simp] theorem State.setPage_past (s : State) (p : Nat) (k : Page) : (s.setPage p k).past = s.past := rfl
@[simp] theorem State.setPage_bins (s : State) (p : Nat) (k : Page) : (s.setPage p k).bins = s.bins := rfl
@[simp] theorem State.setPage_binTeams (s : State) (p : Nat) (k : Page) : (s.setPage p k).binTeams = s.binTeams := rfl
@[simp] theorem State.setPage_ctxs (s : State) (p : Nat) (k : Page) : (s.setPage p k).ctxs = s.ctxs := rfl
@[simp] theorem State.setPage_die0 (s : State) (p : Nat) (k : Page) : (s.setPage p k).die0 = s.die0 := rfl
@[simp] theorem State.setPage_die1 (s : State) (p : Nat) (k : Page) : (s.setPage p k).die1 = s.die1 := rfl
@[simp] theorem State.setPage_mem (s : State) (p : Nat) (k : Page) : (s.setPage p k).mem = s.mem := rfl
@[simp] theorem State.setPage_hostMem (s : State) (p : Nat) (k : Page) : (s.setPage p k).hostMem = s.hostMem := rfl
@[simp] theorem State.setPage_blocks (s : State) (p : Nat) (k : Page) : (s.setPage p k).blocks = s.blocks := rfl
@[simp] theorem State.setPage_stage (s : State) (p : Nat) (k : Page) : (s.setPage p k).stage = s.stage := rfl
@[simp] theorem State.setPage_stageErr (s : State) (p : Nat) (k : Page) : (s.setPage p k).stageErr = s.stageErr := rfl
@[simp] theorem State.setPage_d0ok (s : State) (p : Nat) (k : Page) : (s.setPage p k).d0ok = s.d0ok := rfl
@[simp] theorem State.setPage_d1ok (s : State) (p : Nat) (k : Page) : (s.setPage p k).d1ok = s.d1ok := rfl
@[simp] theorem State.setPage_ticksRun (s : State) (p : Nat) (k : Page) : (s.setPage p k).ticksRun = s.ticksRun := rfl
@[simp] theorem State.setPage_tickOffset (s : State) (p : Nat) (k : Page) : (s.setPage p k).tickOffset = s.tickOffset := rfl
@[simp] theorem State.setPage_pf (s : State) (p : Nat) (k : Page) : (s.setPage p k).pf = s.pf := rfl
@[simp] theorem State.setPage_ras (s : State) (p : Nat) (k : Page) : (s.setPage p k).ras = s.ras := rfl
@[simp] theorem State.setPage_meter (s : State) (p : Nat) (k : Page) : (s.setPage p k).meter = s.meter := rfl
@[simp] theorem State.setPage_side (s : State) (p : Nat) (k : Page) : (s.setPage p k).side = s.side := rfl
@[simp] theorem State.setPage_msix (s : State) (p : Nat) (k : Page) : (s.setPage p k).msix = s.msix := rfl
@[simp] theorem State.setPage_ltr (s : State) (p : Nat) (k : Page) : (s.setPage p k).ltr = s.ltr := rfl
@[simp] theorem State.setPage_idlePlaces (s : State) (p : Nat) (k : Page) : (s.setPage p k).idlePlaces = s.idlePlaces := rfl
@[simp] theorem State.setPage_hopFails (s : State) (p : Nat) (k : Page) : (s.setPage p k).hopFails = s.hopFails := rfl
@[simp] theorem State.setPage_window (s : State) (p : Nat) (k : Page) : (s.setPage p k).window = s.window := rfl
@[simp] theorem State.setPage_starved (s : State) (p : Nat) (k : Page) : (s.setPage p k).starved = s.starved := rfl
@[simp] theorem State.setPage_routes (s : State) (p : Nat) (k : Page) : (s.setPage p k).routes = s.routes := rfl
@[simp] theorem State.setPage_circling (s : State) (p : Nat) (k : Page) : (s.setPage p k).circling = s.circling := rfl
@[simp] theorem State.setPage_halves (s : State) (p : Nat) (k : Page) : (s.setPage p k).halves = s.halves := rfl
@[simp] theorem State.setPage_former (s : State) (p : Nat) (k : Page) : (s.setPage p k).former = s.former := rfl
@[simp] theorem State.setPage_hostRead (s : State) (p : Nat) (k : Page) : (s.setPage p k).hostRead = s.hostRead := rfl
@[simp] theorem State.setPage_images (s : State) (p : Nat) (k : Page) : (s.setPage p k).images = s.images := rfl
@[simp] theorem State.setPage_shutdown (s : State) (p : Nat) (k : Page) : (s.setPage p k).shutdown = s.shutdown := rfl

/-! ### setCluster -/

@[simp] theorem State.setCluster_released (s : State) (k : Nat) (b : List Bin) : (s.setCluster k b).released = s.released := rfl
@[simp] theorem State.setCluster_here (s : State) (k : Nat) (b : List Bin) : (s.setCluster k b).here = s.here := rfl
@[simp] theorem State.setCluster_agenda (s : State) (k : Nat) (b : List Bin) : (s.setCluster k b).agenda = s.agenda := rfl
@[simp] theorem State.setCluster_fresh (s : State) (k : Nat) (b : List Bin) : (s.setCluster k b).fresh = s.fresh := rfl
@[simp] theorem State.setCluster_serial (s : State) (k : Nat) (b : List Bin) : (s.setCluster k b).serial = s.serial := rfl
@[simp] theorem State.setCluster_cores (s : State) (k : Nat) (b : List Bin) : (s.setCluster k b).cores = s.cores := rfl
@[simp] theorem State.setCluster_pipes (s : State) (k : Nat) (b : List Bin) : (s.setCluster k b).pipes = s.pipes := rfl
@[simp] theorem State.setCluster_past (s : State) (k : Nat) (b : List Bin) : (s.setCluster k b).past = s.past := rfl
@[simp] theorem State.setCluster_binTeams (s : State) (k : Nat) (b : List Bin) : (s.setCluster k b).binTeams = s.binTeams := rfl
@[simp] theorem State.setCluster_ctxs (s : State) (k : Nat) (b : List Bin) : (s.setCluster k b).ctxs = s.ctxs := rfl
@[simp] theorem State.setCluster_die0 (s : State) (k : Nat) (b : List Bin) : (s.setCluster k b).die0 = s.die0 := rfl
@[simp] theorem State.setCluster_die1 (s : State) (k : Nat) (b : List Bin) : (s.setCluster k b).die1 = s.die1 := rfl
@[simp] theorem State.setCluster_mem (s : State) (k : Nat) (b : List Bin) : (s.setCluster k b).mem = s.mem := rfl
@[simp] theorem State.setCluster_hostMem (s : State) (k : Nat) (b : List Bin) : (s.setCluster k b).hostMem = s.hostMem := rfl
@[simp] theorem State.setCluster_blocks (s : State) (k : Nat) (b : List Bin) : (s.setCluster k b).blocks = s.blocks := rfl
@[simp] theorem State.setCluster_pages (s : State) (k : Nat) (b : List Bin) : (s.setCluster k b).pages = s.pages := rfl
@[simp] theorem State.setCluster_stage (s : State) (k : Nat) (b : List Bin) : (s.setCluster k b).stage = s.stage := rfl
@[simp] theorem State.setCluster_stageErr (s : State) (k : Nat) (b : List Bin) : (s.setCluster k b).stageErr = s.stageErr := rfl
@[simp] theorem State.setCluster_d0ok (s : State) (k : Nat) (b : List Bin) : (s.setCluster k b).d0ok = s.d0ok := rfl
@[simp] theorem State.setCluster_d1ok (s : State) (k : Nat) (b : List Bin) : (s.setCluster k b).d1ok = s.d1ok := rfl
@[simp] theorem State.setCluster_ticksRun (s : State) (k : Nat) (b : List Bin) : (s.setCluster k b).ticksRun = s.ticksRun := rfl
@[simp] theorem State.setCluster_tickOffset (s : State) (k : Nat) (b : List Bin) : (s.setCluster k b).tickOffset = s.tickOffset := rfl
@[simp] theorem State.setCluster_pf (s : State) (k : Nat) (b : List Bin) : (s.setCluster k b).pf = s.pf := rfl
@[simp] theorem State.setCluster_ras (s : State) (k : Nat) (b : List Bin) : (s.setCluster k b).ras = s.ras := rfl
@[simp] theorem State.setCluster_meter (s : State) (k : Nat) (b : List Bin) : (s.setCluster k b).meter = s.meter := rfl
@[simp] theorem State.setCluster_side (s : State) (k : Nat) (b : List Bin) : (s.setCluster k b).side = s.side := rfl
@[simp] theorem State.setCluster_msix (s : State) (k : Nat) (b : List Bin) : (s.setCluster k b).msix = s.msix := rfl
@[simp] theorem State.setCluster_ltr (s : State) (k : Nat) (b : List Bin) : (s.setCluster k b).ltr = s.ltr := rfl
@[simp] theorem State.setCluster_idlePlaces (s : State) (k : Nat) (b : List Bin) : (s.setCluster k b).idlePlaces = s.idlePlaces := rfl
@[simp] theorem State.setCluster_hopFails (s : State) (k : Nat) (b : List Bin) : (s.setCluster k b).hopFails = s.hopFails := rfl
@[simp] theorem State.setCluster_window (s : State) (k : Nat) (b : List Bin) : (s.setCluster k b).window = s.window := rfl
@[simp] theorem State.setCluster_starved (s : State) (k : Nat) (b : List Bin) : (s.setCluster k b).starved = s.starved := rfl
@[simp] theorem State.setCluster_routes (s : State) (k : Nat) (b : List Bin) : (s.setCluster k b).routes = s.routes := rfl
@[simp] theorem State.setCluster_circling (s : State) (k : Nat) (b : List Bin) : (s.setCluster k b).circling = s.circling := rfl
@[simp] theorem State.setCluster_halves (s : State) (k : Nat) (b : List Bin) : (s.setCluster k b).halves = s.halves := rfl
@[simp] theorem State.setCluster_former (s : State) (k : Nat) (b : List Bin) : (s.setCluster k b).former = s.former := rfl
@[simp] theorem State.setCluster_hostRead (s : State) (k : Nat) (b : List Bin) : (s.setCluster k b).hostRead = s.hostRead := rfl
@[simp] theorem State.setCluster_images (s : State) (k : Nat) (b : List Bin) : (s.setCluster k b).images = s.images := rfl
@[simp] theorem State.setCluster_shutdown (s : State) (k : Nat) (b : List Bin) : (s.setCluster k b).shutdown = s.shutdown := rfl

/-! ### used -/

@[simp] theorem State.used_released (s : State) : (s.used).released = s.released := rfl
@[simp] theorem State.used_here (s : State) : (s.used).here = s.here := rfl
@[simp] theorem State.used_agenda (s : State) : (s.used).agenda = s.agenda := rfl
@[simp] theorem State.used_serial (s : State) : (s.used).serial = s.serial := rfl
@[simp] theorem State.used_cores (s : State) : (s.used).cores = s.cores := rfl
@[simp] theorem State.used_pipes (s : State) : (s.used).pipes = s.pipes := rfl
@[simp] theorem State.used_past (s : State) : (s.used).past = s.past := rfl
@[simp] theorem State.used_bins (s : State) : (s.used).bins = s.bins := rfl
@[simp] theorem State.used_binTeams (s : State) : (s.used).binTeams = s.binTeams := rfl
@[simp] theorem State.used_ctxs (s : State) : (s.used).ctxs = s.ctxs := rfl
@[simp] theorem State.used_die0 (s : State) : (s.used).die0 = s.die0 := rfl
@[simp] theorem State.used_die1 (s : State) : (s.used).die1 = s.die1 := rfl
@[simp] theorem State.used_mem (s : State) : (s.used).mem = s.mem := rfl
@[simp] theorem State.used_hostMem (s : State) : (s.used).hostMem = s.hostMem := rfl
@[simp] theorem State.used_blocks (s : State) : (s.used).blocks = s.blocks := rfl
@[simp] theorem State.used_pages (s : State) : (s.used).pages = s.pages := rfl
@[simp] theorem State.used_stage (s : State) : (s.used).stage = s.stage := rfl
@[simp] theorem State.used_stageErr (s : State) : (s.used).stageErr = s.stageErr := rfl
@[simp] theorem State.used_d0ok (s : State) : (s.used).d0ok = s.d0ok := rfl
@[simp] theorem State.used_d1ok (s : State) : (s.used).d1ok = s.d1ok := rfl
@[simp] theorem State.used_ticksRun (s : State) : (s.used).ticksRun = s.ticksRun := rfl
@[simp] theorem State.used_tickOffset (s : State) : (s.used).tickOffset = s.tickOffset := rfl
@[simp] theorem State.used_pf (s : State) : (s.used).pf = s.pf := rfl
@[simp] theorem State.used_ras (s : State) : (s.used).ras = s.ras := rfl
@[simp] theorem State.used_meter (s : State) : (s.used).meter = s.meter := rfl
@[simp] theorem State.used_side (s : State) : (s.used).side = s.side := rfl
@[simp] theorem State.used_msix (s : State) : (s.used).msix = s.msix := rfl
@[simp] theorem State.used_ltr (s : State) : (s.used).ltr = s.ltr := rfl
@[simp] theorem State.used_idlePlaces (s : State) : (s.used).idlePlaces = s.idlePlaces := rfl
@[simp] theorem State.used_hopFails (s : State) : (s.used).hopFails = s.hopFails := rfl
@[simp] theorem State.used_window (s : State) : (s.used).window = s.window := rfl
@[simp] theorem State.used_starved (s : State) : (s.used).starved = s.starved := rfl
@[simp] theorem State.used_routes (s : State) : (s.used).routes = s.routes := rfl
@[simp] theorem State.used_circling (s : State) : (s.used).circling = s.circling := rfl
@[simp] theorem State.used_halves (s : State) : (s.used).halves = s.halves := rfl
@[simp] theorem State.used_former (s : State) : (s.used).former = s.former := rfl
@[simp] theorem State.used_hostRead (s : State) : (s.used).hostRead = s.hostRead := rfl
@[simp] theorem State.used_images (s : State) : (s.used).images = s.images := rfl
@[simp] theorem State.used_shutdown (s : State) : (s.used).shutdown = s.shutdown := rfl

/-! ### again -/

@[simp] theorem State.again_released (s : State) (v : View) : (s.again v).released = s.released := rfl
@[simp] theorem State.again_here (s : State) (v : View) : (s.again v).here = s.here := rfl
@[simp] theorem State.again_fresh (s : State) (v : View) : (s.again v).fresh = s.fresh := rfl
@[simp] theorem State.again_serial (s : State) (v : View) : (s.again v).serial = s.serial := rfl
@[simp] theorem State.again_cores (s : State) (v : View) : (s.again v).cores = s.cores := rfl
@[simp] theorem State.again_pipes (s : State) (v : View) : (s.again v).pipes = s.pipes := rfl
@[simp] theorem State.again_past (s : State) (v : View) : (s.again v).past = s.past := rfl
@[simp] theorem State.again_bins (s : State) (v : View) : (s.again v).bins = s.bins := rfl
@[simp] theorem State.again_binTeams (s : State) (v : View) : (s.again v).binTeams = s.binTeams := rfl
@[simp] theorem State.again_ctxs (s : State) (v : View) : (s.again v).ctxs = s.ctxs := rfl
@[simp] theorem State.again_die0 (s : State) (v : View) : (s.again v).die0 = s.die0 := rfl
@[simp] theorem State.again_die1 (s : State) (v : View) : (s.again v).die1 = s.die1 := rfl
@[simp] theorem State.again_mem (s : State) (v : View) : (s.again v).mem = s.mem := rfl
@[simp] theorem State.again_hostMem (s : State) (v : View) : (s.again v).hostMem = s.hostMem := rfl
@[simp] theorem State.again_blocks (s : State) (v : View) : (s.again v).blocks = s.blocks := rfl
@[simp] theorem State.again_pages (s : State) (v : View) : (s.again v).pages = s.pages := rfl
@[simp] theorem State.again_stage (s : State) (v : View) : (s.again v).stage = s.stage := rfl
@[simp] theorem State.again_stageErr (s : State) (v : View) : (s.again v).stageErr = s.stageErr := rfl
@[simp] theorem State.again_d0ok (s : State) (v : View) : (s.again v).d0ok = s.d0ok := rfl
@[simp] theorem State.again_d1ok (s : State) (v : View) : (s.again v).d1ok = s.d1ok := rfl
@[simp] theorem State.again_ticksRun (s : State) (v : View) : (s.again v).ticksRun = s.ticksRun := rfl
@[simp] theorem State.again_tickOffset (s : State) (v : View) : (s.again v).tickOffset = s.tickOffset := rfl
@[simp] theorem State.again_pf (s : State) (v : View) : (s.again v).pf = s.pf := rfl
@[simp] theorem State.again_ras (s : State) (v : View) : (s.again v).ras = s.ras := rfl
@[simp] theorem State.again_meter (s : State) (v : View) : (s.again v).meter = s.meter := rfl
@[simp] theorem State.again_side (s : State) (v : View) : (s.again v).side = s.side := rfl
@[simp] theorem State.again_msix (s : State) (v : View) : (s.again v).msix = s.msix := rfl
@[simp] theorem State.again_ltr (s : State) (v : View) : (s.again v).ltr = s.ltr := rfl
@[simp] theorem State.again_idlePlaces (s : State) (v : View) : (s.again v).idlePlaces = s.idlePlaces := rfl
@[simp] theorem State.again_hopFails (s : State) (v : View) : (s.again v).hopFails = s.hopFails := rfl
@[simp] theorem State.again_window (s : State) (v : View) : (s.again v).window = s.window := rfl
@[simp] theorem State.again_starved (s : State) (v : View) : (s.again v).starved = s.starved := rfl
@[simp] theorem State.again_routes (s : State) (v : View) : (s.again v).routes = s.routes := rfl
@[simp] theorem State.again_circling (s : State) (v : View) : (s.again v).circling = s.circling := rfl
@[simp] theorem State.again_halves (s : State) (v : View) : (s.again v).halves = s.halves := rfl
@[simp] theorem State.again_former (s : State) (v : View) : (s.again v).former = s.former := rfl
@[simp] theorem State.again_hostRead (s : State) (v : View) : (s.again v).hostRead = s.hostRead := rfl
@[simp] theorem State.again_images (s : State) (v : View) : (s.again v).images = s.images := rfl
@[simp] theorem State.again_shutdown (s : State) (v : View) : (s.again v).shutdown = s.shutdown := rfl

/-! ### setDie -/

@[simp] theorem State.setDie_released (s : State) (d : Nat) (k : Die) : (s.setDie d k).released = s.released := by unfold State.setDie; split <;> rfl
@[simp] theorem State.setDie_here (s : State) (d : Nat) (k : Die) : (s.setDie d k).here = s.here := by unfold State.setDie; split <;> rfl
@[simp] theorem State.setDie_agenda (s : State) (d : Nat) (k : Die) : (s.setDie d k).agenda = s.agenda := by unfold State.setDie; split <;> rfl
@[simp] theorem State.setDie_fresh (s : State) (d : Nat) (k : Die) : (s.setDie d k).fresh = s.fresh := by unfold State.setDie; split <;> rfl
@[simp] theorem State.setDie_serial (s : State) (d : Nat) (k : Die) : (s.setDie d k).serial = s.serial := by unfold State.setDie; split <;> rfl
@[simp] theorem State.setDie_cores (s : State) (d : Nat) (k : Die) : (s.setDie d k).cores = s.cores := by unfold State.setDie; split <;> rfl
@[simp] theorem State.setDie_pipes (s : State) (d : Nat) (k : Die) : (s.setDie d k).pipes = s.pipes := by unfold State.setDie; split <;> rfl
@[simp] theorem State.setDie_past (s : State) (d : Nat) (k : Die) : (s.setDie d k).past = s.past := by unfold State.setDie; split <;> rfl
@[simp] theorem State.setDie_bins (s : State) (d : Nat) (k : Die) : (s.setDie d k).bins = s.bins := by unfold State.setDie; split <;> rfl
@[simp] theorem State.setDie_binTeams (s : State) (d : Nat) (k : Die) : (s.setDie d k).binTeams = s.binTeams := by unfold State.setDie; split <;> rfl
@[simp] theorem State.setDie_ctxs (s : State) (d : Nat) (k : Die) : (s.setDie d k).ctxs = s.ctxs := by unfold State.setDie; split <;> rfl
@[simp] theorem State.setDie_mem (s : State) (d : Nat) (k : Die) : (s.setDie d k).mem = s.mem := by unfold State.setDie; split <;> rfl
@[simp] theorem State.setDie_hostMem (s : State) (d : Nat) (k : Die) : (s.setDie d k).hostMem = s.hostMem := by unfold State.setDie; split <;> rfl
@[simp] theorem State.setDie_blocks (s : State) (d : Nat) (k : Die) : (s.setDie d k).blocks = s.blocks := by unfold State.setDie; split <;> rfl
@[simp] theorem State.setDie_pages (s : State) (d : Nat) (k : Die) : (s.setDie d k).pages = s.pages := by unfold State.setDie; split <;> rfl
@[simp] theorem State.setDie_stage (s : State) (d : Nat) (k : Die) : (s.setDie d k).stage = s.stage := by unfold State.setDie; split <;> rfl
@[simp] theorem State.setDie_stageErr (s : State) (d : Nat) (k : Die) : (s.setDie d k).stageErr = s.stageErr := by unfold State.setDie; split <;> rfl
@[simp] theorem State.setDie_d0ok (s : State) (d : Nat) (k : Die) : (s.setDie d k).d0ok = s.d0ok := by unfold State.setDie; split <;> rfl
@[simp] theorem State.setDie_d1ok (s : State) (d : Nat) (k : Die) : (s.setDie d k).d1ok = s.d1ok := by unfold State.setDie; split <;> rfl
@[simp] theorem State.setDie_ticksRun (s : State) (d : Nat) (k : Die) : (s.setDie d k).ticksRun = s.ticksRun := by unfold State.setDie; split <;> rfl
@[simp] theorem State.setDie_tickOffset (s : State) (d : Nat) (k : Die) : (s.setDie d k).tickOffset = s.tickOffset := by unfold State.setDie; split <;> rfl
@[simp] theorem State.setDie_pf (s : State) (d : Nat) (k : Die) : (s.setDie d k).pf = s.pf := by unfold State.setDie; split <;> rfl
@[simp] theorem State.setDie_ras (s : State) (d : Nat) (k : Die) : (s.setDie d k).ras = s.ras := by unfold State.setDie; split <;> rfl
@[simp] theorem State.setDie_meter (s : State) (d : Nat) (k : Die) : (s.setDie d k).meter = s.meter := by unfold State.setDie; split <;> rfl
@[simp] theorem State.setDie_side (s : State) (d : Nat) (k : Die) : (s.setDie d k).side = s.side := by unfold State.setDie; split <;> rfl
@[simp] theorem State.setDie_msix (s : State) (d : Nat) (k : Die) : (s.setDie d k).msix = s.msix := by unfold State.setDie; split <;> rfl
@[simp] theorem State.setDie_ltr (s : State) (d : Nat) (k : Die) : (s.setDie d k).ltr = s.ltr := by unfold State.setDie; split <;> rfl
@[simp] theorem State.setDie_idlePlaces (s : State) (d : Nat) (k : Die) : (s.setDie d k).idlePlaces = s.idlePlaces := by unfold State.setDie; split <;> rfl
@[simp] theorem State.setDie_hopFails (s : State) (d : Nat) (k : Die) : (s.setDie d k).hopFails = s.hopFails := by unfold State.setDie; split <;> rfl
@[simp] theorem State.setDie_window (s : State) (d : Nat) (k : Die) : (s.setDie d k).window = s.window := by unfold State.setDie; split <;> rfl
@[simp] theorem State.setDie_starved (s : State) (d : Nat) (k : Die) : (s.setDie d k).starved = s.starved := by unfold State.setDie; split <;> rfl
@[simp] theorem State.setDie_routes (s : State) (d : Nat) (k : Die) : (s.setDie d k).routes = s.routes := by unfold State.setDie; split <;> rfl
@[simp] theorem State.setDie_circling (s : State) (d : Nat) (k : Die) : (s.setDie d k).circling = s.circling := by unfold State.setDie; split <;> rfl
@[simp] theorem State.setDie_halves (s : State) (d : Nat) (k : Die) : (s.setDie d k).halves = s.halves := by unfold State.setDie; split <;> rfl
@[simp] theorem State.setDie_former (s : State) (d : Nat) (k : Die) : (s.setDie d k).former = s.former := by unfold State.setDie; split <;> rfl
@[simp] theorem State.setDie_hostRead (s : State) (d : Nat) (k : Die) : (s.setDie d k).hostRead = s.hostRead := by unfold State.setDie; split <;> rfl
@[simp] theorem State.setDie_images (s : State) (d : Nat) (k : Die) : (s.setDie d k).images = s.images := by unfold State.setDie; split <;> rfl
@[simp] theorem State.setDie_shutdown (s : State) (d : Nat) (k : Die) : (s.setDie d k).shutdown = s.shutdown := by unfold State.setDie; split <;> rfl

/-! ### passTicks -/

@[simp] theorem State.passTicks_released (s : State) (n : Nat) : (s.passTicks n).released = s.released := by unfold State.passTicks; split <;> rfl
@[simp] theorem State.passTicks_here (s : State) (n : Nat) : (s.passTicks n).here = s.here := by unfold State.passTicks; split <;> rfl
@[simp] theorem State.passTicks_agenda (s : State) (n : Nat) : (s.passTicks n).agenda = s.agenda := by unfold State.passTicks; split <;> rfl
@[simp] theorem State.passTicks_fresh (s : State) (n : Nat) : (s.passTicks n).fresh = s.fresh := by unfold State.passTicks; split <;> rfl
@[simp] theorem State.passTicks_serial (s : State) (n : Nat) : (s.passTicks n).serial = s.serial := by unfold State.passTicks; split <;> rfl
@[simp] theorem State.passTicks_cores (s : State) (n : Nat) : (s.passTicks n).cores = s.cores := by unfold State.passTicks; split <;> rfl
@[simp] theorem State.passTicks_pipes (s : State) (n : Nat) : (s.passTicks n).pipes = s.pipes := by unfold State.passTicks; split <;> rfl
@[simp] theorem State.passTicks_past (s : State) (n : Nat) : (s.passTicks n).past = s.past := by unfold State.passTicks; split <;> rfl
@[simp] theorem State.passTicks_bins (s : State) (n : Nat) : (s.passTicks n).bins = s.bins := by unfold State.passTicks; split <;> rfl
@[simp] theorem State.passTicks_binTeams (s : State) (n : Nat) : (s.passTicks n).binTeams = s.binTeams := by unfold State.passTicks; split <;> rfl
@[simp] theorem State.passTicks_ctxs (s : State) (n : Nat) : (s.passTicks n).ctxs = s.ctxs := by unfold State.passTicks; split <;> rfl
@[simp] theorem State.passTicks_mem (s : State) (n : Nat) : (s.passTicks n).mem = s.mem := by unfold State.passTicks; split <;> rfl
@[simp] theorem State.passTicks_hostMem (s : State) (n : Nat) : (s.passTicks n).hostMem = s.hostMem := by unfold State.passTicks; split <;> rfl
@[simp] theorem State.passTicks_blocks (s : State) (n : Nat) : (s.passTicks n).blocks = s.blocks := by unfold State.passTicks; split <;> rfl
@[simp] theorem State.passTicks_pages (s : State) (n : Nat) : (s.passTicks n).pages = s.pages := by unfold State.passTicks; split <;> rfl
@[simp] theorem State.passTicks_stage (s : State) (n : Nat) : (s.passTicks n).stage = s.stage := by unfold State.passTicks; split <;> rfl
@[simp] theorem State.passTicks_stageErr (s : State) (n : Nat) : (s.passTicks n).stageErr = s.stageErr := by unfold State.passTicks; split <;> rfl
@[simp] theorem State.passTicks_d0ok (s : State) (n : Nat) : (s.passTicks n).d0ok = s.d0ok := by unfold State.passTicks; split <;> rfl
@[simp] theorem State.passTicks_d1ok (s : State) (n : Nat) : (s.passTicks n).d1ok = s.d1ok := by unfold State.passTicks; split <;> rfl
@[simp] theorem State.passTicks_ticksRun (s : State) (n : Nat) : (s.passTicks n).ticksRun = s.ticksRun := by unfold State.passTicks; split <;> rfl
@[simp] theorem State.passTicks_tickOffset (s : State) (n : Nat) : (s.passTicks n).tickOffset = s.tickOffset := by unfold State.passTicks; split <;> rfl
@[simp] theorem State.passTicks_pf (s : State) (n : Nat) : (s.passTicks n).pf = s.pf := by unfold State.passTicks; split <;> rfl
@[simp] theorem State.passTicks_ras (s : State) (n : Nat) : (s.passTicks n).ras = s.ras := by unfold State.passTicks; split <;> rfl
@[simp] theorem State.passTicks_meter (s : State) (n : Nat) : (s.passTicks n).meter = s.meter := by unfold State.passTicks; split <;> rfl
@[simp] theorem State.passTicks_side (s : State) (n : Nat) : (s.passTicks n).side = s.side := by unfold State.passTicks; split <;> rfl
@[simp] theorem State.passTicks_msix (s : State) (n : Nat) : (s.passTicks n).msix = s.msix := by unfold State.passTicks; split <;> rfl
@[simp] theorem State.passTicks_ltr (s : State) (n : Nat) : (s.passTicks n).ltr = s.ltr := by unfold State.passTicks; split <;> rfl
@[simp] theorem State.passTicks_idlePlaces (s : State) (n : Nat) : (s.passTicks n).idlePlaces = s.idlePlaces := by unfold State.passTicks; split <;> rfl
@[simp] theorem State.passTicks_hopFails (s : State) (n : Nat) : (s.passTicks n).hopFails = s.hopFails := by unfold State.passTicks; split <;> rfl
@[simp] theorem State.passTicks_window (s : State) (n : Nat) : (s.passTicks n).window = s.window := by unfold State.passTicks; split <;> rfl
@[simp] theorem State.passTicks_starved (s : State) (n : Nat) : (s.passTicks n).starved = s.starved := by unfold State.passTicks; split <;> rfl
@[simp] theorem State.passTicks_routes (s : State) (n : Nat) : (s.passTicks n).routes = s.routes := by unfold State.passTicks; split <;> rfl
@[simp] theorem State.passTicks_circling (s : State) (n : Nat) : (s.passTicks n).circling = s.circling := by unfold State.passTicks; split <;> rfl
@[simp] theorem State.passTicks_halves (s : State) (n : Nat) : (s.passTicks n).halves = s.halves := by unfold State.passTicks; split <;> rfl
@[simp] theorem State.passTicks_former (s : State) (n : Nat) : (s.passTicks n).former = s.former := by unfold State.passTicks; split <;> rfl
@[simp] theorem State.passTicks_hostRead (s : State) (n : Nat) : (s.passTicks n).hostRead = s.hostRead := by unfold State.passTicks; split <;> rfl
@[simp] theorem State.passTicks_images (s : State) (n : Nat) : (s.passTicks n).images = s.images := by unfold State.passTicks; split <;> rfl
@[simp] theorem State.passTicks_shutdown (s : State) (n : Nat) : (s.passTicks n).shutdown = s.shutdown := by unfold State.passTicks; split <;> rfl

/-! ### passCycles -/

@[simp] theorem State.passCycles_released (s : State) (d n : Nat) : (s.passCycles d n).released = s.released := State.setDie_released s _ _
@[simp] theorem State.passCycles_here (s : State) (d n : Nat) : (s.passCycles d n).here = s.here := State.setDie_here s _ _
@[simp] theorem State.passCycles_agenda (s : State) (d n : Nat) : (s.passCycles d n).agenda = s.agenda := State.setDie_agenda s _ _
@[simp] theorem State.passCycles_fresh (s : State) (d n : Nat) : (s.passCycles d n).fresh = s.fresh := State.setDie_fresh s _ _
@[simp] theorem State.passCycles_serial (s : State) (d n : Nat) : (s.passCycles d n).serial = s.serial := State.setDie_serial s _ _
@[simp] theorem State.passCycles_cores (s : State) (d n : Nat) : (s.passCycles d n).cores = s.cores := State.setDie_cores s _ _
@[simp] theorem State.passCycles_pipes (s : State) (d n : Nat) : (s.passCycles d n).pipes = s.pipes := State.setDie_pipes s _ _
@[simp] theorem State.passCycles_past (s : State) (d n : Nat) : (s.passCycles d n).past = s.past := State.setDie_past s _ _
@[simp] theorem State.passCycles_bins (s : State) (d n : Nat) : (s.passCycles d n).bins = s.bins := State.setDie_bins s _ _
@[simp] theorem State.passCycles_binTeams (s : State) (d n : Nat) : (s.passCycles d n).binTeams = s.binTeams := State.setDie_binTeams s _ _
@[simp] theorem State.passCycles_ctxs (s : State) (d n : Nat) : (s.passCycles d n).ctxs = s.ctxs := State.setDie_ctxs s _ _
@[simp] theorem State.passCycles_mem (s : State) (d n : Nat) : (s.passCycles d n).mem = s.mem := State.setDie_mem s _ _
@[simp] theorem State.passCycles_hostMem (s : State) (d n : Nat) : (s.passCycles d n).hostMem = s.hostMem := State.setDie_hostMem s _ _
@[simp] theorem State.passCycles_blocks (s : State) (d n : Nat) : (s.passCycles d n).blocks = s.blocks := State.setDie_blocks s _ _
@[simp] theorem State.passCycles_pages (s : State) (d n : Nat) : (s.passCycles d n).pages = s.pages := State.setDie_pages s _ _
@[simp] theorem State.passCycles_stage (s : State) (d n : Nat) : (s.passCycles d n).stage = s.stage := State.setDie_stage s _ _
@[simp] theorem State.passCycles_stageErr (s : State) (d n : Nat) : (s.passCycles d n).stageErr = s.stageErr := State.setDie_stageErr s _ _
@[simp] theorem State.passCycles_d0ok (s : State) (d n : Nat) : (s.passCycles d n).d0ok = s.d0ok := State.setDie_d0ok s _ _
@[simp] theorem State.passCycles_d1ok (s : State) (d n : Nat) : (s.passCycles d n).d1ok = s.d1ok := State.setDie_d1ok s _ _
@[simp] theorem State.passCycles_ticksRun (s : State) (d n : Nat) : (s.passCycles d n).ticksRun = s.ticksRun := State.setDie_ticksRun s _ _
@[simp] theorem State.passCycles_tickOffset (s : State) (d n : Nat) : (s.passCycles d n).tickOffset = s.tickOffset := State.setDie_tickOffset s _ _
@[simp] theorem State.passCycles_pf (s : State) (d n : Nat) : (s.passCycles d n).pf = s.pf := State.setDie_pf s _ _
@[simp] theorem State.passCycles_ras (s : State) (d n : Nat) : (s.passCycles d n).ras = s.ras := State.setDie_ras s _ _
@[simp] theorem State.passCycles_meter (s : State) (d n : Nat) : (s.passCycles d n).meter = s.meter := State.setDie_meter s _ _
@[simp] theorem State.passCycles_side (s : State) (d n : Nat) : (s.passCycles d n).side = s.side := State.setDie_side s _ _
@[simp] theorem State.passCycles_msix (s : State) (d n : Nat) : (s.passCycles d n).msix = s.msix := State.setDie_msix s _ _
@[simp] theorem State.passCycles_ltr (s : State) (d n : Nat) : (s.passCycles d n).ltr = s.ltr := State.setDie_ltr s _ _
@[simp] theorem State.passCycles_idlePlaces (s : State) (d n : Nat) : (s.passCycles d n).idlePlaces = s.idlePlaces := State.setDie_idlePlaces s _ _
@[simp] theorem State.passCycles_hopFails (s : State) (d n : Nat) : (s.passCycles d n).hopFails = s.hopFails := State.setDie_hopFails s _ _
@[simp] theorem State.passCycles_window (s : State) (d n : Nat) : (s.passCycles d n).window = s.window := State.setDie_window s _ _
@[simp] theorem State.passCycles_starved (s : State) (d n : Nat) : (s.passCycles d n).starved = s.starved := State.setDie_starved s _ _
@[simp] theorem State.passCycles_routes (s : State) (d n : Nat) : (s.passCycles d n).routes = s.routes := State.setDie_routes s _ _
@[simp] theorem State.passCycles_circling (s : State) (d n : Nat) : (s.passCycles d n).circling = s.circling := State.setDie_circling s _ _
@[simp] theorem State.passCycles_halves (s : State) (d n : Nat) : (s.passCycles d n).halves = s.halves := State.setDie_halves s _ _
@[simp] theorem State.passCycles_former (s : State) (d n : Nat) : (s.passCycles d n).former = s.former := State.setDie_former s _ _
@[simp] theorem State.passCycles_hostRead (s : State) (d n : Nat) : (s.passCycles d n).hostRead = s.hostRead := State.setDie_hostRead s _ _
@[simp] theorem State.passCycles_images (s : State) (d n : Nat) : (s.passCycles d n).images = s.images := State.setDie_images s _ _
@[simp] theorem State.passCycles_shutdown (s : State) (d n : Nat) : (s.passCycles d n).shutdown = s.shutdown := State.setDie_shutdown s _ _

end Sys2Proof.Machine
end

