-- ==== Sys2Proof/Laws/Table.lean ====
section
/-!
SUPPORT. Laws of tables and of byte memories: reading what was put, and the canonical form under every operation.
-/

namespace Sys2Proof.Machine

/-! ### Tables -/

@[simp] theorem Table.get_nil {α : Type} (k : Nat) : Table.get ([] : List (Nat × α)) k = none := rfl

theorem Table.get_cons {α : Type} (j : Nat) (a : α) (t : List (Nat × α)) (k : Nat) :
    Table.get ((j, a) :: t) k = if j = k then some a else Table.get t k := rfl

theorem Table.mem_of_get {α : Type} {t : List (Nat × α)} {k : Nat} {a : α} (h : Table.get t k = some a) : (k, a) ∈ t := by
  induction t with
  | nil => cases h
  | cons e t ih =>
    rw [Table.get_cons] at h
    split at h
    · obtain rfl := Option.some.inj h; subst k; exact List.mem_cons_self
    · exact List.mem_cons_of_mem _ (ih h)

theorem Table.put_cons {α : Type} (j : Nat) (b : α) (t : List (Nat × α)) (k : Nat) (a : α) :
    Table.put ((j, b) :: t) k a =
      if k < j then (k, a) :: (j, b) :: t else if k = j then (k, a) :: t else (j, b) :: Table.put t k a := rfl

theorem Table.get_map {α β : Type} (f : α → β) (t : List (Nat × α)) (k : Nat) :
    Table.get (t.map fun e => (e.1, f e.2)) k = (Table.get t k).map f := by
  induction t with
  | nil => rfl
  | cons e t ih =>
    obtain ⟨j, a⟩ := e
    simp only [List.map_cons, Table.get_cons, ih]
    split <;> rfl

@[simp] theorem Table.get_put_self {α : Type} (t : List (Nat × α)) (k : Nat) (a : α) :
    Table.get (Table.put t k a) k = some a := by
  induction t with
  | nil => simp [Table.put, Table.get]
  | cons e t ih =>
    obtain ⟨j, b⟩ := e
    rw [Table.put_cons]
    split
    · simp [Table.get_cons]
    · split
      · simp [Table.get_cons]
      · rw [Table.get_cons, if_neg (by omega), ih]

theorem Table.get_put_other {α : Type} (t : List (Nat × α)) {k j : Nat} (a : α) (h : j ≠ k) :
    Table.get (Table.put t k a) j = Table.get t j := by
  induction t with
  | nil => simp [Table.put, Table.get, Ne.symm h]
  | cons e t ih =>
    obtain ⟨i, b⟩ := e
    rw [Table.put_cons]
    split
    · rw [Table.get_cons, if_neg (Ne.symm h)]
    · split
      · rename_i _ hk
        rw [Table.get_cons, Table.get_cons, if_neg (Ne.symm h), if_neg (by omega)]
      · rw [Table.get_cons, Table.get_cons, ih]

@[simp] theorem Table.put_put {α : Type} (t : List (Nat × α)) (k : Nat) (a b : α) :
    Table.put (Table.put t k a) k b = Table.put t k b := by
  induction t with
  | nil => simp [Table.put]
  | cons e t ih =>
    obtain ⟨i, c⟩ := e
    rw [Table.put_cons, Table.put_cons]
    by_cases h1 : k < i
    · simp [h1, Table.put_cons]
    · by_cases h2 : k = i
      · simp [h2, Table.put_cons]
      · simp [h1, h2, Table.put_cons, ih]

theorem Table.get_drop_self {α : Type} (t : List (Nat × α)) (k : Nat) : Table.get (Table.drop t k) k = none := by
  induction t with
  | nil => rfl
  | cons e t ih =>
    obtain ⟨i, c⟩ := e
    unfold Table.drop at *
    by_cases h : i = k
    · simp [h, ih]
    · simp [h, Table.get_cons, ih]

theorem Table.get_drop_other {α : Type} (t : List (Nat × α)) {k j : Nat} (h : j ≠ k) :
    Table.get (Table.drop t k) j = Table.get t j := by
  induction t with
  | nil => rfl
  | cons e t ih =>
    obtain ⟨i, c⟩ := e
    unfold Table.drop at *
    by_cases h2 : i = k
    · subst h2
      simp [Table.get_cons, ih, Ne.symm h]
    · simp [h2, Table.get_cons, ih]

/-! ### Byte memories -/

theorem Memory.write_cons (k : Nat) (c : Byte) (m : List Host.Cell) (a : Nat) (b : Byte) :
    Memory.write ((k, c) :: m) a b =
      if a < k then (if b = 0 then (k, c) :: m else (a, b) :: (k, c) :: m)
      else if a = k then (if b = 0 then m else (a, b) :: m) else (k, c) :: Memory.write m a b := rfl

theorem Memory.above_write (m : List Host.Cell) (lo a : Nat) (b : Byte) (h : Memory.above lo m = true) (ha : lo < a) :
    Memory.above lo (Memory.write m a b) = true := by
  induction m with
  | nil =>
    unfold Memory.write
    split <;> simp_all [Memory.above]
  | cons e m ih =>
    obtain ⟨k, c⟩ := e
    simp only [Memory.above, Bool.and_eq_true, decide_eq_true_eq] at h
    rw [Memory.write_cons]
    split_ifs <;> simp [Memory.above, h.1, h.2, ha, ih h.2]

theorem Memory.above_mono (m : List Host.Cell) {lo hi : Nat} (h : Memory.above hi m = true) (hl : lo ≤ hi) :
    Memory.above lo m = true := by
  induction m with
  | nil => rfl
  | cons e m ih =>
    obtain ⟨k, c⟩ := e
    simp only [Memory.above, Bool.and_eq_true, decide_eq_true_eq] at *
    exact ⟨by omega, ih h.2⟩

theorem Memory.wf_cons (k : Nat) (b : Byte) (m : List Host.Cell) :
    Memory.wf ((k, b) :: m) = true ↔ b ≠ 0 ∧ Memory.above k m = true ∧ Memory.wf m = true := by
  simp [Memory.wf, and_assoc]

/-- One byte written keeps the canonical form. -/
theorem Memory.wf_write (m : List Host.Cell) (a : Nat) (b : Byte) (h : Memory.wf m = true) :
    Memory.wf (Memory.write m a b) = true := by
  induction m with
  | nil =>
    unfold Memory.write
    split <;> simp_all [Memory.wf, Memory.above]
  | cons e m ih =>
    obtain ⟨k, c⟩ := e
    have h' := (Memory.wf_cons k c m).1 h
    rw [Memory.write_cons]
    split_ifs with h1 hb h2 hb
    · exact h
    · exact (Memory.wf_cons _ _ _).2 ⟨hb, by simp [Memory.above, h1, Memory.above_mono m h'.2.1 (Nat.le_of_lt h1)], h⟩
    · exact h'.2.2
    · exact (Memory.wf_cons _ _ _).2 ⟨hb, h2 ▸ h'.2.1, h'.2.2⟩
    · exact (Memory.wf_cons _ _ _).2 ⟨h'.1, Memory.above_write m k a b h'.2.1 (by omega), ih h'.2.2⟩

/-- A run of bytes written keeps the canonical form. -/
theorem Memory.wf_writeList (m : List Host.Cell) (a : Nat) (bs : List Byte) (h : Memory.wf m = true) :
    Memory.wf (Memory.writeList m a bs) = true := by
  induction bs generalizing m a with
  | nil => exact h
  | cons b bs ih => exact ih _ _ (Memory.wf_write m a b h)

theorem Memory.above_filter (f : Host.Cell → Bool) (m : List Host.Cell) (lo : Nat) (h : Memory.above lo m = true) :
    Memory.above lo (m.filter f) = true := by
  induction m with
  | nil => rfl
  | cons e m ih =>
    obtain ⟨k, c⟩ := e
    simp only [Memory.above, Bool.and_eq_true, decide_eq_true_eq] at h
    rw [List.filter_cons]
    split
    · simp [Memory.above, h.1, ih h.2]
    · exact ih h.2

/-- A memory without some of its entries keeps the canonical form. -/
theorem Memory.wf_filter (f : Host.Cell → Bool) (m : List Host.Cell) (h : Memory.wf m = true) :
    Memory.wf (m.filter f) = true := by
  induction m with
  | nil => rfl
  | cons e m ih =>
    obtain ⟨k, c⟩ := e
    have h' := (Memory.wf_cons k c m).1 h
    rw [List.filter_cons]
    split
    · exact (Memory.wf_cons _ _ _).2 ⟨h'.1, Memory.above_filter f m k h'.2.1, ih h'.2.2⟩
    · exact ih h'.2.2

/-- Bytes written one by one, whatever the order, keep the canonical form. -/
theorem Memory.wf_foldl_write {α : Type} (l : List α) (addr : α → Nat) (val : α → Byte) (m : List Host.Cell)
    (h : Memory.wf m = true) : Memory.wf (l.foldl (fun m o => Memory.write m (addr o) (val o)) m) = true := by
  induction l generalizing m with
  | nil => exact h
  | cons e l ih => exact ih _ (Memory.wf_write m _ _ h)

end Sys2Proof.Machine
end

