-- ==== Sys2Proof/Laws/Parts.lean ====
section
/-!
SUPPORT. Reading back a part of the state that was replaced: cores, teams, contexts, dies, pages, blocks, and the
executing team and path.
-/

namespace Sys2Proof.Machine

/-! ### Tables of the state -/

@[simp] theorem State.core_setCore_self (s : State) (c : Nat) (k : Core) : (s.setCore c k).core c = k := by
  simp [State.core, State.setCore]

theorem State.core_setCore_other (s : State) {c d : Nat} (k : Core) (h : d ≠ c) : (s.setCore c k).core d = s.core d := by
  simp [State.core, State.setCore, Table.get_put_other _ _ h]

@[simp] theorem State.setCore_setCore (s : State) (c : Nat) (k l : Core) : (s.setCore c k).setCore c l = s.setCore c l := by
  simp [State.setCore]

@[simp] theorem State.ctx_setCtx_self (s : State) (x : Nat) (k : Ctx) : (s.setCtx x k).ctx x = k := by
  simp [State.ctx, State.setCtx]

theorem State.ctx_setCtx_other (s : State) {x y : Nat} (k : Ctx) (h : y ≠ x) : (s.setCtx x k).ctx y = s.ctx y := by
  simp [State.ctx, State.setCtx, Table.get_put_other _ _ h]

@[simp] theorem State.page_setPage_self (s : State) (p : Nat) (k : Page) : (s.setPage p k).page p = k := by
  simp [State.page, State.setPage]

theorem State.page_setPage_other (s : State) {p q : Nat} (k : Page) (h : q ≠ p) : (s.setPage p k).page q = s.page q := by
  simp [State.page, State.setPage, Table.get_put_other _ _ h]

@[simp] theorem State.block_setBlock_self (s : State) (b : Nat) (k : Block) : (s.setBlock b k).block b = k := by
  simp [State.block, State.setBlock]

theorem State.block_setBlock_other (s : State) {b c : Nat} (k : Block) (h : c ≠ b) : (s.setBlock b k).block c = s.block c := by
  simp [State.block, State.setBlock, Table.get_put_other _ _ h]

@[simp] theorem State.cluster_setCluster_self (s : State) (k : Nat) (b : List Bin) : (s.setCluster k b).cluster k = b := by
  simp [State.cluster, State.setCluster]

/-- Dies 0 and 1 are the only ones: a number other than 0 names die 1. -/
theorem State.die_setDie (s : State) (d e : Nat) (k : Die) :
    (s.setDie d k).die e = if (d = 0 ↔ e = 0) then k else s.die e := by
  unfold State.die State.setDie
  by_cases hd : d = 0 <;> by_cases he : e = 0 <;> simp [hd, he]

/-! ### Teams -/

@[simp] theorem State.team_setTeam_self (s : State) (c i : Nat) (t : Team) : (s.setTeam c i t).team c i = some t := by
  simp [State.team, State.setTeam]

theorem State.team_setTeam_slot (s : State) (c : Nat) {i j : Nat} (t : Team) (h : j ≠ i) :
    (s.setTeam c i t).team c j = s.team c j := by
  simp [State.team, State.setTeam, Table.get_put_other _ _ h]

theorem State.team_setTeam_core (s : State) {c d : Nat} (i j : Nat) (t : Team) (h : d ≠ c) :
    (s.setTeam c i t).team d j = s.team d j := by
  simp [State.team, State.setTeam, State.core_setCore_other _ _ h]

@[simp] theorem State.setTeam_setTeam (s : State) (c i : Nat) (t u : Team) :
    (s.setTeam c i t).setTeam c i u = s.setTeam c i u := by
  simp [State.setTeam]

@[simp] theorem Team.at_setAt_self (t : Team) (side : Bool) (p : Option Path) : (t.setAt side p).at side = p := by
  cases side <;> rfl

@[simp] theorem Team.at_setAt_other (t : Team) (side : Bool) (p : Option Path) : (t.setAt side p).at (!side) = t.at (!side) := by
  cases side <;> rfl

/-- Replacing a path leaves the rest of its team. -/
theorem Team.setAt_keeps (t : Team) (side : Bool) (p : Option Path) :
    (t.setAt side p).v = t.v ∧ (t.setAt side p).p = t.p ∧ (t.setAt side p).runner = t.runner ∧
      (t.setAt side p).ops = t.ops ∧ (t.setAt side p).handler = t.handler ∧ (t.setAt side p).step = t.step := by
  cases side <;> exact ⟨rfl, rfl, rfl, rfl, rfl, rfl⟩

@[simp] theorem Team.setAt_setAt (t : Team) (side : Bool) (p q : Option Path) : (t.setAt side p).setAt side q = t.setAt side q := by
  cases side <;> rfl

/-! ### The executing agent -/

@[simp] theorem State.teamOf_setTeam (s : State) (v : View) (t : Team) : (s.setTeam v.core v.slot t).teamOf v = t := by
  simp [State.teamOf]

@[simp] theorem State.teamOf_modTeam (s : State) (v : View) (f : Team → Team) : (s.modTeam v f).teamOf v = f (s.teamOf v) := by
  simp [State.modTeam]

/-- A path's form after a round trip through its runner keeps the registers a runner has. -/
theorem Runner.asPath_ofPath (r : Runner) (p : Path) :
    ((r.ofPath p).asPath).s = p.s ∧ ((r.ofPath p).asPath).cond = p.cond ∧ ((r.ofPath p).asPath).pc = p.pc ∧
      ((r.ofPath p).asPath).word = p.word ∧ ((r.ofPath p).asPath).ext = p.ext ∧ ((r.ofPath p).asPath).poison = p.poison :=
  ⟨rfl, rfl, rfl, rfl, rfl, rfl⟩

theorem State.teamOf_putPath (s : State) (v : View) (p : Path) :
    (s.putPath v p).teamOf v =
      if v.run then { s.teamOf v with runner := (s.teamOf v).runner.ofPath p } else (s.teamOf v).setAt v.side (some p) := by
  unfold State.putPath
  cases h : v.run <;> simp

/-- The executing path of a team reads back as it was put. -/
theorem State.pathOf_putPath (s : State) (v : View) (p : Path) (h : v.run = false) : (s.putPath v p).pathOf v = p := by
  simp [State.pathOf, State.teamOf_putPath, h]

/-- So does a runner, as a path. -/
theorem State.pathOf_putPath_run (s : State) (v : View) (p : Path) (h : v.run = true) :
    (s.putPath v p).pathOf v = ((s.teamOf v).runner.ofPath p).asPath := by
  simp [State.pathOf, State.teamOf_putPath, h]

/-- Registers of the executing path or runner after it was put. -/
theorem State.pathOf_putPath_regs (s : State) (v : View) (p : Path) :
    ((s.putPath v p).pathOf v).s = p.s ∧ ((s.putPath v p).pathOf v).cond = p.cond ∧
      ((s.putPath v p).pathOf v).pc = p.pc ∧ ((s.putPath v p).pathOf v).word = p.word ∧
      ((s.putPath v p).pathOf v).ext = p.ext := by
  cases h : v.run
  · simp [State.pathOf_putPath s v p h]
  · simp [State.pathOf_putPath_run s v p h, Runner.asPath_ofPath]

/-- Vector registers and predicates are the team's: putting a path leaves them. -/
theorem State.teamOf_putPath_vectors (s : State) (v : View) (p : Path) :
    ((s.putPath v p).teamOf v).v = (s.teamOf v).v ∧ ((s.putPath v p).teamOf v).p = (s.teamOf v).p := by
  rw [State.teamOf_putPath]
  cases v.run
  · exact ⟨((s.teamOf v).setAt_keeps v.side (some p)).1, ((s.teamOf v).setAt_keeps v.side (some p)).2.1⟩
  · exact ⟨rfl, rfl⟩

/-- Time passing leaves every core, context and byte. -/
theorem State.teamOf_passTicks (s : State) (v : View) (n : Nat) : (s.passTicks n).teamOf v = s.teamOf v := by
  simp [State.teamOf, State.team, State.core]

theorem State.teamOf_passCycles (s : State) (v : View) (d n : Nat) : (s.passCycles d n).teamOf v = s.teamOf v := by
  simp [State.teamOf, State.team, State.core]

theorem State.teamOf_reach (s : State) (v : View) : (s.reach v).teamOf v = s.teamOf v := by
  unfold State.reach
  dsimp only
  split
  · rfl
  · rw [State.teamOf_passTicks, State.teamOf_passCycles]

theorem State.teamOf_used (s : State) (v : View) : s.used.teamOf v = s.teamOf v := rfl
theorem State.teamOf_again (s : State) (v w : View) : (s.again w).teamOf v = s.teamOf v := rfl

end Sys2Proof.Machine
end

