-- ==== Sys2Proof/Laws/Issue.lean ====
section
/-!
SUPPORT. What issuing a word comes to: the shared part of every word's meaning, and where its path stands afterwards.
-/

namespace Sys2Proof.Machine

/-! ### Issue -/

/-- Nothing stops or holds a word that issues. -/
theorem State.Issues.before_none {s : State} {v : View} {i : Instr} (h : s.Issues v i) : s.before v i = none := by
  obtain ⟨_, hf, hd, hh, hc, hs⟩ := h
  unfold State.before State.atHold
  simp only [hf, hd, hh, hc, hs, ite_self, Option.map_none]

/-- A word that issues leaves what its own effect leaves. -/
theorem issueWord_of_issues {s : State} {v : View} {i : Instr} (eff : State → View → Effect) (h : s.Issues v i) :
    issueWord i eff s = .next ((s.atIssue v).settleWord v i (eff (s.atIssue v) v)) := by
  obtain ⟨u, hu, rfl⟩ := Option.map_eq_some_iff.1 h.1
  unfold issueWord
  rw [hu]
  simp only [h.before_none]

theorem issueWord_done {s s' : State} {v : View} {i : Instr} {eff : State → View → Effect} (h : s.Issues v i)
    (he : eff (s.atIssue v) v = .done s') : issueWord i eff s = .next (s'.finish v i) := by
  rw [issueWord_of_issues eff h, he]; rfl

theorem issueWord_jump {s s' : State} {v : View} {i : Instr} {eff : State → View → Effect} {pc : Nat} (h : s.Issues v i)
    (he : eff (s.atIssue v) v = .jump s' pc) : issueWord i eff s = .next (s'.transfer v i pc) := by
  rw [issueWord_of_issues eff h, he]; rfl

theorem issueWord_trap {s : State} {v : View} {i : Instr} {eff : State → View → Effect} {cause : BitVec 8} {fault : DWord}
    {aux : Word} (h : s.Issues v i) (he : eff (s.atIssue v) v = .trap cause fault aux) :
    issueWord i eff s = .next (((s.atIssue v).trapView v cause fault aux 0).used) := by
  rw [issueWord_of_issues eff h, he]; rfl

theorem issueWord_wait {s s' : State} {v : View} {i : Instr} {eff : State → View → Effect} {r : Nat} (h : s.Issues v i)
    (he : eff (s.atIssue v) v = .wait s' r) : issueWord i eff s = .next (s'.held v r) := by
  rw [issueWord_of_issues eff h, he]; rfl

theorem issueWord_ended {s s' : State} {v : View} {i : Instr} {eff : State → View → Effect} (h : s.Issues v i)
    (he : eff (s.atIssue v) v = .ended s') : issueWord i eff s = .next (s'.used.occupy v i) := by
  rw [issueWord_of_issues eff h, he]; rfl

/-! ### The view -/

/-- A view that the focus gives is of a resident team with that path or a running runner. -/
theorem State.viewAt_spec {s : State} {f : Focus} {v : View} (h : s.viewAt f = some v) :
    s.team v.core v.slot = some v.team ∧ s.teamOf v = v.team ∧ v.run = f.runner ∧
      (v.run = false → v.team.at v.side = some v.path) ∧ (v.run = true → v.path = v.team.runner.asPath ∧ v.side = false ∧ v.team.runner.running = true) := by
  unfold State.viewAt at h
  cases ht : s.team f.core f.slot with
  | none => simp [ht] at h
  | some t =>
    simp only [ht] at h
    cases hr : f.runner with
    | true =>
      simp only [hr, if_true] at h
      split at h
      · cases h
        exact ⟨ht, by simp [State.teamOf, ht], rfl, by simp, fun _ => ⟨rfl, rfl, by assumption⟩⟩
      · simp at h
    | false =>
      simp only [hr, Bool.false_eq_true, if_false] at h
      split at h
      · simp at h
      · rename_i p hp
        cases h
        exact ⟨ht, by simp [State.teamOf, ht], rfl, fun _ => hp, by simp⟩

/-- The passes of a word are all that pacing adds to a view. -/
theorem View.byLines_eq (v : View) (addr : View → Nat → Nat) :
    v.byLines addr = { v with starts := (v.byLines addr).starts, cycles := (v.byLines addr).cycles } := by
  unfold View.byLines
  generalize List.range v.path.mask.length = l
  have h : ∀ (l : List Nat) (u : View), (∃ a c, u = { v with starts := a, cycles := c }) → ∃ a c, l.foldl (fun (u : View) i =>
      let w := { u with starts := u.starts ++ [u.cycles] }
      { w with cycles := u.cycles + (((v.active.filter fun l => l / 32 == i).map fun l => addr w l / 128).eraseDups).length }) u =
        { v with starts := a, cycles := c } := by
    intro l
    induction l with
    | nil => exact fun u hu => hu
    | cons i l ih =>
      rintro u ⟨a, c, rfl⟩
      exact ih _ ⟨_, _, rfl⟩
  obtain ⟨a, c, hr⟩ := h l v ⟨v.starts, v.cycles, rfl⟩
  rw [hr]

theorem View.alone_eq (v : View) (i : Instr) : v.alone i = { v with starts := (v.alone i).starts, cycles := (v.alone i).cycles } := by
  unfold View.alone View.onePass
  repeat' split
  all_goals first | exact View.byLines_eq _ _ | rfl

theorem State.paced_eq (s : State) (v : View) (i : Instr) : s.paced v i =
    { v with starts := (s.paced v i).starts, cycles := (s.paced v i).cycles, pace := (s.paced v i).pace, span := (s.paced v i).span } := by
  unfold State.paced View.inStep
  repeat' split
  all_goals (rw [View.alone_eq])

/-- A view that the focus gives, with the passes of its word, is of a resident team with that path or a running runner. -/
theorem State.Views.spec {s : State} {v : View} {i : Instr} (h : s.Views v i) :
    s.team v.core v.slot = some v.team ∧ s.teamOf v = v.team ∧ (v.run = false → v.team.at v.side = some v.path) ∧
      (v.run = true → v.path = v.team.runner.asPath) := by
  obtain ⟨u, hu, rfl⟩ := Option.map_eq_some_iff.1 h
  obtain ⟨h1, h2, _, h4, h5⟩ := State.viewAt_spec hu
  rw [State.paced_eq]
  exact ⟨h1, h2, h4, fun hr => (h5 hr).1⟩

theorem State.view_team {s : State} {v : View} {i : Instr} (h : s.Views v i) : s.team v.core v.slot = some v.team := h.spec.1

theorem State.view_teamOf {s : State} {v : View} {i : Instr} (h : s.Views v i) : s.teamOf v = v.team := h.spec.2.1

/-- The executing path's current form is the one its view names. -/
theorem State.view_pathOf {s : State} {v : View} {i : Instr} (h : s.Views v i) : s.pathOf v = v.path := by
  obtain ⟨_, ht, hf, hr⟩ := h.spec
  unfold State.pathOf
  cases hv : v.run
  · simp [ht, hf hv]
  · simp [ht, hr hv]

/-! ### The state at issue -/

theorem Runner.ofPath_asPath (r : Runner) (p : Path) : (r.ofPath p).ofPath ((r.ofPath p).asPath) = r.ofPath p := rfl

/-- At issue only the time has moved, and a parked path is parked no longer. -/
theorem State.atIssue_spec {s : State} {v : View} {i : Instr} (h : s.Views v i) :
    ((s.atIssue v).teamOf v).v = v.team.v ∧ ((s.atIssue v).teamOf v).p = v.team.p ∧
      ((s.atIssue v).pathOf v).s = v.path.s ∧ ((s.atIssue v).pathOf v).cond = v.path.cond ∧
      ((s.atIssue v).pathOf v).pc = v.path.pc ∧ ((s.atIssue v).pathOf v).word = v.path.word := by
  have ht := State.view_teamOf h
  have hp := State.view_pathOf h
  have hr : (s.reach v).teamOf v = v.team := by rw [State.teamOf_reach, ht]
  have hq : (s.reach v).pathOf v = v.path := by
    rw [← hp]; unfold State.pathOf; rw [State.teamOf_reach]
  unfold State.atIssue
  dsimp only
  split
  · unfold State.modPath
    have h1 := State.teamOf_putPath_vectors (s.reach v) v { (s.reach v).pathOf v with parked := none, replay := false }
    have h2 := State.pathOf_putPath_regs (s.reach v) v { (s.reach v).pathOf v with parked := none, replay := false }
    rw [hr] at h1
    simp only [hq] at h1 h2 ⊢
    exact ⟨h1.1, h1.2, h2.1, h2.2.1, h2.2.2.1, h2.2.2.2.1⟩
  · rw [hr, hq]; exact ⟨rfl, rfl, rfl, rfl, rfl, rfl⟩

end Sys2Proof.Machine
end

