-- ==== Sys2Proof/Laws/Memory.lean ====
section
/-!
SUPPORT. What the memory side's operations leave alone: the cores, and the canonical form of both memories.
-/

namespace Sys2Proof.Machine

/-- Both memories are in canonical form. -/
theorem State.memoryWf_iff (s : State) : s.memoryWf = true ↔ Memory.wf s.mem = true ∧ Memory.wf s.hostMem = true := by
  simp [State.memoryWf]

/-- Memories that are the same are in canonical form together. -/
theorem State.memoryWf_congr {s t : State} (hm : t.mem = s.mem) (hh : t.hostMem = s.hostMem) (h : s.memoryWf = true) :
    t.memoryWf = true := by
  rw [State.memoryWf_iff] at *
  rw [hm, hh]; exact h

/-! ### Lines, pages and blocks -/

@[simp] theorem State.setLine_cores (s : State) (d l : Nat) (k : L2Line) : (s.setLine d l k).cores = s.cores := by
  simp [State.setLine]
@[simp] theorem State.setLine_mem (s : State) (d l : Nat) (k : L2Line) : (s.setLine d l k).mem = s.mem := by
  simp [State.setLine]
@[simp] theorem State.setLine_hostMem (s : State) (d l : Nat) (k : L2Line) : (s.setLine d l k).hostMem = s.hostMem := by
  simp [State.setLine]

@[simp] theorem State.dropLine_cores (s : State) (d l : Nat) : (s.dropLine d l).cores = s.cores := by simp [State.dropLine]
@[simp] theorem State.dropLine_mem (s : State) (d l : Nat) : (s.dropLine d l).mem = s.mem := by simp [State.dropLine]
@[simp] theorem State.dropLine_hostMem (s : State) (d l : Nat) : (s.dropLine d l).hostMem = s.hostMem := by simp [State.dropLine]

/-- The cores and the bytes of both memories are the same. -/
abbrev SameSide (s t : State) : Prop := t.cores = s.cores ∧ t.mem = s.mem ∧ t.hostMem = s.hostMem

theorem SameSide.refl (s : State) : SameSide s s := ⟨rfl, rfl, rfl⟩
theorem SameSide.trans {s t u : State} (a : SameSide s t) (b : SameSide t u) : SameSide s u :=
  ⟨b.1.trans a.1, b.2.1.trans a.2.1, b.2.2.trans a.2.2⟩

/-- Steps that each leave cores and bytes leave them together. -/
theorem foldl_keeps {α : Type} (f : State → α → State) (hf : ∀ s a, SameSide s (f s a)) (l : List α) (s : State) :
    SameSide s (l.foldl f s) := by
  induction l generalizing s with
  | nil => exact .refl s
  | cons a l ih => exact (hf s a).trans (ih _)

theorem State.refer_keeps (s : State) (pg : Nat) : SameSide s (s.refer pg) := by
  unfold State.refer; split <;> exact ⟨rfl, rfl, rfl⟩

theorem State.fillHome_keeps (s : State) (da : Nat) : SameSide s (s.fillHome da) := by
  unfold State.fillHome
  dsimp only
  split <;> exact ⟨rfl, rfl, rfl⟩

theorem State.fillSwm_keeps (s : State) (d l : Nat) : SameSide s (s.fillSwm d l) := by
  unfold State.fillSwm
  split
  · exact .refl s
  · exact SameSide.trans (by simp [SameSide]) (State.refer_keeps _ _)

theorem State.readHome_keeps (s : State) (d da : Nat) (uc : Bool) : SameSide s (s.readHome d da uc) := by
  have h := State.fillHome_keeps s da
  unfold State.readHome
  dsimp only
  split
  · exact h
  · exact h.trans ⟨rfl, rfl, rfl⟩

theorem State.noteRead_keeps (s : State) (d : Nat) (loc : Loc) : SameSide s (s.noteRead d loc) := by
  unfold State.noteRead
  cases loc with
  | host => exact .refl s
  | dev da swm uc hw =>
    have h := State.readHome_keeps s d da uc
    dsimp only
    split_ifs
    · exact State.fillSwm_keeps _ _ _
    · exact h
    · split
      · exact .refl s
      · exact h.trans (by simp [SameSide])
    · split
      · exact .refl s
      · exact h

theorem State.readAtHome_keeps (s : State) (d : Nat) (loc : Loc) : SameSide s (s.readAtHome d loc) := by
  unfold State.readAtHome
  split
  · exact State.readHome_keeps _ _ _ _
  · exact State.noteRead_keeps _ _ _

theorem State.noteWrite_keeps (s : State) (da : Nat) :
    (s.noteWrite da).cores = s.cores ∧ (s.noteWrite da).mem = s.mem ∧ (s.noteWrite da).hostMem = s.hostMem := by
  unfold State.noteWrite
  dsimp only
  split_ifs <;> simp

theorem State.noteImage_keeps (s : State) (da : Nat) :
    (s.noteImage da).cores = s.cores ∧ (s.noteImage da).mem = s.mem ∧ (s.noteImage da).hostMem = s.hostMem :=
  ⟨rfl, rfl, rfl⟩

theorem State.commandPage_keeps (s : State) (pg why : Nat) : SameSide s (s.commandPage pg why) :=
  foldl_keeps _ (fun t d => by
    dsimp only
    split
    · simp [SameSide]
    · exact .refl t) _ s

theorem State.windowPage_keeps (s : State) (x pg : Nat) : SameSide s (s.windowPage x pg) := by
  unfold State.windowPage
  dsimp only
  split
  · exact .refl s
  · refine SameSide.trans ?_ (State.commandPage_keeps _ _ _)
    rw [SameSide, State.setDie_cores, State.setDie_mem, State.setDie_hostMem]
    refine SameSide.trans (t := s.setPage pg _) ⟨rfl, rfl, rfl⟩ (foldl_keeps _ (fun t i => ?_) _ _)
    exact ⟨rfl, rfl, rfl⟩

theorem State.closeWindows_keeps (s : State) : SameSide s s.closeWindows := by
  unfold State.closeWindows
  refine foldl_keeps _ (fun t e => ?_) _ s
  exact ⟨rfl, rfl, rfl⟩

theorem State.healAt_keeps (s : State) (da n : Nat) : SameSide s (s.healAt da n) := by
  unfold State.healAt
  dsimp only
  split <;> exact ⟨rfl, rfl, rfl⟩

/-! ### Writing -/

/-- The window's bookkeeping before a write leaves cores and bytes. -/
theorem State.beforeWrite_keeps (s : State) (da : Nat) (hw : Bool) :
    SameSide s (if hw then (s.noteImage da).windowPage ((s.noteImage da).page (pageOf da)).ctx (pageOf da) else s.noteImage da) := by
  split_ifs
  · exact SameSide.trans (State.noteImage_keeps s da) (State.windowPage_keeps _ _ _)
  · exact State.noteImage_keeps s da

theorem State.backWindows_keeps (s : State) (x : Nat) (ls : List (Nat × Nat × Nat)) : SameSide s (s.backWindows x ls) :=
  foldl_keeps _ (fun s _ => foldl_keeps _ (fun s _ => State.windowPage_keeps s _ _) _ s) _ s

/-- What a change of tables comes to leaves cores and bytes (R356, R357). -/
theorem State.tableChange_keeps (s old : State) : SameSide s (s.tableChange old) :=
  foldl_keeps _ (fun t e => by
    dsimp only
    split_ifs
    · exact .refl t
    · exact .refl t
    · exact ((State.backWindows_keeps t e.1 _).trans (State.closeWindows_keeps _)).trans ⟨rfl, rfl, rfl⟩) _ s

/-- What L1s have held is kept beside the cores and the memories. -/
theorem State.keepPast_keeps (s : State) (keys : List Nat) :
    (s.keepPast keys).cores = s.cores ∧ (s.keepPast keys).mem = s.mem ∧ (s.keepPast keys).hostMem = s.hostMem := ⟨rfl, rfl, rfl⟩

/-- A run of bytes stored: host memory, or device memory unless the page is SWM, takes the bytes; nothing else of
the memories changes, and no core. -/
theorem State.storeLoc_keeps (s : State) (d : Nat) (loc : Loc) (bs : List Byte) (count : Bool) :
    (s.storeLoc d loc bs count).cores = s.cores ∧
      (s.storeLoc d loc bs count).mem = (match loc with
        | .dev da false _ _ => Memory.writeList s.mem da bs
        | _ => s.mem) ∧
      (s.storeLoc d loc bs count).hostMem = (match loc with
        | .host pa => Memory.writeList s.hostMem pa bs
        | _ => s.hostMem) := by
  cases loc with
  | host pa => exact ⟨rfl, rfl, rfl⟩
  | dev da swm uc hw =>
    have h1 := State.beforeWrite_keeps s da hw
    unfold State.storeLoc
    dsimp only at h1 ⊢
    generalize (if hw then (s.noteImage da).windowPage ((s.noteImage da).page (pageOf da)).ctx (pageOf da) else s.noteImage da) = t at h1 ⊢
    cases swm with
    | true =>
      simp only [if_true]
      have h2 := State.fillSwm_keeps t d (lineOf da)
      split
      · exact ⟨h2.1.trans h1.1, h2.2.1.trans h1.2.1, h2.2.2.trans h1.2.2⟩
      · simp only [State.setLine_cores, State.setLine_mem, State.setLine_hostMem]
        exact ⟨h2.1.trans h1.1, h2.2.1.trans h1.2.1, h2.2.2.trans h1.2.2⟩
    | false =>
      simp only [Bool.false_eq_true, if_false]
      have h2 : (if count then t.noteWrite da else t).cores = t.cores ∧ (if count then t.noteWrite da else t).mem = t.mem ∧
          (if count then t.noteWrite da else t).hostMem = t.hostMem := by
        split
        · exact State.noteWrite_keeps t da
        · exact ⟨rfl, rfl, rfl⟩
      generalize (if count then t.noteWrite da else t) = t2 at h2 ⊢
      split_ifs
      · have h3 := State.healAt_keeps { t2 with mem := Memory.writeList t2.mem da bs } da bs.length
        exact ⟨h3.1.trans (h2.1.trans h1.1), h3.2.1.trans (by simp only [h2.2.1, h1.2.1]), h3.2.2.trans (h2.2.2.trans h1.2.2)⟩
      · simp only [State.setLine_cores, State.setLine_mem, State.setLine_hostMem]
        exact ⟨h2.1.trans h1.1, by simp only [h2.2.1, h1.2.1], h2.2.2.trans h1.2.2⟩

theorem State.writeLoc_keeps (s : State) (d : Nat) (loc : Loc) (bs : List Byte) :
    (s.writeLoc d loc bs).cores = s.cores ∧
      (s.writeLoc d loc bs).mem = (match loc with
        | .dev da false _ _ => Memory.writeList s.mem da bs
        | _ => s.mem) ∧
      (s.writeLoc d loc bs).hostMem = (match loc with
        | .host pa => Memory.writeList s.hostMem pa bs
        | _ => s.hostMem) := by
  have h := State.storeLoc_keeps s d loc bs true
  have k := State.tableChange_keeps ((s.storeLoc d loc bs true).keepPast (loc.keys bs.length)) s
  exact ⟨k.1.trans h.1, k.2.1.trans h.2.1, k.2.2.trans h.2.2⟩

/-- Writing keeps the canonical form. -/
theorem State.memoryWf_writeLoc (s : State) (d : Nat) (loc : Loc) (bs : List Byte) (h : s.memoryWf = true) :
    (s.writeLoc d loc bs).memoryWf = true := by
  rw [State.memoryWf_iff] at *
  obtain ⟨_, hm, hh⟩ := State.writeLoc_keeps s d loc bs
  rw [hm, hh]
  cases loc with
  | host pa => exact ⟨h.1, Memory.wf_writeList _ _ _ h.2⟩
  | dev da swm uc hw => cases swm <;> [exact ⟨Memory.wf_writeList _ _ _ h.1, h.2⟩; exact h]

/-- A line cleaned leaves host memory and every core, and keeps the canonical form. -/
theorem State.cleanLine_keeps (s : State) (d l : Nat) :
    (s.cleanLine d l).cores = s.cores ∧ (s.cleanLine d l).hostMem = s.hostMem ∧
      (Memory.wf s.mem = true → Memory.wf (s.cleanLine d l).mem = true) := by
  unfold State.cleanLine
  split
  · exact ⟨rfl, rfl, id⟩
  · dsimp only
    split
    · exact ⟨rfl, rfl, id⟩
    · simp only [(State.keepPast_keeps _ _).1, (State.keepPast_keeps _ _).2.1, (State.keepPast_keeps _ _).2.2, State.setLine_cores,
        State.setLine_hostMem, State.setLine_mem]
      refine ⟨?_, ?_, fun h => ?_⟩
      · repeat' split
        all_goals rfl
      · repeat' split
        all_goals rfl
      · split
        · exact Memory.wf_foldl_write _ _ _ _ h
        · exact h

theorem State.memoryWf_cleanLine (s : State) (d l : Nat) (h : s.memoryWf = true) : (s.cleanLine d l).memoryWf = true := by
  rw [State.memoryWf_iff] at *
  obtain ⟨_, hh, hm⟩ := State.cleanLine_keeps s d l
  exact ⟨hm h.1, by rw [hh]; exact h.2⟩

/-! ### Migration and trace records -/

theorem State.startMigration_keeps (s : State) (x pg : Nat) :
    (s.startMigration x pg).cores = s.cores ∧ (s.startMigration x pg).mem = s.mem ∧
      (s.startMigration x pg).hostMem = s.hostMem := by
  unfold State.startMigration
  dsimp only
  split
  · split_ifs
    · exact ⟨rfl, rfl, rfl⟩
    · exact ⟨rfl, rfl, rfl⟩
    · exact ⟨rfl, rfl, rfl⟩
  · exact ⟨rfl, rfl, rfl⟩

/-- Room for the device's own write leaves cores and bytes. -/
theorem State.roomFor_keeps (s : State) (x : Nat) (loc : Loc) (n : Nat) : SameSide s (s.roomFor x loc n) := by
  cases loc with
  | host pa => exact .refl s
  | dev da swm uc hw =>
    refine foldl_keeps _ (fun t i => ?_) _ s
    dsimp only
    split_ifs
    · unfold State.touchPage
      split <;> simp [SameSide, State.takeFree]
    · exact .refl t

/-! ### Loads served before a write (R269) -/

/-- Both memories stay as they are, and every team does but for the loads of it that are served. -/
structure Serves (s t : State) : Prop where
  mem : t.mem = s.mem
  hostMem : t.hostMem = s.hostMem
  team : ∀ d i u, s.team d i = some u → ∃ ops, t.team d i = some { u with ops := ops }

theorem Serves.of_same {s t : State} (h : SameSide s t) : Serves s t :=
  ⟨h.2.1, h.2.2, fun d i u hu => ⟨u.ops, by simpa [State.team, State.core, h.1] using hu⟩⟩

theorem Serves.refl (s : State) : Serves s s := .of_same (.refl s)

theorem Serves.trans {s t u : State} (a : Serves s t) (b : Serves t u) : Serves s u :=
  ⟨b.mem.trans a.mem, b.hostMem.trans a.hostMem, fun d i w hw => by
    obtain ⟨o, ho⟩ := a.team d i w hw
    obtain ⟨o', ho'⟩ := b.team d i _ ho
    exact ⟨o', ho'⟩⟩

/-- A core set with its teams changed in their operations only. -/
theorem Serves.setCore {s : State} {c : Nat} {k : Core}
    (h : ∀ i u, Table.get (s.core c).teams i = some u → ∃ ops, Table.get k.teams i = some { u with ops := ops }) : Serves s (s.setCore c k) :=
  ⟨rfl, rfl, fun d i u hu => by
    by_cases hd : d = c
    · subst hd
      obtain ⟨o, ho⟩ := h i u hu
      exact ⟨o, by simpa [State.team, State.core, State.setCore] using ho⟩
    · refine ⟨u.ops, ?_⟩
      have : (s.setCore c k).team d i = s.team d i := by
        simp [State.team, State.core, State.setCore, Table.get_put_other _ _ hd]
      rw [this]; exact hu⟩

theorem foldl_serves {α β : Type} (f : α × State → β → α × State) (hf : ∀ r a, Serves r.2 (f r a).2) (l : List β) (r : α × State) :
    Serves r.2 (l.foldl f r).2 := by
  induction l generalizing r with
  | nil => exact .refl _
  | cons a l ih => exact (hf r a).trans (ih _)

theorem foldl_serves' {β : Type} (f : State → β → State) (hf : ∀ s a, Serves s (f s a)) (l : List β) (s : State) :
    Serves s (l.foldl f s) := by
  induction l generalizing s with
  | nil => exact .refl _
  | cons a l ih => exact (hf s a).trans (ih _)

theorem State.rasLog_keeps (s : State) (kind unit detail : Nat) : SameSide s (s.rasLog kind unit detail) := by
  unfold State.rasLog State.reply
  dsimp only
  repeat' split
  all_goals exact ⟨rfl, rfl, rfl⟩

theorem State.countGranule_keeps (s : State) (stack : Nat) (bad : Bool) : SameSide s (s.countGranule stack bad) := ⟨rfl, rfl, rfl⟩

theorem State.poisonGranule_keeps (s : State) (g : Nat) (scrub : Bool) : SameSide s (s.poisonGranule g scrub) := by
  unfold State.poisonGranule
  refine SameSide.trans ?_ ((State.countGranule_keeps _ _ _).trans (State.rasLog_keeps _ _ _ _))
  split <;> exact ⟨rfl, rfl, rfl⟩

theorem State.poisonCarve_keeps (s : State) (die j : Nat) (scrub : Bool) : SameSide s (s.poisonCarve die j scrub) := by
  unfold State.poisonCarve
  refine SameSide.trans ?_ ((State.countGranule_keeps _ _ _).trans (State.rasLog_keeps _ _ _ _))
  have h := foldl_keeps (fun (s : State) i => s.setBlock (die * 2 ^ 31 + 4 * j + i) ((s.block (die * 2 ^ 31 + 4 * j + i)).spoil 16))
    (fun _ _ => ⟨rfl, rfl, rfl⟩) (List.range 4) s
  exact ⟨h.1, h.2.1, h.2.2⟩

theorem State.demand_keeps (s : State) (loc : Loc) : SameSide s (s.demand loc) := by
  unfold State.demand
  split
  · exact .refl s
  · dsimp only
    refine SameSide.trans ?_ (foldl_keeps _ (fun t g => State.poisonGranule_keeps t g false) _ _)
    split
    · exact State.poisonCarve_keeps _ _ _ _
    · exact .refl s

theorem State.readAt_keeps (s : State) (d : Nat) (loc : Loc) : SameSide s (s.readAt d loc) :=
  (State.demand_keeps s loc).trans (State.noteRead_keeps _ d loc)

theorem State.fillL1_serves (s : State) (c x : Nat) (line : Loc) : Serves s (s.fillL1 c x line) :=
  Serves.setCore fun _ u hu => ⟨u.ops, hu⟩

theorem State.readLine_serves (s : State) (c x : Nat) (cached : Bool) (loc : Loc) (mask : BitVec 4) (key : Nat) :
    Serves s (s.readLine c x cached loc mask key).2 := by
  unfold State.readLine
  split
  · have h : Serves s (s.cachedRead c x loc.line 128 key).2.2.2 := by
      unfold State.cachedRead
      dsimp only
      split
      · exact .refl s
      · exact (Serves.of_same (State.demand_keeps s _)).trans (State.fillL1_serves _ _ _ _)
    dsimp only
    split
    · exact h.trans (.of_same (State.noteRead_keeps _ _ _))
    · exact h
  · exact .of_same (State.readAt_keeps s _ _)

theorem State.readLanes_serves (s : State) (c x : Nat) (cached : Bool) (lanes : List Access) (key : Nat) :
    Serves s (s.readLanes c x cached lanes key).2 := by
  unfold State.readLanes
  dsimp only
  suffices h : ∀ (l : List Access) (r : List (Nat × List Byte × Bool) × List ((Nat × Loc) × List Byte × Bool) × State), Serves s r.2.2 →
      ∀ f : (List (Nat × List Byte × Bool) × List ((Nat × Loc) × List Byte × Bool) × State) → Access →
        (List (Nat × List Byte × Bool) × List ((Nat × Loc) × List Byte × Bool) × State),
        (∀ r a, Serves r.2.2 (f r a).2.2) → Serves s (l.foldl f r).2.2 from
    h lanes ([], [], s) (.refl s) _ fun r a => by
      dsimp only
      split
      · exact .refl _
      · exact State.readLine_serves _ _ _ _ _ _ _
  intro l
  induction l with
  | nil => intro r h f hf; exact h
  | cons a l ih => intro r h f hf; exact ih _ (h.trans (hf r a)) f hf

theorem State.swapOp_serves (s : State) (c uid : Nat) (o : Op) : Serves s (s.swapOp c uid o) :=
  Serves.setCore fun i u hu => by
    dsimp only
    rw [Table.get_map (fun (t : Team) => t.swapOp uid o), hu]
    unfold Team.swapOp
    dsimp only [Option.map_some]
    split
    · exact ⟨_, rfl⟩
    · exact ⟨u.ops, rfl⟩

theorem State.loadLine_serves (s : State) (c uid : Nat) (o : Op) (line pass : Nat) : Serves s (s.loadLine c uid o line pass).2 := by
  unfold State.loadLine
  split
  · dsimp only
    exact (State.readLanes_serves s c _ _ _ _).trans (.of_same ⟨rfl, rfl, rfl⟩)
  · exact .refl s

/-- Steps that carry a value beside the state and leave cores and bytes each leave them together. -/
theorem foldl_keeps_snd {α β : Type} (f : α × State → β → α × State) (hf : ∀ r a, SameSide r.2 (f r a).2) (l : List β) (r : α × State) :
    SameSide r.2 (l.foldl f r).2 := by
  induction l generalizing r with
  | nil => exact .refl _
  | cons a l ih => exact (hf r a).trans (ih _)

theorem State.atomRead_keeps (s : State) (c : Nat) (o : Op) (which : AtomLane → Bool) : SameSide s (s.atomRead c o which).2 := by
  unfold State.atomRead
  split
  · refine foldl_keeps_snd _ (fun r e => ?_) _ (o, s)
    dsimp only
    split_ifs
    · exact .refl _
    · exact (State.demand_keeps r.2 _).trans (State.readAtHome_keeps _ _ _)
    · exact .refl _
  · exact .refl s

/-- A word of a copy that is only read leaves cores and bytes. -/
theorem State.copyWords_keeps (s : State) (c : Nat) (o : Op) (which : Loc → Bool) : SameSide s (s.copyWords c o which false).2 := by
  unfold State.copyWords
  split
  · refine foldl_keeps_snd _ (fun r e => ?_) _ (o, s)
    unfold State.copyWordPart
    split
    · exact .refl _
    · simp only [Bool.false_and, Bool.false_eq_true, if_false]
      have h := foldl_keeps (fun (s : State) (a : Access) => s.demand a.loc) (fun t a => State.demand_keeps t a.loc)
      repeat' split
      all_goals first | exact .refl _ | exact h _ r.2
  · exact .refl s

/-- What is read in flight changes no other team and no byte. -/
theorem State.readInFlight_serves (s : State) (c uid : Nat) (o : Op) (line : Nat) : Serves s (s.readInFlight c uid o line).2 := by
  unfold State.readInFlight
  split
  · exact State.loadLine_serves _ _ _ _ _ _
  · exact .of_same (State.atomRead_keeps _ _ _ _)
  · split
    · exact .refl s
    · exact .of_same ((State.copyWords_keeps _ _ _ _).trans ⟨rfl, rfl, rfl⟩)
  · exact .refl s

theorem State.serveLine_serves (s : State) (line : Nat) : Serves s (s.serveLine line) := by
  unfold State.serveLine
  split
  · exact .refl s
  · refine foldl_serves' _ (fun t c => ?_) _ s
    refine foldl_serves _ (fun r e => ?_) _ ([], t)
    dsimp only
    generalize (_ || _ : Bool) = b
    cases b
    · exact .refl _
    · exact (State.readInFlight_serves r.2 c e.1 e.2 line).trans (State.swapOp_serves _ _ _ _)

theorem State.serveLines_serves (s : State) (lines : List Nat) : Serves s (s.serveLines lines) :=
  foldl_serves' _ (fun t l => State.serveLine_serves t l) _ s

/-- Every team stays as it is but for loads that are served, and the memories keep their canonical form. -/
structure Tells (s t : State) : Prop where
  team : ∀ d i u, s.team d i = some u → ∃ ops, t.team d i = some { u with ops := ops }
  wf : s.memoryWf = true → t.memoryWf = true

theorem Tells.of_serves {s t : State} (h : Serves s t) : Tells s t := ⟨h.team, State.memoryWf_congr h.mem h.hostMem⟩
theorem Tells.refl (s : State) : Tells s s := .of_serves (.refl s)
theorem Tells.of_same {s t : State} (h : SameSide s t) : Tells s t := .of_serves (.of_same h)
theorem Tells.trans {s t u : State} (a : Tells s t) (b : Tells t u) : Tells s u :=
  ⟨fun d i w hw => by
    obtain ⟨o, ho⟩ := a.team d i w hw
    obtain ⟨o', ho'⟩ := b.team d i _ ho
    exact ⟨o', ho'⟩, fun h => b.wf (a.wf h)⟩

/-- The device's own write. -/
theorem State.ownWrite_tells (s : State) (x : Nat) (loc : Loc) (bs : List Byte) : Tells s (s.ownWrite x loc bs) := by
  unfold State.ownWrite
  have h := (Serves.of_same (State.roomFor_keeps s x loc bs.length)).trans (State.serveLines_serves _ (loc.keys bs.length))
  refine (Tells.of_serves h).trans ⟨fun d i u hu => ⟨u.ops, ?_⟩, State.memoryWf_writeLoc _ _ _ _⟩
  simpa [State.team, State.core, (State.writeLoc_keeps _ _ _ _).1] using hu

/-- A trace record. -/
theorem State.trace_tells (s : State) (x kind src team word : Nat) (path : Bool) (pc payload : Nat) :
    Tells s (s.trace x kind src team word path pc payload) := by
  unfold State.trace
  dsimp only
  split
  · exact .refl s
  · split
    · exact .of_same ⟨rfl, rfl, rfl⟩
    · split
      · exact (State.ownWrite_tells _ _ _ _).trans (.of_same ⟨rfl, rfl, rfl⟩)
      · exact .of_same ⟨rfl, rfl, rfl⟩

theorem State.traceWord_tells (s : State) (c slot : Nat) (side : Bool) (kind payload : Nat) : Tells s (s.traceWord c slot side kind payload) := by
  unfold State.traceWord
  split
  · exact .refl s
  · exact State.trace_tells _ _ _ _ _ _ _ _ _

theorem State.beginMigration_tells (s : State) (x pg : Nat) : Tells s (s.beginMigration x pg) := by
  have h := State.startMigration_keeps s x pg
  unfold State.beginMigration
  split
  · exact (Tells.of_same h).trans (State.trace_tells _ _ _ _ _ _ _ _ _)
  · exact .of_same h

end Sys2Proof.Machine
end

