-- ==== Sys2Proof/Laws/Words.lean ====
section
/-!
SUPPORT. What a word leaves alone: writes of scalar registers, vector registers, predicates and conditions, the end of a
word, and what these make of the frames of Safety.
-/

namespace Sys2Proof.Machine

/-! ### The package beside the executing team -/

@[simp] theorem State.besides_setTeam (s : State) (v : View) (t : Team) : (s.setTeam v.core v.slot t).besides v = s.besides v := by
  unfold State.besides
  simp [State.setTeam]

/-- Marks of registers written are blanked (R53). -/
theorem State.besides_dirtyFrame (s : State) (v : View) (r : Nat) (ls : List Nat) : (s.dirtyFrame v.core v.slot r ls).besides v = s.besides v := by
  unfold State.dirtyFrame
  dsimp only
  split
  · rfl
  · unfold State.besides
    simp

/-- They are no part of any team, and of no memory. -/
theorem State.dirtyFrame_keeps (s : State) (c i r d j : Nat) (ls : List Nat) :
    (s.dirtyFrame c i r ls).team d j = s.team d j ∧ (s.dirtyFrame c i r ls).mem = s.mem ∧ (s.dirtyFrame c i r ls).hostMem = s.hostMem := by
  unfold State.dirtyFrame
  dsimp only
  split
  · exact ⟨rfl, rfl, rfl⟩
  · refine ⟨?_, rfl, rfl⟩
    unfold State.team
    by_cases h : d = c
    · subst h; rw [State.core_setCore_self]
    · rw [State.core_setCore_other _ _ h]

theorem State.teamOf_dirtyFrame (s : State) (v : View) (c i r : Nat) (ls : List Nat) : (s.dirtyFrame c i r ls).teamOf v = s.teamOf v := by
  unfold State.teamOf; rw [(s.dirtyFrame_keeps c i r v.core v.slot ls).1]

@[simp] theorem State.besides_used (s : State) (v : View) : s.used.besides v = s.besides v := rfl
@[simp] theorem State.besides_again (s : State) (v w : View) : (s.again w).besides v = s.besides v := rfl

@[simp] theorem State.besides_passTicks (s : State) (v : View) (n : Nat) : (s.passTicks n).besides v = s.besides v := by
  unfold State.passTicks
  split <;> rfl

@[simp] theorem State.besides_passCycles (s : State) (v : View) (d n : Nat) : (s.passCycles d n).besides v = s.besides v := by
  unfold State.passCycles State.setDie State.die
  split <;> rfl

theorem State.besides_reach (s : State) (v : View) : (s.reach v).besides v = s.besides v := by
  unfold State.reach
  dsimp only
  split <;> simp

theorem SameBytes.refl (s : State) : SameBytes s s := ⟨fun _ => rfl, fun _ => rfl⟩
theorem SameBytes.of_eq {s t : State} (hm : t.mem = s.mem) (hh : t.hostMem = s.hostMem) : SameBytes s t :=
  ⟨fun _ => by rw [hm], fun _ => by rw [hh]⟩

/-! ### Teams -/

theorem Team.clash_keeps (t : Team) (v : View) (r : Nat) (ls : List Nat) :
    (t.clash v r ls).v = t.v ∧ (t.clash v r ls).p = t.p ∧ (t.clash v r ls).pathA = t.pathA ∧ (t.clash v r ls).pathB = t.pathB ∧
      (t.clash v r ls).runner = t.runner ∧ (t.clash v r ls).step = t.step ∧ (t.clash v r ls).vpoison = t.vpoison := by
  unfold Team.clash
  split <;> exact ⟨rfl, rfl, rfl, rfl, rfl, rfl, rfl⟩

theorem Team.at_clash (t : Team) (v : View) (r : Nat) (ls : List Nat) (side : Bool) : (t.clash v r ls).at side = t.at side := by
  have h := Team.clash_keeps t v r ls
  unfold Team.at
  rw [h.2.2.1, h.2.2.2.1]

/-- The marks of early writes are all that a clash changes. -/
theorem Team.clash_ops (t : Team) (v : View) (r : Nat) (ls : List Nat) :
    ∃ f : Op → Op, (∀ o, ({ f o with clash := [] } : Op) = { o with clash := [] }) ∧ t.clash v r ls = { t with ops := t.ops.map f } := by
  unfold Team.clash
  split
  · exact ⟨id, fun _ => rfl, by simp⟩
  · refine ⟨_, fun o => ?_, rfl⟩
    dsimp only
    split <;> rfl

theorem View.outside_clash (v : View) (t : Team) (r : Nat) (ls : List Nat) : v.outside (t.clash v r ls) = v.outside t := by
  obtain ⟨f, hf, he⟩ := Team.clash_ops t v r ls
  rw [he]
  have hm : (t.ops.map f).map (fun o => ({ o with clash := [] } : Op)) = t.ops.map fun o => { o with clash := [] } := by
    rw [List.map_map]
    exact List.map_congr_left fun o _ => hf o
  unfold View.outside
  cases v.run
  · cases hs : v.side <;> simp [Team.setAt, hm]
  · simp [hm]

/-- Putting the executing path, or the runner, changes nothing outside it. -/
theorem View.outside_putPath (s : State) (v : View) (p : Path) :
    v.outside ((s.putPath v p).teamOf v) = v.outside (s.teamOf v) := by
  rw [State.teamOf_putPath]
  unfold View.outside
  cases v.run
  · cases v.side <;> rfl
  · rfl

theorem View.outside_issued (v : View) (t : Team) : v.outside (t.issued v) = v.outside t := by
  unfold View.outside Team.issued
  cases v.run
  · cases v.side <;> rfl
  · simp only [if_true]
    split <;> rfl

theorem Team.issued_keeps (t : Team) (v : View) :
    (t.issued v).v = t.v ∧ (t.issued v).p = t.p ∧ (t.issued v).pathA = t.pathA ∧ (t.issued v).pathB = t.pathB ∧
      (t.issued v).runner.asPath = t.runner.asPath ∧ (t.issued v).step = t.step := by
  unfold Team.issued
  split_ifs <;> exact ⟨rfl, rfl, rfl, rfl, rfl, rfl⟩

/-! ### What a path and its team hold -/

/-- What software can see of the executing path in a state: its registers, conditions, modes and masks. -/
def State.regsOf (s : State) (v : View) : List (List Word) × List (List Bool) × List Word × List Bool :=
  ((s.teamOf v).v, (s.teamOf v).p, (s.pathOf v).s, (s.pathOf v).cond)

/-- States with the same registers keep every register. -/
theorem keepsRegisters_of_regsOf {v : View} {s t : State} (h : t.regsOf v = s.regsOf v) : KeepsRegisters v s t := by
  simp only [State.regsOf, Prod.mk.injEq] at h
  obtain ⟨h1, h2, h3, h4⟩ := h
  refine ⟨?_, ?_, ?_, ?_⟩
  · intro r _ l; simp [State.vAt, h1]
  · intro r _; simp [State.sAt, h3]
  · intro r _; simp [State.cAt, h4]
  · intro r _ l; simp [State.pAt, h2]

theorem State.teamOf_used' (s : State) (v : View) : s.used.teamOf v = s.teamOf v := rfl

theorem State.pathOf_congr {s t : State} {v : View} (h : t.teamOf v = s.teamOf v) : t.pathOf v = s.pathOf v := by
  unfold State.pathOf; rw [h]

theorem State.regsOf_congr {s t : State} {v : View} (h : t.teamOf v = s.teamOf v) : t.regsOf v = s.regsOf v := by
  unfold State.regsOf; rw [State.pathOf_congr h, h]

theorem State.pathOf_modTeam (s : State) (v : View) (f : Team → Team)
    (h : ∀ t, (f t).pathA = t.pathA ∧ (f t).pathB = t.pathB ∧ (f t).runner.asPath = t.runner.asPath) :
    (s.modTeam v f).pathOf v = s.pathOf v := by
  unfold State.pathOf Team.at
  rw [State.teamOf_modTeam]
  simp only [h]

theorem State.pathOf_modTeam_issued (s : State) (v : View) : (s.modTeam v fun t => t.issued v).pathOf v = s.pathOf v :=
  State.pathOf_modTeam s v _ fun t => ⟨(t.issued_keeps v).2.2.1, (t.issued_keeps v).2.2.2.1, (t.issued_keeps v).2.2.2.2.1⟩

/-! ### A stop by the debugger -/

/-- A path with the mark of a reported stop, or as it was. -/
def Path.marked (b : Bool) (p : Path) : Path := { p with passed := b || p.passed }

/-- A team that has been stopped, or whose loads have been served meanwhile, has the same registers, runner and paths, but for the marks
of stops reported. -/
structure Team.Near (t u : Team) : Prop where
  v : u.v = t.v
  p : u.p = t.p
  runner : u.runner = t.runner
  path : ∀ side, ∃ b, u.at side = (t.at side).map (Path.marked b)

theorem Path.marked_false (q : Option Path) : q.map (Path.marked false) = q := by cases q <;> rfl
theorem Path.marked_marked (a b : Bool) (q : Option Path) : (q.map (Path.marked a)).map (Path.marked b) = q.map (Path.marked (b || a)) := by
  cases q
  · rfl
  · simp [Path.marked, Bool.or_assoc]

theorem Team.Near.refl (t : Team) : t.Near t := ⟨rfl, rfl, rfl, fun _ => ⟨false, (Path.marked_false _).symm⟩⟩

theorem Team.Near.trans {t u w : Team} (a : t.Near u) (b : u.Near w) : t.Near w :=
  ⟨b.v.trans a.v, b.p.trans a.p, b.runner.trans a.runner, fun side => by
    obtain ⟨m, hm⟩ := a.path side
    obtain ⟨n, hn⟩ := b.path side
    exact ⟨n || m, by rw [hn, hm, Path.marked_marked]⟩⟩

theorem Team.near_ops (t : Team) (ops : List Op) : t.Near { t with ops := ops } := ⟨rfl, rfl, rfl, fun _ => ⟨false, (Path.marked_false _).symm⟩⟩

theorem Team.near_haltWith (t : Team) (x n : Nat) : t.Near (t.haltWith x n) := by
  unfold Team.haltWith
  split
  · exact ⟨rfl, rfl, rfl, fun _ => ⟨false, (Path.marked_false _).symm⟩⟩
  · exact .refl t

theorem Team.near_halt (t : Team) (side : Bool) (r : Nat) : t.Near (t.halt side r) := by
  have hm : ∃ b, (t.at side).map (fun p => if r ≤ 1 then { p with passed := true } else p) = (t.at side).map (Path.marked b) := by
    by_cases hr : r ≤ 1
    · exact ⟨true, by simp only [hr, if_true]; rfl⟩
    · exact ⟨false, by simp only [hr, if_false]; rw [Path.marked_false]; cases t.at side <;> rfl⟩
  obtain ⟨b, hb⟩ := hm
  unfold Team.halt
  rw [hb]
  refine ⟨?_, ?_, ?_, fun z => ?_⟩
  · cases side <;> rfl
  · cases side <;> rfl
  · cases side <;> rfl
  · cases side <;> cases z
    · exact ⟨b, rfl⟩
    · exact ⟨false, (Path.marked_false _).symm⟩
    · exact ⟨false, (Path.marked_false _).symm⟩
    · exact ⟨b, rfl⟩

/-- Stopping the teams of a launch leaves every team near to what it was. -/
theorem State.stopLaunch_team (s : State) (x n d i : Nat) (t : Team) (h : s.team d i = some t) :
    (s.stopLaunch x n).team d i = some (t.haltWith x n) := by
  unfold State.stopLaunch
  simp only [State.team, State.core, State.setCtx_cores] at h ⊢
  rw [Table.get_map (fun (e : Core) => ({ e with
    teams := e.teams.map fun w => (w.1, w.2.haltWith x n), evicted := e.evicted.map fun w => (w.1, w.2.haltWith x n) } : Core))]
  cases hg : Table.get s.cores d with
  | none => simp [hg, Core.idle] at h
  | some e =>
    simp only [hg, Option.map_some, Option.getD_some] at h ⊢
    rw [Table.get_map (fun (w : Team) => w.haltWith x n), h]
    rfl

/-- A stop leaves every team near to what it was. -/
theorem State.debugStop_team (s : State) (c slot : Nat) (side : Bool) (r k : Nat) (d i : Nat) (t : Team) (h : s.team d i = some t) :
    ∃ u, (s.debugStop c slot side r k).team d i = some u ∧ t.Near u := by
  unfold State.debugStop
  dsimp only
  obtain ⟨ops, h1⟩ := (State.traceWord_tells s c slot side 12 (r + 8 * k)).team d i t h
  generalize s.traceWord c slot side 12 (r + 8 * k) = s1 at h1 ⊢
  have hn := Team.near_ops t ops
  generalize ({ t with ops := ops } : Team) = t1 at h1 hn
  split
  · exact ⟨t1, h1, hn⟩
  · rename_i u hu
    have hset : ∃ x, (s1.setTeam c slot (u.halt side r)).team d i = some x ∧ t1.Near x := by
      by_cases hd : d = c
      · subst hd
        by_cases hi : i = slot
        · subst hi
          rw [hu] at h1; cases h1
          exact ⟨_, State.team_setTeam_self _ _ _ _, Team.near_halt _ _ _⟩
        · rw [State.team_setTeam_slot _ _ _ hi]; exact ⟨t1, h1, .refl t1⟩
      · rw [State.team_setTeam_core _ _ _ _ hd]; exact ⟨t1, h1, .refl t1⟩
    obtain ⟨x, hx, hnx⟩ := hset
    split
    · exact ⟨_, State.stopLaunch_team _ _ _ d i x hx, (hn.trans hnx).trans (Team.near_haltWith _ _ _)⟩
    · exact ⟨x, hx, hn.trans hnx⟩

/-- The end of a debugger's step leaves the executing team near to what it was. -/
theorem State.endStep_teamOf (s : State) (v : View) (h : (s.team v.core v.slot).isSome = true) :
    (s.teamOf v).Near ((s.endStep v).teamOf v) := by
  obtain ⟨t, ht⟩ := Option.isSome_iff_exists.1 h
  have hs : s.teamOf v = t := by simp [State.teamOf, ht]
  unfold State.endStep
  rw [hs]
  split
  · split
    · unfold State.stopHere
      obtain ⟨u, hu, hn⟩ := State.debugStop_team s v.core v.slot v.side (s.stopReason v.core v.slot v.side 2).1
        (s.stopReason v.core v.slot v.side 2).2 v.core v.slot t ht
      have : (s.debugStop v.core v.slot v.side (s.stopReason v.core v.slot v.side 2).1 (s.stopReason v.core v.slot v.side 2).2).teamOf v = u := by
        simp [State.teamOf, hu]
      rw [this]; exact hn
    · rw [hs]; exact .refl t
  · rw [hs]; exact .refl t

/-- Without a step in progress the end of a word changes nothing more. -/
theorem State.endStep_none (s : State) (v : View) (h : (s.teamOf v).step = none) : s.endStep v = s := by
  unfold State.endStep; rw [h]

/-- Near teams: the executing path is the same but for its mark. -/
theorem State.pathOf_of_near {s t : State} {v : View} (h : (s.teamOf v).Near (t.teamOf v)) : ∃ b, t.pathOf v = (s.pathOf v).marked b := by
  unfold State.pathOf
  cases hr : v.run
  · obtain ⟨b, hb⟩ := h.path v.side
    refine ⟨if (s.teamOf v).at v.side = none then false else b, ?_⟩
    simp only [Bool.false_eq_true, if_false]
    rw [hb]
    cases (s.teamOf v).at v.side with
    | none => simp [Path.marked]
    | some p => simp
  · exact ⟨false, by simp [h.runner, Path.marked]⟩

theorem State.regsOf_of_near {s t : State} {v : View} (h : (s.teamOf v).Near (t.teamOf v)) : t.regsOf v = s.regsOf v := by
  obtain ⟨b, hb⟩ := State.pathOf_of_near h
  unfold State.regsOf
  rw [hb, h.v, h.p]; rfl

/-! ### The end of a word -/

/-- Taking a pipe changes nothing else. -/
theorem State.occupy_eq (s : State) (v : View) (i : Instr) : ∃ ps, s.occupy v i = { s with pipes := ps } := ⟨_, rfl⟩

@[simp] theorem State.team_occupy (s : State) (v : View) (i : Instr) (c n : Nat) : (s.occupy v i).team c n = s.team c n := rfl
theorem State.teamOf_occupy (s : State) (v w : View) (i : Instr) : (s.occupy v i).teamOf w = s.teamOf w := rfl
@[simp] theorem State.besides_occupy (s : State) (v w : View) (i : Instr) : (s.occupy v i).besides w = s.besides w := rfl
@[simp] theorem State.mem_occupy (s : State) (v : View) (i : Instr) : (s.occupy v i).mem = s.mem := rfl
@[simp] theorem State.hostMem_occupy (s : State) (v : View) (i : Instr) : (s.occupy v i).hostMem = s.hostMem := rfl

theorem State.team_modTeam (s : State) (v : View) (f : Team → Team) : (s.modTeam v f).team v.core v.slot = some (f (s.teamOf v)) := by
  simp [State.modTeam]

/-- Where a completed word leaves its path, and what it leaves alone. -/
theorem State.finish_spec (s : State) (v : View) (i : Instr) :
    (s.finish v i).regsOf v = s.regsOf v ∧
      (v.run = false → ∃ b, (s.finish v i).pathOf v = (v.advance i (s.pathOf v)).marked b) ∧
      ((s.finish v i).pathOf v).pc = (v.advance i (s.pathOf v)).pc ∧ ((s.finish v i).pathOf v).word = (v.advance i (s.pathOf v)).word := by
  unfold State.finish
  dsimp only
  have hp : ∀ u : State, u = ((s.modPath v (v.advance i)).used).modTeam v (fun t => t.issued v) →
      u.regsOf v = s.regsOf v ∧ (v.run = false → u.pathOf v = v.advance i (s.pathOf v)) ∧
        (u.pathOf v).pc = (v.advance i (s.pathOf v)).pc ∧ (u.pathOf v).word = (v.advance i (s.pathOf v)).word := by
    rintro u rfl
    have h1 : (((s.modPath v (v.advance i)).used).modTeam v (fun t => t.issued v)).pathOf v = (s.modPath v (v.advance i)).pathOf v :=
      State.pathOf_modTeam_issued _ _
    have h2 := State.pathOf_putPath_regs s v (v.advance i (s.pathOf v))
    have h3 := State.teamOf_putPath_vectors s v (v.advance i (s.pathOf v))
    refine ⟨?_, fun hv => ?_, ?_, ?_⟩
    · unfold State.regsOf
      rw [h1, State.teamOf_modTeam, (Team.issued_keeps _ v).1, (Team.issued_keeps _ v).2.1, State.teamOf_used]
      unfold State.modPath
      rw [h2.1, h2.2.1, h3.1, h3.2]
      rfl
    · rw [h1]; exact State.pathOf_putPath s v _ hv
    · rw [h1]; exact h2.2.2.1
    · rw [h1]; exact h2.2.2.2.1
  have hq := hp _ rfl
  generalize hu : ((s.modPath v (v.advance i)).used).modTeam v (fun t => t.issued v) = u at hq ⊢
  have hsome : ((u.occupy v i).team v.core v.slot).isSome = true := by
    rw [State.team_occupy, ← hu, State.team_modTeam]; rfl
  have hwt := State.teamOf_occupy u v v i
  rw [← State.regsOf_congr hwt, ← State.pathOf_congr hwt] at hq
  generalize u.occupy v i = u at hq hsome ⊢
  have hb : ∀ b : Bool,
      ((if b = true then u.again v else u.endStep v)).regsOf v = s.regsOf v ∧
        (v.run = false → ∃ m, ((if b = true then u.again v else u.endStep v)).pathOf v = (v.advance i (s.pathOf v)).marked m) ∧
          (((if b = true then u.again v else u.endStep v)).pathOf v).pc = (v.advance i (s.pathOf v)).pc ∧
            (((if b = true then u.again v else u.endStep v)).pathOf v).word = (v.advance i (s.pathOf v)).word := by
    intro b
    cases b
    · have hb := State.endStep_teamOf u v hsome
      simp only [Bool.false_eq_true, if_false]
      obtain ⟨m, hm⟩ := State.pathOf_of_near hb
      rw [State.regsOf_of_near hb, hm]
      exact ⟨hq.1, fun hv => ⟨m, by rw [hq.2.1 hv]⟩, hq.2.2.1, hq.2.2.2⟩
    · exact ⟨hq.1, fun hv => ⟨false, by rw [← hq.2.1 hv]; rfl⟩, hq.2.2.1, hq.2.2.2⟩
  exact hb _

/-- Where a transfer leaves its path, and what it leaves alone. -/
theorem State.transfer_spec (s : State) (v : View) (i : Instr) (pc : Nat) :
    (s.transfer v i pc).regsOf v = s.regsOf v ∧
      (v.run = false → ∃ b, (s.transfer v i pc).pathOf v = (v.land i pc (s.pathOf v)).marked b) ∧
      ((s.transfer v i pc).pathOf v).pc = pc ∧ ((s.transfer v i pc).pathOf v).word = 0 := by
  unfold State.transfer
  have h1 : (((s.modPath v (v.land i pc)).used).modTeam v (fun t => t.issued v)).pathOf v = (s.modPath v (v.land i pc)).pathOf v :=
    State.pathOf_modTeam_issued _ _
  have h2 := State.pathOf_putPath_regs s v (v.land i pc (s.pathOf v))
  have h3 := State.teamOf_putPath_vectors s v (v.land i pc (s.pathOf v))
  have h4 : (((s.modPath v (v.land i pc)).used).modTeam v (fun t => t.issued v)).regsOf v = s.regsOf v := by
    unfold State.regsOf
    rw [h1, State.teamOf_modTeam, (Team.issued_keeps _ v).1, (Team.issued_keeps _ v).2.1, State.teamOf_used]
    unfold State.modPath
    rw [h2.1, h2.2.1, h3.1, h3.2]
    rfl
  have hsome : ((((s.modPath v (v.land i pc)).used).modTeam v (fun t => t.issued v)).team v.core v.slot).isSome = true := by
    rw [State.team_modTeam]; rfl
  generalize ((s.modPath v (v.land i pc)).used).modTeam v (fun t => t.issued v) = u at h1 h4 hsome ⊢
  have hwt := State.teamOf_occupy u v v i
  have hb := State.endStep_teamOf (u.occupy v i) v hsome
  obtain ⟨m, hm⟩ := State.pathOf_of_near hb
  rw [State.regsOf_of_near hb, hm, State.regsOf_congr hwt, State.pathOf_congr hwt, h1, h4]
  exact ⟨rfl, fun hv => ⟨m, by unfold State.modPath; rw [State.pathOf_putPath s v _ hv]⟩, h2.2.2.1, h2.2.2.2.1⟩

/-- A completed word of a team in no step leaves the package beside its team, its bytes, and its team outside the
executing path. -/
theorem State.finish_frame (s : State) (v : View) (i : Instr) (h : (s.teamOf v).step = none) :
    (s.finish v i).besides v = s.besides v ∧ (s.finish v i).mem = s.mem ∧ (s.finish v i).hostMem = s.hostMem ∧
      v.outside ((s.finish v i).teamOf v) = v.outside (s.teamOf v) := by
  unfold State.finish
  dsimp only
  generalize hu : ((s.modPath v (v.advance i)).used).modTeam v (fun t => t.issued v) = u
  have hstep : (u.teamOf v).step = none := by
    rw [← hu, State.teamOf_modTeam, (Team.issued_keeps _ v).2.2.2.2.2, State.teamOf_used]
    unfold State.modPath
    rw [State.teamOf_putPath]
    split
    · exact h
    · rw [((s.teamOf v).setAt_keeps v.side _).2.2.2.2.2]; exact h
  rw [State.endStep_none (u.occupy v i) v hstep]
  have hq : (u.occupy v i).besides v = s.besides v ∧ (u.occupy v i).mem = s.mem ∧ (u.occupy v i).hostMem = s.hostMem ∧
      v.outside ((u.occupy v i).teamOf v) = v.outside (s.teamOf v) := by
    rw [State.besides_occupy, State.mem_occupy, State.hostMem_occupy, State.teamOf_occupy]
    refine ⟨?_, ?_, ?_, ?_⟩
    · rw [← hu]
      unfold State.modTeam
      rw [State.besides_setTeam, State.besides_used]
      exact State.besides_setTeam s v _
    · rw [← hu]; rfl
    · rw [← hu]; rfl
    · rw [← hu, State.teamOf_modTeam, View.outside_issued, State.teamOf_used]
      exact View.outside_putPath s v _
  generalize u.occupy v i = u at hq ⊢
  have hb : ∀ b : Bool, ((if b = true then u.again v else u)).besides v = s.besides v ∧
      ((if b = true then u.again v else u)).mem = s.mem ∧ ((if b = true then u.again v else u)).hostMem = s.hostMem ∧
        v.outside (((if b = true then u.again v else u)).teamOf v) = v.outside (s.teamOf v) := by
    intro b
    cases b <;> exact hq
  exact hb _

/-- Marks of registers written stay where only teams, time and pipes change. -/
theorem KeepsDirty.of_cores {v : View} {s t : State} (h : t.cores = s.cores) : KeepsDirty v s t := by
  unfold KeepsDirty State.core; rw [h]

theorem KeepsDirty.setTeam (v : View) (s : State) (t : Team) : KeepsDirty v s (s.setTeam v.core v.slot t) := by
  unfold KeepsDirty State.setTeam; simp

theorem KeepsDirty.putPath (v : View) (s : State) (p : Path) : KeepsDirty v s (s.putPath v p) := KeepsDirty.setTeam v s _

theorem KeepsDirty.trans {v : View} {s t u : State} (h : KeepsDirty v s t) (k : KeepsDirty v t u) : KeepsDirty v s u := Eq.trans k h

theorem KeepsDirty.finish (v : View) (s : State) (i : Instr) (h : (s.teamOf v).step = none) : KeepsDirty v s (s.finish v i) := by
  unfold State.finish
  dsimp only
  have hk : KeepsDirty v s ((((s.modPath v (v.advance i)).used).modTeam v (fun t => t.issued v)).occupy v i) :=
    ((KeepsDirty.putPath v s _).trans (KeepsDirty.of_cores rfl)).trans ((KeepsDirty.setTeam v _ _).trans (KeepsDirty.of_cores rfl))
  have hstep : ((((s.modPath v (v.advance i)).used).modTeam v (fun t => t.issued v)).teamOf v).step = none := by
    rw [State.teamOf_modTeam, (Team.issued_keeps _ v).2.2.2.2.2, State.teamOf_used]
    unfold State.modPath
    rw [State.teamOf_putPath]
    split
    · exact h
    · rw [((s.teamOf v).setAt_keeps v.side _).2.2.2.2.2]; exact h
  rw [State.endStep_none ((((s.modPath v (v.advance i)).used).modTeam v (fun t => t.issued v)).occupy v i) v hstep]
  have hb : ∀ (u : State) (b : Bool), KeepsDirty v s u → KeepsDirty v s (if b = true then u.again v else u) := by
    intro u b hu
    cases b <;> exact hu
  exact hb _ _ hk

theorem KeepsDirty.reach (v : View) (s : State) : KeepsDirty v s (s.reach v) := by
  refine KeepsDirty.of_cores ?_
  unfold State.reach
  dsimp only
  split <;> simp

theorem KeepsDirty.atIssue (v : View) (s : State) : KeepsDirty v s (s.atIssue v) := by
  unfold State.atIssue
  dsimp only
  split
  · exact (KeepsDirty.reach v s).trans (KeepsDirty.putPath v _ _)
  · exact KeepsDirty.reach v s

/-! ### The state at issue -/

/-- At issue nothing but the time has moved outside the executing path. -/
theorem State.atIssue_frame {s : State} {v : View} {i : Instr} (h : s.Views v i) :
    (s.atIssue v).besides v = s.besides v ∧ (s.atIssue v).mem = s.mem ∧ (s.atIssue v).hostMem = s.hostMem ∧
      v.outside ((s.atIssue v).teamOf v) = v.outside v.team ∧ ((s.atIssue v).teamOf v).step = v.team.step ∧
      (s.atIssue v).regsOf v = s.regsOf v := by
  have ht : (s.reach v).teamOf v = v.team := by rw [State.teamOf_reach, State.view_teamOf h]
  have hm : (s.reach v).mem = s.mem ∧ (s.reach v).hostMem = s.hostMem := by
    unfold State.reach
    dsimp only
    split <;> simp
  have hr : (s.atIssue v).regsOf v = s.regsOf v := by
    have h0 := State.atIssue_spec h
    unfold State.regsOf
    rw [h0.1, h0.2.1, h0.2.2.1, h0.2.2.2.1, State.view_teamOf h, State.view_pathOf h]
  refine ⟨?_, ?_, ?_, ?_, ?_, hr⟩ <;> unfold State.atIssue <;> dsimp only
  · split
    · unfold State.modPath State.putPath
      rw [State.besides_setTeam, State.besides_reach]
    · exact State.besides_reach s v
  · split <;> exact hm.1
  · split <;> exact hm.2
  · split
    · unfold State.modPath
      rw [View.outside_putPath, ht]
    · rw [ht]
  · split
    · unfold State.modPath
      rw [State.teamOf_putPath, ht]
      split
      · rfl
      · exact (v.team.setAt_keeps v.side _).2.2.2.2.2
    · rw [ht]

end Sys2Proof.Machine
end

