-- ==== Sys2Proof/Laws/Results.lean ====
section
/-!
SUPPORT. Results: what writing a scalar register, a condition, a vector register or a predicate does, and the result
shapes of Safety for every word whose effect is such a write.
-/

namespace Sys2Proof.Machine

/-! ### Modes -/

/-- The modes of a path in a state. -/
def State.modesOf (s : State) (v : View) : List Word × Word × Word × Option DWord :=
  ((s.pathOf v).mask, (s.pathOf v).fpmode, (s.pathOf v).fpflags, (s.pathOf v).tick)

theorem keepsModes_of_modesOf {v : View} {s t : State} (h : t.modesOf v = s.modesOf v) : KeepsModes v s t := by
  simp only [State.modesOf, Prod.mk.injEq] at h
  exact h

theorem State.modesOf_congr {s t : State} {v : View} (h : t.pathOf v = s.pathOf v) : t.modesOf v = s.modesOf v := by
  unfold State.modesOf; rw [h]

theorem State.pathOf_eq (s : State) (v : View) :
    s.pathOf v = if v.run then (s.teamOf v).runner.asPath else ((s.teamOf v).at v.side).getD v.path := rfl

/-- A runner, seen as a path, has no modes of its own. -/
theorem State.pathOf_run (s : State) (v : View) (h : v.run = true) : s.pathOf v = (s.teamOf v).runner.asPath := by
  unfold State.pathOf; simp [h]

theorem State.modesOf_run (s : State) (v : View) (h : v.run = true) : s.modesOf v = ([], 0, 0, none) := by
  unfold State.modesOf; rw [State.pathOf_run s v h]; rfl

theorem State.modesOf_putPath (s : State) (v : View) (p : Path)
    (h : p.mask = (s.pathOf v).mask ∧ p.fpmode = (s.pathOf v).fpmode ∧ p.fpflags = (s.pathOf v).fpflags ∧ p.tick = (s.pathOf v).tick) :
    (s.putPath v p).modesOf v = s.modesOf v := by
  cases hr : v.run
  · unfold State.modesOf
    rw [State.pathOf_putPath s v p hr]
    simp [h]
  · rw [State.modesOf_run _ v hr, State.modesOf_run _ v hr]

theorem State.modesOf_modTeam_issued (s : State) (v : View) : (s.modTeam v fun t => t.issued v).modesOf v = s.modesOf v :=
  State.modesOf_congr (State.pathOf_modTeam_issued s v)

theorem State.modesOf_finish (s : State) (v : View) (i : Instr) : (s.finish v i).modesOf v = s.modesOf v := by
  cases hr : v.run
  · unfold State.modesOf
    obtain ⟨b, hb⟩ := (State.finish_spec s v i).2.1 hr
    rw [hb]
    rfl
  · rw [State.modesOf_run _ v hr, State.modesOf_run _ v hr]

theorem State.modesOf_transfer (s : State) (v : View) (i : Instr) (pc : Nat) : (s.transfer v i pc).modesOf v = s.modesOf v := by
  cases hr : v.run
  · unfold State.modesOf
    obtain ⟨b, hb⟩ := (State.transfer_spec s v i pc).2.1 hr
    rw [hb]
    rfl
  · rw [State.modesOf_run _ v hr, State.modesOf_run _ v hr]

theorem State.modesOf_reach (s : State) (v : View) : (s.reach v).modesOf v = s.modesOf v :=
  State.modesOf_congr (State.pathOf_congr (State.teamOf_reach s v))

theorem State.modesOf_atIssue (s : State) (v : View) : (s.atIssue v).modesOf v = s.modesOf v := by
  unfold State.atIssue
  dsimp only
  split
  · unfold State.modPath
    exact (State.modesOf_putPath (s.reach v) v { (s.reach v).pathOf v with parked := none, replay := false } ⟨rfl, rfl, rfl, rfl⟩).trans (State.modesOf_reach s v)
  · exact State.modesOf_reach s v

/-! ### Frames of changes to the executing team -/

/-- What a change confined to the executing team leaves alone. -/
structure State.Within (v : View) (s t : State) : Prop where
  besides : t.besides v = s.besides v
  mem : t.mem = s.mem
  hostMem : t.hostMem = s.hostMem
  step : (t.teamOf v).step = (s.teamOf v).step

theorem State.Within.refl (v : View) (s : State) : State.Within v s s := ⟨rfl, rfl, rfl, rfl⟩

theorem State.Within.trans {v : View} {s t u : State} (h : State.Within v s t) (k : State.Within v t u) : State.Within v s u :=
  ⟨k.besides.trans h.besides, k.mem.trans h.mem, k.hostMem.trans h.hostMem, k.step.trans h.step⟩

theorem State.Within.setTeam (v : View) (s : State) (t : Team) (h : t.step = (s.teamOf v).step) :
    State.Within v s (s.setTeam v.core v.slot t) :=
  ⟨State.besides_setTeam s v t, rfl, rfl, by rw [State.teamOf_setTeam, h]⟩

theorem State.Within.putPath (v : View) (s : State) (p : Path) : State.Within v s (s.putPath v p) := by
  refine ⟨State.besides_setTeam s v _, rfl, rfl, ?_⟩
  rw [State.teamOf_putPath]
  split
  · rfl
  · exact ((s.teamOf v).setAt_keeps v.side _).2.2.2.2.2

theorem State.Within.atIssue {s : State} {v : View} {i : Instr} (h : s.Views v i) : State.Within v s (s.atIssue v) := by
  obtain ⟨h1, h2, h3, _, h5, _⟩ := State.atIssue_frame h
  exact ⟨h1, h2, h3, by rw [h5, State.view_teamOf h]⟩

/-- A change confined to the executing team, then the end of the word: nothing of the package changes. -/
theorem keepsPackage_finish {v : View} {s u : State} {i j : Instr} (hv : s.Views v j) (h : State.Within v s u)
    (hs : v.team.step = none) : KeepsPackage v s (u.finish v i) := by
  have hu : (u.teamOf v).step = none := by rw [h.step, State.view_teamOf hv, hs]
  obtain ⟨h1, h2, h3, _⟩ := State.finish_frame u v i hu
  exact ⟨h1.trans h.besides, SameBytes.of_eq (h2.trans h.mem) (h3.trans h.hostMem)⟩

theorem outside_finish {v : View} {s u : State} {i j : Instr} (hv : s.Views v j) (h : State.Within v s u)
    (hs : v.team.step = none) : v.outside ((u.finish v i).teamOf v) = v.outside (u.teamOf v) := by
  have hu : (u.teamOf v).step = none := by rw [h.step, State.view_teamOf hv, hs]
  exact (State.finish_frame u v i hu).2.2.2

theorem keepsDirty_finish {v : View} {s u : State} {i j : Instr} (hv : s.Views v j) (h : State.Within v s u)
    (hd : KeepsDirty v (s.atIssue v) u) (hs : v.team.step = none) : KeepsDirty v s (u.finish v i) :=
  ((KeepsDirty.atIssue v s).trans hd).trans (KeepsDirty.finish v u i (by rw [h.step, State.view_teamOf hv, hs]))

theorem State.Within.dirtyFrame (v : View) (s : State) (r : Nat) (ls : List Nat) :
    State.Within v s (s.dirtyFrame v.core v.slot r ls) := by
  have h := s.dirtyFrame_keeps v.core v.slot r v.core v.slot ls
  exact ⟨State.besides_dirtyFrame s v r ls, h.2.1, h.2.2, by rw [State.teamOf_dirtyFrame]⟩

/-! ### Scalar registers and conditions -/

theorem Path.pushLag_keeps (p : Path) (reg slice : Nat) (mask : Word) (old : List Word) (ready now : Nat) :
    (p.pushLag reg slice mask old ready now).s = p.s ∧ (p.pushLag reg slice mask old ready now).cond = p.cond ∧
      (p.pushLag reg slice mask old ready now).mask = p.mask ∧ (p.pushLag reg slice mask old ready now).fpmode = p.fpmode ∧
      (p.pushLag reg slice mask old ready now).fpflags = p.fpflags ∧ (p.pushLag reg slice mask old ready now).tick = p.tick ∧
      (p.pushLag reg slice mask old ready now).pc = p.pc ∧ (p.pushLag reg slice mask old ready now).word = p.word :=
  ⟨rfl, rfl, rfl, rfl, rfl, rfl, rfl, rfl⟩

/-- A scalar write of a path: its registers, and what it leaves. -/
theorem View.setS_spec (v : View) (p : Path) (n : Nat) (w : Word) (lat : Nat) :
    (v.setS p n w lat).s = (if v.run = false ∧ n = 63 then p.s else p.s.set n w) ∧ (v.setS p n w lat).cond = p.cond ∧
      (v.setS p n w lat).mask = p.mask ∧ (v.setS p n w lat).fpmode = p.fpmode ∧ (v.setS p n w lat).fpflags = p.fpflags ∧
      (v.setS p n w lat).tick = p.tick := by
  unfold View.setS
  by_cases h : v.run = false ∧ n = 63
  · simp [h]
  · have h' : (!v.run && n == 63) = false := by
      cases hr : v.run <;> simp_all
    simp only [h', Bool.false_eq_true, if_false, h]
    exact ⟨trivial, rfl, rfl, rfl, rfl, rfl⟩

theorem State.setS_eq (s : State) (v : View) (n : Nat) (w : Word) (lat : Nat) :
    s.setS v n w lat = s.setTeam v.core v.slot
      (((s.putPath v (v.setS (s.pathOf v) n w lat)).teamOf v).clash v n [0]) := by
  unfold State.setS
  dsimp only
  have hp : s.putPath v (v.setS (s.pathOf v) n w lat) =
      s.setTeam v.core v.slot ((s.putPath v (v.setS (s.pathOf v) n w lat)).teamOf v) := by
    rw [State.teamOf_putPath]; rfl
  split
  · rename_i h
    conv => lhs; rw [hp]
    unfold Team.clash
    simp [h]
  · unfold State.modTeam
    conv => lhs; rw [hp]
    simp

theorem KeepsDirty.setS (v : View) (s : State) (n : Nat) (w : Word) (lat : Nat) : KeepsDirty v s (s.setS v n w lat) := by
  rw [State.setS_eq]; exact KeepsDirty.setTeam v s _

/-- A scalar write: its register, every other register, and nothing else. -/
theorem State.setS_spec (s : State) (v : View) (n : Nat) (w : Word) (lat : Nat) :
    State.Within v s (s.setS v n w lat) ∧
      ((s.setS v n w lat).pathOf v).s = (if v.run = false ∧ n = 63 then (s.pathOf v).s else (s.pathOf v).s.set n w) ∧
      ((s.setS v n w lat).pathOf v).cond = (s.pathOf v).cond ∧ ((s.setS v n w lat).teamOf v).v = (s.teamOf v).v ∧
      ((s.setS v n w lat).teamOf v).p = (s.teamOf v).p ∧ (s.setS v n w lat).modesOf v = s.modesOf v ∧
      v.outside ((s.setS v n w lat).teamOf v) = v.outside (s.teamOf v) := by
  have hq := View.setS_spec v (s.pathOf v) n w lat
  have hput := State.Within.putPath v s (v.setS (s.pathOf v) n w lat)
  have hk := Team.clash_keeps ((s.putPath v (v.setS (s.pathOf v) n w lat)).teamOf v) v n [0]
  have hvec := State.teamOf_putPath_vectors s v (v.setS (s.pathOf v) n w lat)
  have hregs := State.pathOf_putPath_regs s v (v.setS (s.pathOf v) n w lat)
  have hteam : (s.setS v n w lat).teamOf v = ((s.putPath v (v.setS (s.pathOf v) n w lat)).teamOf v).clash v n [0] := by
    rw [State.setS_eq, State.teamOf_setTeam]
  have hpath : (s.setS v n w lat).pathOf v = (s.putPath v (v.setS (s.pathOf v) n w lat)).pathOf v := by
    rw [State.pathOf_eq (s.setS v n w lat), State.pathOf_eq (s.putPath v (v.setS (s.pathOf v) n w lat)), hteam,
      Team.at_clash, hk.2.2.2.2.1]
  refine ⟨?_, ?_, ?_, ?_, ?_, ?_, ?_⟩
  · rw [State.setS_eq]
    exact State.Within.setTeam v s _ (by rw [hk.2.2.2.2.2.1]; exact hput.step)
  · rw [hpath, hregs.1, hq.1]
  · rw [hpath, hregs.2.1, hq.2.1]
  · rw [hteam, hk.1, hvec.1]
  · rw [hteam, hk.2.1, hvec.2]
  · rw [State.modesOf_congr hpath]
    exact State.modesOf_putPath s v _ ⟨hq.2.2.1, hq.2.2.2.1, hq.2.2.2.2.1, hq.2.2.2.2.2⟩
  · rw [hteam, View.outside_clash, View.outside_putPath]

theorem wordAt_set (l : List Word) (n m : Nat) (w : Word) (h : n < l.length) :
    wordAt (l.set n w) m = if m = n then w else wordAt l m := by
  unfold wordAt
  by_cases hm : m = n
  · subst hm; simp [List.getD, h]
  · simp [List.getD, Ne.symm hm, hm]

theorem wordAt_set_other (l : List Word) {n m : Nat} (w : Word) (h : m ≠ n) : wordAt (l.set n w) m = wordAt l m := by
  unfold wordAt
  simp [List.getD, Ne.symm h]

/-- Every word whose effect is one scalar write has the result shape. -/
theorem scalarResult_of {i : Instr} {d lat : Nat} {f : State → View → Word}
    (h : ∀ s, exec i s = issueWord i (fun s v => .done (s.setS v d (f s v) lat)) s) : ScalarResult i d f := by
  intro s v hi hd
  have hv := hi.1
  refine ⟨_, by rw [h]; exact issueWord_done hi rfl, ?_⟩
  obtain ⟨hw, hs, hc, hvv, hpp, hm, ho⟩ := State.setS_spec (s.atIssue v) v d (f (s.atIssue v) v) lat
  have hA := State.atIssue_spec hv
  have hF := State.finish_spec ((s.atIssue v).setS v d (f (s.atIssue v) v) lat) v i
  have hr := hF.1
  simp only [State.regsOf, Prod.mk.injEq] at hr
  have hin := (State.Within.atIssue hv).trans hw
  have hsAt : ∀ n, (((s.atIssue v).setS v d (f (s.atIssue v) v) lat).finish v i).sAt v n =
      wordAt (if v.run = false ∧ d = 63 then v.path.s else v.path.s.set d (f (s.atIssue v) v)) n := by
    intro n; unfold State.sAt; rw [hr.2.2.1, hs, hA.2.2.1]
  have hs0 : ∀ n, s.sAt v n = wordAt v.path.s n := by intro n; unfold State.sAt; rw [State.view_pathOf hv]
  refine ⟨?_, ?_, ?_, ?_, ?_, ?_, fun hst => ⟨keepsPackage_finish hv hin hst, keepsDirty_finish hv hin (KeepsDirty.setS v _ d _ lat) hst, ?_⟩⟩
  · rw [hsAt]
    split
    · rename_i h63; rw [hs0, h63.2]
    · rw [wordAt_set _ _ _ _ hd, if_pos rfl]
  · intro n hn
    rw [hsAt, hs0]
    split
    · rfl
    · exact wordAt_set_other _ _ (by simpa using hn)
  · intro n _
    unfold State.cAt; rw [hr.2.2.2, hc, hA.2.2.2.1, State.view_pathOf hv]
  · intro r _ l
    unfold State.vAt; rw [hr.1, hvv, hA.1, State.view_teamOf hv]
  · intro r _ l
    unfold State.pAt; rw [hr.2.1, hpp, hA.2.1, State.view_teamOf hv]
  · exact keepsModes_of_modesOf ((State.modesOf_finish _ v i).trans (hm.trans (State.modesOf_atIssue s v)))
  · rw [outside_finish hv hin hst, ho, (State.atIssue_frame hv).2.2.2.1]

/-- A condition write: its condition, every other one, and nothing else. -/
theorem State.setC_spec (s : State) (v : View) (n : Nat) (b : Bool) (ready : Nat) :
    State.Within v s (s.setC v n b ready) ∧ ((s.setC v n b ready).pathOf v).cond = (s.pathOf v).cond.set n b ∧
      ((s.setC v n b ready).pathOf v).s = (s.pathOf v).s ∧ ((s.setC v n b ready).teamOf v).v = (s.teamOf v).v ∧
      ((s.setC v n b ready).teamOf v).p = (s.teamOf v).p ∧ (s.setC v n b ready).modesOf v = s.modesOf v ∧
      v.outside ((s.setC v n b ready).teamOf v) = v.outside (s.teamOf v) := by
  unfold State.setC
  have hr := State.pathOf_putPath_regs s v (v.setC (s.pathOf v) n b ready)
  have hv := State.teamOf_putPath_vectors s v (v.setC (s.pathOf v) n b ready)
  exact ⟨State.Within.putPath v s _, hr.2.1, hr.1, hv.1, hv.2, State.modesOf_putPath s v _ ⟨rfl, rfl, rfl, rfl⟩,
    View.outside_putPath s v _⟩

/-- What the end of a word after a change within the team leaves of the frame, given what the change left. -/
theorem finish_registers {v : View} {s u : State} (i : Instr) (hv : s.Views v i) :
    (∀ n, (u.finish v i).sAt v n = wordAt (u.pathOf v).s n) ∧ (∀ n, (u.finish v i).cAt v n = (u.pathOf v).cond.getD n false) ∧
      (∀ r l, (u.finish v i).vAt v r l = wordAt ((u.teamOf v).v.getD r []) l) ∧
      (∀ n l, (u.finish v i).pAt v n l = ((u.teamOf v).p.getD n []).getD l false) ∧
      (∀ n, s.sAt v n = wordAt v.path.s n) ∧ (∀ n, s.cAt v n = v.path.cond.getD n false) ∧
      (∀ r l, s.vAt v r l = wordAt (v.team.v.getD r []) l) ∧ ∀ n l, s.pAt v n l = (v.team.p.getD n []).getD l false := by
  have hr := (State.finish_spec u v i).1
  simp only [State.regsOf, Prod.mk.injEq] at hr
  refine ⟨fun n => ?_, fun n => ?_, fun r l => ?_, fun n l => ?_, fun n => ?_, fun n => ?_, fun r l => ?_, fun n l => ?_⟩
  · unfold State.sAt; rw [hr.2.2.1]
  · unfold State.cAt; rw [hr.2.2.2]
  · unfold State.vAt; rw [hr.1]
  · unfold State.pAt; rw [hr.2.1]
  · unfold State.sAt; rw [State.view_pathOf hv]
  · unfold State.cAt; rw [State.view_pathOf hv]
  · unfold State.vAt; rw [State.view_teamOf hv]
  · unfold State.pAt; rw [State.view_teamOf hv]

/-- Every word whose effect is one condition write has the result shape. -/
theorem conditionResult_of {i : Instr} {k : Nat} {ready : View → Nat} {f : State → View → Bool}
    (h : ∀ s, exec i s = issueWord i (fun s v => .done (s.setC v k (f s v) (ready v))) s) : ConditionResult i k f := by
  intro s v hi hk
  have hv := hi.1
  refine ⟨_, by rw [h]; exact issueWord_done hi rfl, ?_⟩
  obtain ⟨hw, hc, hs, hvv, hpp, hm, ho⟩ := State.setC_spec (s.atIssue v) v k (f (s.atIssue v) v) (ready v)
  have hA := State.atIssue_spec hv
  obtain ⟨r1, r2, r3, r4, q1, q2, q3, q4⟩ := finish_registers (u := (s.atIssue v).setC v k (f (s.atIssue v) v) (ready v)) i hv
  have hin := (State.Within.atIssue hv).trans hw
  refine ⟨?_, ?_, ?_, ?_, ?_, ?_, fun hst => ⟨keepsPackage_finish hv hin hst, keepsDirty_finish hv hin (KeepsDirty.putPath v _ _) hst, ?_⟩⟩
  · rw [r2, hc, hA.2.2.2.1]
    simp [List.getD, hk]
  · intro n hn
    rw [r2, q2, hc, hA.2.2.2.1]
    have hn' : n ≠ k := by simpa using hn
    simp [List.getD, Ne.symm hn']
  · intro n _; rw [r1, q1, hs, hA.2.2.1]
  · intro r _ l; rw [r3, q3, hvv, hA.1]
  · intro n _ l; rw [r4, q4, hpp, hA.2.1]
  · exact keepsModes_of_modesOf ((State.modesOf_finish _ v i).trans (hm.trans (State.modesOf_atIssue s v)))
  · rw [outside_finish hv hin hst, ho, (State.atIssue_frame hv).2.2.2.1]

/-! ### Vector registers and predicates -/

theorem View.lagSlices_keeps (v : View) (p : Path) (reg lat : Nat) (fromLast : Bool) (old : Nat → Word) :
    (v.lagSlices p reg lat fromLast old).s = p.s ∧ (v.lagSlices p reg lat fromLast old).cond = p.cond ∧
      (v.lagSlices p reg lat fromLast old).mask = p.mask ∧ (v.lagSlices p reg lat fromLast old).fpmode = p.fpmode ∧
      (v.lagSlices p reg lat fromLast old).fpflags = p.fpflags ∧ (v.lagSlices p reg lat fromLast old).tick = p.tick := by
  unfold View.lagSlices
  generalize List.range p.mask.length = l
  have h : ∀ (l : List Nat) (q : Path), q.s = p.s ∧ q.cond = p.cond ∧ q.mask = p.mask ∧ q.fpmode = p.fpmode ∧ q.fpflags = p.fpflags ∧ q.tick = p.tick →
      let r := l.foldl (fun p i =>
        let m := wordAt v.path.mask i
        if m = 0 then p
        else
          let pass := v.time + (if fromLast then v.lastPass else v.passOfSlice i)
          p.pushLag reg i m ((List.range 32).map fun j => old (32 * i + j)) (pass + lat) v.time) q
      r.s = p.s ∧ r.cond = p.cond ∧ r.mask = p.mask ∧ r.fpmode = p.fpmode ∧ r.fpflags = p.fpflags ∧ r.tick = p.tick := by
    intro l
    induction l with
    | nil => intro q hq; exact hq
    | cons i l ih =>
      intro q hq
      simp only [List.foldl_cons]
      apply ih
      by_cases hm : wordAt v.path.mask i = 0
      · rw [if_pos hm]; exact hq
      · rw [if_neg hm]; exact hq
  exact h l p ⟨rfl, rfl, rfl, rfl, rfl, rfl⟩

/-- The registers of a team without those a word may write. -/
def Team.unvector (t : Team) : Team := { t with v := [], p := [], vpoison := [] }

theorem View.outside_unvector_clash (v : View) (t : Team) (r : Nat) (ls : List Nat) :
    v.outside (t.clash v r ls).unvector = v.outside t.unvector := by
  obtain ⟨f, hf, he⟩ := Team.clash_ops t v r ls
  rw [he]
  have hm : (t.ops.map f).map (fun o => ({ o with clash := [] } : Op)) = t.ops.map fun o => { o with clash := [] } := by
    rw [List.map_map]
    exact List.map_congr_left fun o _ => hf o
  unfold View.outside Team.unvector
  cases v.run
  · cases hs : v.side <;> simp [Team.setAt, hm]
  · simp [hm]

theorem View.outside_unvector_congr (v : View) {t u : Team} (h : v.outside t = v.outside u) :
    v.outside t.unvector = v.outside u.unvector := by
  have h' := congrArg Team.unvector h
  unfold View.outside Team.unvector at *
  cases hr : v.run <;> cases hs : v.side <;> simp_all [Team.setAt]

theorem State.modesOf_congr_path {s t : State} {v : View} (h : (t.pathOf v).mask = (s.pathOf v).mask ∧ (t.pathOf v).fpmode = (s.pathOf v).fpmode ∧
    (t.pathOf v).fpflags = (s.pathOf v).fpflags ∧ (t.pathOf v).tick = (s.pathOf v).tick) : t.modesOf v = s.modesOf v := by
  unfold State.modesOf; simp [h]

/-- The values written into lanes of a column. -/
def column (col : List Word) (vals : List (Nat × Word)) : List Word := vals.foldl (fun col e => col.set e.1 e.2) col

/-- Modes of a path put in another team that agrees on the executing path's modes. -/
theorem State.modesOf_putTeam (s : State) (v : View) (t : Team) (p : Path)
    (h : p.mask = (s.pathOf v).mask ∧ p.fpmode = (s.pathOf v).fpmode ∧ p.fpflags = (s.pathOf v).fpflags ∧ p.tick = (s.pathOf v).tick) :
    ((s.setTeam v.core v.slot t).putPath v p).modesOf v = s.modesOf v := by
  cases hr : v.run
  · unfold State.modesOf
    rw [State.pathOf_putPath _ v p hr]
    simp [h]
  · rw [State.modesOf_run _ v hr, State.modesOf_run _ v hr]

/-- A vector write: its column, every other register, and nothing else. -/
theorem State.setV_spec (s : State) (v : View) (r : Nat) (vals : List (Nat × Word)) (lat : Nat) (fromLast : Bool) :
    State.Within v s (s.setV v r vals lat fromLast) ∧
      ((s.setV v r vals lat fromLast).teamOf v).v = (s.teamOf v).v.set r (column ((s.teamOf v).v.getD r []) vals) ∧
      ((s.setV v r vals lat fromLast).teamOf v).p = (s.teamOf v).p ∧
      ((s.setV v r vals lat fromLast).pathOf v).s = (s.pathOf v).s ∧
      ((s.setV v r vals lat fromLast).pathOf v).cond = (s.pathOf v).cond ∧
      (s.setV v r vals lat fromLast).modesOf v = s.modesOf v ∧
      v.outside ((s.setV v r vals lat fromLast).teamOf v).unvector = v.outside (s.teamOf v).unvector := by
  unfold State.setV
  dsimp only
  have hk : ∀ q, q = (if lat ≤ 1 then s.pathOf v else v.lagSlices (s.pathOf v) (64 + r) lat fromLast (wordAt ((s.teamOf v).v.getD r []))) →
      q.s = (s.pathOf v).s ∧ q.cond = (s.pathOf v).cond ∧ q.mask = (s.pathOf v).mask ∧ q.fpmode = (s.pathOf v).fpmode ∧
        q.fpflags = (s.pathOf v).fpflags ∧ q.tick = (s.pathOf v).tick := by
    rintro q rfl
    split
    · exact ⟨rfl, rfl, rfl, rfl, rfl, rfl⟩
    · exact View.lagSlices_keeps _ _ _ _ _ _
  have hq := hk _ rfl
  generalize (if lat ≤ 1 then s.pathOf v else v.lagSlices (s.pathOf v) (64 + r) lat fromLast (wordAt ((s.teamOf v).v.getD r []))) = q at hq ⊢
  have hc := Team.clash_keeps ((s.teamOf v).setLanes r vals) v (64 + r) (vals.map (·.1))
  have ho := View.outside_unvector_clash v ((s.teamOf v).setLanes r vals) (64 + r) (vals.map (·.1))
  generalize hT : ((s.teamOf v).setLanes r vals).clash v (64 + r) (vals.map (·.1)) = T at hc ho ⊢
  generalize hP : T.vpoison.filter _ = pois
  rw [State.teamOf_dirtyFrame, State.pathOf_congr (State.teamOf_dirtyFrame _ v v.core v.slot r _),
    State.modesOf_congr (State.pathOf_congr (State.teamOf_dirtyFrame _ v v.core v.slot r _))]
  have hTv := State.teamOf_putPath_vectors (s.setTeam v.core v.slot { T with vpoison := pois }) v q
  have hTr := State.pathOf_putPath_regs (s.setTeam v.core v.slot { T with vpoison := pois }) v q
  rw [State.teamOf_setTeam] at hTv
  refine ⟨?_, ?_, ?_, ?_, ?_, ?_, ?_⟩
  · refine ((State.Within.setTeam v s _ ?_).trans (State.Within.putPath v _ q)).trans (State.Within.dirtyFrame v _ r _)
    exact hc.2.2.2.2.2.1
  · rw [hTv.1]; exact hc.1
  · rw [hTv.2]; exact hc.2.1
  · rw [hTr.1, hq.1]
  · rw [hTr.2.1, hq.2.1]
  · exact State.modesOf_putTeam s v _ q hq.2.2
  · rw [View.outside_unvector_congr v (View.outside_putPath _ v q), State.teamOf_setTeam]
    exact ho

theorem column_map (g : Nat → Word) (ls : List Nat) (col : List Word) (l : Nat) (hl : ∀ k ∈ ls, k < col.length) :
    wordAt (column col (ls.map fun k => (k, g k))) l = if l ∈ ls then g l else wordAt col l := by
  induction ls generalizing col with
  | nil => simp [column]
  | cons k ls ih =>
    have hk : k < col.length := hl k (by simp)
    have h1 : column col ((k :: ls).map fun k => (k, g k)) = column (col.set k (g k)) (ls.map fun k => (k, g k)) := rfl
    rw [h1, ih _ (by intro m hm; rw [List.length_set]; exact hl m (by simp [hm]))]
    rw [wordAt_set _ _ _ _ hk]
    by_cases hm : l ∈ ls <;> by_cases hlk : l = k <;> simp [hm, hlk]

theorem View.active_lt (v : View) {l : Nat} (h : l ∈ v.active) : l < v.team.lanes := by
  unfold View.active activeLanes at h
  exact List.mem_range.1 (List.mem_of_mem_filter h)

theorem getD_set_self {α : Type} (l : List α) (n : Nat) (a x : α) (h : n < l.length) : (l.set n a).getD n x = a := by
  simp [List.getD, h]

theorem getD_set_other {α : Type} (l : List α) {n m : Nat} (a x : α) (h : m ≠ n) : (l.set n a).getD m x = l.getD m x := by
  simp [List.getD, Ne.symm h]

/-- Every word whose effect is one vector write in its active lanes has the result shape. -/
theorem vectorResultWhen_of {i : Instr} {H : View → Prop} {d lat : Nat} {last : Bool} {f : State → View → Nat → Word}
    {eff : State → View → Effect} (h : ∀ s, exec i s = issueWord i eff s)
    (he : ∀ s v, H v → eff s v = .done (s.setV v d (v.active.map fun l => (l, f s v l)) lat last)) : VectorResultWhen H i d f := by
  intro s v hi hH hcol
  have hv := hi.1
  refine ⟨_, by rw [h]; exact issueWord_done hi (he _ _ hH), ?_⟩
  obtain ⟨hw, hvv, hpp, hs, hc, hm, ho⟩ := State.setV_spec (s.atIssue v) v d (v.active.map fun l => (l, f (s.atIssue v) v l)) lat last
  generalize hu : (s.atIssue v).setV v d (v.active.map fun l => (l, f (s.atIssue v) v l)) lat last = u at hw hvv hpp hs hc hm ho ⊢
  have hA := State.atIssue_spec hv
  obtain ⟨r1, r2, r3, r4, q1, q2, q3, q4⟩ := finish_registers (u := u) i hv
  have hin := (State.Within.atIssue hv).trans hw
  have hvd : ∀ l, (u.finish v i).vAt v d l = if l ∈ v.active then f (s.atIssue v) v l else s.vAt v d l := by
    intro l
    rw [r3, q3, hvv, hA.1, getD_set_self _ _ _ _ hcol.1]
    rw [column_map _ _ _ _ (by intro k hk; rw [hcol.2]; exact v.active_lt hk)]
  refine ⟨fun l hl => ?_, fun l hl => ?_, ?_, ?_, ?_, ?_, ?_, fun hst => ⟨keepsPackage_finish hv hin hst, ?_⟩⟩
  · rw [hvd, if_pos hl]
  · rw [hvd, if_neg hl]
  · intro r hr l
    rw [r3, q3, hvv, hA.1, getD_set_other _ _ _ (by simpa using hr)]
  · intro n _; rw [r1, q1, hs, hA.2.2.1]
  · intro n _; rw [r2, q2, hc, hA.2.2.2.1]
  · intro n _ l; rw [r4, q4, hpp, hA.2.1]
  · exact keepsModes_of_modesOf ((State.modesOf_finish _ v i).trans (hm.trans (State.modesOf_atIssue s v)))
  · unfold SameTeamBut
    have h1 := View.outside_unvector_congr v (outside_finish (i := i) hv hin hst)
    have h2 : v.outside ((s.atIssue v).teamOf v) = v.outside (s.teamOf v) := by
      rw [(State.atIssue_frame hv).2.2.2.1, State.view_teamOf hv]
    exact h1.trans (ho.trans (View.outside_unvector_congr v h2))

/-- The values written into lanes of a predicate. -/
def predicateColumn (col : List Bool) (vals : List (Nat × Bool)) : List Bool :=
  vals.foldl (fun (c : List Bool) (e : Nat × Bool) => c.set e.1 e.2) col

theorem State.setP_eq (s : State) (v : View) (n : Nat) (vals : List (Nat × Bool)) (lat : Nat) (hn : n ≠ 7) :
    s.setP v n vals lat = (s.setTeam v.core v.slot
      (Team.clash ({ s.teamOf v with p := (s.teamOf v).p.set n (predicateColumn ((s.teamOf v).p.getD n []) vals) } : Team) v
        (128 + n) (vals.map (·.1)))).putPath v
      (v.lagSlices (s.pathOf v) (128 + n) lat false fun l => if ((s.teamOf v).p.getD n []).getD l false then 1 else 0) := by
  unfold State.setP
  rw [if_neg hn]
  rfl

/-- A predicate write (never of p7): its column, every other register, and nothing else. -/
theorem State.setP_spec (s : State) (v : View) (n : Nat) (vals : List (Nat × Bool)) (lat : Nat) (hn : n ≠ 7) :
    State.Within v s (s.setP v n vals lat) ∧
      ((s.setP v n vals lat).teamOf v).p = (s.teamOf v).p.set n (predicateColumn ((s.teamOf v).p.getD n []) vals) ∧
      ((s.setP v n vals lat).teamOf v).v = (s.teamOf v).v ∧
      ((s.setP v n vals lat).pathOf v).s = (s.pathOf v).s ∧ ((s.setP v n vals lat).pathOf v).cond = (s.pathOf v).cond ∧
      (s.setP v n vals lat).modesOf v = s.modesOf v ∧
      v.outside ((s.setP v n vals lat).teamOf v).unvector = v.outside (s.teamOf v).unvector := by
  rw [State.setP_eq s v n vals lat hn]
  have hq := View.lagSlices_keeps v (s.pathOf v) (128 + n) lat false (fun l => if ((s.teamOf v).p.getD n []).getD l false then 1 else 0)
  generalize v.lagSlices (s.pathOf v) (128 + n) lat false _ = q at hq ⊢
  have hc := Team.clash_keeps ({ s.teamOf v with p := (s.teamOf v).p.set n (predicateColumn ((s.teamOf v).p.getD n []) vals) } : Team) v (128 + n) (vals.map (·.1))
  have ho := View.outside_unvector_clash v ({ s.teamOf v with p := (s.teamOf v).p.set n (predicateColumn ((s.teamOf v).p.getD n []) vals) } : Team) (128 + n) (vals.map (·.1))
  generalize hT : Team.clash _ v (128 + n) (vals.map (·.1)) = T at hc ho ⊢
  have hTv := State.teamOf_putPath_vectors (s.setTeam v.core v.slot T) v q
  have hTr := State.pathOf_putPath_regs (s.setTeam v.core v.slot T) v q
  rw [State.teamOf_setTeam] at hTv
  refine ⟨?_, ?_, ?_, ?_, ?_, ?_, ?_⟩
  · refine (State.Within.setTeam v s _ ?_).trans (State.Within.putPath v _ q)
    exact hc.2.2.2.2.2.1
  · rw [hTv.2]; exact hc.2.1
  · rw [hTv.1]; exact hc.1
  · rw [hTr.1, hq.1]
  · rw [hTr.2.1, hq.2.1]
  · exact State.modesOf_putTeam s v _ q hq.2.2
  · rw [View.outside_unvector_congr v (View.outside_putPath _ v q), State.teamOf_setTeam]
    exact ho

theorem predicateColumn_map (g : Nat → Bool) (ls : List Nat) (col : List Bool) (l : Nat) (hl : ∀ k ∈ ls, k < col.length) :
    (predicateColumn col (ls.map fun k => (k, g k))).getD l false =
      if l ∈ ls then g l else col.getD l false := by
  induction ls generalizing col with
  | nil => simp [predicateColumn]
  | cons k ls ih =>
    have hk : k < col.length := hl k (by simp)
    have h1 : predicateColumn col ((k :: ls).map fun k => (k, g k)) = predicateColumn (col.set k (g k)) (ls.map fun k => (k, g k)) := rfl
    rw [h1]
    rw [ih _ (by intro m hm; rw [List.length_set]; exact hl m (by simp [hm]))]
    by_cases hm : l ∈ ls
    · simp [hm]
    · by_cases hlk : l = k
      · subst hlk; simp [hm, hk]
      · simp [hm, hlk, Ne.symm hlk]

/-- Every word whose effect is one predicate write in its active lanes has the result shape. -/
theorem predicateResult_of {i : Instr} {n lat : Nat} {f : State → View → Nat → Bool}
    (h : ∀ s, exec i s = issueWord i (fun s v => .done (s.setP v n (v.active.map fun l => (l, f s v l)) lat)) s) :
    PredicateResult i n f := by
  intro s v hi hn hcol
  have hv := hi.1
  refine ⟨_, by rw [h]; exact issueWord_done hi rfl, ?_⟩
  have hA := State.atIssue_spec hv
  by_cases h7 : n = 7
  · have hu : (s.atIssue v).setP v n (v.active.map fun l => (l, f (s.atIssue v) v l)) lat = s.atIssue v := by
      unfold State.setP; rw [if_pos h7]
    rw [hu]
    obtain ⟨r1, r2, r3, r4, q1, q2, q3, q4⟩ := finish_registers (u := s.atIssue v) i hv
    have hin := State.Within.atIssue hv
    refine ⟨fun l _ => ?_, fun l _ => ?_, ?_, ?_, ?_, ?_, ?_, fun hst => ⟨keepsPackage_finish hv hin hst, keepsDirty_finish hv hin rfl hst, ?_⟩⟩
    · rw [if_pos h7, r4, q4, hA.2.1]
    · rw [r4, q4, hA.2.1]
    · intro n _ l; rw [r4, q4, hA.2.1]
    · intro r _ l; rw [r3, q3, hA.1]
    · intro n _; rw [r1, q1, hA.2.2.1]
    · intro n _; rw [r2, q2, hA.2.2.2.1]
    · exact keepsModes_of_modesOf ((State.modesOf_finish _ v i).trans (State.modesOf_atIssue s v))
    · unfold SameTeamBut
      have h1 := View.outside_unvector_congr v (outside_finish (i := i) hv hin hst)
      have h2 : v.outside ((s.atIssue v).teamOf v) = v.outside (s.teamOf v) := by
        rw [(State.atIssue_frame hv).2.2.2.1, State.view_teamOf hv]
      exact h1.trans (View.outside_unvector_congr v h2)
  · obtain ⟨hw, hpp, hvv, hs, hc, hm, ho⟩ := State.setP_spec (s.atIssue v) v n (v.active.map fun l => (l, f (s.atIssue v) v l)) lat h7
    have hk : KeepsDirty v (s.atIssue v) ((s.atIssue v).setP v n (v.active.map fun l => (l, f (s.atIssue v) v l)) lat) := by
      rw [State.setP_eq _ _ _ _ _ h7]
      exact (KeepsDirty.setTeam v _ _).trans (KeepsDirty.putPath v _ _)
    generalize hu : (s.atIssue v).setP v n (v.active.map fun l => (l, f (s.atIssue v) v l)) lat = u at hw hvv hpp hs hc hm ho hk ⊢
    obtain ⟨r1, r2, r3, r4, q1, q2, q3, q4⟩ := finish_registers (u := u) i hv
    have hin := (State.Within.atIssue hv).trans hw
    have hpd : ∀ l, (u.finish v i).pAt v n l = if l ∈ v.active then f (s.atIssue v) v l else s.pAt v n l := by
      intro l
      rw [r4, q4, hpp, hA.2.1, getD_set_self _ _ _ _ hn]
      rw [predicateColumn_map _ _ _ _ (by intro k hk; rw [hcol]; exact v.active_lt hk)]
    refine ⟨fun l hl => ?_, fun l hl => ?_, ?_, ?_, ?_, ?_, ?_, fun hst => ⟨keepsPackage_finish hv hin hst, keepsDirty_finish hv hin hk hst, ?_⟩⟩
    · rw [if_neg h7, hpd, if_pos hl]
    · rw [hpd, if_neg hl]
    · intro r hr l
      rw [r4, q4, hpp, hA.2.1, getD_set_other _ _ _ (by simpa using hr)]
    · intro r _ l; rw [r3, q3, hvv, hA.1]
    · intro n _; rw [r1, q1, hs, hA.2.2.1]
    · intro n _; rw [r2, q2, hc, hA.2.2.2.1]
    · exact keepsModes_of_modesOf ((State.modesOf_finish _ v i).trans (hm.trans (State.modesOf_atIssue s v)))
    · unfold SameTeamBut
      have h1 := View.outside_unvector_congr v (outside_finish (i := i) hv hin hst)
      have h2 : v.outside ((s.atIssue v).teamOf v) = v.outside (s.teamOf v) := by
        rw [(State.atIssue_frame hv).2.2.2.1, State.view_teamOf hv]
      exact h1.trans (ho.trans (View.outside_unvector_congr v h2))

end Sys2Proof.Machine
end

