-- ==== Sys2Proof/Laws/Effects.lean ====
section
/-!
SUPPORT. The result shapes of Safety for pairs, floating-point words and words that post an operation, and the shapes
whose conclusion is the effect itself.
-/

namespace Sys2Proof.Machine

/-! ### Words a runner may not have -/

/-- A word that no runner may have issues from a team. -/
theorem State.Issues.not_run {s : State} {v : View} {i : Instr} (h : s.Issues v i) (hi : runnerMay i = false) : v.run = false := by
  have hd := h.2.2.1
  by_contra hr
  have hr' : v.run = true := by simpa using hr
  unfold State.decodeTrap at hd
  have hm : s.malformed v i = true := by
    unfold State.malformed
    simp [hr', hi]
  simp [hm] at hd

/-! ### Shapes whose conclusion is the effect -/

theorem completes_of {i : Instr} {H : State → View → Prop} {eff : State → View → Effect} {e : State → View → State}
    (h : ∀ s, exec i s = issueWord i eff s) (he : ∀ s v, H s v → eff s v = .done (e s v)) : Completes i H e := by
  intro s v hi hH
  rw [h]; exact issueWord_done hi (he _ _ hH)

theorem transfers_of {i : Instr} {H : State → View → Prop} {eff : State → View → Effect} {e : State → View → State}
    {pc : State → View → Nat} (h : ∀ s, exec i s = issueWord i eff s) (he : ∀ s v, H s v → eff s v = .jump (e s v) (pc s v)) :
    Transfers i H e pc := by
  intro s v hi hH
  rw [h]; exact issueWord_jump hi (he _ _ hH)

theorem traps_of {i : Instr} {H : State → View → Prop} {eff : State → View → Effect} {cause : BitVec 8}
    {fault : State → View → DWord} {aux : State → View → Word} (h : ∀ s, exec i s = issueWord i eff s)
    (he : ∀ s v, H s v → eff s v = .trap cause (fault s v) (aux s v)) : Traps i H cause fault aux := by
  intro s v hi hH
  rw [h]; exact issueWord_trap hi (he _ _ hH)

theorem waits_of {i : Instr} {H : State → View → Prop} {eff : State → View → Effect} {e : State → View → State} {r : Nat}
    (h : ∀ s, exec i s = issueWord i eff s) (he : ∀ s v, H s v → eff s v = .wait (e s v) r) : Waits i H e r := by
  intro s v hi hH
  rw [h]; exact issueWord_wait hi (he _ _ hH)

theorem ends_of {i : Instr} {H : State → View → Prop} {eff : State → View → Effect} {e : State → View → State}
    (h : ∀ s, exec i s = issueWord i eff s) (he : ∀ s v, H s v → eff s v = .ended (e s v)) : Ends i H e := by
  intro s v hi hH
  rw [h]; exact issueWord_ended hi (he _ _ hH)

/-! ### Pairs -/

/-- Every word whose effect is one scalar pair has the result shape. -/
theorem pairResult_of {i : Instr} {d lat : Nat} {f : State → View → DWord}
    (h : ∀ s, exec i s = issueWord i (fun s v => .done (s.setSPair v d (f s v) lat)) s) (hd63 : ∀ (s : State) (v : View), s.Issues v i → v.run = false → d ≠ 63) :
    PairResult i d f := by
  intro s v hi hd
  have hv := hi.1
  refine ⟨_, by rw [h]; exact issueWord_done hi rfl, ?_⟩
  unfold State.setSPair
  generalize hx : f (s.atIssue v) v = x
  have hk := (KeepsDirty.setS v (s.atIssue v) d (x.setWidth 32) lat).trans (KeepsDirty.setS v _ (d + 1) ((x >>> 32).setWidth 32) lat)
  obtain ⟨hw1, hs1, hc1, hvv1, hpp1, hm1, ho1⟩ := State.setS_spec (s.atIssue v) v d (x.setWidth 32) lat
  generalize hu1 : (s.atIssue v).setS v d (x.setWidth 32) lat = u1 at hw1 hs1 hc1 hvv1 hpp1 hm1 ho1 hk ⊢
  obtain ⟨hw2, hs2, hc2, hvv2, hpp2, hm2, ho2⟩ := State.setS_spec u1 v (d + 1) ((x >>> 32).setWidth 32) lat
  generalize hu : u1.setS v (d + 1) ((x >>> 32).setWidth 32) lat = u at hw2 hs2 hc2 hvv2 hpp2 hm2 ho2 hk ⊢
  have hA := State.atIssue_spec hv
  obtain ⟨r1, r2, r3, r4, q1, q2, q3, q4⟩ := finish_registers (u := u) i hv
  have hin := ((State.Within.atIssue hv).trans hw1).trans hw2
  have hne : ¬ (v.run = false ∧ d = 63) := by
    rintro ⟨h0, h63⟩
    exact hd63 s v hi h0 h63
  rw [if_neg hne, hA.2.2.1] at hs1
  rw [hs1] at hs2
  have hlen : d < v.path.s.length := by omega
  have hlen2 : d + 1 < (v.path.s.set d (x.setWidth 32)).length := by rw [List.length_set]; exact hd
  refine ⟨?_, ?_, ?_, ?_, ?_, ?_, ?_, fun hst => ⟨keepsPackage_finish hv hin hst, keepsDirty_finish hv hin hk hst, ?_⟩⟩
  · rw [r1, hs2]
    split
    · rw [wordAt_set _ _ _ _ hlen, if_pos rfl]
    · rw [wordAt_set_other _ _ (by omega), wordAt_set _ _ _ _ hlen, if_pos rfl]
  · rw [r1, hs2]
    split
    · rename_i h'
      rw [wordAt_set_other _ _ (by omega), q1, h'.2]
    · rw [wordAt_set _ _ _ _ hlen2, if_pos rfl]
  · intro n hn
    have hn1 : n ≠ d := by simp at hn; omega
    have hn2 : n ≠ d + 1 := by simp at hn; omega
    rw [r1, q1, hs2]
    split
    · exact wordAt_set_other _ _ hn1
    · rw [wordAt_set_other _ _ hn2, wordAt_set_other _ _ hn1]
  · intro n _; rw [r2, q2, hc2, hc1, hA.2.2.2.1]
  · intro r _ l; rw [r3, q3, hvv2, hvv1, hA.1]
  · intro n _ l; rw [r4, q4, hpp2, hpp1, hA.2.1]
  · exact keepsModes_of_modesOf ((State.modesOf_finish _ v i).trans (hm2.trans (hm1.trans (State.modesOf_atIssue s v))))
  · rw [outside_finish hv hin hst, ho2, ho1, (State.atIssue_frame hv).2.2.2.1]

/-- Every word whose effect is one vector pair in its active lanes has the result shape. -/
theorem vectorPairResult_of {i : Instr} {d lat : Nat} {last : Bool} {f : State → View → Nat → DWord}
    (h : ∀ s, exec i s = issueWord i (fun s v => .done (s.setVPair v d (v.active.map fun l => (l, f s v l)) lat last)) s) :
    VectorPairResult i d f := by
  intro s v hi hcol hcol1
  have hv := hi.1
  refine ⟨_, by rw [h]; exact issueWord_done hi rfl, ?_⟩
  have hu0 : (s.atIssue v).setVPair v d (v.active.map fun l => (l, f (s.atIssue v) v l)) lat last =
      ((s.atIssue v).setV v d (v.active.map fun l => (l, (f (s.atIssue v) v l).setWidth 32)) lat last).setV v (d + 1)
        (v.active.map fun l => (l, (f (s.atIssue v) v l >>> 32).setWidth 32)) lat last := by
    unfold State.setVPair
    rw [List.map_map, List.map_map]
    rfl
  rw [hu0]
  generalize f (s.atIssue v) v = x
  obtain ⟨hw1, hvv1, hpp1, hs1, hc1, hm1, ho1⟩ := State.setV_spec (s.atIssue v) v d (v.active.map fun l => (l, (x l).setWidth 32)) lat last
  generalize hu1 : (s.atIssue v).setV v d (v.active.map fun l => (l, (x l).setWidth 32)) lat last = u1 at hw1 hvv1 hpp1 hs1 hc1 hm1 ho1 ⊢
  obtain ⟨hw2, hvv2, hpp2, hs2, hc2, hm2, ho2⟩ := State.setV_spec u1 v (d + 1) (v.active.map fun l => (l, (x l >>> 32).setWidth 32)) lat last
  generalize hu : u1.setV v (d + 1) (v.active.map fun l => (l, (x l >>> 32).setWidth 32)) lat last = u at hw2 hvv2 hpp2 hs2 hc2 hm2 ho2 ⊢
  have hA := State.atIssue_spec hv
  obtain ⟨r1, r2, r3, r4, q1, q2, q3, q4⟩ := finish_registers (u := u) i hv
  have hin := ((State.Within.atIssue hv).trans hw1).trans hw2
  rw [hA.1] at hvv1
  rw [hvv1] at hvv2
  have hb : ∀ k ∈ v.active, k < (v.team.v.getD d []).length := by intro k hk; rw [hcol.2]; exact v.active_lt hk
  have hb1 : ∀ k ∈ v.active, k < (v.team.v.getD (d + 1) []).length := by intro k hk; rw [hcol1.2]; exact v.active_lt hk
  have hd0 : ∀ l, (u.finish v i).vAt v d l = if l ∈ v.active then (x l).setWidth 32 else s.vAt v d l := by
    intro l
    rw [r3, q3, hvv2, getD_set_other _ _ _ (by omega), getD_set_self _ _ _ _ hcol.1, column_map _ _ _ _ hb]
  have hd1 : ∀ l, (u.finish v i).vAt v (d + 1) l = if l ∈ v.active then (x l >>> 32).setWidth 32 else s.vAt v (d + 1) l := by
    intro l
    rw [r3, q3, hvv2, getD_set_self _ _ _ _ (by rw [List.length_set]; exact hcol1.1), getD_set_other _ _ _ (by omega), column_map _ _ _ _ hb1]
  refine ⟨fun l hl => ?_, fun l hl => ?_, ?_, ?_, ?_, ?_, ?_, fun hst => ⟨keepsPackage_finish hv hin hst, ?_⟩⟩
  · rw [hd0, hd1, if_pos hl, if_pos hl]; exact ⟨rfl, rfl⟩
  · rw [hd0, hd1, if_neg hl, if_neg hl]; exact ⟨rfl, rfl⟩
  · intro r hr l
    have h1 : r ≠ d := by simp at hr; omega
    have h2 : r ≠ d + 1 := by simp at hr; omega
    rw [r3, q3, hvv2, getD_set_other _ _ _ h2, getD_set_other _ _ _ h1]
  · intro n _; rw [r1, q1, hs2, hs1, hA.2.2.1]
  · intro n _; rw [r2, q2, hc2, hc1, hA.2.2.2.1]
  · intro n _ l; rw [r4, q4, hpp2, hpp1, hA.2.1]
  · exact keepsModes_of_modesOf ((State.modesOf_finish _ v i).trans (hm2.trans (hm1.trans (State.modesOf_atIssue s v))))
  · unfold SameTeamBut
    have h1 := View.outside_unvector_congr v (outside_finish (i := i) hv hin hst)
    have h2 : v.outside ((s.atIssue v).teamOf v) = v.outside (s.teamOf v) := by
      rw [(State.atIssue_frame hv).2.2.2.1, State.view_teamOf hv]
    exact h1.trans (ho2.trans (ho1.trans (View.outside_unvector_congr v h2)))

/-! ### Floating point -/

theorem State.raiseFlags_spec (s : State) (v : View) (n : Nat) :
    State.Within v s (s.raiseFlags v n) ∧ ((s.raiseFlags v n).teamOf v).v = (s.teamOf v).v ∧
      ((s.raiseFlags v n).teamOf v).p = (s.teamOf v).p ∧ ((s.raiseFlags v n).pathOf v).s = (s.pathOf v).s ∧
      ((s.raiseFlags v n).pathOf v).cond = (s.pathOf v).cond ∧
      (v.run = false → ((s.raiseFlags v n).pathOf v).fpflags = (s.pathOf v).fpflags ||| BitVec.ofNat 32 n ∧
        ((s.raiseFlags v n).pathOf v).fpmode = (s.pathOf v).fpmode ∧ ((s.raiseFlags v n).pathOf v).mask = (s.pathOf v).mask ∧
        ((s.raiseFlags v n).pathOf v).tick = (s.pathOf v).tick) ∧
      v.outside ((s.raiseFlags v n).teamOf v) = v.outside (s.teamOf v) := by
  unfold State.raiseFlags State.modPath
  have hr := State.pathOf_putPath_regs s v { s.pathOf v with fpflags := (s.pathOf v).fpflags ||| BitVec.ofNat 32 n }
  have hv := State.teamOf_putPath_vectors s v { s.pathOf v with fpflags := (s.pathOf v).fpflags ||| BitVec.ofNat 32 n }
  refine ⟨State.Within.putPath v s _, hv.1, hv.2, hr.1, hr.2.1, fun h => ?_, View.outside_putPath s v _⟩
  rw [State.pathOf_putPath _ _ _ h]
  exact ⟨rfl, rfl, rfl, rfl⟩

/-- Every word whose effect is floating-point results in its active lanes has the result shape. -/
theorem floatResult_of {i : Instr} {d lat : Nat} {last : Bool} {f : State → View → Nat → Word × Nat} (hrun : runnerMay i = false)
    (h : ∀ s, exec i s = issueWord i (fun s v => s.setFp v d (v.active.map fun l => (l, f s v l)) lat last) s) : FloatResult i d f := by
  refine ⟨?_, ?_⟩
  · intro s v hi _ hcol hen
    have hv := hi.1
    have hvr := hi.not_run hrun
    have he : (s.atIssue v).setFp v d (v.active.map fun l => (l, f (s.atIssue v) v l)) lat last =
        .done (((s.atIssue v).setV v d (v.active.map fun l => (l, (f (s.atIssue v) v l).1)) lat last).raiseFlags v
          (v.flagsOf (f (s.atIssue v) v))) := by
      unfold State.setFp
      unfold View.flagsOf at hen ⊢
      simp only [hen, Bool.false_eq_true, if_false, List.map_map]
      rfl
    refine ⟨_, by rw [h]; exact issueWord_done hi he, ?_⟩
    generalize f (s.atIssue v) v = x
    obtain ⟨hw1, hvv1, hpp1, hs1, hc1, hm1, ho1⟩ := State.setV_spec (s.atIssue v) v d (v.active.map fun l => (l, (x l).1)) lat last
    generalize hu1 : (s.atIssue v).setV v d (v.active.map fun l => (l, (x l).1)) lat last = u1 at hw1 hvv1 hpp1 hs1 hc1 hm1 ho1 ⊢
    obtain ⟨hw2, hvv2, hpp2, hs2, hc2, hf2, ho2⟩ := State.raiseFlags_spec u1 v (v.flagsOf x)
    generalize hu : u1.raiseFlags v (v.flagsOf x) = u at hw2 hvv2 hpp2 hs2 hc2 hf2 ho2 ⊢
    have hA := State.atIssue_spec hv
    obtain ⟨r1, r2, r3, r4, q1, q2, q3, q4⟩ := finish_registers (u := u) i hv
    have hin := ((State.Within.atIssue hv).trans hw1).trans hw2
    have hmA := State.modesOf_atIssue s v
    simp only [State.modesOf, Prod.mk.injEq] at hm1 hmA
    have hmF := State.modesOf_finish u v i
    simp only [State.modesOf, Prod.mk.injEq] at hmF
    have hp0 := State.view_pathOf hv
    obtain ⟨hf, hmode, hmask, htick⟩ := hf2 hvr
    have hvd : ∀ l, (u.finish v i).vAt v d l = if l ∈ v.active then (x l).1 else s.vAt v d l := by
      intro l
      rw [r3, q3, hvv2, hvv1, hA.1, getD_set_self _ _ _ _ hcol.1]
      rw [column_map _ _ _ _ (by intro k hk; rw [hcol.2]; exact v.active_lt hk)]
    refine ⟨fun l hl => ?_, fun l hl => ?_, ?_, ?_, ?_, ?_, ?_, ?_, ?_, fun hst => ⟨keepsPackage_finish hv hin hst, ?_⟩⟩
    · rw [hvd, if_pos hl]
    · rw [hvd, if_neg hl]
    · rw [hmF.2.2.1, hf, hm1.2.2.1, hmA.2.2.1, hp0]
    · rw [hmF.2.1, hmode, hm1.2.1, hmA.2.1, hp0]
    · rw [hmF.1, hmask, hm1.1, hmA.1, hp0]
    · intro r hr l
      rw [r3, q3, hvv2, hvv1, hA.1, getD_set_other _ _ _ (by simpa using hr)]
    · intro n _; rw [r1, q1, hs2, hs1, hA.2.2.1]
    · intro n _; rw [r2, q2, hc2, hc1, hA.2.2.2.1]
    · intro n _ l; rw [r4, q4, hpp2, hpp1, hA.2.1]
    · unfold SameTeamBut
      have h1 := View.outside_unvector_congr v (outside_finish (i := i) hv hin hst)
      have h2 : v.outside ((s.atIssue v).teamOf v) = v.outside (s.teamOf v) := by
        rw [(State.atIssue_frame hv).2.2.2.1, State.view_teamOf hv]
      exact h1.trans ((View.outside_unvector_congr v ho2).trans (ho1.trans (View.outside_unvector_congr v h2)))
  · intro s v hi _ hen
    have he : (s.atIssue v).setFp v d (v.active.map fun l => (l, f (s.atIssue v) v l)) lat last = .trapFp (v.flagsOf (f (s.atIssue v) v)) := by
      unfold State.setFp
      unfold View.flagsOf at hen ⊢
      simp only [hen, if_true]
    rw [h, issueWord_of_issues _ hi, he]
    rfl

/-! ### Operations posted -/

/-- A posted operation: the team's list, the core's count of operations, and nothing else. -/
theorem State.addOp_spec (s : State) (v : View) (code : Nat) (kind : OpKind) (charged : List Nat) :
    ((s.addOp v code kind charged).teamOf v) = { s.teamOf v with ops := (s.teamOf v).ops ++
        [⟨(s.core v.core).nextOp, code, (s.pathOf v).pc, (s.pathOf v).word, v.side, (s.pathOf v).pid, (s.pathOf v).pid, v.run, kind,
          false, false, false, [], charged, v.time + v.lastPass, [], [], []⟩] } ∧
      ((s.addOp v code kind charged).core v.core).nextOp = (s.core v.core).nextOp + 1 ∧
      (s.addOp v code kind charged).pathOf v = s.pathOf v ∧ (s.addOp v code kind charged).mem = s.mem ∧
      (s.addOp v code kind charged).hostMem = s.hostMem := by
  have ht : (s.setCore v.core { s.core v.core with nextOp := (s.core v.core).nextOp + 1 }).teamOf v = s.teamOf v := by
    simp [State.teamOf, State.team]
  have h1 : ((s.addOp v code kind charged).teamOf v) = { s.teamOf v with ops := (s.teamOf v).ops ++
        [⟨(s.core v.core).nextOp, code, (s.pathOf v).pc, (s.pathOf v).word, v.side, (s.pathOf v).pid, (s.pathOf v).pid, v.run, kind,
          false, false, false, [], charged, v.time + v.lastPass, [], [], []⟩] } := by
    unfold State.addOp
    rw [State.teamOf_modTeam, ht]
  refine ⟨h1, ?_, ?_, rfl, rfl⟩
  · unfold State.addOp State.modTeam State.setTeam
    simp
  · unfold State.pathOf
    rw [h1]
    rfl

end Sys2Proof.Machine
end

