-- ==== Sys2Proof/Laws/Fabric.lean ====
section
/-!
SUPPORT. What R15 and R270 say of the loops of a die, whatever membership `Config.loops` holds (log 76).
-/

namespace Sys2Proof.Machine

theorem someLoops_fit : loopsFit someLoops = true := by decide +kernel

/-- The membership of a die has the form of R15 and R270: twelve loops a stop, nine or eight stops a loop, a loop for every pair. -/
theorem loopTable_fits (d : Nat) : loopsFit (loopTable d) = true := by
  unfold loopTable
  dsimp only
  split
  · assumption
  · exact someLoops_fit

/-- Every stop sits on twelve of the 64 loops, each named once. -/
theorem loopsOf_twelve (d stop : Nat) (h : stop < stopCount) :
    (loopsOf d stop).length = 12 ∧ (loopsOf d stop).eraseDups.length = 12 ∧ ∀ n ∈ loopsOf d stop, n < 64 := by
  have fits := loopTable_fits d
  simp only [loopsFit, Bool.and_eq_true] at fits
  obtain ⟨⟨⟨⟨hl, hr⟩, -⟩, -⟩, -⟩ := fits
  have hm : loopsOf d stop ∈ loopTable d := by
    unfold loopsOf
    rw [List.getD_eq_getElem _ _ (by rw [beq_iff_eq.mp hl]; exact h)]
    exact List.getElem_mem _
  have := List.all_eq_true.mp hr _ hm
  simp only [Bool.and_eq_true, beq_iff_eq, List.all_eq_true, decide_eq_true_eq] at this
  exact ⟨this.1.1, this.1.2, this.2⟩

/-- Two stops of a die share a loop. -/
theorem loopsOf_meet (d a b : Nat) (ha : a < stopCount) (hb : b < stopCount) : ∃ n, n ∈ loopsOf d a ∧ n ∈ loopsOf d b := by
  have fits := loopTable_fits d
  simp only [loopsFit, Bool.and_eq_true] at fits
  obtain ⟨⟨⟨⟨hl, -⟩, -⟩, -⟩, hp⟩ := fits
  have mem : ∀ p, p < stopCount → loopsOf d p ∈ loopTable d := fun p hp => by
    unfold loopsOf
    rw [List.getD_eq_getElem _ _ (by rw [beq_iff_eq.mp hl]; exact hp)]
    exact List.getElem_mem _
  have := List.all_eq_true.mp (List.all_eq_true.mp hp _ (mem a ha)) _ (mem b hb)
  simpa using this

end Sys2Proof.Machine
end

