-- ==== Sys2Proof/Tests/Slice0.lean ====
section
/-!
SUPPORT. Tests: words written out from the spec's encoding tables, a term that each well-formedness check refuses, one
step of an instruction here and there, and for each statement a state that meets its hypotheses (`test_meets_…`).
Expected results come from the spec's rules and worked encodings, named beside each test.
-/

namespace Sys2Proof.Tests
open Sys2Proof Sys2Proof.Machine

set_option maxRecDepth 100000

/-! ### Small states -/

/-- One team of 32 lanes at packet 0 of its image on core 0, slot 0, of context 0 (log 14). -/
def base : State := State.reset.withFetchWord 32 0

/-- `base` with its team, or the path A of it, changed. -/
def withTeam (f : Team → Team) : State :=
  match base.team 0 0 with
  | some t => base.setTeam 0 0 (f t)
  | none => base

def withPath (f : Path → Path) : State := withTeam fun t => { t with pathA := t.pathA.map f }

/-- `base` with values in scalar registers. -/
def withScalars (l : List (Nat × Word)) : State := withPath fun p => { p with s := l.foldl (fun s e => s.set e.1 e.2) p.s }

/-- `base` with one value in every lane of a vector register. -/
def withVectors (l : List (Nat × Word)) : State := withTeam fun t =>
  { t with v := l.foldl (fun v e => v.set e.1 (List.replicate 32 e.2)) t.v }

/-- `base` with predicate 1 true in lane 0 alone. -/
def withLane0 : State := withTeam fun t => { t with p := t.p.set 1 (true :: List.replicate 31 false) }

/-- The core's ladle of context 0 holds granules of both dies. -/
def filled (s : State) : State :=
  s.setCore 0 { s.core 0 with ladles := [⟨0, 4096, 4096, 0, 0, false⟩] }

def issuesWith (s : State) (i : Instr) (P : State → View → Prop) [∀ s v, Decidable (P s v)] : Bool :=
  match s.view.map (s.paced · i) with
  | some v => decide (s.Issues v i ∧ P (s.atIssue v) v)
  | none => false

/-- Some view of a state issues a word and has a property. -/
def Meets (s : State) (i : Instr) (P : State → View → Prop) : Prop := ∃ v, s.Issues v i ∧ P (s.atIssue v) v

theorem witness {s : State} {i : Instr} {P : State → View → Prop} [∀ s v, Decidable (P s v)] (h : issuesWith s i P = true) :
    Meets s i P := by
  unfold issuesWith at h
  split at h
  · exact ⟨_, of_decide_eq_true h⟩
  · cases h

/-- A step of a state answers a next state with a property. -/
def nextWith (r : Result) (P : State → Bool) : Bool :=
  match r with
  | .next t => P t
  | _ => false

/-- A state none of whose listed pages is replicated has none that is. -/
theorem unreplicated (s : State) (h : (s.pages.all fun e => !e.2.replicated) = true) (pg : Nat) : (s.page pg).replicated = false := by
  unfold State.page
  cases k : Table.get s.pages pg with
  | none => rfl
  | some p => simpa using List.all_eq_true.mp h (pg, p) (Table.mem_of_get k)

/-! ### Decoding: the spec's worked encodings -/

/-- Chapter 04, worked encodings: VFADD v3, v1, v2. -/
theorem test_worked_vfadd : decodeWord 0x080C1080 = .ok (.vfadd 0 0 3 1 2 0) := by decide

/-- Chapter 04, worked encodings: VFMUL v4, v3, s7 ~3. -/
theorem test_worked_vfmul : decodeWord 0x681031D2 = .ok (.vfmul 0 3 4 3 7 1) := by decide

/-- Chapter 04, worked encodings: VADD v5, v5, sp1.2. -/
theorem test_worked_vadd : decodeWord 0x05145160 = .ok (.vadd 0 0 5 5 5 2) := by decide

/-- Chapter 04, worked encodings: SADDI s4, s4, 0x1_2345, its second word. -/
theorem test_worked_saddi : decodeWord 0x03104345 = .ok (.saddi 0 0 4 4 0x345) := by decide

/-- Chapter 04, worked encodings: the EXT of SADDI s4, s4, 0x1_2345. -/
theorem test_worked_ext : decodeWord 0x1A000012 = .ok (.ext 0x12) := by decide

/-- R119: SADD s3, s1, s2. -/
theorem test_worked_sadd : decodeWord 0x020C1080 = .ok (.sadd 0 0 3 1 2 0) := by decide

/-- R121: SCMP c1, LT, s4, 5. -/
theorem test_worked_scmp : decodeWord 0x0250417F = .ok (.scmp 0 0 1 2 4 5 3) := by decide

/-- R122: SMOVI s6, -1. -/
theorem test_worked_smovi : decodeWord 0x041BFFFF = .ok (.smovi 0 0 6 0x3FFFF) := by decide

/-- R161: LDG.B32 v8, [v4+16]. -/
theorem test_worked_ldg : decodeWord 0x10204104 = .ok (.ldg 0 0 8 4 4 0 4) := by decide

/-- R163: LDU.B64 s10, [s6+8]. -/
theorem test_worked_ldu : decodeWord 0x1C286045 = .ok (.ldu 0 0 10 6 1 0 5) := by decide

/-- R164: STG.E4M3X4 [v6+8], v20. -/
theorem test_worked_stg : decodeWord 0x1150608C = .ok (.stg 0 0 20 6 2 0 12) := by decide

/-- R167: LDS.R.B32 v3, [v2], dx=1, dy=-2. -/
theorem test_worked_ldsr : decodeWord 0x120C20F4 = .ok (.ldsR 0 0 3 2 1 14 0) := by decide

/-- R169: ATOM.ADD.RET v10, [v4], rel, device. -/
theorem test_worked_atom : decodeWord 0x142840A2 = .ok (.atomAdd 0 0 10 4 2 4 0 1) := by decide

/-- R186: PGSURR s12, s20, s16. -/
theorem test_worked_pgsurr : decodeWord 0x15398A20 = .ok (.pgsurr 0 0 12 20 16) := by decide

/-- R217: CPY.G2S.Q1 s20, 8. -/
theorem test_worked_cpy : decodeWord 0x17040507 = .ok (.cpyG2s 0 0 1 20 7) := by decide

/-- WAITCYC 3. -/
theorem test_worked_waitcyc : decodeWord 0x00580003 = .ok (.waitcyc 0 0 3) := by decide

/-! ### Decoding: words written field by field, C, S, MAJ and the body (R60, R72 to R76) -/

/-- CTL: BRC. -/
theorem test_decode_brc : decodeWord 0b0_01_0000000010_1_10_1111111111111110 = .ok (.brc 0 1 1 2 65534) := by decide

/-- CTL: SPLIT. -/
theorem test_decode_split : decodeWord 0b0_00_0000000011_101_0000000100100011 = .ok (.split 0 0 5 291) := by decide

/-- SYNC: WAITCI. -/
theorem test_decode_waitci : decodeWord 0b0_00_0000100001_110_0000000000_100001 = .ok (.waitci 0 0 6 33) := by decide

/-- SALU: SADD. -/
theorem test_decode_sadd : decodeWord 0b1_10_00010_010001_101000_010101_00_0000 = .ok (.sadd 1 2 17 40 21 0) := by decide

/-- VUNI: VABS. -/
theorem test_decode_vabs : decodeWord 0b0_00_00110_101000_000000_101111_10_0111 = .ok (.vabs 0 0 40 47 2) := by decide

/-- VMAD: VMAD. -/
theorem test_decode_vmad : decodeWord 0b0_00_00111_001100_000011_001001_111100 = .ok (.vmad 0 0 12 3 9 60) := by decide

/-- VFMA: VFMA. -/
theorem test_decode_vfma : decodeWord 0b0_00_01001_001100_000011_001001_111100 = .ok (.vfma 0 0 12 3 9 60) := by decide

/-- VHP: VHDOT. -/
theorem test_decode_vhdot : decodeWord 0b0_00_01010_000100_000101_000110_00_1_101 = .ok (.vhdot 0 0 4 5 6 0 1) := by decide

/-- VHFMA: VHFMA_HF. -/
theorem test_decode_vhfma_hf : decodeWord 0b0_00_01100_101000_101111_110110_111101 = .ok (.vhfmaHf 0 0 40 47 54 61) := by decide

/-- VCMP: VCMP_U. -/
theorem test_decode_vcmp_u : decodeWord 0b0_00_01101_110_011_001011_110010_11_0001 = .ok (.vcmpU 0 0 6 3 11 50 3) := by decide

/-- VSFU: VRSQ. -/
theorem test_decode_vrsq : decodeWord 0b0_00_01110_001010_000000_010100_00_0001 = .ok (.vrsq 0 0 10 20 0) := by decide

/-- XLN: VSHFLX. -/
theorem test_decode_vshflx : decodeWord 0b0_00_01111_001000_001001_000001_11_0011 = .ok (.vshflx 0 0 8 9 1 3) := by decide

/-- LDG: LDG. -/
theorem test_decode_ldg : decodeWord 0b0_00_10000_010000_001000_111111_01_0110 = .ok (.ldg 0 0 16 8 63 1 6) := by decide

/-- STS: STS. -/
theorem test_decode_sts : decodeWord 0b0_00_10011_000110_000111_000010_00_0_0_10 = .ok (.sts 0 0 6 7 2 0 2) := by decide

/-- ATOM: ATOM_CAS. -/
theorem test_decode_atom_cas : decodeWord 0b0_00_10100_001110_010110_1001_11_100_0_1_0 = .ok (.atomCas 0 0 14 22 3 4 0 1) := by decide

/-- MEMX: TRANS. -/
theorem test_decode_trans : decodeWord 0b0_00_1010100011_011110_010100_011_0000 = .ok (.trans 0 0 30 20 3) := by decide

/-- MTX: MSTREAM. -/
theorem test_decode_mstream : decodeWord 0b0_00_101100100_01001_01000_11111_01011 = .ok (.mstream 0 0 9 8 31 11) := by decide

/-- COL: CAR. -/
theorem test_decode_car : decodeWord 0b0_00_11000001100000000_100000_0000_10 = .ok (.car 0 0 32 2) := by decide

/-- RUNQ: QPUSH. -/
theorem test_decode_qpush : decodeWord 0b0_00_1100100100_001110_11_1_0000000000 = .ok (.qpush 0 0 14 3 1) := by decide

/-- VINTI: VADDI. -/
theorem test_decode_vaddi : decodeWord 0b0_00_11011_101000_101111_000000110110 = .ok (.vaddi 0 0 40 47 54) := by decide

/-- CPY: CPY_SCT. -/
theorem test_decode_cpy_sct : decodeWord 0b0_00_101110100_00_000000_101111_110110 = .ok (.cpySct 0 0 0 47 54) := by decide

/-- Major 0x1D is reserved and 0x1F is firmware (R75); a reserved function of SYNC names no instruction. -/
theorem test_reserved_majors : (decodeWord 0x1D000000).toOption = none ∧ (decodeWord 0x1F000000).toOption = none ∧
    (decodeWord 0x01F00000).toOption = none := by decide

/-- A zero field that is not zero names no instruction (R74): NOP with bit 0 set. -/
theorem test_reserved_zero_field : (decodeWord 0x00000001).toOption = none := by decide

/-- The table numbers a word's bits as the word itself (R60): word 0 is NOP. -/
theorem test_decode_table_word : decodeTableWord 32 0 = some (.nop 0 0) ∧ decodeTableWord 32 0x020C1080 = some (.sadd 0 0 3 1 2 0) := by decide

/-! ### Well-formedness: a term that each check refuses -/

/-- Scalar operands: class 01 (R69, R119), odd pairs (R68, R120), an unnamed special register (R48). -/
theorem test_ill_scalar : (Instr.sadd 0 0 3 1 2 1).wellFormed = false ∧ (Instr.saddw 0 0 3 2 4 0).wellFormed = false ∧
    (Instr.saddw 0 0 2 3 4 0).wellFormed = false ∧ (Instr.saddw 0 0 2 4 5 0).wellFormed = false ∧
    (Instr.srd 0 0 3 26).wellFormed = false ∧ (Instr.swr 0 0 3 26).wellFormed = false ∧
    (Instr.scmp 0 0 1 6 4 5 3).wellFormed = false := by decide

/-- Synchronisation: counter 7 (R52, R112), order 00 and scopes 6 and 7 of a FENCE (R115), odd launch and key pairs. -/
theorem test_ill_sync : (Instr.waitc 0 0 7 3).wellFormed = false ∧ (Instr.waitci 0 0 7 3).wellFormed = false ∧
    (Instr.fence 0 0 0 4).wellFormed = false ∧ (Instr.fence 0 0 3 7).wellFormed = false ∧ (Instr.fence 0 0 2 6).wellFormed = false ∧
    (Instr.launch 0 0 3).wellFormed = false ∧ (Instr.spawn 0 0 2 5 9).wellFormed = false := by decide

/-- Vector operands: odd pairs (R129, R138, R154), ORD and UNO of an integer compare (R143), the VBCAST operand (R151). -/
theorem test_ill_vector : (Instr.vaddw 0 0 3 2 4 0).wellFormed = false ∧ (Instr.vaddw 0 0 2 4 5 0).wellFormed = false ∧
    (Instr.vqfac 0 0 3 1 2 0).wellFormed = false ∧ (Instr.vmredAdd 0 0 3 1 2 0).wellFormed = false ∧
    (Instr.vcmpS 0 0 1 6 2 3 0).wellFormed = false ∧ (Instr.vcmpU 0 0 1 7 2 3 0).wellFormed = false ∧
    (Instr.vbcast 0 0 3 1 2 0).wellFormed = false := by decide

/-- Loads and stores: reserved formats, odd addresses, unaligned data registers (R74, R158, R159, R166). -/
theorem test_ill_memory : (Instr.ldg 0 0 8 4 0 0 15).wellFormed = false ∧ (Instr.ldg 0 0 8 5 0 0 4).wellFormed = false ∧
    (Instr.ldg 0 0 10 4 0 0 6).wellFormed = false ∧ (Instr.stg 0 0 8 4 0 0 1).wellFormed = false ∧
    (Instr.stg 0 0 8 4 0 2 4).wellFormed = false ∧ (Instr.ldu 0 0 8 4 0 0 7).wellFormed = false ∧
    (Instr.lds 0 0 8 4 0 1 3).wellFormed = false ∧ (Instr.sts 0 0 8 4 0 0 1).wellFormed = false ∧
    (Instr.ldsR 0 0 8 4 0 0 3).wellFormed = false ∧ (Instr.stsR 0 0 9 4 0 0 1).wellFormed = false := by decide

/-- Atomics: scopes and orders (R74), an odd address pair, an odd CAS pair, RET of a load and of a store (R169). -/
theorem test_ill_atomics : (Instr.atomAdd 0 0 2 4 0 7 0 0).wellFormed = false ∧ (Instr.atomAdd 0 0 2 4 2 6 0 0).wellFormed = false ∧
    (Instr.atomAdd 0 0 2 5 0 4 0 0).wellFormed = false ∧ (Instr.atomCas 0 0 3 4 0 4 0 0).wellFormed = false ∧
    (Instr.atomLd 0 0 2 4 2 4 0 1).wellFormed = false ∧ (Instr.atomLd 0 0 2 4 0 4 0 0).wellFormed = false ∧
    (Instr.atomSt 0 0 2 4 1 4 0 0).wellFormed = false ∧ (Instr.atomSt 0 0 2 4 0 4 0 1).wellFormed = false := by decide

/-- MEMX and the engines: odd pairs, the reserved predicate of TRANS and reserve of RSVQ, identifier 31, operands past s62. -/
theorem test_ill_engines : (Instr.cwb 0 0 3 4).wellFormed = false ∧ (Instr.trans 0 0 30 20 7).wellFormed = false ∧
    (Instr.transS 0 0 31 20).wellFormed = false ∧ (Instr.rsvq 0 0 4 3).wellFormed = false ∧ (Instr.blkq 0 0 4 3).wellFormed = false ∧
    (Instr.mzero 0 0 31 0 0 4).wellFormed = false ∧ (Instr.mstream 0 0 1 0 0 30).wellFormed = false ∧
    (Instr.cpyG2s 0 0 2 20 7).wellFormed = false ∧ (Instr.cpyFill 0 0 1 58 7).wellFormed = false ∧
    (Instr.cgrp 0 0 21 0).wellFormed = false ∧ (Instr.car 0 0 60 0).wellFormed = false ∧ (Instr.qpop 0 0 3 0).wellFormed = false ∧
    (Instr.qpush 0 0 3 0 0).wellFormed = false := by decide

/-- Events name places of the package (R8, R9). -/
theorem test_ill_events : (Instr.comparatorHit 2304 0 false 0).wellFormed = false ∧ (Instr.comparatorHit 0 16 false 0).wellFormed = false ∧
    (Instr.comparatorHit 0 0 false 8).wellFormed = false ∧ (Instr.dispatchCohort 2 0).wellFormed = false ∧
    (Instr.dispatchCohort 0 12).wellFormed = false := by decide

/-- An ill-formed word raises trap 0x01: SADD of class 01 kills the team, since context 0 has no handler image (R78, R346). -/
theorem test_ill_word_traps :
    nextWith (exec (.sadd 0 0 3 1 2 1) base) (fun t => ((t.team 0 0).map (·.killed)) == some true &&
      bits (t.ctx 0).faultReg.toNat 15 8 == 0x01) = true := by decide

/-! ### States that meet the statements' hypotheses: encodings, the step, memory -/

theorem test_meets_DecodeOfEncode : encode (.sadd 1 2 17 40 21 0) = some 0xC2468540 := by decide

theorem test_meets_EncodeOfDecode : decodeWord 0xC2468540 = .ok (.sadd 1 2 17 40 21 0) := by decide

theorem test_meets_ReservedWordsTrap_words : 0x1D ≤ (field 0x1F000000 24 5).toNat ∧ base.view.isSome = true ∧
    encode (.sadd 0 0 3 1 2 1) = some 0x020C1090 ∧ (Instr.sadd 0 0 3 1 2 1).wellFormed = false ∧
    (base.view.map fun v => decide (base.Views v (.swr 0 0 4 2) ∧ base.frozen v = none ∧ base.malformed v (.swr 0 0 4 2) = false ∧
      base.Views v (.swr 0 0 4 30) ∧ (encode (.swr 0 0 4 2)).isSome = true)) = some true := by decide

/-- A well-formed word that names a register the team does not hold, a barrier past NBAR, an early or a poisoned source. -/
theorem test_meets_ReservedWordsTrap_checks :
    ((withTeam fun t => { t with base := 16, extn := 0, nbar := 2 }).view.map fun v => decide (
      (withTeam fun t => { t with base := 16, extn := 0, nbar := 2 }).frozen v = none ∧
      (withTeam fun t => { t with base := 16, extn := 0, nbar := 2 }).malformed v (.vadd 0 0 20 1 2 0) = false ∧
      ((v.info (.vadd 0 0 20 1 2 0)).reads ++ (v.info (.vadd 0 0 20 1 2 0)).writes).find? (fun r => decide (64 + v.team.held ≤ r) && decide (r < 128)) = some 84 ∧
      (withTeam fun t => { t with base := 16, extn := 0, nbar := 2 }).malformed v (.bar 0 0 5) = false ∧
      barrierOf (.bar 0 0 5) = some 5 ∧ v.team.nbar ≤ 5)) = some true ∧
    ((withTeam fun t => { t with checkSb := true, vpoison := [(1, 0, 9)], pathA := t.pathA.map fun p =>
        { p with lag := [⟨2, 0, 1, [7], 1000, 0, 0⟩] } }).view.map fun v => decide (
      (withTeam fun t => { t with checkSb := true, vpoison := [(1, 0, 9)], pathA := t.pathA.map fun p =>
        { p with lag := [⟨2, 0, 1, [7], 1000, 0, 0⟩] } }).decodeTrap v (.sadd 0 0 3 1 2 0) = none ∧ holdReads (.waitc 0 0 1 2) = true ∧
      (withTeam fun t => { t with checkSb := true }).holds v (.sadd 0 0 3 1 2 0) = none ∧ v.run = false ∧ v.path.exempt = false ∧
      v.tooEarly (.sadd 0 0 3 1 2 0) = some 2 ∧ v.poisoned (.vadd 0 0 20 1 2 0) = some (65, 9))) = some true := by decide

theorem test_meets_StepRunsDecodedWord :
    (({ (State.reset.withFetchWord 32 0x020C1080) with agenda := [], here := ⟨0, 0, false, false⟩ } : State).view.map fun v => decide (v.team.entry = none ∧
      ({ (State.reset.withFetchWord 32 0x020C1080) with agenda := [], here := ⟨0, 0, false, false⟩ } : State).frozen v = none ∧
      ({ (State.reset.withFetchWord 32 0x020C1080) with agenda := [], here := ⟨0, 0, false, false⟩ } : State).comparator v = none ∧
      ({ (State.reset.withFetchWord 32 0x020C1080) with agenda := [], here := ⟨0, 0, false, false⟩ } : State).fetch v v.path.pc v.path.word = .word 0x020C1080 ∧ v.time ≤ (State.reset.withFetchWord 32 0x020C1080).cycle 0)) = some true ∧
    (State.reset.withFetchWord 32 0x020C1080).agenda = [.issue 0 0 false] ∧ (State.reset.withFetchWord 32 0x020C1080).musts = [] ∧
    (State.reset.withFetchWord 32 0x020C1080).lates = [] ∧ (State.reset.withFetchWord 32 0x020C1080).pf.stopped = false := by decide

/-- The very next step runs the placed word: SADDI s4, s4, 5 with s4 = 0. -/
theorem test_step_runs_placed_word :
    nextWith (step (State.reset.withFetchWord 32 0x03104005)) (fun t => ((t.team 0 0).bind (·.pathA)).map (fun p => (wordAt p.s 4, p.word)) == some (5, 1)) = true := by
  decide

theorem test_meets_TurnsOfTheStep :
    ({ base with agenda := [.happen .stageAComplete] } : State).pf.stopped = false ∧ encode .stageAComplete = none ∧
    takeServed [.elapse 1 1 1] = none ∧ servedStopped .stopRelease = true ∧ encode .stopRelease = none ∧
    ({ base with pf := { base.pf with stopped := true } } : State).pf.stopped = true ∧ base.musts ++ base.lates = [] ∧
    (({ base with window := 5 } : State).musts ++ ({ base with window := 5 } : State).lates).head? = some (.happen .replicationWindowClear) ∧
    ({ base with window := 5 } : State).musts.head? = some (.happen .replicationWindowClear) ∧ base.goesOn (.issue 0 0 false) = false ∧
    base.ticksRun = false ∧ ({ base with ticksRun := true } : State).pf.armed = false := by decide

theorem test_meets_FetchReadsCode :
    (base.view.map fun v => decide (v.team.handler = none ∧ 0 < v.team.codesz / 12 ∧ v.team.codesz / 12 ≤ 100 ∧
      base.check v.team.ctx Intent.fetch (v.team.image + 64 + 12 * 0 + 4 * 0) = .found (.dev 0x110040 false false false) ∧
      (base.pf.attMap.getLsbD v.team.ctx = false ∨ v.team.image ∉ (base.ctx v.team.ctx).unmeasured))) = some true := by decide

theorem test_meets_StepKeepsMemoryForm : base.memoryWf = true ∧ nextWith (step base) (fun _ => true) = true := by decide

theorem test_meets_MemoryLaws : Memory.wf [(3, 1), (5, 2)] = true ∧ Memory.write [(3, 1), (5, 2)] 3 0 = [(5, 2)] := by decide

/-- R1: 0x04030201 stored at 0x10 has 0x01 at the lowest address. -/
theorem test_little_endian : Memory.read (Memory.writeList [] 0x10 (leBytes 4 0x04030201)) 0x10 = 1 ∧
    Memory.read (Memory.writeList [] 0x10 (leBytes 4 0x04030201)) 0x13 = 4 := by decide

/-- A line that a die holds of an SWM page: its bytes. -/
theorem test_meets_WrittenBytes : base.memoryWf = true ∧ 0x110100 % 128 + 2 ≤ 128 ∧ base.line 0 (0x110100 / 128) = none ∧
    base.mixed (0x110100 / 65536) = false ∧ (base.writeLoc 0 (.dev 0x110100 true false false) [1, 2]).mixed (0x110100 / 65536) = false ∧
    ((base.writeLoc 0 (.dev 0x110100 true false false) [1, 2]).line 0 (0x110100 / 128)).map (·.data.length) = some 128 := by decide

/-! ### Registers, operands, arithmetic -/

theorem test_meets_FixedLatencyReads : (base.view.map fun v => decide (5 < v.path.s.length ∧ v.run = false ∧ v.time + 4 ≤ 100 ∧ 1 < 4)) = some true := by decide

theorem test_meets_HardwiredRegisters : (base.view.map (·.run)) = some false := by decide

/-- Spine slot 0 of the placed launch is declared: item 1 with a published value of item 0 (R41). -/
def spined : State := withTeam fun t => { t with item := 1 }

theorem test_meets_OperandForms :
    (((spined.setLaunch 0 { bootLaunch with rcd := { bootRecord with ordered := true, nitems := 2 }, spine := [⟨0, 0, 77, false, 0, none⟩] }).team 0 0).map fun t =>
      (spined.setLaunch 0 { bootLaunch with rcd := { bootRecord with ordered := true, nitems := 2 }, spine := [⟨0, 0, 77, false, 0, none⟩] }).spineRead t 0 1) =
      some (.value 77) := by decide

theorem test_meets_ScalarArithmetic : Meets base (.sadd 0 0 4 5 6 0) fun _ v => 4 < v.path.s.length := witness (by decide)

/-- R119: s32(−1) × s32(2) has high word −1; −1 shifted right arithmetically keeps its sign. -/
theorem test_smulh_ssra :
    nextWith (exec (.smulh 0 0 4 1 2 0) (withScalars [(1, 0xFFFFFFFF), (2, 2)])) (fun t => ((t.team 0 0).bind (·.pathA)).map (fun p => wordAt p.s 4) == some 0xFFFFFFFF) = true ∧
    nextWith (exec (.ssra 0 0 4 1 2 0) (withScalars [(1, 0x80000000), (2, 33)])) (fun t => ((t.team 0 0).bind (·.pathA)).map (fun p => wordAt p.s 4) == some 0xC0000000) = true := by
  decide

/-- `base` with another word after the placed one. -/
def withNext (w : Nat) : State := { base with mem := Memory.writeList base.mem 0x110044 (leBytes 4 w) }

theorem test_meets_ScalarWideAndImmediate : Meets base (.saddw 0 0 4 6 8 0) (fun _ v => 5 < v.path.s.length) ∧
    Meets base (.saddi 0 0 4 5 7) (fun _ v => 4 < v.path.s.length) ∧ Meets base (.scmp 0 0 1 2 4 5 3) (fun _ v => 1 < v.path.cond.length) ∧
    Meets (withNext 0x03104345) (.ext 0x12) (fun _ _ => True) :=
  ⟨witness (by decide), witness (by decide), witness (by decide), witness (by decide)⟩

theorem test_meets_VectorIntegers : Meets base (.vadd 0 0 4 5 6 0) (fun _ v => v.hasColumn 4) ∧
    Meets base (.vaddw 0 0 4 6 8 0) (fun _ v => v.hasColumn 4 ∧ v.hasColumn 5) ∧ Meets base (.vmad 0 0 4 5 6 7) (fun _ v => v.hasColumn 4) :=
  ⟨witness (P := fun _ v => 4 < v.team.v.length ∧ (v.team.v.getD 4 []).length = v.team.lanes) (by decide),
   witness (P := fun _ v => (4 < v.team.v.length ∧ (v.team.v.getD 4 []).length = v.team.lanes) ∧ 5 < v.team.v.length ∧ (v.team.v.getD 5 []).length = v.team.lanes) (by decide),
   witness (P := fun _ v => 4 < v.team.v.length ∧ (v.team.v.getD 4 []).length = v.team.lanes) (by decide)⟩

/-- R133: VBFX v3, v4, 0x0810 gives byte 2; R132: VCLZ of 0 is 32. -/
theorem test_vbfx_vclz :
    nextWith (exec (.vbfx 0 0 3 4 5 0) (withVectors [(4, 0x00AB0000), (5, 0x0810)])) (fun t => ((t.team 0 0).map fun t => wordAt (t.v.getD 3 []) 31) == some 0xAB) = true ∧
    nextWith (exec (.vclz 0 0 3 4 0) base) (fun t => ((t.team 0 0).map fun t => wordAt (t.v.getD 3 []) 0) == some 32) = true := by decide

theorem test_meets_PredicatesAndSelect : Meets base (.vcmpS 0 0 2 2 4 5 0) (fun _ v => 2 < v.team.p.length ∧ (v.team.p.getD 2 []).length = v.team.lanes) ∧
    Meets base (.vcmpF 0 0 2 2 4 5 0) (fun s v => v.path.enabled (v.active.foldl (fun n l => n ||| (compareF v.path.env 2 (v.v 4 l) (s.bV v (.fp .fp32) 0 5 l)).2) 0) = false) ∧
    Meets base (.vsel 0 0 4 5 6 0 1) (fun _ v => 4 < v.team.v.length ∧ (v.team.v.getD 4 []).length = v.team.lanes) :=
  ⟨witness (by decide), witness (by decide), witness (by decide)⟩

/-! ### Floating point, packed, SFU, cross-lane -/

/-- With no trap enabled, and with IV enabled (FPMODE[8]) and signalling NaNs: both halves of the statement. -/
theorem test_meets_FloatArithmetic :
    Meets (withVectors [(1, 0x3F800000), (2, 0x40000000)]) (.vfadd 0 0 3 1 2 0) (fun s v => (3 < v.team.v.length ∧ (v.team.v.getD 3 []).length = v.team.lanes) ∧
      v.path.enabled (v.flagsOf fun l => fpWord (fadd .fp32 v.path.env (v.v 1 l).toNat (s.bV v (.fp .fp32) 0 2 l).toNat)) = false) ∧
    Meets (withTeam fun t => { t with v := t.v.set 1 (List.replicate 32 0x7F800001), pathA := t.pathA.map fun p => { p with fpmode := 0x1F0 } })
      (.vfadd 0 0 3 1 2 0) (fun s v => v.path.enabled (v.flagsOf fun l => fpWord (fadd .fp32 v.path.env (v.v 1 l).toNat (s.bV v (.fp .fp32) 0 2 l).toNat)) = true) :=
  ⟨witness (by decide), witness (by decide)⟩

/-- 1 + 2 = 3 exactly, and 2^24 + 1 ties to even (IEEE 754, R86). -/
theorem test_fadd : fadd .fp32 ⟨.rn, false⟩ 0x3F800000 0x40000000 = (0x40400000, 0) ∧
    (fadd .fp32 ⟨.rn, false⟩ 0x4B800000 0x3F800000).1 = 0x4B800000 := by decide

theorem test_meets_FloatConversions :
    Meets base (.vcvtI2f 0 0 3 1 0) (fun s v => (3 < v.team.v.length ∧ (v.team.v.getD 3 []).length = v.team.lanes) ∧
      v.path.enabled (v.flagsOf fun l => fpWord (ofInt v.path.env (s.bV v .int 0 1 l).toInt)) = false) ∧
    Meets (withTeam fun t => { t with v := t.v.set 1 (List.replicate 32 0x01000001), pathA := t.pathA.map fun p => { p with fpmode := 0x1F0 } })
      (.vcvtI2f 0 0 3 1 0) (fun s v => v.path.enabled (v.flagsOf fun l => fpWord (ofInt v.path.env (s.bV v .int 0 1 l).toInt)) = true) ∧
    Fmt.fp32.isNan 0x7FC00000 = true ∧ Fmt.fp32.isNan 0x3F800000 = false ∧ Fmt.fp32.isInf 0x3F800000 = false :=
  ⟨witness (by decide), witness (by decide), by decide, by decide, by decide⟩

theorem test_meets_PackedArithmetic :
    Meets base (.vhadd 0 0 3 1 2 0 0) (fun s v => (3 < v.team.v.length ∧ (v.team.v.getD 3 []).length = v.team.lanes) ∧
      v.path.enabled (v.flagsOf fun l => packed (fadd (halfFmt 0) (v.path.env.half 0)) (v.v 1 l) (s.bV v (.fp (halfFmt 0)) 0 2 l)) = false) ∧
    Meets (withTeam fun t => { t with v := t.v.set 1 (List.replicate 32 0x7F817F81), pathA := t.pathA.map fun p => { p with fpmode := 0x1F0 } })
      (.vhadd 0 0 3 1 2 0 0) (fun s v =>
        v.path.enabled (v.flagsOf fun l => packed (fadd (halfFmt 0) (v.path.env.half 0)) (v.v 1 l) (s.bV v (.fp (halfFmt 0)) 0 2 l)) = true) ∧
    Meets base (.vhneg 0 0 3 1 0 0) (fun _ v => 3 < v.team.v.length ∧ (v.team.v.getD 3 []).length = v.team.lanes) :=
  ⟨witness (by decide), witness (by decide), witness (by decide)⟩

/-- A NaN, a negative operand, 3, and angles below 2^15, at 2^15, between it and 2^16 and above. -/
theorem test_meets_SfuWords_values : Fmt.fp32.isNan 0x7F800001 = true ∧ (0x80800000 : Nat) ≤ 0xC0000000 ∧ (0xC0000000 : Nat) ≤ 0xFF800000 ∧
    Fmt.fp32.value 0x40400000 = .fin false 0xC00000 (-22) ∧ ((-22 : Int) + Nat.log2 0xC00000 < 15) ∧
    Fmt.fp32.value 0x47000000 = .fin false 0x800000 (-8) ∧ ((-8 : Int) + Nat.log2 0x800000 = 15) ∧ powerOfTwo 0x800000 = true ∧
    Fmt.fp32.value 0x47400000 = .fin false 0xC00000 (-8) ∧ powerOfTwo 0xC00000 = false ∧
    Fmt.fp32.value 0x48000000 = .fin false 0x800000 (-6) ∧ (15 < (-6 : Int) + Nat.log2 0x800000) := by decide

/-- R147: the root of 2 rounded to nearest, inexact, and that of 9 exact; upwards, the root of 2 is the next value. -/
theorem test_vsqrt : sfuValue ⟨.rn, false⟩ 2 0x40000000 = (0x3FB504F3, flagNX) ∧ sfuValue ⟨.ru, false⟩ 2 0x40000000 = (0x3FB504F4, flagNX) ∧
    sfuValue ⟨.ru, false⟩ 2 0x41100000 = (0x40400000, 0) := by decide

theorem test_meets_SfuWords : Meets base (.vrcp 0 0 3 1 0) (fun _ _ => True) ∧ Meets base (.vqfac 0 0 4 1 2 0) (fun _ _ => True) :=
  ⟨witness (by decide), witness (by decide)⟩

theorem test_meets_Shuffles : Meets base (.vshfl 0 0 3 1 2 0) (fun _ v => 3 < v.team.v.length ∧ (v.team.v.getD 3 []).length = v.team.lanes) :=
  witness (by decide)

/-- A team of G = 64 for the pair of a ballot; and whole groups for a scan. -/
theorem test_meets_VotesAndReductions :
    Meets base (.vballot 0 0 4 1) (fun _ v => (4 < v.team.v.length ∧ (v.team.v.getD 4 []).length = v.team.lanes) ∧ v.team.group ≤ 32) ∧
    Meets (withTeam fun t => { t with group := 64 }) (.vballot 0 0 4 1) (fun _ v => v.team.group = 64 ∧ 5 < v.team.held ∧
      (5 < v.team.v.length ∧ (v.team.v.getD 5 []).length = v.team.lanes)) ∧
    Meets base (.vany 0 0 1 1) (fun _ v => 1 < v.path.cond.length) ∧
    Meets base (.vmredAdd 0 0 4 1 2 0) (fun _ v => (4 < v.team.v.length ∧ (v.team.v.getD 4 []).length = v.team.lanes) ∧
      5 < v.team.v.length ∧ (v.team.v.getD 5 []).length = v.team.lanes) ∧
    Meets base (.vscanAdd 0 0 4 1 0) (fun _ v => v.team.lanes % v.team.group = 0 ∧ (4 < v.team.v.length ∧ (v.team.v.getD 4 []).length = v.team.lanes) ∧
      bits v.path.fpmode.toNat 8 4 = 0) :=
  ⟨witness (by decide), witness (by decide), witness (by decide), witness (by decide), witness (by decide)⟩

/-- Groups of 32, a power of two: totals, running sums and trees, with no trap enabled and with IV enabled and raised. -/
theorem test_meets_VotesAndReductions_groups :
    Meets base (.vredgAdd 0 0 4 1 0) (fun _ v => (v.team.lanes % v.team.group = 0 ∧ v.team.group = 2 ^ 5 ∧ 5 ≤ 6) ∧
      4 < v.team.v.length ∧ (v.team.v.getD 4 []).length = v.team.lanes) ∧
    Meets base (.vscanAdd 0 0 4 1 1) (fun _ v => (v.team.lanes % v.team.group = 0 ∧ 4 < v.team.v.length ∧ (v.team.v.getD 4 []).length = v.team.lanes) ∧
      v.path.enabled (v.flagsOf fun l => runningSum v.path.env (v.prefixOf 1 l true)) = false) ∧
    Meets (withTeam fun t => { t with v := t.v.set 1 (List.replicate 32 0x7F800001), pathA := t.pathA.map fun p => { p with fpmode := 0x1F0 } })
      (.vscanAdd 0 0 4 1 1) (fun _ v => v.team.lanes % v.team.group = 0 ∧
        v.path.enabled (v.flagsOf fun l => runningSum v.path.env (v.prefixOf 1 l true)) = true) ∧
    Meets base (.vredgMax 0 0 4 1 1) (fun _ v => v.team.lanes % v.team.group = 0 ∧ v.team.group = 2 ^ 5) :=
  ⟨witness (by decide), witness (by decide), witness (by decide), witness (by decide)⟩

/-- R152: only lane 0 has predicate 1, so the ballot of every lane is 1. -/
theorem test_vballot : nextWith (exec (.vballot 0 0 4 1) withLane0) (fun t => ((t.team 0 0).map fun t => wordAt (t.v.getD 4 []) 31) == some 1) = true := by decide

/-! ### Loads, stores, atomics, ranges -/

/-- Every lane's pair v4, v5 holds 0x10100 in the page that context 0 maps; the core's ladle holds granules. -/
def mapped : State := filled (withVectors [(4, 0x10100), (5, 0)])

/-- The device location of 0x10100. -/
def at100 : Loc := .dev 0x110100 false false false

/-- The placed page also writable, as a store needs (R353). -/
def writable : State := { mapped with mem := Memory.writeList mapped.mem 0x103008 (leBytes 8 0x11000F) }

theorem test_meets_GlobalLoads :
    Meets mapped (.ldg 0 0 8 4 0 0 4) (fun s v => Reaches s v Intent.load 4 (v.active.map fun l => (l, address (v.vPair 4 l) (immOff v.path.ext 0) 4)) (fun _ => at100)) ∧
    Meets (withScalars [(6, 0x10100)]) (.ldu 0 0 8 6 0 0 4) (fun s v => Reaches s v Intent.load 4 [(0, address (v.sPair 6 0) (immOff v.path.ext 0) 4)] (fun _ => at100)) :=
  ⟨witness (P := fun s v => ∀ e ∈ (v.active.map fun l => (l, address (v.vPair 4 l) (immOff v.path.ext 0) 4)), e.2 % 4 = 0 ∧ s.check v.team.ctx Intent.load e.2 = .found at100) (by decide),
   witness (P := fun s v => ∀ e ∈ [(0, address (v.sPair 6 0) (immOff v.path.ext 0) 4)], e.2 % 4 = 0 ∧ s.check v.team.ctx Intent.load e.2 = .found at100) (by decide)⟩

/-- Both halves: a ladle that covers the charge of 16 granules, and an empty one. -/
theorem test_meets_GlobalStores :
    Meets writable (.stg 0 0 8 4 0 0 4) (fun s v => (∀ e ∈ (v.active.map fun l => (l, address (v.vPair 4 l) (immOff v.path.ext 0) 4)), e.2 % 4 = 0 ∧ s.check v.team.ctx Intent.store e.2 = .found at100) ∧
      writable.ladle v.core v.team.ctx = some ⟨0, 4096, 4096, 0, 0, false⟩ ∧ chargeOn 0 (charged (accessesOf (v.active.map fun l => (l, 0x10100)) (fun _ => at100) 4)) = 16) ∧
    Meets (writable.setCore 0 { writable.core 0 with ladles := [⟨0, 0, 0, 0, 0, false⟩] }) (.stg 0 0 8 4 0 0 4) (fun s v => v.path.refill = none ∧
      s.ladle v.core v.team.ctx = some ⟨0, 0, 0, 0, 0, false⟩) :=
  ⟨witness (by decide), witness (by decide)⟩

/-- A refill answered for a store of 16 granules: all of it, or too little, so that the block is not covered. -/
def answeredWith (a : Bool × Nat × Nat) : State :=
  match writable.team 0 0 with
  | some t => writable.setTeam 0 0 { t with pathA := t.pathA.map fun p => { p with answer := some a } }
  | none => writable

/-- The store's addresses and accesses. -/
def storeAddrs (v : View) : List (Nat × Nat) := v.active.map fun l => (l, address (v.vPair 4 l) (immOff v.path.ext 0) 4)
def storeAccs (v : View) : List Access := accessesOf (storeAddrs v) (fun _ => at100) 4

theorem test_meets_GlobalStores_answers :
    Meets (answeredWith (true, 16, 0)) (.stg 0 0 8 4 0 0 4) (fun s v => (∀ e ∈ storeAddrs v, e.2 % 4 = 0 ∧ s.check v.team.ctx Intent.store e.2 = .found at100) ∧
      v.path.answer = some (true, 16, 0) ∧ chargeOn 0 (charged (storeAccs v)) = 16 ∧ chargeOn 1 (charged (storeAccs v)) = 0) ∧
    Meets (answeredWith (false, 3, 0)) (.stg 0 0 8 4 0 0 4) (fun s v => (∀ e ∈ storeAddrs v, e.2 % 4 = 0 ∧ s.check v.team.ctx Intent.store e.2 = .found at100) ∧
      v.path.answer = some (false, 3, 0) ∧ firstUncovered (fun j => if j = 0 then 3 else 0) (charged (storeAccs v)) 0 0 = some (0x110100 / 512) ∧
      ((storeAccs v).find? fun x => x.loc.block.1 == 0x110100 / 512) = some ⟨0, at100, 4⟩ ∧
      ((storeAddrs v).find? fun x => x.1 == 0) = some (0, 0x10100)) ∧
    Meets (writable.setCore 0 { writable.core 0 with ladles := [⟨0, 0, 0, 0, 0, false⟩] }) (.stg 0 0 8 4 0 0 4) (fun s v => v.path.answer = none ∧
      (∀ e ∈ storeAddrs v, e.2 % 4 = 0 ∧ s.check v.team.ctx Intent.store e.2 = .found at100) ∧ s.ladle v.core v.team.ctx = some ⟨0, 0, 0, 0, 0, false⟩ ∧
      ¬ chargeOn 0 (charged (storeAccs v)) ≤ 0) :=
  ⟨witness (by decide), witness (by decide), witness (by decide)⟩

/-- Lanes misaligned by 1, unmapped, and not writable (a text page); a non-canonical address. -/
theorem test_meets_AccessTraps :
    Meets (withVectors [(4, 0x10101), (5, 0)]) (.ldg 0 0 8 4 0 0 4) (fun _ v =>
      (v.active.map fun l => (l, address (v.vPair 4 l) (immOff v.path.ext 0) 4)).find? (fun e => e.2 % 4 != 0) = some (0, 0x10101)) ∧
    Meets (withVectors [(4, 0x70000), (5, 0)]) (.ldg 0 0 8 4 0 0 4) (fun s v =>
      (v.active.map fun l => (l, address (v.vPair 4 l) (immOff v.path.ext 0) 4)).find? (fun e => match s.check v.team.ctx Intent.load e.2 with | .fault _ => true | _ => false) = some (0, 0x70000)) ∧
    base.lookup 0 0x70000 = none ∧ (2 : Nat) ^ 48 ≤ 0x1000000000000 ∧ (base.lookup 0 0x10100).isSome = true :=
  ⟨witness (by decide), witness (by decide), by decide, by decide, by decide⟩

/-- A state whose leaf for the placed page is another. -/
def leafed (s : State) (leaf : Nat) : State := { s with mem := Memory.writeList s.mem 0x103008 (leBytes 8 leaf) }

/-- Stores likewise; a page that may be read and run but not written, and one that may not be run; a page marked short. -/
theorem test_meets_AccessTraps_kinds :
    Meets (withVectors [(4, 0x10101), (5, 0)]) (.stg 0 0 8 4 0 0 4) (fun _ v => (storeAddrs v).find? (fun e => e.2 % 4 != 0) = some (0, 0x10101)) ∧
    Meets (leafed (withVectors [(4, 0x10100), (5, 0)]) 0x11000B) (.stg 0 0 8 4 0 0 4) (fun s v => (∀ e ∈ storeAddrs v, e.2 % 4 = 0) ∧
      (storeAddrs v).find? (fun e => match s.check v.team.ctx Intent.store e.2 with | .fault _ => true | _ => false) = some (0, 0x10100)) ∧
    Meets ((withVectors [(4, 0x10100), (5, 0)]).setPage 0x11 { Page.fresh with state := .remote, short := true }) (.ldg 0 0 8 4 0 0 4) (fun s v =>
      (∀ e ∈ storeAddrs v, e.2 % 4 = 0) ∧
      (∀ e ∈ storeAddrs v, (match s.check v.team.ctx Intent.load e.2 with | .fault _ => true | _ => false) = false) ∧
      (storeAddrs v).find? (fun e => match s.check v.team.ctx Intent.load e.2 with | .short _ => true | _ => false) = some (0, 0x10100)) ∧
    (((leafed base 0x11000B).lookup 0 0x10100).map fun e => decide (Intent.store.write = true ∧ bit e.1 2 = false)) = some true ∧
    (((leafed base 0x110003).lookup 0 0x10100).map fun e =>
      decide (Intent.fetch.code = true ∧ bit e.1 3 = false)) = some true :=
  ⟨witness (by decide), witness (by decide), witness (by decide), by decide, by decide⟩

/-- R160: a misaligned LDG raises trap 0x07; with no handler image the team is killed with that cause (R346). -/
theorem test_misaligned_load : nextWith (exec (.ldg 0 0 8 4 0 0 4) (withVectors [(4, 0x10101), (5, 0)])) (fun t => bits (t.ctx 0).faultReg.toNat 15 8 == 7) = true := by
  decide

theorem test_meets_ScratchpadWords :
    Meets base (.lds 0 0 8 4 0 1 0) (fun s v => (v.team.race = false ∧ ∀ e ∈ (v.active.map fun l => (l, (v.v 4 l + immOff v.path.ext 0 * 4).toNat)), e.2 % 4 = 0 ∧ e.2 + 4 ≤ v.team.scrb) ∧
      (s.cohort v.core v.team.cohort).isSome = true) ∧
    Meets base (.sts 0 0 8 4 0 1 0) (fun s v => (v.team.race = false ∧ ∀ e ∈ (v.active.map fun l => (l, (v.v 4 l + immOff v.path.ext 0 * 4).toNat)), e.2 % 4 = 0 ∧ e.2 + 4 ≤ v.team.scrb) ∧
      (s.cohort v.core v.team.cohort).isSome = true) ∧
    Meets base (.ldsR 0 0 8 4 0 0 0) (fun s v => placeAt v.core 0 0 = some 0 ∧ (s.oldestCohort 0 v.team.ctx v.team.launch).isSome = true) ∧
    Meets base (.ldsR 0 0 8 4 1 0 0) (fun s v => placeAt v.core 1 0 = some 1 ∧ s.oldestCohort 1 v.team.ctx v.team.launch = none) ∧
    Meets base (.stsR 0 0 8 4 0 0 0) (fun s v => placeAt v.core 0 0 = some 0 ∧ (s.oldestCohort 0 v.team.ctx v.team.launch).isSome = true) ∧
    Meets base (.stsR 0 0 8 4 1 0 0) (fun s v => placeAt v.core 1 0 = some 1 ∧ s.oldestCohort 1 v.team.ctx v.team.launch = none) :=
  ⟨witness (by decide), witness (by decide), witness (by decide), witness (by decide), witness (by decide), witness (by decide)⟩

/-- R166: STS.B32 of v8 = 0x11223344 at address 4 stores its bytes lowest first. -/
theorem test_sts : nextWith (exec (.sts 0 0 8 4 0 1 0) (withVectors [(4, 4), (8, 0x11223344)])) (fun t =>
    ((t.core 0).cohorts.head?.map fun h => (h.byte 4, h.byte 7)) == some (0x44, 0x11)) = true := by decide

/-- Global, with the store's charge; and the scratchpad. -/
theorem test_meets_AtomicWords :
    Meets writable (.atomLd 0 0 8 4 0 4 0 1) (fun s v => ∀ e ∈ (v.active.map fun l => (l, (v.vPair 4 l).toNat)), e.2 % 4 = 0 ∧ s.check v.team.ctx Intent.other e.2 = .found at100) ∧
    Meets writable (.atomAdd 0 0 8 4 0 4 0 1) (fun s v => (∀ e ∈ (v.active.map fun l => (l, (v.vPair 4 l).toNat)), e.2 % 4 = 0 ∧ s.check v.team.ctx Intent.atomic e.2 = .found at100) ∧
      (match s.charge v (accessesOf (v.active.map fun l => (l, (v.vPair 4 l).toNat)) (fun _ => at100) 4) (v.active.map fun l => (l, (v.vPair 4 l).toNat)) with
        | .ok _ => true | .error _ => false) = true) ∧
    Meets base (.atomAdd 0 0 8 4 0 4 1 1) (fun s v => (v.team.race = false ∧ ∀ e ∈ (v.active.map fun l => (l, (v.v 4 l).toNat)), e.2 % 4 = 0 ∧ e.2 + 4 ≤ v.team.scrb) ∧
      (s.cohort v.core v.team.cohort).isSome = true) :=
  ⟨witness (by decide), witness (by decide), witness (by decide)⟩

/-- Balloon 3 of context 0 is open. -/
def ballooned : State :=
  let s := withScalars [(5, 3), (20, 0x10000), (16, 1), (12, 64), (14, 0x10080)]
  s.setCtx 0 { s.ctx 0 with blnOpen := true, blnId := 3 }

theorem test_meets_MemxWords :
    Meets ballooned (.cwb 0 0 20 16) (fun s v => pagesOf (v.sPair 20 0).toNat (v.s 16 0).toNat ≠ [] ∧ ∀ p ∈ pagesOf (v.sPair 20 0).toNat (v.s 16 0).toNat,
      s.check v.team.ctx Intent.other p.2.1 = .found (.dev 0x110000 false false false)) ∧
    Meets ballooned (.cinv 0 0 20 9) (fun _ v => v.s 9 0 = 0) ∧ Meets ballooned (.pf 0 0 20 16 1) (fun _ _ => True) ∧
    Meets ballooned (.rsvq 0 0 4 0) (fun _ _ => True) ∧
    Meets ballooned (.blkq 0 0 4 20) (fun s v => (match s.check v.team.ctx Intent.load (v.sPair 20 0).toNat with | .fault _ => false | _ => true) = true) ∧
    Meets ballooned (.blnack 0 0 5) (fun s v => (s.ctx v.team.ctx).blnOpen = true ∧ (s.ctx v.team.ctx).blnId = v.s 5 0) ∧
    Meets ballooned (.blnack 0 0 6) (fun s v => ¬ ((s.ctx v.team.ctx).blnOpen = true ∧ (s.ctx v.team.ctx).blnId = v.s 6 0)) ∧
    Meets ballooned (.pgsurr 0 0 12 20 9) (fun _ v => v.s 9 0 = 0) ∧
    Meets ballooned (.pgsurr 0 0 12 14 16) (fun _ v => v.s 16 0 ≠ 0 ∧ (v.sPair 14 0).toNat % 65536 ≠ 0) :=
  ⟨witness (by decide), witness (by decide), witness (by decide), witness (by decide), witness (by decide), witness (by decide), witness (by decide),
    witness (by decide), witness (by decide)⟩

/-- PGSURR of the page, with the code bit and the attributes clear and the write bit set, and a page that stage C gives. -/
def surrendering : State :=
  let s := { ballooned with mem := Memory.writeList ballooned.mem 0x103008 (leBytes 8 0x110007), die0 := { ballooned.die0 with pool := 2 ^ 31, free := 2 ^ 31 } }
  s

theorem test_meets_MemxWords_surrender :
    Meets surrendering (.pgsurr 0 0 12 20 16) (fun s v => (v.s 16 0).toNat = 1 ∧ (v.sPair 20 0).toNat % 65536 = 0 ∧
      s.surrenderCheck v.team.ctx 0x10000 0x20000 0x10000 = .ok 0x11) :=
  witness (P := fun s v => (v.s 16 0).toNat = 1 ∧ (v.sPair 20 0).toNat % 65536 = 0 ∧
    (match s.surrenderCheck v.team.ctx 0x10000 0x20000 0x10000 with | .ok n => n == 0x11 | .error _ => false) = true) (by decide) |>.imp fun v h =>
      ⟨h.1, h.2.1, h.2.2.1, by
        have h' := h.2.2.2
        revert h'
        cases State.surrenderCheck (surrendering.atIssue v) v.team.ctx 0x10000 0x20000 0x10000 with
        | error e => intro h'; cases h'
        | ok n => intro h'; simp at h'; rw [h']⟩

/-- A block table at 0x10200: entry 0 holds 0x10300; TPB 16, TSH 4, one sequence of stride 4 (R182). -/
def tabled : State :=
  let s := withTeam fun t => { t with
    v := (t.v.set 30 (List.replicate 32 0)).set 31 (List.replicate 32 2)
    pathA := t.pathA.map fun p => { p with s := ((((p.s.set 20 0x10200).set 22 0x40010).set 23 0x10004).set 30 0).set 31 2 } }
  { s with mem := Memory.writeList s.mem 0x110200 (leBytes 8 0x10300) }

/-- What a translation answers. -/
def translates (r : Except Effect (List (Nat × Nat × Option Nat) × State)) : Option (List (Nat × Nat × Option Nat)) :=
  match r with
  | .ok p => some p.1
  | .error _ => none

theorem test_meets_MemxWords_translation :
    Meets tabled (.trans 0 0 30 20 3) (fun s v => (translates (s.translate v 20 false (v.active.map fun l => (l, v.v 30 l, v.v 31 l)))).map (·.head?) = some (some (0, 0x10320, none))) ∧
    Meets tabled (.transS 0 0 30 20) (fun s v => translates (s.translate v 20 true [(0, v.s 30 0, v.s 31 0)]) = some [(0, 0x10320, none)]) :=
  ⟨witness (by decide), witness (by decide)⟩

/-- What the last clause on translations asks of the table's entries, of TRANS and of TRANS.S. -/
theorem test_meets_MemxWords_entries : (tabled.view.map fun v =>
    let lanes := [((0 : Nat), v.s 30 0, v.s 31 0)]
    let place := fun (e : Nat × Word × Word) => blockEntry (v.sPair 20 0) (v.s 22 0) (v.s 23 0) e.2.1 e.2.2
    match tabled.lookAll v Intent.trans 8 (lanes.map fun e => (e.1, (place e).1)) with
    | .error _ => false
    | .ok accs =>
      let s1 := accs.foldl (fun s a => s.demand a.loc)
        ((tabled.performEarlier v.core (tabled.core v.core).nextOp (accs.map fun a => (a.loc.lineKey, 1))).clearWay v.core (accs.map (·.loc)))
      let s2 := (firstOfPass accs).foldl (fun s a => s.noteRead (dieOf v.core) a.loc) s1
      decide ((v.s 22 0).toNat % 65536 ≠ 0 ∧ (v.s 22 0).toNat / 65536 ≤ 20) &&
      (lanes.zip accs).all fun x => decide ((place x.1).2.1 = false ∧ 0 < leNat (s1.readLoc (dieOf v.core) x.2.loc 8) ∧
        leNat (s1.readLoc (dieOf v.core) x.2.loc 8) < 2 ^ 48) && (match s2.check v.team.ctx Intent.trans
          ((leNat (s1.readLoc (dieOf v.core) x.2.loc 8) + (place x.1).2.2) % 2 ^ 64) with
        | .found _ => true
        | _ => false)) = some true := by decide

/-! ### Control, divergence, exceptions -/

theorem test_meets_ControlWords :
    Meets base (.nop 0 0) (fun _ _ => True) ∧ Meets base (.brc 0 0 1 2 5) (fun _ v => v.c 2 = decide ((1 : BitVec 1) = 0)) ∧
    Meets base (.brc 0 0 0 2 5) (fun _ v => v.c 2 ≠ decide ((0 : BitVec 1) = 0)) ∧ Meets base (.calli 0 0 60 8) (fun _ _ => True) ∧
    Meets base (.yield 0 0) (fun s v => (s.ctx v.team.ctx).req = false ∨ v.team.two = true) ∧
    Meets (base.setCtx 0 { base.ctx 0 with req := true }) (.yield 0 0) (fun s v => (s.ctx v.team.ctx).req = true ∧ v.team.two = false) ∧
    Meets base (.trtag 0 0 3 7) (fun _ _ => True) :=
  ⟨witness (by decide), witness (by decide), witness (by decide), witness (by decide), witness (by decide), witness (by decide), witness (by decide)⟩

/-- R98: BRA −3 from packet 5 goes to packet 2; R100: CALL at packet 5 links 6. -/
theorem test_bra_call :
    nextWith (exec (.bra 0 0 0x7FFFD) (withPath fun p => { p with pc := 5 })) (fun t => ((t.team 0 0).bind (·.pathA)).map (fun p => (p.pc, p.word)) == some (2, 0)) = true ∧
    nextWith (exec (.call 0 0 60 1) (withPath fun p => { p with pc := 5 })) (fun t => ((t.team 0 0).bind (·.pathA)).map (fun p => (p.pc, wordAt p.s 60)) == some (6, 6)) = true := by
  decide

/-- A team in its handler, whose path A trapped at packet 3, word 1. -/
def handling : State := withTeam fun t => { t with
  handler := some ⟨false, [0x10E, 3, 0, 0, 0], List.replicate 8 9, [], 0, 0x10000, 1200, 3, 1, 1⟩ }

theorem test_meets_PathsGoOnAndEnd :
    (base.team 0 0).isSome = true ∧ (((base.team 0 0).bind fun t => t.at false).isSome = true) ∧
    Meets base (.exit 0 0) (fun _ v => v.run = false ∧ v.team.handler = none) ∧
    Meets handling (.exit 0 0) (fun _ v => v.run = false ∧ v.team.handler = some ⟨false, [0x10E, 3, 0, 0, 0], List.replicate 8 9, [], 0, 0x10000, 1200, 3, 1, 1⟩) ∧
    ((base.team 0 0).map fun t => decide (t.at true = none ∧ t.recs = [] ∧ (t.at false).isSome = true)) = some true :=
  ⟨by decide, by decide, witness (by decide), witness (by decide), by decide⟩

/-- A runner of the team, running, with the focus on it. -/
def running (s : State) : State := match s.team 0 0 with
  | some t => { s.setTeam 0 0 { t with runner := { Runner.idle with running := true } } with here := ⟨0, 0, false, true⟩ }
  | none => s

theorem test_meets_PathsGoOnAndEnd_runner : Meets (running base) (.exit 0 0) (fun _ v => v.run = true) := witness (by decide)

/-- Fifteen one-sided records. -/
def deep : State := withTeam fun t => { t with recs := List.replicate 15 ⟨false, false, none, false, false, 0, [], [], [], false⟩ }

theorem test_meets_SplitPaths :
    Meets deep (.split 0 0 1 5) (fun _ v => 15 ≤ v.team.recs.length) ∧
    Meets base (.split 0 0 7 5) (fun _ v => v.team.recs.length < 15 ∧ ∀ l ∈ v.active, v.p 7 l = true) ∧
    Meets base (.split 0 0 1 5) (fun _ v => v.team.recs.length < 15 ∧ v.active ≠ [] ∧ ∀ l ∈ v.active, v.p 1 l = false) ∧
    Meets withLane0 (.split 0 0 1 5) (fun _ v => v.team.recs.length < 15 ∧ (∃ l ∈ v.active, v.p 1 l = true) ∧ (∃ l ∈ v.active, v.p 1 l = false) ∧
      v.team.lanes ≤ 32 * v.path.mask.length) :=
  ⟨witness (by decide), witness (by decide), witness (by decide), witness (by decide)⟩

/-- R23: SPLIT p1, +5 at packet 0 gives path A lane 0 at packet 1 and path B the others at packet 5. -/
theorem test_split : nextWith (exec (.split 0 0 1 5) withLane0) (fun t => ((t.team 0 0).map fun t =>
    (t.pathA.map fun p => (p.pc, p.mask.head?), t.pathB.map fun p => (p.pc, p.mask.head?))) ==
      some (some (1, some 1), some (5, some 0xFFFFFFFE))) = true := by decide

/-- Two paths from one SPLIT: A lane 0, B the others; `far` says that B waits at its JOIN. -/
def split (far : Bool) : State := withTeam fun t => { t with
  recs := [⟨true, false, none, false, false, 0, [], [], [], false⟩]
  pathA := some { (Path.fresh [1]) with pid := 2 }
  pathB := some { (Path.fresh [0xFFFFFFFE]) with pid := 3, joined := far, wroteS := [9], s := (List.replicate 64 0).set 9 5 } }

theorem test_meets_JoinPaths :
    Meets base (.join 0 0) (fun _ v => v.team.recs = []) ∧
    Meets deep (.join 0 0) (fun _ v => (v.team.recs.head?.map fun r => decide (r.two = false ∧ r.slot = v.side)) = some true) ∧
    Meets (split false) (.join 0 0) (fun _ v => (v.team.recs.head?.map fun r => decide (r.two = true ∧ r.exitedA = false ∧ r.exitedB = false)) = some true ∧
      ((v.team.at (!v.side)).map (·.joined)) = some false ∧ v.team.at v.side = some v.path ∧ v.run = false) ∧
    Meets (split true) (.join 0 0) (fun _ v => ((v.team.at (!v.side)).map (·.joined)) = some true ∧ v.team.at v.side = some v.path) ∧
    ((Path.fresh [1]).mask.length = (Path.fresh [2]).mask.length) :=
  ⟨witness (by decide), witness (by decide), witness (by decide), witness (by decide), by decide⟩

/-- R25, R27: the second JOIN merges both masks, and s9, which only path B wrote, keeps B's value. -/
theorem test_join : nextWith (exec (.join 0 0) (split true)) (fun t => ((t.team 0 0).map fun t =>
    (t.pathA.map fun p => (p.pc, p.mask.head?, wordAt p.s 9), t.pathB.isSome, t.recs.length)) ==
      some (some (1, some 0xFFFFFFFF, 5), false, 0)) = true := by decide

theorem test_meets_SpecialRegisters :
    Meets base (.srd 0 0 4 2) (fun _ v => 4 < v.path.s.length) ∧ Meets base (.srd 0 0 4 0) (fun _ v => v.run = false ∧ 4 < v.path.s.length) ∧
    Meets base (.swr 0 0 4 19) (fun _ v => v.run = false) ∧ Meets base (.swr 0 0 4 20) (fun _ v => v.run = false) :=
  ⟨witness (by decide), witness (by decide), witness (by decide), witness (by decide)⟩

theorem test_meets_ExceptionWords :
    Meets base (.trap 0 0 0x2A) (fun _ _ => True) ∧ Meets base (.brk 0 0 3) (fun _ v => v.path.passed = false) ∧
    Meets (withPath fun p => { p with passed := true }) (.brk 0 0 3) (fun _ v => v.path.passed = true) ∧
    Meets base (.rett 0 0 0) (fun _ v => v.team.handler = none) ∧
    Meets handling (.rett 0 0 1) (fun _ v => (v.team.handler.map fun h => decide (h.path = v.side ∧ h.bank.length = 8)) = some true ∧ v.run = false ∧ 56 ≤ v.path.s.length) :=
  ⟨witness (by decide), witness (by decide), witness (by decide), witness (by decide), witness (by decide)⟩

/-- R103: RETT.SKIP from a trap at packet 3, word 1 resumes at packet 3, word 2, with s48 as banked. -/
theorem test_rett_skip : nextWith (exec (.rett 0 0 1) handling) (fun t => ((t.team 0 0).bind (·.pathA)).map (fun p => (p.pc, p.word, wordAt p.s 48)) == some (3, 2, 9)) = true := by
  decide

/-- The header of a kernel of 1200 code bytes at 0x10000 (R54), and a record of one item for it at 0x10400 (R56). -/
def headerWord : Nat := 0x5A484B39 + 2 ^ 32 + 8 * 2 ^ 40 + 2 ^ 46 + 16 * 2 ^ 56 + 1200 * 2 ^ 64
def recordWord : Nat := 0x400 + 2 ^ 47 + 7 * 2 ^ 52 + 4 * 2 ^ 58 + 2 ^ 64 + 0x600 * 2 ^ 128 + 4 * 2 ^ 171 + 12 * 2 ^ 177 + 48 * 2 ^ 183 + 2 ^ 234

/-- `base` with that header and record in memory, and context 0's handler image there (R345). -/
def imaged : State :=
  let m := Memory.writeList (Memory.writeList base.mem 0x110000 (leBytes 64 headerWord)) 0x110400 (leBytes 64 recordWord)
  ({ base with mem := m } : State).setCtx 0 { base.ctx 0 with hnd := 0x10000, csrec := 0x10400 }

/-- What a trap of cause `cause` of the team of a state leaves before its header is read, and the header then read. -/
def atHeader (s : State) (cause : BitVec 8) (t : Team) : State × Team :=
  let s0 := (if cause = 6 then s.poisonUsed 0 t.ctx 0 else s).uncharge 0 0 (some false)
  let t0 := (s0.team 0 0).getD t
  ((s0.beforeHeader 0 0 false cause 0 t0).readHandler 0 t.ctx, t0)

theorem test_meets_TrapEntry : ∀ cause ∈ [(0x0E : BitVec 8), 0x11], ((imaged.team 0 0).map fun t =>
    decide ((t.at false).isSome = true ∧ t.handler = none ∧ ¬ (cause = 0x0D ∧ (imaged.ctx t.ctx).attach = true) ∧
      (atHeader imaged cause t).1.handlerImage 0 t.ctx = .usable 0x10000 1200 ∧
      (((atHeader imaged cause t).2.landed.at false).map (·.s.length)) = some 64)) = some true := by decide

/-- R343: TRAP 0x2A at packet 0, word 0: h0 holds the cause, h2 the code, and the path starts packet 0 of the handler. -/
theorem test_trap_entry : nextWith (exec (.trap 0 0 0x2A) imaged) (fun t => ((t.team 0 0).map fun t =>
    (t.handler.isSome, t.pathA.map fun p => (p.pc, p.word, wordAt p.s 48, wordAt p.s 50))) == some (true, some (0, 0, 0x0E, 0x2A))) = true := by decide

/-- No handler, one in its handler, and one whose header's page is in the capacity tier. -/
theorem test_meets_TrapsThatKill : ((base.team 0 0).map fun t => decide ((t.at false).isSome = true ∧ t.ops = [] ∧
    ¬ ((0x0E : BitVec 8) = 0x0D ∧ (base.ctx t.ctx).attach = true) ∧ (atHeader base 0x0E t).1.handlerImage 0 t.ctx = .none ∧
    (base.ctx t.ctx).faultReg.getLsbD 0 = false)) = some true ∧
    ((handling.team 0 0).map fun t => t.handler.isSome) = some true ∧
    (((imaged.setPage 0x11 { Page.fresh with state := .remote }).team 0 0).map fun t => decide (t.handler = none ∧
      (atHeader (imaged.setPage 0x11 { Page.fresh with state := .remote }) 0x0E t).1.handlerImage 0 t.ctx = .away 0x11)) = some true := by decide

/-- R51, R343: trap 0x11 puts the raised flags into h0[20:16]. -/
theorem test_trap_flags : (((imaged.takeTrap 0 0 false 0x11 0 0 5).team 0 0).bind fun t => t.pathA.map fun p => wordAt p.s 48) =
    some (0x11 + 5 * 65536) := by decide

/-! ### Waiting, barriers, fences, blocks -/

/-- A store in flight, and a mismatch recorded. -/
def busy : State := withTeam fun t => { t with
  ops := [⟨0, 6, 0, 0, false, 1, 1, false, .store [], false, false, false, [], [], 0, [], [], []⟩], mismatches := [4] }

theorem test_meets_WaitsOnCounters :
    Meets base (.waitc 0 0 6 3) (fun _ _ => (6 : BitVec 3) ≠ 5) ∧ Meets base (.waitci 0 0 5 0) (fun _ v => v.team.mismatches = []) ∧
    Meets base (.qfence 0 0 8) (fun _ v => (8 : BitVec 5).getLsbD 3 = true ∧ v.team.mismatches = []) ∧ Meets base (.qfence 0 0 2) (fun _ _ => (2 : BitVec 5).getLsbD 3 = false) ∧
    Meets busy (.waitci 0 0 5 0) (fun _ v => v.team.mismatches = [4]) ∧
    ((busy.view.map (busy.paced · (.waitci 0 0 6 0))).map fun v => decide (busy.frozen v = none ∧ v.path.chainAt = none ∧ v.sourceTrap (.waitc 0 0 6 3) = none ∧ busy.decodeTrap v (.waitci 0 0 6 0) = none ∧ v.poisoned (.waitci 0 0 6 0) = none ∧
      (0 : BitVec 6).toNat < v.team.count 6)) = some true :=
  ⟨witness (by decide), witness (by decide), witness (by decide), witness (by decide), witness (by decide), by decide⟩

/-- Nothing holds the word's path, and its own condition is met or not. -/
def freeOf (s : State) (i : Instr) (P : State → View → Prop) [∀ s v, Decidable (P s v)] : Bool :=
  match s.view.map (s.paced · i) with
  | some v => decide (s.Views v i ∧ s.pathReasons v = [] ∧ v.path.chainAt = none ∧ s.decodeTrap v i = none ∧ v.sourceTrap i = none ∧
      s.pipeBusy v i = false ∧ P s v)
  | none => false

/-- A store in flight and a barrier arrived on, whose phase has completed. -/
def arrived : State :=
  let s := withTeam fun t => { t with arrivals := [(3, 0)] }
  s.setCore 0 { s.core 0 with cohorts := (s.core 0).cohorts.map fun h => { h with bars := [(3, ⟨1, []⟩)] } }

theorem test_meets_WaitsOnCounters_free :
    freeOf base (.waitc 0 0 6 3) (fun _ v => (v.team.ops.filter fun o => o.code == 6).length ≤ (v.s 3 0).toNat) = true ∧
    freeOf base (.waitci 0 0 6 0) (fun _ v => (v.team.ops.filter fun o => o.code == 6).length ≤ 0) = true ∧
    freeOf base (.qfence 0 0 31) (fun s v => v.team.ops = [] ∧ v.team.mismatches = [] ∧ (s.core v.core).mtx.window = []) = true ∧
    freeOf arrived (.barw 0 0 3) (fun s v => Table.get v.team.arrivals 3 = some 0 ∧
      ((s.cohort v.core v.team.cohort).map fun g => (g.bar 3).phase) = some 1) = true ∧
    freeOf base (.mwait 0 0 4) (fun s v => (s.core v.core).mtx.window = []) = true ∧
    freeOf busy (.waitc 0 0 6 3) (fun _ v => (v.s 3 0).toNat < (v.team.ops.filter fun o => o.code == 6).length) = true ∧
    freeOf busy (.waitci 0 0 6 0) (fun _ v => 0 < (v.team.ops.filter fun o => o.code == 6).length) = true := by decide

/-- A cohort of two teams, of which one has not arrived. -/
def paired : State := base.setCore 0 { base.core 0 with cohorts := (base.core 0).cohorts.map fun h => { h with size := 2, teams := h.teams ++ [99] } }

/-- A path that waited in phase 0 of b3, whose phase is now 1. -/
def passedPhase : State :=
  let s := withPath fun p => { p with bar := some (.phase 3 0) }
  s.setCore 0 { s.core 0 with cohorts := (s.core 0).cohorts.map fun h => { h with bars := [(3, ⟨1, []⟩)] } }

/-- Two paths, of which B has executed the BAR on b3. -/
def atBar (s : State) : State :=
  match (split false).team 0 0 with
  | some t => s.setTeam 0 0 { t with pathB := t.pathB.map fun p => { p with bar := some (.arrive 3 true) } }
  | none => s

theorem test_meets_Barriers :
    Meets base (.bara 0 0 3) (fun s v => v.run = false ∧ (s.teamOf v).at (!v.side) = none ∧ (s.pathOf v).bar = none) ∧
    Meets base (.bar 0 0 3) (fun s v => ((s.modPath v fun p => { p with bar := none }).arrive v 3).phaseOpen v 3 0 = false) ∧
    Meets paired (.bar 0 0 3) (fun s v => ((s.modPath v fun p => { p with bar := none }).arrive v 3).phaseOpen v 3 0 = true) ∧
    Meets passedPhase (.bar 0 0 3) (fun s v => (s.pathOf v).bar = some (.phase 3 0) ∧ s.phaseOpen v 3 0 = false) ∧
    Meets passedPhase (.bara 0 0 3) (fun s v => (s.pathOf v).bar = some (.phase 3 0)) ∧
    Meets (split false) (.bar 0 0 3) (fun s v => (s.pathOf v).bar = none ∧ ((s.teamOf v).at (!v.side)).map (·.bar) = some none) ∧
    Meets (split false) (.bara 0 0 3) (fun s v => (s.pathOf v).bar = none ∧ ((s.teamOf v).at (!v.side)).map (·.bar) = some none) ∧
    (∀ s ∈ [atBar base, atBar paired], Meets s (.bara 0 0 3) (fun s v => (s.pathOf v).bar = none ∧
      ((s.teamOf v).at (!v.side)).map (·.bar) = some (some (.arrive 3 true)))) ∧
    Meets (atBar base) (.bar 0 0 3) (fun s v => ((s.modPath v fun p => { p with bar := none }).arrive v 3).phaseOpen v 3 0 = false) ∧
    Meets (atBar paired) (.bar 0 0 3) (fun s v => ((s.modPath v fun p => { p with bar := none }).arrive v 3).phaseOpen v 3 0 = true) ∧
    ((paired.cohort 0 0).map fun h => decide ((h.exited ++ (h.bar 3).arrived).eraseDups.length < h.size)) = some true ∧
    ((base.cohort 0 0).map fun h => decide (({ h with exited := [0] } : Cohort).size ≤ (({ h with exited := [0] } : Cohort).exited ++ (h.bar 3).arrived).eraseDups.length)) = some true :=
  ⟨witness (by decide), witness (by decide), witness (by decide), witness (by decide), witness (by decide), witness (by decide), witness (by decide),
   by simpa using ⟨witness (by decide), witness (by decide)⟩, witness (by decide), witness (by decide), by decide, by decide⟩

/-- R28: path A's BARA after B's BAR arrives for the team, whose cohort it completes: phase 1. -/
theorem test_bara_second : nextWith (exec (.bara 0 0 3) (atBar base)) (fun t => ((t.cohort 0 0).map fun h => (h.bar 3).phase) == some 1 &&
    ((t.team 0 0).bind (·.pathB)).map (·.bar) == some (some (.phase 3 0))) = true := by decide

/-- A team with an extended block that it may grow into, and one that holds it. -/
def growing (held : Bool) : State := withTeam fun t => { t with base := 32, extn := 16, extHeld := held }

/-- A load in flight that a release, or an acquire, of the path waits for. -/
def fenced (release : Bool) : State := withTeam fun t => { t with
  ops := [⟨0, 0, 0, 0, false, 1, 1, false, .load 4 8 false true [], false, false, false, [], [], 0, [], [], []⟩]
  pathA := t.pathA.map fun p => if release then { p with releaseOps := [0] } else { p with acquireOps := [0] } }

/-- R115: the word after the release waits with reason 9, an access after the acquire with reason 3. -/
theorem test_meets_FencesSpineAndBlocks_holds :
    (((fenced true).view.map ((fenced true).paced · (.sadd 0 0 4 5 6 0))).map fun v => decide ((fenced true).frozen v = none ∧
      (fenced true).decodeTrap v (.sadd 0 0 4 5 6 0) = none ∧ holdReads (.sadd 0 0 4 5 6 0) = false ∧
      ((fenced true).coreOps 0).map (·.2.id) = [0] ∧ v.path.releaseOps = [0] ∧ (fenced true).holds v (.sadd 0 0 4 5 6 0) = some 9)) = some true ∧
    (((fenced false).view.map ((fenced false).paced · (.ldg 0 0 8 4 0 0 4))).map fun v => decide ((fenced false).frozen v = none ∧
      (fenced false).decodeTrap v (.ldg 0 0 8 4 0 0 4) = none ∧ accessWord (.ldg 0 0 8 4 0 0 4) = true ∧
      v.team.ops.map (fun o => (o.id, o.isRead)) = [(0, true)] ∧ v.path.acquireOps = [0] ∧
      (fenced false).holds v (.ldg 0 0 8 4 0 0 4) = some 3)) = some true ∧
    encode (.sadd 0 0 4 5 6 0) ≠ none ∧ encode (.ldg 0 0 8 4 0 0 4) ≠ none := by decide

theorem test_meets_FencesSpineAndBlocks :
    Meets busy (.fence 0 0 2 4) (fun _ v => v.run = false) ∧
    Meets (base.setLaunch 0 { bootLaunch with rcd := { bootRecord with ordered := true } }) (.spout 0 0 0 5) (fun s v =>
      ((s.launch v.team.ctx v.team.launch).map fun l => decide (l.rcd.ordered = true ∧ (l.slotInfo 0).declared = true)) = some true) ∧
    Meets (base.setLaunch 0 { bootLaunch with rcd := { bootRecord with ordered := true } }) (.spout 0 0 1 5) (fun s v =>
      ((s.launch v.team.ctx v.team.launch).map fun l => (l.slotInfo 1).declared) = some false) ∧
    Meets (growing false) (.grow 0 0) (fun s v => (v.team.two = false ∧ v.team.extHeld = false ∧ v.team.extn ≠ 0) ∧ s.canGrow v.core (s.teamOf v) = true) ∧
    Meets ((growing false).setCore 0 { (growing false).core 0 with bndReg := 0 }) (.grow 0 0) (fun s v =>
      (v.team.two = false ∧ v.team.extHeld = false ∧ v.team.extn ≠ 0) ∧ s.canGrow v.core (s.teamOf v) = false) ∧
    Meets (withTeam fun t => { t with granted := true }) (.grow 0 0) (fun _ v => v.team.granted = true) ∧
    Meets (growing false) (.growt 0 0 1) (fun _ v => v.team.two = false ∧ v.team.extHeld = false ∧ v.team.extn ≠ 0) ∧
    Meets (growing true) (.shrink 0 0) (fun _ v => v.team.two = false ∧ v.team.extHeld = true) ∧
    Meets (growing false) (.shrink 0 0) (fun _ v => v.team.two = false ∧ v.team.extHeld = false) :=
  ⟨witness (by decide), witness (by decide), witness (by decide), witness (by decide), witness (by decide), witness (by decide), witness (by decide), witness (by decide), witness (by decide)⟩

/-! ### Launches, spawns, engines, collectives, the runner -/

/-- A team of a launch at depth 10. -/
def deepest : State := imaged.setLaunch 0 { bootLaunch with depth := 10 }

/-- `imaged` with the record's address in s8 and an invalid record's in s10. -/
def recorded : State :=
  match imaged.team 0 0 with
  | some t => imaged.setTeam 0 0 { t with
      v := ((t.v.set 20 (List.replicate 32 0x10000)).set 21 (List.replicate 32 0)).set 9 (List.replicate 32 7)
      pathA := t.pathA.map fun p => { p with s := (((p.s.set 8 0x10400).set 10 0x10040).set 12 0x10401).set 7 500 } }
  | none => imaged

theorem test_meets_LaunchAndSpawn_launch :
    Meets recorded (.launch 0 0 8) (fun s v => (((s.launch v.team.ctx v.team.launch).map (·.depth)).getD 0) ≠ 10 ∧ (v.sPair 8 0).toNat % 64 = 0 ∧
      (v.sPair 8 0).toNat < 2 ^ 48) ∧
    Meets recorded (.launch 0 0 12) (fun _ v => (v.sPair 12 0).toNat % 64 ≠ 0) ∧
    Meets deepest (.launch 0 0 8) (fun s v => (((s.launch v.team.ctx v.team.launch).map (·.depth)).getD 0) = 10) :=
  ⟨witness (by decide), witness (by decide), witness (by decide)⟩

/-- The record in a page of its own, 0x20000, so that no address of it stands in a translation cache that its image's lookup may hit. -/
def apart (s : State) : State :=
  { s with mem := Memory.writeList (Memory.writeList s.mem 0x103010 (leBytes 8 0x12000B)) 0x120000 (leBytes 64 recordWord) }

def apartRecorded : State :=
  match (apart imaged).team 0 0 with
  | some t => (apart imaged).setTeam 0 0 { t with pathA := t.pathA.map fun p => { p with s := (p.s.set 8 0x20000).set 10 0x10040 } }
  | none => apart imaged

/-- The record once its reads are done. -/
def readBack (s : State) (v : View) (r : Nat) : State :=
  (s.clearWay v.core (s.linesAt v.team.ctx [(v.sPair r 0).toNat])).readRecord v.team.ctx (dieOf v.core) (v.sPair r 0).toNat

theorem test_meets_LaunchAndSpawn_read :
    Meets apartRecorded (.launch 0 0 8) (fun s v => (match (readBack s v 8).examine v.team.ctx (dieOf v.core) (v.sPair 8 0).toNat with
      | .good _ _ _ => true
      | _ => false) = true) ∧
    Meets apartRecorded (.launch 0 0 10) (fun s v => (v.sPair 10 0).toNat % 64 = 0 ∧
      (readBack s v 10).examine v.team.ctx (dieOf v.core) (v.sPair 10 0).toNat = .invalid) :=
  ⟨witness (by decide), witness (by decide)⟩

/-- R331: LAUNCH accepts a second launch of the context, at depth 1. -/
theorem test_launch : nextWith (exec (.launch 0 0 8) apartRecorded) (fun t => (t.ctx 0).launches.map (fun l => l.depth) == [1, 0] || (t.ctx 0).launches.map (fun l => l.depth) == [0, 1]) = true := by
  decide

/-- One lane of an unordered launch spawns; its key, the image at 0x10000, is in v20 and v21. -/
def spawning : State :=
  let s := recorded.setLaunch 0 { bootLaunch with rcd := { bootRecord with ordered := false } }
  match s.team 0 0 with
  | some t => s.setTeam 0 0 { t with pathA := t.pathA.map fun p => { p with mask := [1] } }
  | none => s

/-- The state after the reads of the checks of its SPAWN. -/
def keyed (s : State) (v : View) : State := s.readKeys v (v.active.map (v.spawnKey 20))

theorem test_meets_LaunchAndSpawn_spawn :
    Meets spawning (.spawn 0 0 9 20 7) (fun s v => v.path.spawned.isEmpty = true ∧ v.active = [0] ∧ (v.vPair 20 0).toNat = 0x10000 ∧
      (((keyed s v).launch v.team.ctx v.team.launch).map fun l => decide (l.depth ≠ 10)) = some true ∧
      (match (keyed s v).spawnHeader v 0x10000 with
        | .bytes n => spawnFits { bootLaunch with rcd := { bootRecord with ordered := false } }.inForce (parseHeader n)
        | _ => false) = true) ∧
    Meets spawning (.spawn 0 0 9 20 7) (fun s v => (match (keyed s v).spawnHeader v 0x10000 with
      | .bytes n => (keyed s v).measure (dieOf v.core) v.team.ctx 0x10000 (parseHeader n).codesz (parseHeader n).moff == .passes
      | _ => false) = true) ∧
    Meets spawning (.spawn 0 0 9 20 7) (fun s v =>
      (State.joinAll v (v.s 7 0).toNat (v.spawnKey 20) (fun k => v.v 9 k) (v.active.filter fun k => !v.path.spawned.contains k) v.path.spawned
        ((keyed s v).modTeam v Team.markReleased)).2.1 = true) :=
  ⟨witness (by decide), witness (by decide), witness (by decide)⟩

/-- At depth 10, keys that are addresses, and a misaligned key. -/
theorem test_meets_LaunchAndSpawn_stops :
    (base.openBins 0 + 32 ≤ 64 ∧ (base.ctx 0).launches.length + 32 ≤ 1024 ∧ (base.launch 0 1).isSome = true) ∧
    Meets deepest (.spawn 0 0 9 20 7) (fun s v => ((s.launch v.team.ctx v.team.launch).map (·.depth)) = some 10) ∧
    Meets recorded (.spawn 0 0 9 8 7) (fun _ v => (∀ j ∈ v.active.map (v.spawnKey 8), j < 2 ^ 48)) ∧
    Meets (withVectors [(8, 1)]) (.spawn 0 0 9 8 7) (fun s v => ((s.launch v.team.ctx v.team.launch).map (·.depth)) = some 0 ∧ (∀ j ∈ v.active.map (v.spawnKey 8), j < 2 ^ 48) ∧
      (v.active.map (v.spawnKey 8)).find? (fun j => j % 64 != 0) = some 1) :=
  ⟨by decide, witness (by decide), witness (by decide), witness (by decide)⟩

/-- A fill of 4 bytes at 0x40, a copy of 4 bytes from 0x10100, with an index list {0} at 0; on the writable page. -/
def copying (r : List (Nat × Word)) : State :=
  let s := writable
  let s := s.setCore 0 { s.core 0 with cohorts := (s.core 0).cohorts.map fun h => { h with bytes := (List.range 64).map fun i =>
    (i, (BitVec.ofNat 256 (1 + 2 ^ 8 + 31 * 2 ^ 24) >>> (8 * i)).setWidth 8) } }
  match s.team 0 0 with
  | some t => s.setTeam 0 0 { t with pathA := t.pathA.map fun p => { p with s := r.foldl (fun s e => s.set e.1 e.2) p.s } }
  | none => s

def gRow : List (Nat × Word) := [(8, 0x10100), (10, 0x40), (11, 4)]
def iRow : List (Nat × Word) := [(8, 0x10100), (10, 0x20), (11, 4), (12, 0x40)]

theorem test_meets_EngineWords_copies :
    let ok := fun (op : Nat) (s : State) (v : View) =>
      copyReserved op (fun k => v.s (8 + k) 0) = false ∧ (match s.copySides v op (fun k => v.s (8 + k) 0) with | .ok _ => true | .error _ => false) = true ∧
      (∀ e ∈ (copyPlan op (fun k => v.s (8 + k) 0) 1).aligned, e.1 % 4 = 0) ∧
      (∀ e ∈ (copyPlan op (fun k => v.s (8 + k) 0) 1).scratchReads 1 ++ (copyPlan op (fun k => v.s (8 + k) 0) 1).scratchWrites, e.1 + e.2 ≤ v.team.scrb) ∧ v.team.race = false ∧
      (s.cohort v.core v.team.cohort).isSome = true ∧ s.check v.team.ctx Intent.load 0x10100 = .found at100 ∧ s.check v.team.ctx Intent.store 0x10100 = .found at100
    Meets (copying gRow) (.cpyG2s 0 0 1 8 0) (ok 0) ∧ Meets (copying gRow) (.cpyS2g 0 0 1 8 0) (ok 1) ∧
    Meets (copying [(9, 0x40), (11, 4)]) (.cpyS2s 0 0 1 8 0) (ok 2) ∧ Meets (copying iRow) (.cpyGth 0 0 1 8 0) (ok 3) ∧
    Meets (copying iRow) (.cpySct 0 0 1 8 0) (ok 4) ∧ Meets (copying [(8, 0x40), (9, 7), (10, 4)]) (.cpyFill 0 0 1 8 0) (ok 5) := by
  refine ⟨witness ?_, witness ?_, witness ?_, witness ?_, witness ?_, witness ?_⟩ <;> decide

/-- Each copy word posts one operation on CPY. -/
theorem test_copy_words : [(Instr.cpyG2s 0 0 1 8 0, gRow), (.cpyS2g 0 0 1 8 0, gRow), (.cpyS2s 0 0 1 8 0, [(9, 0x40), (11, 4)]), (.cpyGth 0 0 1 8 0, iRow),
    (.cpySct 0 0 1 8 0, iRow), (.cpyFill 0 0 1 8 0, [(8, 0x40), (9, 7), (10, 4)])].all (fun e => nextWith (exec e.1 (copying e.2)) fun t =>
      (t.team 0 0).map (fun t => t.ops.map (·.code)) == some [3]) = true := by decide

/-- The format block at 0 (A FP16, B FP16, FP32 out, KLEN 32); B, A, output at 0x100, strides 64, one row. -/
def graphing : State := copying [(8, 0x100), (9, 0), (10, 64), (11, 0x00010000)]

theorem test_meets_EngineWords_graph :
    let ok := fun (op nregs base : Nat) (s : State) (v : View) => ((s.cohort v.core v.team.cohort).map fun h =>
      let ws := (List.range nregs).map fun k => v.s (base + k) 0
      let f : BitVec 256 := if hasBlock op then BitVec.ofNat 256 (leNat (h.read (wordAt ws 1).toNat 32)) else 0
      decide ((hasBlock op = true → (wordAt ws 1).toNat % 32 = 0 ∧ (wordAt ws 1).toNat + 32 ≤ v.team.scrb) ∧ contentsBad op ws f = false ∧
        (∀ r ∈ matrixRuns op ws f, r.1 % r.2.1 = 0 ∧ (r.2.2 ≠ 0 → r.1 + r.2.2 ≤ v.team.scrb)))) = some true
    Meets (copying [(8, 0x00010000)]) (.mzero 0 0 1 2 3 4) (ok 0 1 8) ∧ Meets graphing (.mload 0 0 1 2 3 4) (ok 1 2 8) ∧ Meets graphing (.mloads 0 0 1 2 3 4) (ok 2 3 8) ∧
    Meets graphing (.mswap 0 0 1 2 3) (ok 3 0 0) ∧ Meets graphing (.mstream 0 0 1 2 3 4) (ok 4 4 8) ∧ Meets graphing (.mstore 0 0 1 2 3 4) (ok 5 4 8) ∧
    Meets (copying [(8, 0x100), (9, 0x00010000)]) (.mscale 0 0 1 2 3 4) (ok 6 2 8) := by
  refine ⟨witness ?_, witness ?_, witness ?_, witness ?_, witness ?_, witness ?_, witness ?_⟩ <;> decide

/-- R194, R200: MSTREAM enters the window and the launch owns the engine. -/
theorem test_mstream : nextWith (exec (.mstream 0 0 1 2 3 4) graphing) (fun t => (t.core 0).mtx.owner == some (0, 1) && (t.core 0).mtx.window.map (fun m => (m.op, m.id)) == [(4, 1)]) = true := by
  decide

/-- Logs of batches 4 and 3, of which the older holds one error; s8 names entry `n` of batch 3, a command of which may be out. -/
def logged (n : Nat) (out : Bool) : State :=
  let s := withTeam fun t => { t with
    batch := 5
    logs := [⟨4, [], false⟩, ⟨3, [⟨1, 5, 6, 7, 8, 0x100⟩], false⟩]
    pathA := t.pathA.map fun p => { p with s := p.s.set 8 (BitVec.ofNat 32 (3 + 65536 * n)) } }
  if out then s.setCore 0 { s.core 0 with mtx := { (s.core 0).mtx with window := [⟨0, 0, 0, 0, 1, 0, 1, [], [0x00010000], 0, 3, true, 0, [], [], [], [], []⟩] } }
  else s

theorem test_meets_EngineWords_batches :
    Meets base (.mfence 0 0) always ∧ Meets base (.mstat 0 0 4) always ∧
    Meets base (.merrq 0 0 4) (fun s v => (v.s 8 0).toNat < 2 ^ 19 ∧ ∀ l ∈ (s.teamOf v).logs, l.batch.toNat % 65536 ≠ (v.s 8 0).toNat % 65536) ∧
    Meets (withScalars [(8, 0x80000)]) (.merrq 0 0 4) (fun _ v => 2 ^ 19 ≤ (v.s 8 0).toNat) ∧
    (∀ n < 2, Meets (logged n false) (.merrq 0 0 4) (fun s v => (v.s 8 0).toNat = 3 + 65536 * n ∧ (s.teamOf v).logs.map (·.batch) = [4, 3] ∧
      s.commandsOf v.core v.team.uid = [])) ∧
    Meets (logged 0 true) (.merrq 0 0 4) (fun s v => (s.teamOf v).logs.map (·.batch) = [4, 3] ∧
      (s.commandsOf v.core v.team.uid).map (·.batch) = [3]) :=
  ⟨witness (P := fun _ _ => True) (by decide), witness (P := fun _ _ => True) (by decide), witness (by decide), witness (by decide),
   fun n h => by rcases (by omega : n = 0 ∨ n = 1) with rfl | rfl <;> exact witness (by decide), witness (by decide)⟩

/-- R211: entry 0 of batch 3: an operand-B error of command 5 at I 6, K 7, N 8, address 0x100. -/
theorem test_merrq : nextWith (exec (.merrq 0 0 4) (logged 0 false)) (fun t => ((t.team 0 0).bind (·.pathA)).map (fun p => (wordAt p.s 8, wordAt p.s 9)) ==
    some (0x08000100, 0x80000000 + 1 * 2 ^ 27 + 5 * 2 ^ 22 + 6 * 2 ^ 8 + 7)) = true := by decide

/-- A group of this core alone, and one declared in register 1. -/
def grouped : State := withTeam fun t => { t with
  groups := t.groups.set 1 ⟨[0, 0, 0, 0], 0, [(0, 0)], true, 3⟩
  pathA := t.pathA.map fun p => { p with s := (p.s.set 10 2).set 9 0x100 } }

theorem test_meets_CollectiveWords :
    Meets base (.cgrp 0 0 8 1) (fun _ v => groupReserved (v.s 8 0).toNat (v.s 9 0).toNat = false ∧ (groupCores v.core (dieOf v.core) (v.s 8 0).toNat) = some [0] ∧
      (v.s 9 0).toNat % 128 = 0) ∧
    ([base.device].eraseDups.length = [base.device].length ∧ (∀ d ∈ [base.device], d < 64) ∧ base.device ∈ [base.device]) ∧
    (let ok := fun (op : Nat) (_ : State) (v : View) =>
      (v.team.groups.getD 1 ⟨[], 0, [], false, 0⟩).declared = true ∧ (v.s 11 0).toNat % 16 < 4 ∧ (v.s 11 0).toNat < 65536 ∧ (v.s 11 0).toNat / 256 = 0 ∧
        0 < (v.s 10 0).toNat ∧ (v.s 10 0).toNat ≤ 65536 ∧ (v.s 8 0).toNat % 4 = 0 ∧ (v.s 9 0).toNat % 4 = 0 ∧
        (v.s 8 0).toNat + 4 * (⟨op, 0, 0, (v.s 10 0).toNat, [(0, 0)]⟩ : ColTerms).shape.1 * (⟨op, 0, 0, (v.s 10 0).toNat, [(0, 0)]⟩ : ColTerms).shape.2.2 ≤ v.team.scrb ∧
        (v.s 9 0).toNat + 4 * (⟨op, 0, 0, (v.s 10 0).toNat, [(0, 0)]⟩ : ColTerms).shape.2.1 * (⟨op, 0, 0, (v.s 10 0).toNat, [(0, 0)]⟩ : ColTerms).shape.2.2 ≤ v.team.scrb
    Meets grouped (.cag 0 0 8 1) (ok 1) ∧ Meets grouped (.crs 0 0 8 1) (ok 2) ∧ Meets grouped (.car 0 0 8 1) (ok 3) ∧ Meets grouped (.ca2a 0 0 8 1) (ok 4)) ∧
    Meets grouped (.cbar 0 0 1) (fun _ v => (v.team.groups.getD 1 ⟨[], 0, [], false, 0⟩).declared = true) := by
  refine ⟨witness ?_, ?_, ⟨witness ?_, witness ?_, witness ?_, witness ?_⟩, witness ?_⟩ <;> decide

/-- A list of one device, 0, that context 0's page at 0x10100 holds. -/
def listed : State := withScalars [(9, 1), (10, 0x10100)]

/-- What a device list gives. -/
def lists (r : Except Effect (List Nat × State)) (P : List Nat → State → Bool) : Bool :=
  match r with
  | .ok p => P p.1 p.2
  | .error _ => false

theorem test_meets_CollectiveWords_list :
    Meets ({ listed with pf := { listed.pf with stRoute := [(0, 1)] } } : State) (.cgrp 0 0 8 1) (fun s v => (v.s 9 0).toNat % 128 = 1 ∧
      groupReserved (v.s 8 0).toNat (v.s 9 0).toNat = false ∧
      lists (s.deviceList v (v.sPair 10 0).toNat 1) (fun ds u => ds == [0] && !u.routeEmpty 0 && u.device == 0) = true) := witness (by decide)

/-- R223: a group of one core has rank 0 and size 1. -/
theorem test_cgrp : nextWith (exec (.cgrp 0 0 8 1) base) (fun t => ((t.team 0 0).bind (·.pathA)).map (fun p => (wordAt p.s 12, wordAt p.s 13)) == some (0, 1)) = true := by
  decide

/-- Word 0 of packet 0 is the runner mark; RUN stands at word 1. -/
def marked : State :=
  match (State.reset.withFetchWord 32 0x60000000).team 0 0 with
  | some t => (State.reset.withFetchWord 32 0x60000000).setTeam 0 0 { t with pathA := t.pathA.map fun p => { p with word := 1 } }
  | none => base

/-- Queue 2 with two entries; a running runner. -/
def queued : State := withTeam fun t => { t with queues := [[], [], [⟨0x200000001, false⟩, ⟨0x400000003, false⟩], []] }
def runs (parked : Bool) : State := withTeam fun t => { t with runner := { t.runner with running := true, parked := if parked then some (0, 0, 0) else none } }

theorem test_meets_RunnerWords :
    Meets marked (.run 0 0 5) (fun s v => v.team.runner.running = false ∧ v.team.two = false ∧
      ((s.clearWay v.core (s.linesAt v.team.ctx [v.team.image + 64])).readRun (dieOf v.core) v.team.ctx (v.team.image + 64) 4).runnerMark v = .word 0x60000000) ∧
    Meets (runs false) (.run 0 0 5) (fun _ v => v.team.runner.running = true) ∧ Meets (runs false) (.rstop 0 0) (fun _ v => v.team.runner.parked = none ∧ v.team.runner.refill = none) ∧
    Meets (runs true) (.rstop 0 0) (fun _ v => v.team.runner.running = true ∧ v.team.runner.parked.isSome = true) ∧
    Meets base (.qpush 0 0 8 2 0) (fun _ v => 2 < v.team.queues.length) ∧
    Meets queued (.qpops 0 0 8 2) (fun _ v => v.run = false ∧ (v.team.queues.getD 2 []).length = 2 ∧ 63 ≤ v.path.s.length ∧ 2 < v.team.queues.length) ∧
    Meets base (.qpops 0 0 8 2) (fun _ v => v.team.queues.getD 2 [] = []) ∧
    Meets { queued with cores := ((withPath fun p => { p with mask := [3] }).setTeam 0 0 (((withPath fun p => { p with mask := [3] }).team 0 0).map (fun t =>
        { t with queues := [[], [], [⟨0x200000001, false⟩, ⟨0x400000003, false⟩], []] }) |>.getD ((Team.fresh 0 0 1 0 32 32 64 0 0 0 1 0 7 0x10000 1200 16 65536 false false)))).cores }
      (.qpop 0 0 8 2) (fun _ v => v.run = false ∧ v.active.length ≤ 32 ∧ v.active.length ≤ (v.team.queues.getD 2 []).length ∧ 2 < v.team.queues.length ∧
        v.hasColumn 8 ∧ v.hasColumn 9) ∧
    Meets queued (.qpop 0 0 8 2) (fun _ v => v.active.length ≤ 32 ∧ (v.team.queues.getD 2 []).length < v.active.length) := by
  refine ⟨witness ?_, witness ?_, witness ?_, witness ?_, witness ?_, witness ?_, witness ?_, ?_, witness ?_⟩
  case refine_8 => unfold View.hasColumn; exact witness (by decide)
  all_goals decide

/-- R231: RUN with no runner mark raises trap 0x01, which kills the team; R234: QPUSH adds a pair. -/
theorem test_qpush : nextWith (exec (.qpush 0 0 8 2 0) (withScalars [(8, 5), (9, 6)])) (fun t => (t.team 0 0).map (fun t => (t.queues.getD 2 []).map (·.value)) == some [0x600000005]) = true := by
  decide

/-! ### Events: operations, engines, the scheduler -/

/-- An operation in flight of the team, of a kind. -/
def withOp (kind : OpKind) : State := withTeam fun t => { t with ops := [⟨0, 0, 0, 0, false, 1, 1, false, kind, false, false, false, [], [], 0, [], [], []⟩] }

def opIs (s : State) (f : OpKind → Bool) : Bool :=
  match s.opAt 0 0 with
  | some (_, o) => !o.done && !s.stuckOp 0 0 && f o.kind
  | none => false

theorem test_meets_OperationReturns :
    opIs (withOp (.load 4 8 false true [])) (fun k => match k with | .load _ _ _ _ _ => true | _ => false) = true ∧
    opIs (withOp (.scratch 0 8 0 0 [] 4)) (fun k => match k with | .scratch _ _ _ _ _ _ => true | _ => false) = true ∧
    opIs (withOp (.sfu 8 [] 0)) (fun k => match k with | .sfu _ _ _ => true | _ => false) = true ∧
    opIs (withOp (.trans 8 1 false [])) (fun k => match k with | .trans _ _ _ _ => true | _ => false) = true ∧
    opIs (withOp (.store [])) (fun k => match k with | .store _ => true | _ => false) = true ∧
    (opIs (withOp (.remote 0 0 [])) (fun k => match k with | .remote _ _ _ => true | _ => false) = true ∧ ((withOp (.remote 0 0 [])).coreOps 0).length = 1) ∧
    opIs (withOp (.atom 4 8 true none [])) (fun k => match k with | .atom _ _ _ _ _ => true | _ => false) = true ∧
    opIs (withOp (.atom 4 8 true (some (0, 0)) [⟨0, .dev 8 false false false, 1, none⟩])) (fun k => match k with | .atom _ _ _ _ (_ :: _) => true | _ => false) = true ∧
    opIs (withOp (.cwb [] false)) (fun k => match k with | .cwb _ b => !b | _ => false) = true ∧
    opIs (withOp (.cwb [] true)) (fun k => match k with | .cwb _ b => b | _ => false) = true ∧
    (opIs (withOp (.surrender 8 [0x11] 0)) (fun k => match k with | .surrender _ (_ :: _) _ => true | _ => false) = true ∧
      (base.page 0x11).state ≠ .migrating ∧ (base.ctx 0).blnOpen = false ∧ (withOp (.surrender 8 [0x11] 0)).halves = []) ∧
    ((withOp (.blnq 8)).queryBytes 0 (.blnq 8)).isSome = true ∧ (base.ctx 0).trWr = 0 ∧
    (base.ras.latent = [] ∧ base.mixed 0x11 = false ∧ (base.page 0x11).torn = false) ∧
    (∃ d, [((3 : Nat), [(1 : Byte), 2, 3, 4], false)] = d ∧ (d.map (·.1)).Nodup ∧ 0 < loadCount 4 ∧ 3 < 32) :=
  ⟨by decide, by decide, by decide, by decide, by decide, by decide, by decide, by decide, by decide, by decide, by decide, by decide, by decide, by decide, _, rfl, by decide, by decide, by decide⟩

/-- R52: the store of 0x11223344 at 0x110100 is performed when its event comes. -/
theorem test_store_performed : nextWith (exec (.storePerformed 0 0) (withOp (.store [(⟨0, .dev 0x110100 false false false, 4⟩, [0x44, 0x33, 0x22, 0x11])])))
    (fun t => Memory.read t.mem 0x110100 == 0x44 && Memory.read t.mem 0x110103 == 0x11) = true := by decide

/-- A fill of 4 bytes at 0x40 with 7; a collective of the core alone; a matrix command in the window. -/
def filling : State := withOp (.copy 1 (.fill 7) (0, 0) (0, 0) [⟨[], 0x40, 0, 4⟩])
def oneMember : List (Nat × Nat) := [(0, 0)]
def collecting (terms : ColTerms) : State :=
  match (withOp (.col 1 3 ⟨5, 0, 0, 0, oneMember⟩ 0 0 0 0)).team 0 0 with
  | some t => base.setTeam 0 0 { t with colHistory := [(1, 3, terms)] }
  | none => base
def windowed (started : Bool) : State :=
  base.setCore 0 { base.core 0 with mtx := { (base.core 0).mtx with owner := some (0, 1), window := [⟨0, 0, 0, 0, 1, 0, 1, [], [0x00010000], 0, 0, started, 0, [], [], [], [], []⟩] } }

theorem test_meets_EngineEvents :
    ((filling.copyHead 0 1).map fun e => decide (((filling.teamUid 0 e.1).isSome = true) ∧ e.2.junk = [] ∧ e.2.got = [] ∧ e.2.put = [] ∧ (filling.ctx 0).trWr = 0 ∧ filling.copyAway [⟨[], 0x40, 0, 4⟩] = [])) = some true ∧
    ((base.cohort 0 0).isSome = true ∧ 4 % 4 = 0) ∧
    (∀ terms ∈ [(⟨5, 0, 0, 0, oneMember⟩ : ColTerms), ⟨1, 0, 0, 4, oneMember⟩], ((collecting terms).opAt 0 0).map (fun e => decide (e.2.done = false ∧ e.1.colWaits e.2 = false) &&
      colTurn ((collecting terms).posted 0 e.1 1 3 ⟨5, 0, 0, 0, oneMember⟩ []) 1 3 &&
      ((collecting terms).posted 0 e.1 1 3 ⟨5, 0, 0, 0, oneMember⟩ []).all fun p => match p with
        | .here _ _ x => x == terms
        | _ => false) = some true) ∧
    (((windowed false).core 0).mtx.window.map fun m => ((windowed false).core 0).mtx.canStart m) = [true] ∧
    ((windowed false).teamUid 0 0).map (·.yielding) = some false ∧ (((windowed true).core 0).mtx.window.map (·.started)) = [true] := by decide

/-- R214: the fill stores 7 in the word at 0x40. -/
theorem test_fill : nextWith (exec (.copyOperationComplete 0 1) filling) (fun t => ((t.cohort 0 0).map fun h => h.byte 0x40) == some 7) = true := by decide

/-- R224: a collective whose terms disagree is recorded as mismatched. -/
theorem test_mismatch : nextWith (exec (.collectiveComplete 0 0 []) (collecting ⟨1, 0, 0, 4, oneMember⟩)) (fun t => ((t.team 0 0).map (·.mismatches)) == some [3]) = true := by
  decide

/-- A ready launch of one item on an empty core; a closed bin of it. -/
def waiting : State :=
  let s : State := { base with cores := [], agenda := [], stage := 3, serial := 5 }
  s.setLaunch 0 { bootLaunch with nextItem := 0, live := [], begun := false, rcd := { bootRecord with ordered := false }, rect := some ⟨0, 0, 0, 0, 1, 1⟩ }
def binned (closed : Bool) : State :=
  let s := waiting.setLaunch 0 { bootLaunch with nextItem := 1, live := [], spawned := some (0x10000, 0), rcd := { bootRecord with ordered := false } }
  s.setCluster 0 [⟨0, 0x10000, 1, 1, 32, [5], 0, closed, 0, 4, none⟩]

/-- Every path has exited; two teams of which the younger is a lone barred path; an evicted team; a completed launch. -/
def exited : State := withTeam fun t => { t with pathA := none }
def stalled : State :=
  match base.team 0 0 with
  | some t =>
    let s := (base.setTeam 0 0 { t with base := 32, extn := 16, growPending := true }).setTeam 0 1 { t with
      uid := 1, age := 9, pathA := t.pathA.map fun p => { p with bar := some (.phase 3 0) } }
    s.setCore 0 { s.core 0 with bndReg := 0 }
  | none => base
def putOut : State := base.setCore 0 { base.core 0 with teams := [], evicted := ((base.core 0).teams) }
def granted : State :=
  let s := State.reset.withFetchWord 32 0x1400000
  match s.team 0 0 with
  | some t => s.setTeam 0 0 { t with base := 32, extn := 16, growPending := true }
  | none => s
def ended : State := waiting.setLaunch 0 { bootLaunch with live := [] }

theorem test_meets_SchedulerEvents_dispatch :
    ((waiting.nextDispatch 0).map fun c => decide (c.bin = none ∧ c.core = 0 ∧ c.rect.isSome = true ∧ waiting.launch c.ctx c.launch.id = some c.launch ∧
      c.launch.nextCohort ≤ (waiting.core c.core).freeSlots.length)) = some true ∧
    (((binned true).nextDispatch 0).map fun c => decide (c.bin = some 0 ∧ ((binned true).cluster 0)[0]?.isSome = true ∧
      (binned true).launch c.ctx c.launch.id = some c.launch ∧ 0 < c.launch.hdr.bb ∧ ((binned true).core c.core).freeSlots ≠ [])) = some true ∧
    ((exited.team 0 0).map (exited.finished 0)) = some true ∧ ((base.team 0 0).map (base.finished 0)) = some false ∧
    (((binned false).cluster 0)[0]?.map fun b => decide (b.closed = false ∧ b.atEnd = none ∧ b.timer ≤ (binned false).tick.toNat ∧ ((binned false).ctx b.ctx).pstate = 0)) = some true := by
  decide

/-- R336: the team of the one item starts in slot 0. -/
theorem test_dispatch : nextWith (exec (.dispatchCohort 0 0) waiting) (fun t => (t.team 0 0).map (fun t => (t.item, t.lanes)) == some (0, 32)) = true := by decide

theorem test_meets_SchedulerEvents_teams :
    ((stalled.core 0).oldestGrow.map fun e => decide (stalled.canGrow 0 e.2 = false ∧ (∀ x ∈ (stalled.core 0).teams, stalled.blocked 0 x.1 x.2 = true) ∧
      ((stalled.core 0).youngest e.2.uid).map (·.1) = some 1)) = some true ∧
    ((putOut.oldestEvicted 0).map fun e => decide (e.2.denied = [] ∧ e.1 ∈ (putOut.core 0).freeSlots ∧ (∀ x ∈ (putOut.core 0).teams, x.2.growPending = true → e.2.age ≤ x.2.age) ∧
      (putOut.core 0).regBytes + e.2.frameBytes ≤ 16384 * (putOut.core 0).bndReg)) = some true ∧
    ((granted.core 0).oldestGrow.map fun e => decide (granted.canGrow 0 e.2 = true ∧ (granted.wordOf 0 e.1 e.2.pathA.isNone false).map (·.2) = some (.grow 0 0))) = some true ∧
    ((ended.launch 0 1).map fun l => decide (ended.complete 0 l = true ∧ l.rcd.cwa = 0)) = some true ∧ (base.launch 0 1).isSome = true := by
  decide

/-- The stalled core's victim has a place in the save area at 0x10000, on a page that is there; no page is replicated. -/
def evicting : State := stalled.setCtx 0 { stalled.ctx 0 with save := 0x10000, saveSize := 1 }

theorem test_meets_SchedulerEvents_evict :
    ((evicting.core 0).oldestGrow.map fun e => decide (evicting.canGrow 0 e.2 = false ∧ (∀ x ∈ (evicting.core 0).teams, evicting.blocked 0 x.1 x.2 = true) ∧
      ((evicting.core 0).youngest e.2.uid).map (·.1) = some 1)) = some true ∧
    evicting.imageAway 0 ((evicting.ctx 0).save + spillPlace (evicting.spilled 0) 4096) 4096 = [] ∧ ∀ pg, (evicting.page pg).replicated = false :=
  ⟨by decide, by decide, unreplicated evicting (by decide)⟩

/-- A completion word at 0x10100, and one where nothing is mapped. -/
def completing (cwa : Nat) : State :=
  (leafed waiting 0x110007).setLaunch 0 { bootLaunch with live := [], rcd := { bootRecord with cwa := cwa, cwv := 7 } }

theorem test_meets_SchedulerEvents_complete :
    (((completing 0x10100).launch 0 1).map fun l => decide ((completing 0x10100).complete 0 l = true ∧ l.rcd.cwa = 0x10100)) = some true ∧
    (completing 0x10100).check 0 Intent.store 0x10100 = .found at100 ∧
    (((completing 0x70000).launch 0 1).map fun l => (completing 0x70000).complete 0 l) = some true ∧
    (match (completing 0x70000).check 0 Intent.store 0x70000 with | .fault aux => !aux.getLsbD 4 | _ => false) = true ∧
    ((completing 0x10100).ctx 0).trCtl.getLsbD 0 = false := by decide

/-- R32: the youngest team of the stalled core is put out. -/
theorem test_evict : nextWith (exec (.evictTeam 0) stalled) (fun t => (t.team 0 1).isNone && (t.core 0).evicted.length == 1) = true := by decide

/-! ### Events: starts, capacity, the driver -/

/-- Context 0 with CSRECORD at the record and no root, its state as given, at a stage. -/
def starting (st stage : Nat) (rec' : Nat) : State :=
  { (imaged.setCtx 0 { imaged.ctx 0 with csrec := rec', state := st, launches := [] }) with stage := stage }

theorem test_meets_RootStart :
    (((starting 2 3 0x10400).ctx 0).state = 2 ∧ ((starting 1 3 0x10400).ctx 0).state = 1 ∧ (starting 0 2 0x10400).stage ≠ 3) ∧
    (((starting 0 3 0).ctx 0).csrec = 0 ∧ ((starting 0 3 0).ctx 0).ptb ≠ 0) ∧
    ((starting 0 3 0x10040).readRecord 0 0 0x10040).examine 0 0 0x10040 = .invalid ∧
    (match ((starting 0 3 0x70000).readRecord 0 0 0x70000).examine 0 0 0x70000 with | .stop (.fault _ aux) => !aux.getLsbD 4 | _ => false) = true ∧
    (match ((apart (starting 0 3 0x20000)).readRecord 0 0 0x20000).examine 0 0 0x20000 with | .good _ _ _ => true | _ => false) = true := by decide

/-- A record that names withheld die 1, and one of an image that context 0 may not run. -/
theorem test_meets_RootStart_withheld :
    (({ apart (starting 0 3 0x20000) with
        mem := Memory.writeList (apart imaged).mem 0x120000 (leBytes 64 (recordWord - 2 ^ 234 + 2 ^ 235))
        die1 := { imaged.die1 with withheld := true } } : State).readRecord 0 0 0x20000).examine 0 0 0x20000 = .withheld ∧
    (({ starting 0 3 0x10400 with pf := { imaged.pf with attMap := 1 } } : State).examine 0 0 0x10400) = .unattested := by decide

/-- R327: a good record starts the root and context 0 is running. -/
theorem test_root_start : nextWith (exec (.rootStart 0) (apart (starting 0 3 0x20000))) (fun t => (t.ctx 0).state == 2 && (t.ctx 0).launches.length == 1) = true := by decide

/-- A store waits for granules; an unused ladle; page 0x11 on its way, out or in. -/
def refilling : State := withPath fun p => { p with refill := some (0, 16) }
def ladled : State := (base.setCore 0 { base.core 0 with ladles := [⟨5, 16, 0, 0, 0, false⟩] })
def moving (out : Bool) : State := base.setPage 0x11 { Page.fresh with state := .migrating, toTier := out }

theorem test_meets_CapacityEvents :
    (((refilling.team 0 0).bind (·.pathA)).map (·.refill) = some (some (0, 16)) ∧ (refilling.ctx 0).trCtl.getLsbD 0 = false) ∧
    ((ladled.ladle 0 5).map fun l => decide (l.transit0 = 0 ∧ l.transit1 = 0 ∧ ∀ e ∈ (ladled.core 0).teams, e.2.ctx ≠ 5)) = some true ∧
    ((moving true).page 0x11).state = .migrating ∧ ((moving true).page 0x11).toTier = true ∧ ((moving false).page 0x11).toTier = false ∧
    (∀ e ∈ (moving false).pages, e.1 = 0x11 → e.2.queued = none) ∧ (∀ e ∈ (moving true).pages, e.1 = 0x11 → e.2.queued = none) ∧
    (∀ e ∈ base.ctxs, e.2.state ≠ 1) ∧ ((moving false).pageGranules 0x11 : Int) ≤ (moving false).reserve (homeDie (65536 * 0x11)) ∧
    ({ base with die0 := { base.die0 with tick := 0x100000 } } : State).tick.toNat / 2 ^ 20 ≠ base.window ∧
    ((4096 * ((1 + 4095) / 4096) : Nat) : Int) ≤ 5000 ∧ ((4096 * ((1 + 4095) / 4096) : Nat) : Int) > 20 ∧ ((16 * ((1 + 15) / 16) : Nat) : Int) ≤ 20 := by
  decide

/-- R173: the ladle's granules go back to die 0. -/
theorem test_ladle_return : nextWith (exec (.ladleReturn 0 5) ladled) (fun t => (t.ladle 0 5).isNone && t.die0.free == base.die0.free + 16) = true := by decide

theorem test_meets_DriverEvents :
    ((base.die 0).migSt ≠ 1 ∧ (base.ctx 0).trCtl.getLsbD 0 = false) ∧ base.mappedPage 0 0x70000 = none ∧ base.mappedPage 0 0x10000 = some (0x11, false) ∧
    ((base.setPage 0x11 { Page.fresh with pin := true }).page 0x11).pin = true ∧
    ((base.page 0x11).pin = false ∧ (base.page 0x11).window = false ∧ (base.page 0x11).state = .resident) ∧
    ({ base with pf := { base.pf with ctBase := 1, ctSize := 16 } } : State).tierFull = false ∧ ((base.setPage 0x11 { Page.fresh with state := .remote }).page 0x11).state = .remote ∧
    (∀ e ∈ State.reset.ctxs, e.2.ptb = 0) ∧ (∃ e ∈ base.ctxs, e.2.ptb ≠ 0) ∧ (base.ctx 0).invDone = true ∧
    ((base.setCtx 0 { base.ctx 0 with invDone := false }).ctx 0).invDone = false ∧ (base.setCtx 0 { base.ctx 0 with invDone := false }).accessing 0 = false ∧
    (1 : BitVec 64).getLsbD 0 = true := by
  refine ⟨?_, ?_, ?_, ?_, ?_, ?_, ?_, ?_, ?_, ?_, ?_, ?_, ?_⟩ <;> decide

/-- Thirty-two pages on their way, and one more that a command names: each state that a command finds a page in. -/
def crowded (st : PageState) : State :=
  (List.range 32).foldl (fun (s : State) i => s.setPage (0x1000 + i) { Page.fresh with state := .migrating })
    (({ base with pf := { base.pf with ctBase := 1, ctSize := 16 } } : State).setPage 0x11 { Page.fresh with state := st })

theorem test_meets_DriverEvents_states :
    (∀ st ∈ [PageState.resident, .remote], (((crowded st).page 0x11).state = st ∧ 32 ≤ (crowded st).migrating 0 ∧ (crowded st).tierFull = false ∧
      ((crowded st).page 0x11).queued = none ∧ (crowded st).mappedPage 0 0x10000 = some (0x11, false))) ∧
    base.migrating 0 < 32 ∧ ((base.setPage 0x11 { Page.fresh with state := .resident, pin := true }).page 0x11).state = .resident ∧
    ((base.setPage 0x11 Page.fresh).page 0x11).state = .unbacked := by decide

/-! ### Events: preemption, debugging, registers, power, sideband, health -/

/-- `base` with context 0 changed. -/
def withCtx (f : Ctx → Ctx) : State := base.setCtx 0 (f (base.ctx 0))
def yielding : State :=
  match base.team 0 0 with
  | some t => (withCtx fun k => { k with pstate := 1 }).setTeam 0 0 { t with yielding := true }
  | none => base
def emptied : State := { (withCtx fun k => { k with pstate := 1 }) with cores := [] }

theorem test_meets_PreemptionEvents_request :
    (base.ctx 0).pstate = 0 ∧ (base.ctx 0).saveSize.toNat * 4096 < base.saveBound 0 ∧
    (withCtx fun k => { k with saveSize := 4096 }).saveBound 0 ≤ ((withCtx fun k => { k with saveSize := 4096 }).ctx 0).saveSize.toNat * 4096 ∧
    (((withCtx fun k => { k with pstate := 1 }).ctx 0).pstate = 1 ∧ ((withCtx fun k => { k with pstate := 1 }).ctx 0).forced = false ∧
      ((withCtx fun k => { k with pstate := 1 }).ctx 0).saved = []) ∧
    ((withCtx fun k => { k with pstate := 1, deadline := 0 }).ctx 0).deadline.toNat ≤ base.die0.cycle - ((withCtx fun k => { k with pstate := 1 }).ctx 0).reqCycle ∧
    base.die0.cycle - ((withCtx fun k => { k with pstate := 1, deadline := 9 }).ctx 0).reqCycle < ((withCtx fun k => { k with pstate := 1, deadline := 9 }).ctx 0).deadline.toNat ∧
    ((withCtx fun k => { k with pstate := 1, saved := [⟨0, [], [], [], (0, 0, 0), [], none⟩] }).ctx 0).saved ≠ [] := by decide

theorem test_meets_PreemptionEvents_saves :
    ((yielding.team 0 0).map fun t => decide (t.yielding = true ∧ (yielding.ctx t.ctx).pstate = 1 ∧ yielding.mustFinish 0 t = false)) = some true ∧
    ((emptied.ctx 0).pstate = 1 ∧ (∀ e ∈ emptied.resident, e.2.2.ctx ≠ 0) ∧ emptied.cores = [] ∧
      emptied.imageAway 0 (emptied.ctx 0).save ((emptied.putBins 0).ctx 0).image.length = []) ∧
    (let s := withCtx fun k => { k with pstate := 2, saveSize := 0 }; (s.ctx 0).pstate = 2 ∧ s.imageAt 0 = none) ∧
    (let s := withCtx fun k => { k with pstate := 3 };
      (s.ctx 0).pstate = 3 ∧ (s.ctx 0).forced = false ∧ (s.ctx 0).saved = [] ∧ (s.ctx 0).awaited = [] ∧ ∀ e ∈ s.cores, e.2.evicted = []) ∧
    ({ base with pf := { base.pf with ctxOwn := [(0, 0x80010000)] } } : State).owner 0 = some (1, 0) := by decide

/-- A context whose save area of one page starts with the end section of an image of nothing that this device wrote (R349). -/
def imageKept : State :=
  let s := withCtx fun k => { k with pstate := 2, save := 0x10000, saveSize := 1 }
  { s with mem := Memory.writeList s.mem 0x110000 (leBytes 16 0xFFF000FF), images := [⟨0, s.side.running, [(0xFF, 0xFFF, 0, [])], [], [], []⟩] }

theorem test_meets_PreemptionEvents_resume : (imageKept.ctx 0).pstate = 2 ∧ ∃ e, imageKept.imageAt 0 = some e :=
  ⟨by decide, Option.isSome_iff_exists.mp (by decide +kernel)⟩

/-- R347: a yielding team with nothing in flight leaves its slot. -/
theorem test_yield_save : nextWith (exec (.yieldSave 0 0) yielding) (fun t => (t.team 0 0).isNone && (t.ctx 0).saved.length == 1) = true := by decide

/-- The team stopped; stepping path A; its last command retired or in flight. -/
def held (f : Team → Team) : State := withTeam fun t => f { t with stopped := true }

/-- A team that steps to the retirement of command 4, in flight or gone. -/
def retiring (out : Bool) : State := held fun t => { t with
  ops := if out then [⟨4, 5, 0, 0, false, 1, 1, false, .store [], false, false, false, [], [], 0, [], [], []⟩] else []
  stepCommand := some 4, step := some (false, true), pathA := t.pathA.map fun p => { p with lastCommand := some 4 } }

/-- The team as a step to retire lets it go. -/
def goingOn (t : Team) : Team := { t.letGo with step := some (false, true), stepCommand := (t.at false).bind (·.lastCommand) }

theorem test_meets_DebugEvents :
    ((base.ctx 0).dbgBusy = false ∧ base.debugTeam 0 0 0 = none) ∧
    ((retiring false).debugTeam 0 0 0).map (fun t => decide ((t.at false).isSome = true ∧ (retiring false).commandRetired 0 (goingOn t) = true)) = some true ∧
    ((retiring true).debugTeam 0 0 0).map (fun t => (retiring true).commandRetired 0 (goingOn t)) = some false ∧
    ((held fun t => { t with step := some (false, false) }).team 0 0).map (fun t => decide (t.step = some (false, false) ∧ t.ctx < 64)) = some true ∧
    ((retiring false).team 0 0).map (fun t => decide (t.step = some (false, true)) && (retiring false).commandRetired 0 t) = some true ∧
    ((held fun t => { t with step := some (true, false) }).team 0 0).map (fun t => decide (t.step = some (true, false) ∧ t.at true = none)) = some true ∧
    ((withCtx fun k => { k with attach := true }).ctx 0).attach = true ∧ (base.ctx 0).attach = false ∧ ((base.team 0 0).map fun t => (t.at false).isSome) = some true ∧
    (((base.core 0).visits 0).map (·.1) = [0] ∧ (base.core 0).due 0 ≤ base.cycle 0 ∧ base.cycle 0 < ({ base.core 0 with due0 := 9 } : Core).due 0) ∧
    (base.pf.stopped = false ∧ base.tick.toNat = 0) ∧
    (({ base with pf := { base.pf with armed := true, due := 0 } } : State).pf.due ≤ base.tick) ∧
    ({ base with pf := { base.pf with stopped := true } } : State).pf.stopped = true := by
  refine ⟨?_, ?_, ?_, ?_, ?_, ?_, ?_, ?_, ?_, ?_, ?_, ?_, ?_⟩ <;> decide

theorem test_meets_DebugEvents_stop : ∀ pg, (base.page pg).replicated = false := unreplicated base (by decide)

/-- R302: a resumed team runs again. -/
theorem test_resume_team : nextWith (exec (.debugResume 0 0 0) (held id)) (fun t => (t.team 0 0).map (·.stopped) == some false) = true := by decide

/-- R4: offsets of each kind of register, with context 0 assigned to function 1. -/
theorem test_meets_RegisterWrites :
    (let s : State := { base with stage := 3, pf := { base.pf with ctxOwn := [(0, 0x80010000)] } };
      s.stage = 3 ∧ (∀ o ∈ [(0x00 : Nat), 0x18, 0x20, 0x28, 0x30, 0x40], s.regAt 1 (0x10000 + o) = some (.start 0 o)) ∧
      (∀ o ∈ [(0x00 : Nat), 0x08, 0x14, 0x18], s.regAt 1 (0x40000 + o) = some (.window 0 o))) ∧
    ((base.ctx 1).launches = [] ∧ (base.ctx 1).pstate ≠ 2) ∧ (base.ctx 0).launches ≠ [] ∧ (∀ e ∈ State.reset.ctxs, e.2.launches = []) ∧ (∃ e ∈ base.ctxs, e.2.launches ≠ []) := by
  refine ⟨?_, ?_, ?_, ?_, ?_⟩ <;> decide

/-- Registers of the PF by their offsets (R295, R305, R356, R365, R373, R380). -/
theorem test_meets_RegisterWrites_pf : [base.regAt 0 0x8400, base.regAt 0 0xB200, base.regAt 0 0xB240, base.regAt 0 0xB010, base.regAt 0 0x20000, base.regAt 0 0xE000, base.regAt 0 0xB000, base.regAt 0 0xB250,
    base.regAt 0 0xD000, base.regAt 0 0xC040, base.regAt 0 0x9040, base.regAt 1 0x1234] = [some (.hmRange 0), some (.cmp 0), some .stopTick, some .pwrCtl, some (.mreg 0), some .attMap, some .devStat, some .stopAt,
    some (.rasLog 0), some (.rasCnt 0), some (.mig 1 0), none] := by decide

theorem test_meets_StartAndPower :
    (({ State.reset with released := true } : State).stage = 0 ∧ State.reset.released = false) ∧
    (({ State.reset with meter := { State.reset.meter with epoch := 1 } } : State).meter.epoch ≠ 0 ∧ State.reset.meter.epoch = 0) ∧ ({ base with stage := 1 } : State).stage = 1 ∧ ({ base with stage := 2 } : State).stage = 2 ∧
    ({ Ras.reset with coreRepairs := (List.range 5).map fun p => (3, p) } : Ras).broken 0 = [3] ∧ (State.reset.ras.broken 1) = [] ∧
    (State.reset.idleHolds 0 5 = true ∧ exitLatency 0 ≤ ({ State.reset with ltr := 100 } : State).ltr) ∧
    (∀ e ∈ idleChain 0 0, base.idleHolds e.1 e.2 = false ∨ base.ltr < exitLatency e.1) ∧ State.reset.shutdown = false ∧
    ({ State.reset with shutdown := true } : State).shutdown = true := by
  refine ⟨?_, ?_, ?_, ?_, ?_, ?_, ?_, ?_, ?_, ?_⟩ <;> decide

/-- R363: a die without firmware fails stage B with 0x10. -/
theorem test_stage_b_fails : nextWith (exec (.stageBComplete false true true true true) ({ base with stage := 1 } : State)) (fun t => t.stage == 4 && t.stageErr == 0x10) = true := by
  decide

/-- A region enabled, one reported and off, one never reported. -/
def metering (en rep : Bool) : State := { base with stage := 1, meter := { base.meter with regions := [(3, ⟨5, 0, 1, 2, rep, en, 9, true⟩)] } }

theorem test_meets_SidebandAndMetering :
    ({ base with stage := 1 } : State).stage ≠ 0 ∧ (mirrored 0xB000).isSome = true ∧
    (∀ en ∈ [true, false], ∀ rep ∈ [true, false], ((Table.get (metering en rep).meter.regions 3).map fun g => decide (g.en = en ∧ g.reported = rep ∧ BitVec.ofNat 16 (bits 1 47 32) ≠ g.tenant)) = some true) ∧
    ((metering false true).meter.fuse < 4096 ∧ (metering false true).meter.final = false) ∧
    (1 : BitVec 128).getLsbD 0 = true ∧ base.side.key = none ∧ 256 < (List.replicate 257 (0 : BitVec 384)).length ∧
    (({ base.meter with flash := some (base.meter.fuse, 0, [], 0, true) } : Meter).flash.map fun e => decide (e.1 = base.meter.fuse)) = some true ∧ base.meter.fuse + 1 ≠ base.meter.fuse ∧
    ({ base.meter with epoch := 1, fuse := 1 } : Meter).epoch ≠ 0 := by
  refine ⟨by decide, by decide, by decide, by decide, by decide, by decide, by rw [List.length_replicate]; decide, by decide, by decide, by decide⟩

/-- R373: an enabled region keeps its entry. -/
theorem test_mreg_locked : nextWith (exec (.mregWrite 3 1) (metering true true)) (fun t => t == metering true true) = true := by decide

/-- A leaf with the host-window bit for the page at 0x110000; a port enabled. -/
def windowedPage : State := { base with mem := Memory.writeList base.mem 0x103008 (leBytes 8 0x11004F) }

/-- A stop sits on twelve loops of 64 whatever `Config.loops` is: on one at least, and not on all. -/
theorem test_meets_HealthEvents_loops : (∃ n < 64, n ∈ loopsOf 0 46) ∧ ∃ n < 64, n ∉ loopsOf 0 46 := by
  obtain ⟨twelve, -, small⟩ := loopsOf_twelve 0 46 (by decide)
  constructor
  · obtain ⟨a, l, e⟩ := List.exists_cons_of_length_pos (l := loopsOf 0 46) (by omega)
    exact ⟨a, small a (by rw [e]; exact List.mem_cons_self), by rw [e]; exact List.mem_cons_self⟩
  · by_contra h
    simp only [not_exists, not_and, not_not] at h
    have sub : (List.range 64).Subperm (loopsOf 0 46) := List.subperm_of_subset List.nodup_range fun n hn => h n (List.mem_range.mp hn)
    have := sub.length_le
    rw [List.length_range] at this
    omega

theorem test_meets_HealthEvents :
    (base.ras.logWr - base.ras.logRd ≠ 256 ∧ 0 % 16 < 16 ∧ base.physicalOf 5 = some 5 ∧ base.ras.latent = [] ∧
      windowedPage.poisonedLoc 0 (.dev 0x110100 false false true) = false) ∧ (base.hopFails.length = 0) ∧
    ({ base with hopFails := [((0, 1, 2), 7)] } : State).hopFails.length = 1 ∧
    ((Table.get ({ base with pf := { base.pf with stPort := [(5, 0x80000000)] } } : State).pf.stPort 5).getD 0).getLsbD 31 = true ∧
    ((Table.get base.pf.stPort 5).getD 0).getLsbD 31 = false ∧ base.memoryWf = true ∧ windowedPage.memoryWf = true :=
  ⟨by decide, by decide, by decide, by decide, by decide, by decide, by decide⟩

/-- A die whose pool stage C has fixed: granules and descriptors below the limit and above; a bank that has not been polled; lines of a
write within the window. -/
theorem test_meets_HealthEvents_bounds :
    (let s : State := { base with stage := 3, die0 := { base.die0 with pool := 2 ^ 31 } }
     5 < s.limit 0 / 32 ∧ 5 < s.limit 0 / 2048 ∧ s.limit 0 / 2048 ≤ 2 ^ 29 - 1 ∧ s.limit 0 / 32 ≤ 2 ^ 35 - 1) ∧
    Table.get base.ras.ecsPast 5 = none ∧ ({ base.ras with ecsth := 0 } : Ras).ecsth ≤ min 3 0xFFFFFFFF ∧
    linesOf 0x110100 4 = [(0x110100, 4)] ∧ State.reset.hostWindow 0x110100 = false := by decide

theorem test_meets_HealthEvents_outside : State.reset.hostWindow 0x110100 = false ∧ State.reset.memoryWf = true := by decide

/-- The three levels above the leaf are walked entry by entry. -/
theorem test_meets_HealthEvents_window : windowedPage.hostWindow 0x110100 = true := by decide +kernel

/-- R370: the eighth failure of a hop in a row withholds its die, on whichever loop the stop sits. -/
theorem test_hop_failures (loop : Nat) (small : loop < 64) (on : loop ∈ loopsOf 0 2) :
    nextWith (exec (.fabricHopRetry 0 loop 2) ({ State.reset with hopFails := [((0, loop, 2), 7)] } : State)) (fun t => t.die0.withheld && t.ras.fatal) = true := by
  have down : ∀ n < 64, (({ State.reset with hopFails := [] } : State).hopDown 0 n).die0.withheld = true ∧
      (({ State.reset with hopFails := [] } : State).hopDown 0 n).ras.fatal = true := by decide
  have e : exec (.fabricHopRetry 0 loop 2) ({ State.reset with hopFails := [((0, loop, 2), 7)] } : State) =
      execFabricHopRetry 0 loop 2 { State.reset with hopFails := [((0, loop, 2), 7)] } := rfl
  rw [e, execFabricHopRetry, if_neg (by simp [stopCount]; omega), if_neg (by simpa using on)]
  simpa [nextWith] using down loop small

end Sys2Proof.Tests
end

namespace Sys2Proof.Machine

/-! ### Byte memories read back (R1, R239) -/

theorem Memory.read_cons (k : Nat) (c : Byte) (m : List Host.Cell) (a : Nat) :
    Memory.read ((k, c) :: m) a = if k = a then c else Memory.read m a := rfl

/-- An address at or below every listed one reads 0. -/
theorem Memory.read_of_above {m : List Host.Cell} {lo a : Nat} (h : Memory.above lo m = true) (ha : a ≤ lo) :
    Memory.read m a = 0 := by
  induction m with
  | nil => rfl
  | cons e m ih =>
    obtain ⟨k, c⟩ := e
    simp only [Memory.above, Bool.and_eq_true, decide_eq_true_eq] at h
    rw [Memory.read_cons, if_neg (by omega), ih h.2]

theorem Memory.read_write_same (m : List Host.Cell) (a : Nat) (b : Byte) (h : Memory.wf m = true) :
    Memory.read (Memory.write m a b) a = b := by
  induction m with
  | nil => unfold Memory.write; split <;> simp_all [Memory.read]
  | cons e m ih =>
    obtain ⟨k, c⟩ := e
    obtain ⟨-, above, wf⟩ := (Memory.wf_cons k c m).1 h
    rw [Memory.write_cons]
    split_ifs with below zero here zero
    · have none : Memory.above a ((k, c) :: m) = true := by simp [Memory.above, below, Memory.above_mono m above below.le]
      rw [Memory.read_of_above none le_rfl, zero]
    · simp [Memory.read_cons]
    · rw [Memory.read_of_above above here.le, zero]
    · simp [Memory.read_cons]
    · rw [Memory.read_cons, if_neg (Ne.symm here), ih wf]

theorem Memory.read_write_other (m : List Host.Cell) {a c : Nat} (b : Byte) (ne : c ≠ a) :
    Memory.read (Memory.write m a b) c = Memory.read m c := by
  induction m with
  | nil => unfold Memory.write; split <;> simp [Memory.read, ne.symm]
  | cons e m ih =>
    obtain ⟨k, d⟩ := e
    rw [Memory.write_cons]
    split_ifs with below zero here zero
    · rfl
    · rw [Memory.read_cons, if_neg ne.symm]
    · rw [Memory.read_cons, if_neg (by omega)]
    · rw [Memory.read_cons, if_neg ne.symm, Memory.read_cons, if_neg (by omega)]
    · rw [Memory.read_cons, Memory.read_cons, ih]

/-- The first address of a canonical list is the least one that does not read 0. -/
theorem Memory.read_head {k : Nat} {b : Byte} {m : List Host.Cell} (h : Memory.wf ((k, b) :: m) = true) :
    Memory.read ((k, b) :: m) k ≠ 0 ∧ ∀ a, a < k → Memory.read ((k, b) :: m) a = 0 := by
  obtain ⟨ne, above, -⟩ := (Memory.wf_cons k b m).1 h
  refine ⟨by simpa [Memory.read_cons] using ne, fun a ha => ?_⟩
  rw [Memory.read_cons, if_neg (by omega), Memory.read_of_above above ha.le]

/-- Two canonical lists that read alike begin at the same address. -/
theorem Memory.head_eq {j k : Nat} {b c : Byte} {m n : List Host.Cell} (hm : Memory.wf ((j, b) :: m) = true)
    (hn : Memory.wf ((k, c) :: n) = true) (alike : ∀ a, Memory.read ((j, b) :: m) a = Memory.read ((k, c) :: n) a) : j = k := by
  obtain ⟨atJ, belowJ⟩ := Memory.read_head hm
  obtain ⟨atK, belowK⟩ := Memory.read_head hn
  rcases Nat.lt_trichotomy j k with lt | eq | gt
  · exact absurd (alike j ▸ belowK j lt) atJ
  · exact eq
  · exact absurd (alike k ▸ belowJ k gt) atK

theorem Memory.eq_of_read_eq (m n : List Host.Cell) (hm : Memory.wf m = true) (hn : Memory.wf n = true)
    (alike : ∀ a, Memory.read m a = Memory.read n a) : m = n := by
  induction m generalizing n with
  | nil =>
    cases n with
    | nil => rfl
    | cons f n => exact absurd (alike f.1).symm (Memory.read_head hn).1
  | cons e m ih =>
    cases n with
    | nil => exact absurd (alike e.1) (Memory.read_head hm).1
    | cons f n =>
      obtain ⟨j, b⟩ := e
      obtain ⟨k, c⟩ := f
      obtain rfl := Memory.head_eq hm hn alike
      obtain ⟨-, aboveM, wfM⟩ := (Memory.wf_cons j b m).1 hm
      obtain ⟨-, aboveN, wfN⟩ := (Memory.wf_cons j c n).1 hn
      have head : b = c := by simpa [Memory.read_cons] using alike j
      have tail : m = n := ih n wfM wfN fun a => by
        by_cases eq : j = a
        · rw [← eq, Memory.read_of_above aboveM le_rfl, Memory.read_of_above aboveN le_rfl]
        · simpa [Memory.read_cons, eq] using alike a
      rw [head, tail]

/-! ### Runs of bytes (R1) -/

theorem Memory.read_writeList_outside (m : List Host.Cell) (a c : Nat) (bs : List Byte) (out : c < a ∨ a + bs.length ≤ c) :
    Memory.read (Memory.writeList m a bs) c = Memory.read m c := by
  induction bs generalizing m a with
  | nil => rfl
  | cons b bs ih =>
    rw [List.length_cons] at out
    rw [Memory.writeList, ih _ _ (by omega), Memory.read_write_other m b (by omega)]

theorem Memory.read_writeList_head (m : List Host.Cell) (a : Nat) (b : Byte) (bs : List Byte) (h : Memory.wf m = true) :
    Memory.read (Memory.writeList m a (b :: bs)) a = b := by
  rw [Memory.writeList, Memory.read_writeList_outside _ _ _ _ (.inl (Nat.lt_succ_self a)), Memory.read_write_same m a b h]

theorem Memory.readList_succ (m : List Host.Cell) (a n : Nat) :
    Memory.readList m a (n + 1) = Memory.read m a :: Memory.readList m (a + 1) n := by
  simp [Memory.readList, List.range_succ_eq_map, Function.comp_def, Nat.add_comm, Nat.add_left_comm]

theorem Memory.readList_writeList (m : List Host.Cell) (a : Nat) (bs : List Byte) (h : Memory.wf m = true) :
    Memory.readList (Memory.writeList m a bs) a bs.length = bs := by
  induction bs generalizing m a with
  | nil => rfl
  | cons b bs ih =>
    rw [List.length_cons, Memory.readList_succ, Memory.read_writeList_head m a b bs h, Memory.writeList,
      ih _ _ (Memory.wf_write m a b h)]

@[simp] theorem length_leBytes (n x : Nat) : (leBytes n x).length = n := by
  induction n generalizing x with
  | zero => rfl
  | succ n ih => rw [leBytes, List.length_cons, ih]

/-- The bytes of a number, read as a number, give its low 8n bits. -/
theorem leNat_leBytes (n x : Nat) : leNat (leBytes n x) = x % 256 ^ n := by
  induction n generalizing x with
  | zero => rw [leBytes, leNat, pow_zero, Nat.mod_one]
  | succ n ih => rw [leBytes, leNat, ih, BitVec.toNat_ofNat, pow_succ' 256 n, Nat.mod_mul (a := 256)]

end Sys2Proof.Machine

section
open Sys2Proof Sys2Proof.Machine

/-- Settles O11: reading is by the key, and a canonical list is determined by its least key and what lies above. -/
theorem memoryLaws : Obligations.MemoryLaws :=
  ⟨fun m a b h => ⟨Memory.read_write_same m a b h, fun _ ne => Memory.read_write_other m b ne, Memory.wf_write m a b h⟩,
    Memory.eq_of_read_eq⟩

/-- Settles O12: a run of bytes reads back as it was written, and the bytes of a number give the number. -/
theorem littleEndian : Obligations.LittleEndian := by
  intro m a n x h
  have run := Memory.readList_writeList m a (leBytes n x) h
  rw [length_leBytes] at run
  refine ⟨by rw [run, leNat_leBytes], fun pos => ?_, fun c out => ?_⟩
  · obtain ⟨k, rfl⟩ := Nat.exists_eq_succ_of_ne_zero pos.ne'
    exact Memory.read_writeList_head m a _ _ h
  · exact Memory.read_writeList_outside m a c _ (by rwa [length_leBytes])

end

namespace Sys2Proof.Machine

/-! ### The canonical form of both memories

Two kinds of facts. An operation that writes no memory leaves `memoryWf` as it is: an equation `State.foo_memoryWf`, in the simp set (tried
before the arguments are visited, which drop out with it). One that writes keeps it: an implication `State.memoryWf_foo`, in the simp set too. -/

theorem SameSide.memoryWf {s t : State} (h : SameSide s t) : t.memoryWf = s.memoryWf := by
  rw [State.memoryWf, h.2.1, h.2.2, State.memoryWf]

theorem Serves.memoryWf {s t : State} (h : Serves s t) : t.memoryWf = s.memoryWf := by
  rw [State.memoryWf, h.mem, h.hostMem, State.memoryWf]

/-- An update of other fields than the memories. -/
@[simp ↓] theorem State.memoryWf_update (s : State) (released here agenda fresh serial cores pipes past bins binTeams ctxs die0 die1 blocks
    pages stage stageErr d0ok d1ok ticksRun tickOffset pf ras meter side msix ltr idlePlaces hopFails window starved routes circling halves
    former hostRead images shutdown) :
    (State.mk released here agenda fresh serial cores pipes past bins binTeams ctxs die0 die1 s.mem s.hostMem blocks pages stage stageErr
      d0ok d1ok ticksRun tickOffset pf ras meter side msix ltr idlePlaces hopFails window starved routes circling halves former hostRead
      images shutdown).memoryWf = s.memoryWf := (rfl)

@[simp ↓] theorem State.ite_memoryWf {p : Prop} [Decidable p] (s t : State) :
    (if p then s else t).memoryWf = if p then s.memoryWf else t.memoryWf := apply_ite _ _ _ _

@[simp ↓] theorem ite_snd {α β : Type} {p : Prop} [Decidable p] (a b : α × β) : (if p then a else b).2 = if p then a.2 else b.2 :=
  apply_ite _ _ _ _

/-- Steps that each leave the form of the state `g` in what they carry leave it together. -/
theorem foldl_memoryWf_eq {α β : Type} (g : β → State) (f : β → α → β) (hf : ∀ r a, (g (f r a)).memoryWf = (g r).memoryWf) (l : List α)
    (r : β) : (g (l.foldl f r)).memoryWf = (g r).memoryWf := by
  induction l generalizing r with
  | nil => rfl
  | cons a l ih => rw [List.foldl_cons, ih, hf]

/-- Steps that each keep the form of the state `g` in what they carry keep it together. -/
theorem memoryWf_foldl_of {α β : Type} (g : β → State) (f : β → α → β) (hf : ∀ r a, (g r).memoryWf = true → (g (f r a)).memoryWf = true)
    (l : List α) (r : β) (h : (g r).memoryWf = true) : (g (l.foldl f r)).memoryWf = true := by
  induction l generalizing r with
  | nil => exact h
  | cons a l ih => exact ih _ (hf r a h)

@[simp ↓] theorem foldl_memoryWf {α : Type} (f : State → α → State) (hf : ∀ s a, (f s a).memoryWf = s.memoryWf) (l : List α) (s : State) :
    (l.foldl f s).memoryWf = s.memoryWf :=
  foldl_memoryWf_eq (fun s => s) f hf l s

theorem memoryWf_foldl {α : Type} {f : State → α → State} (hf : ∀ s a, s.memoryWf = true → (f s a).memoryWf = true) {l : List α}
    {s : State} (h : s.memoryWf = true) : (l.foldl f s).memoryWf = true :=
  memoryWf_foldl_of (fun s => s) f hf l s h

/-! ### What a word, an event or a turn comes to -/

/-- Every state that an effect holds has both memories in canonical form. -/
def Effect.memoryWf : Effect → Bool
  | .done s => s.memoryWf
  | .jump s _ => s.memoryWf
  | .trap _ _ _ => true
  | .trapFp _ => true
  | .wait s _ => s.memoryWf
  | .ended s => s.memoryWf

def Due.memoryWf : Due → Bool
  | .run _ s => s.memoryWf
  | .left s => s.memoryWf

@[simp] theorem Effect.done_memoryWf (s : State) : (Effect.done s).memoryWf = s.memoryWf := rfl
@[simp] theorem Effect.jump_memoryWf (s : State) (pc : Nat) : (Effect.jump s pc).memoryWf = s.memoryWf := rfl
@[simp] theorem Effect.trap_memoryWf (cause : BitVec 8) (fault : DWord) (aux : Word) : (Effect.trap cause fault aux).memoryWf = true := rfl
@[simp] theorem Effect.trapFp_memoryWf (flags : Nat) : (Effect.trapFp flags).memoryWf = true := rfl
@[simp] theorem Effect.wait_memoryWf (s : State) (reason : Nat) : (Effect.wait s reason).memoryWf = s.memoryWf := rfl
@[simp] theorem Effect.ended_memoryWf (s : State) : (Effect.ended s).memoryWf = s.memoryWf := rfl
@[simp] theorem Effect.plain_memoryWf (cause : BitVec 8) : (Effect.plain cause).memoryWf = true := rfl

@[simp] theorem Due.run_memoryWf (i : Instr) (s : State) : (Due.run i s).memoryWf = s.memoryWf := rfl
@[simp] theorem Due.left_memoryWf (s : State) : (Due.left s).memoryWf = s.memoryWf := rfl

/-- The next state, where there is one, has both memories in canonical form. -/
def resultWf : Result → Bool
  | .next s => s.memoryWf
  | .fault _ => true
  | .refused _ => true

@[simp] theorem resultWf_next (s : State) : resultWf (.next s) = s.memoryWf := rfl
@[simp] theorem resultWf_fault (r : Fault) : resultWf (.fault r) = true := rfl
@[simp] theorem resultWf_refused (r : Refusal) : resultWf (.refused r) = true := rfl

@[simp ↓] theorem Effect.ite_memoryWf {p : Prop} [Decidable p] (a b : Effect) :
    (if p then a else b).memoryWf = if p then a.memoryWf else b.memoryWf := apply_ite _ _ _ _

@[simp ↓] theorem Due.ite_memoryWf {p : Prop} [Decidable p] (a b : Due) :
    (if p then a else b).memoryWf = if p then a.memoryWf else b.memoryWf := apply_ite _ _ _ _

@[simp ↓] theorem resultWf_ite {p : Prop} [Decidable p] (a b : Result) :
    resultWf (if p then a else b) = if p then resultWf a else resultWf b := apply_ite _ _ _ _

/-- What stops a word, or the state in what goes on, has both memories in canonical form. -/
def exceptWf {α : Type} (state : α → State) : Except Effect α → Bool
  | .error e => e.memoryWf
  | .ok a => (state a).memoryWf

@[simp] theorem exceptWf_error {α : Type} (state : α → State) (e : Effect) : exceptWf state (.error e) = e.memoryWf := rfl
@[simp] theorem exceptWf_ok {α : Type} (state : α → State) (a : α) : exceptWf state (.ok a) = (state a).memoryWf := rfl

@[simp ↓] theorem exceptWf_ite {α : Type} {p : Prop} [Decidable p] (state : α → State) (a b : Except Effect α) :
    exceptWf state (if p then a else b) = if p then exceptWf state a else exceptWf state b := apply_ite _ _ _ _

theorem memoryWf_of_error {α : Type} {state : α → State} {x : Except Effect α} {e : Effect} (h : exceptWf state x = true) (stops : x = .error e) :
    e.memoryWf = true := by
  subst stops
  exact h

theorem memoryWf_of_ok {α : Type} {state : α → State} {x : Except Effect α} {a : α} (h : exceptWf state x = true) (goes : x = .ok a) :
    (state a).memoryWf = true := by
  subst goes
  exact h

/-- An effect found along a list has the form if every one that can be found has. -/
theorem memoryWf_of_findSome {α : Type} {f : α → Option Effect} {l : List α} {e : Effect} (found : l.findSome? f = some e)
    (hf : ∀ a e, f a = some e → e.memoryWf = true) : e.memoryWf = true := by
  obtain ⟨a, -, ha⟩ := List.exists_of_findSome?_eq_some found
  exact hf a e ha
/-! ### Machine/Access -/

@[simp ↓] theorem State.setCore_memoryWf (s : State) (c : Nat) (k : Core) : (s.setCore c k).memoryWf = s.memoryWf := (rfl)

@[simp ↓] theorem State.setTeam_memoryWf (s : State) (c i : Nat) (t : Team) : (s.setTeam c i t).memoryWf = s.memoryWf := (rfl)

@[simp ↓] theorem State.dropTeam_memoryWf (s : State) (c i : Nat) : (s.dropTeam c i).memoryWf = s.memoryWf := (rfl)

@[simp ↓] theorem State.setCtx_memoryWf (s : State) (x : Nat) (k : Ctx) : (s.setCtx x k).memoryWf = s.memoryWf := (rfl)

@[simp ↓] theorem State.setLaunch_memoryWf (s : State) (x : Nat) (l : Launch) : (s.setLaunch x l).memoryWf = s.memoryWf := (rfl)

@[simp ↓] theorem State.setDie_memoryWf (s : State) (d : Nat) (k : Die) : (s.setDie d k).memoryWf = s.memoryWf := by
  unfold State.setDie
  simp

@[simp ↓] theorem State.setBlock_memoryWf (s : State) (b : Nat) (k : Block) : (s.setBlock b k).memoryWf = s.memoryWf := (rfl)

@[simp ↓] theorem State.setPage_memoryWf (s : State) (p : Nat) (k : Page) : (s.setPage p k).memoryWf = s.memoryWf := (rfl)

@[simp ↓] theorem State.setCluster_memoryWf (s : State) (k : Nat) (b : List Bin) : (s.setCluster k b).memoryWf = s.memoryWf := (rfl)

@[simp ↓] theorem State.setCohort_memoryWf (s : State) (c : Nat) (h : Cohort) : (s.setCohort c h).memoryWf = s.memoryWf := (rfl)

@[simp ↓] theorem State.passTicks_memoryWf (s : State) (n : Nat) : (s.passTicks n).memoryWf = s.memoryWf := by
  unfold State.passTicks
  simp

@[simp ↓] theorem State.passCycles_memoryWf (s : State) (d n : Nat) : (s.passCycles d n).memoryWf = s.memoryWf := by
  unfold State.passCycles
  simp

@[simp ↓] theorem State.number_memoryWf (s : State) : s.number.2.memoryWf = s.memoryWf := (rfl)

@[simp ↓] theorem State.raise_memoryWf (s : State) (fn vec : Nat) : (s.raise fn vec).memoryWf = s.memoryWf := (rfl)

@[simp ↓] theorem State.contextEvent_memoryWf (s : State) (x : Nat) : (s.contextEvent x).memoryWf = s.memoryWf := by
  unfold State.contextEvent
  repeat' split
  all_goals simp

@[simp ↓] theorem State.reply_memoryWf (s : State) (what : Nat) (bytes : List Byte) : (s.reply what bytes).memoryWf = s.memoryWf := by
  unfold State.reply
  simp

@[simp ↓] theorem State.rasLog_memoryWf (s : State) (kind unit detail : Nat) : (s.rasLog kind unit detail).memoryWf = s.memoryWf :=
  SameSide.memoryWf (State.rasLog_keeps s kind unit detail)

@[simp ↓] theorem State.poisonUsed_memoryWf (s : State) (unit x what : Nat) : (s.poisonUsed unit x what).memoryWf = s.memoryWf := by
  unfold State.poisonUsed
  simp

@[simp ↓] theorem State.devstatEvent_memoryWf (s : State) : s.devstatEvent.memoryWf = s.memoryWf := 
  foldl_memoryWf _ (fun _ _ => State.raise_memoryWf _ _ _) _ s

/-! ### Machine/Memory -/

@[simp ↓] theorem State.keepXlat_memoryWf (s : State) (x : Nat) (found : List (Nat × Nat × DWord)) :
    (s.keepXlat x found).memoryWf = s.memoryWf := by
  unfold State.keepXlat
  simp

@[simp ↓] theorem State.setLine_memoryWf (s : State) (d l : Nat) (k : L2Line) : (s.setLine d l k).memoryWf = s.memoryWf := by
  unfold State.setLine
  simp

@[simp ↓] theorem State.dropLine_memoryWf (s : State) (d l : Nat) : (s.dropLine d l).memoryWf = s.memoryWf := by
  unfold State.dropLine
  simp

@[simp ↓] theorem State.refer_memoryWf (s : State) (pg : Nat) : (s.refer pg).memoryWf = s.memoryWf :=
  SameSide.memoryWf (State.refer_keeps s pg)

@[simp ↓] theorem State.fillHome_memoryWf (s : State) (da : Nat) : (s.fillHome da).memoryWf = s.memoryWf :=
  SameSide.memoryWf (State.fillHome_keeps s da)

@[simp ↓] theorem State.fillSwm_memoryWf (s : State) (d l : Nat) : (s.fillSwm d l).memoryWf = s.memoryWf :=
  SameSide.memoryWf (State.fillSwm_keeps s d l)

@[simp ↓] theorem State.keepPast_memoryWf (s : State) (keys : List Nat) : (s.keepPast keys).memoryWf = s.memoryWf :=
  SameSide.memoryWf (State.keepPast_keeps s keys)

@[simp ↓] theorem State.countGranule_memoryWf (s : State) (stack : Nat) (bad : Bool) : (s.countGranule stack bad).memoryWf = s.memoryWf :=
  SameSide.memoryWf (State.countGranule_keeps s stack bad)

@[simp ↓] theorem State.poisonGranule_memoryWf (s : State) (g : Nat) (scrub : Bool) : (s.poisonGranule g scrub).memoryWf = s.memoryWf :=
  SameSide.memoryWf (State.poisonGranule_keeps s g scrub)

@[simp ↓] theorem State.poisonCarve_memoryWf (s : State) (die j : Nat) (scrub : Bool) : (s.poisonCarve die j scrub).memoryWf = s.memoryWf :=
  SameSide.memoryWf (State.poisonCarve_keeps s die j scrub)

@[simp ↓] theorem State.demand_memoryWf (s : State) (loc : Loc) : (s.demand loc).memoryWf = s.memoryWf :=
  SameSide.memoryWf (State.demand_keeps s loc)

@[simp ↓] theorem State.touch_memoryWf (s : State) (d : Nat) (loc : Loc) : (s.touch d loc).memoryWf = s.memoryWf := by
  unfold State.touch
  split <;> simp

@[simp ↓] theorem State.noteRead_memoryWf (s : State) (d : Nat) (loc : Loc) : (s.noteRead d loc).memoryWf = s.memoryWf :=
  SameSide.memoryWf (State.noteRead_keeps s d loc)

@[simp ↓] theorem State.readAtHome_memoryWf (s : State) (d : Nat) (loc : Loc) : (s.readAtHome d loc).memoryWf = s.memoryWf :=
  SameSide.memoryWf (State.readAtHome_keeps s d loc)

@[simp ↓] theorem State.readAt_memoryWf (s : State) (d : Nat) (loc : Loc) : (s.readAt d loc).memoryWf = s.memoryWf :=
  SameSide.memoryWf (State.readAt_keeps s d loc)

@[simp ↓] theorem State.walkDemand_memoryWf (s : State) (d x va : Nat) : (s.walkDemand d x va).memoryWf = s.memoryWf := by
  unfold State.walkDemand
  simp

@[simp ↓] theorem State.walkAll_memoryWf (s : State) (d x : Nat) (addrs : List (Nat × Nat)) :
    (s.walkAll d x addrs).memoryWf = s.memoryWf := by
  unfold State.walkAll
  simp

@[simp ↓] theorem State.cacheAll_memoryWf (s : State) (d x : Nat) (addrs : List (Nat × Nat)) :
    (s.cacheAll d x addrs).memoryWf = s.memoryWf := by
  unfold State.cacheAll
  simp

@[simp ↓] theorem State.readRun_memoryWf (s : State) (d x va n : Nat) : (s.readRun d x va n).memoryWf = s.memoryWf :=
  foldl_memoryWf _ (fun t i => by dsimp only; split <;> simp) _ s

@[simp ↓] theorem State.noteWrite_memoryWf (s : State) (da : Nat) : (s.noteWrite da).memoryWf = s.memoryWf :=
  SameSide.memoryWf (State.noteWrite_keeps s da)

@[simp ↓] theorem State.noteImage_memoryWf (s : State) (da : Nat) : (s.noteImage da).memoryWf = s.memoryWf :=
  SameSide.memoryWf (State.noteImage_keeps s da)

@[simp ↓] theorem State.commandPage_memoryWf (s : State) (pg why : Nat) : (s.commandPage pg why).memoryWf = s.memoryWf :=
  SameSide.memoryWf (State.commandPage_keeps s pg why)

@[simp ↓] theorem State.closeWindows_memoryWf (s : State) : s.closeWindows.memoryWf = s.memoryWf :=
  SameSide.memoryWf (State.closeWindows_keeps s)

@[simp ↓] theorem State.backWindows_memoryWf (s : State) (x : Nat) (leaves : List (Nat × Nat × Nat)) :
    (s.backWindows x leaves).memoryWf = s.memoryWf :=
  SameSide.memoryWf (State.backWindows_keeps s x leaves)

@[simp ↓] theorem State.tableChange_memoryWf (s old : State) : (s.tableChange old).memoryWf = s.memoryWf :=
  SameSide.memoryWf (State.tableChange_keeps s old)

@[simp ↓] theorem State.healAt_memoryWf (s : State) (da n : Nat) : (s.healAt da n).memoryWf = s.memoryWf :=
  SameSide.memoryWf (State.healAt_keeps s da n)

@[simp ↓] theorem State.memoryWf_storeLoc {s : State} {d : Nat} {loc : Loc} {bytes : List Byte} {count : Bool} (h : s.memoryWf = true) :
    (s.storeLoc d loc bytes count).memoryWf = true := by
  rw [State.memoryWf_iff] at *
  obtain ⟨-, hm, hh⟩ := State.storeLoc_keeps s d loc bytes count
  rw [hm, hh]
  cases loc with
  | host pa => exact ⟨h.1, Memory.wf_writeList _ _ _ h.2⟩
  | dev da swm uc hw =>
    cases swm with
    | true => exact h
    | false => exact ⟨Memory.wf_writeList _ _ _ h.1, h.2⟩

@[simp ↓] theorem State.memoryWf_writeLanes {s : State} {d : Nat} {lanes : List (Access × List Byte)} (h : s.memoryWf = true) :
    (s.writeLanes d lanes).memoryWf = true := by
  unfold State.writeLanes
  rw [State.tableChange_memoryWf]
  exact memoryWf_foldl_of (fun (r : State × List (Nat × Loc)) => r.1) _ (fun r e hr => by simp [hr]) _ _ h

@[simp ↓] theorem State.poisonLoc_memoryWf (s : State) (d : Nat) (loc : Loc) : (s.poisonLoc d loc).memoryWf = s.memoryWf := by
  unfold State.poisonLoc
  cases loc with
  | host pa => rfl
  | dev da swm uc hw =>
    dsimp only
    split
    · simp
    · split <;> simp

@[simp ↓] theorem State.addFree_memoryWf (s : State) (d n : Nat) : (s.addFree d n).memoryWf = s.memoryWf := by
  unfold State.addFree
  simp

@[simp ↓] theorem State.takeFree_memoryWf (s : State) (d n : Nat) : (s.takeFree d n).memoryWf = s.memoryWf := by
  unfold State.takeFree
  simp

@[simp ↓] theorem State.touchPage_memoryWf (s : State) (x pg : Nat) : (s.touchPage x pg).memoryWf = s.memoryWf := by
  unfold State.touchPage
  split <;> simp

@[simp ↓] theorem State.touchLoc_memoryWf (s : State) (x : Nat) (loc : Loc) : (s.touchLoc x loc).memoryWf = s.memoryWf := by
  unfold State.touchLoc
  split <;> simp

@[simp ↓] theorem State.keepCharge_memoryWf (s : State) (c id b : Nat) (n : Option Nat) :
    (s.keepCharge c id b n).memoryWf = s.memoryWf := (rfl)

@[simp ↓] theorem State.sizeBlockAt_memoryWf (s : State) (b : Nat) (clean : Bool) : (s.sizeBlockAt b clean).memoryWf = s.memoryWf := by
  unfold State.sizeBlockAt
  simp

@[simp ↓] theorem State.roomFor_memoryWf (s : State) (x : Nat) (loc : Loc) (n : Nat) : (s.roomFor x loc n).memoryWf = s.memoryWf :=
  SameSide.memoryWf (State.roomFor_keeps s x loc n)

@[simp ↓] theorem State.memoryWf_writeback {s : State} {b : Nat} {lines : List (Nat × Nat)} (h : s.memoryWf = true) :
    (s.writeback b lines).memoryWf = true := by
  have cleaned {t : State} (ht : t.memoryWf = true) : (lines.foldl (fun s e => s.cleanLine e.1 e.2) t).memoryWf = true :=
    memoryWf_foldl (fun _ _ => State.memoryWf_cleanLine _ _ _) ht
  unfold State.writeback
  simp [cleaned, h]

@[simp ↓] theorem State.setLadle_memoryWf (s : State) (c : Nat) (l : Ladle) : (s.setLadle c l).memoryWf = s.memoryWf := (rfl)

@[simp ↓] theorem State.drawLadles_memoryWf (s : State) (c x : Nat) : (s.drawLadles c x).memoryWf = s.memoryWf := by
  unfold State.drawLadles
  split <;> simp

@[simp ↓] theorem State.excess_memoryWf (s : State) (c x d : Nat) : (s.excess c x d).memoryWf = s.memoryWf := by
  unfold State.excess
  split <;> simp

@[simp ↓] theorem State.refund_memoryWf (s : State) (c x d n : Nat) : (s.refund c x d n).memoryWf = s.memoryWf := by
  unfold State.refund
  split <;> simp

@[simp ↓] theorem State.returnLadle_memoryWf (s : State) (c x : Nat) : (s.returnLadle c x).memoryWf = s.memoryWf := by
  unfold State.returnLadle
  split <;> simp

@[simp ↓] theorem State.answer_memoryWf (s : State) (c x id b : Nat) (wasDirty more : Bool) :
    (s.answer c x id b wasDirty more).memoryWf = s.memoryWf := by
  unfold State.answer
  simp

@[simp ↓] theorem State.fillL1_memoryWf (s : State) (c x : Nat) (line : Loc) : (s.fillL1 c x line).memoryWf = s.memoryWf :=
  (State.fillL1_serves s c x line).memoryWf

@[simp ↓] theorem State.cachedRead_memoryWf (s : State) (c x : Nat) (loc : Loc) (n key : Nat) :
    (s.cachedRead c x loc n key).2.2.2.memoryWf = s.memoryWf := by
  unfold State.cachedRead
  split <;> simp

@[simp ↓] theorem State.dirtyUnits_memoryWf (s : State) (c start n : Nat) : (s.dirtyUnits c start n).memoryWf = s.memoryWf := (rfl)

@[simp ↓] theorem State.scratchWrite_memoryWf (s : State) (c id a : Nat) (bytes : List Byte) :
    (s.scratchWrite c id a bytes).memoryWf = s.memoryWf := by
  unfold State.scratchWrite
  split <;> simp

/-! ### Machine/Transfer -/

@[simp ↓] theorem State.scratchPut_memoryWf (s : State) (side : Nat × Nat) (a : Nat) (bytes : List Byte) (bad : List Nat) :
    (s.scratchPut side a bytes bad).memoryWf = s.memoryWf := by
  unfold State.scratchPut
  dsimp only
  split <;> simp

@[simp ↓] theorem State.readRow_memoryWf (s : State) (c : Nat) (row : CopyRow) : (s.readRow c row).2.memoryWf = s.memoryWf :=
  foldl_memoryWf_eq (fun (r : (List Byte × List Nat × List (Option Nat)) × State) => r.2) _ (fun _ _ => by simp) _ _

@[simp ↓] theorem State.memoryWf_writePiece {s : State} {c : Nat} {a : Access} {first : Nat} {bytes : List Byte}
    {bad skip before : List Nat} (h : s.memoryWf = true) : (s.writePiece c a first bytes bad skip before).memoryWf = true := by
  have words (l : List Nat) (r : Bool × State) (hr : r.2.memoryWf = true) :
      (l.foldl (fun (r : Bool × State) i => (true, r.2.storeLoc (dieOf c) (a.loc.plus (4 * i)) ((bytes.drop (4 * i)).take 4)
        (!r.1 || r.2.replicatedAt a.loc))) r).2.memoryWf = true :=
    memoryWf_foldl_of (fun r => r.2) _ (fun r i hr => State.memoryWf_storeLoc hr) l r hr
  unfold State.writePiece
  simp [words, State.memoryWf_writeLoc, h]

@[simp ↓] theorem State.memoryWf_writeRow {s : State} {c : Nat} {row : CopyRow} {bytes : List Byte} {bad skip before : List Nat}
    (h : s.memoryWf = true) : (s.writeRow c row bytes bad skip before).memoryWf = true :=
  memoryWf_foldl_of (fun (r : Nat × State) => r.2) _ (fun _ _ => State.memoryWf_writePiece) _ _ h

@[simp ↓] theorem State.putRow_memoryWf (s : State) (side : Nat × Nat) (a : Nat) (bytes : List Byte) (bad skip : List Nat) :
    (s.putRow side a bytes bad skip).memoryWf = s.memoryWf := by
  unfold State.putRow
  simp

@[simp ↓] theorem State.copySource_memoryWf (s : State) (c : Nat) (kind : CopyKind) (src : Nat × Nat) (row : CopyRow) :
    (s.copySource c kind src row).2.memoryWf = s.memoryWf := by
  unfold State.copySource
  split <;> simp

@[simp ↓] theorem State.memoryWf_copyPut {s : State} {c : Nat} {kind : CopyKind} {dst : Nat × Nat} {row : CopyRow} {bytes : List Byte}
    {bad skip before : List Nat} (h : s.memoryWf = true) : (s.copyPut c kind dst row bytes bad skip before).memoryWf = true := by
  unfold State.copyPut
  simp [h]

@[simp ↓] theorem State.memoryWf_copyRows {s : State} {c : Nat} {o : Op} {kind : CopyKind} {src dst : Nat × Nat} {rows : List CopyRow}
    (h : s.memoryWf = true) : (s.copyRows c o kind src dst rows).memoryWf = true := by
  unfold State.copyRows
  dsimp only
  generalize moved : List.foldl _ _ _ = r
  have hr : r.2.memoryWf = true := by
    rw [← moved]
    exact memoryWf_foldl_of (fun (r : List (Nat × Option Nat) × State) => r.2) _ (fun r e hr => by simp [hr]) _ _ h
  split
  · simp [hr]
  · exact hr

@[simp ↓] theorem State.memoryWf_copyWordPart {s : State} {c : Nat} {o : Op} {kind : CopyKind} {src dst : Nat × Nat} {rows : List CopyRow}
    {i j : Nat} {put : Bool} (h : s.memoryWf = true) : (s.copyWordPart c o kind src dst rows i j put).2.memoryWf = true := by
  unfold State.copyWordPart
  split
  · exact h
  · simp [h]

@[simp ↓] theorem State.memoryWf_copyWords {s : State} {c : Nat} {o : Op} {which : Loc → Bool} {put : Bool} (h : s.memoryWf = true) :
    (s.copyWords c o which put).2.memoryWf = true := by
  unfold State.copyWords
  split
  · exact memoryWf_foldl_of (fun (r : Op × State) => r.2) _ (fun _ _ => State.memoryWf_copyWordPart) _ _ h
  · exact h

/-! ### Machine/Inflight -/

@[simp ↓] theorem State.setUid_memoryWf (s : State) (c : Nat) (t : Team) : (s.setUid c t).memoryWf = s.memoryWf := (rfl)

@[simp ↓] theorem State.readLine_memoryWf (s : State) (c x : Nat) (cached : Bool) (loc : Loc) (mask : BitVec 4) (key : Nat) :
    (s.readLine c x cached loc mask key).2.memoryWf = s.memoryWf :=
  (State.readLine_serves s c x cached loc mask key).memoryWf

@[simp ↓] theorem State.readLanes_memoryWf (s : State) (c x : Nat) (cached : Bool) (lanes : List Access) (key : Nat) :
    (s.readLanes c x cached lanes key).2.memoryWf = s.memoryWf :=
  (State.readLanes_serves s c x cached lanes key).memoryWf

@[simp ↓] theorem State.loadLine_memoryWf (s : State) (c uid : Nat) (o : Op) (line pass : Nat) :
    (s.loadLine c uid o line pass).2.memoryWf = s.memoryWf :=
  (State.loadLine_serves s c uid o line pass).memoryWf

@[simp ↓] theorem State.swapOp_memoryWf (s : State) (c uid : Nat) (o : Op) : (s.swapOp c uid o).memoryWf = s.memoryWf :=
  (State.swapOp_serves s c uid o).memoryWf

@[simp ↓] theorem State.readInFlight_memoryWf (s : State) (c uid : Nat) (o : Op) (line : Nat) :
    (s.readInFlight c uid o line).2.memoryWf = s.memoryWf :=
  (State.readInFlight_serves s c uid o line).memoryWf

@[simp ↓] theorem State.serveLines_memoryWf (s : State) (lines : List Nat) : (s.serveLines lines).memoryWf = s.memoryWf :=
  (State.serveLines_serves s lines).memoryWf

@[simp ↓] theorem State.memoryWf_ownWrite {s : State} {x : Nat} {loc : Loc} {bytes : List Byte} (h : s.memoryWf = true) :
    (s.ownWrite x loc bytes).memoryWf = true :=
  (State.ownWrite_tells s _ _ _).wf h

/-! ### Machine/Ops -/

@[simp ↓] theorem State.putPath_memoryWf (s : State) (v : View) (p : Path) : (s.putPath v p).memoryWf = s.memoryWf := (rfl)

@[simp ↓] theorem State.modPath_memoryWf (s : State) (v : View) (f : Path → Path) : (s.modPath v f).memoryWf = s.memoryWf := (rfl)

@[simp ↓] theorem State.modTeam_memoryWf (s : State) (v : View) (f : Team → Team) : (s.modTeam v f).memoryWf = s.memoryWf := (rfl)

@[simp ↓] theorem State.memoryWf_trace {s : State} {x kind src team word : Nat} {path : Bool} {pc payload : Nat} (h : s.memoryWf = true) :
    (s.trace x kind src team word path pc payload).memoryWf = true :=
  (State.trace_tells s _ _ _ _ _ _ _ _).wf h

@[simp ↓] theorem State.memoryWf_beginMigration {s : State} {x pg : Nat} (h : s.memoryWf = true) :
    (s.beginMigration x pg).memoryWf = true :=
  (State.beginMigration_tells s _ _).wf h

@[simp ↓] theorem State.memoryWf_traceWord {s : State} {c slot : Nat} {side : Bool} {kind payload : Nat} (h : s.memoryWf = true) :
    (s.traceWord c slot side kind payload).memoryWf = true :=
  (State.traceWord_tells s _ _ _ _ _).wf h

@[simp ↓] theorem State.noteRing_memoryWf (s : State) (runs : List (Loc × Nat)) : (s.noteRing runs).memoryWf = s.memoryWf := (rfl)

@[simp ↓] theorem State.memoryWf_tearTrace {s : State} {d x : Nat} {runs : List (Loc × Nat)} (h : s.memoryWf = true) :
    (s.tearTrace d x runs).memoryWf = true := by
  unfold State.tearTrace
  dsimp only
  split
  · exact h
  · rw [State.memoryWf_update]
    exact memoryWf_foldl (fun _ _ hs => by simp [hs]) h

@[simp ↓] theorem State.memoryWf_publish {s : State} {x : Nat} {l : Launch} {cluster item slot : Nat} {value : Word} {poison : Bool}
    (h : s.memoryWf = true) : (s.publish x l cluster item slot value poison).memoryWf = true := by
  unfold State.publish
  dsimp only
  split_ifs
  · simp [h]
  · simp [h]
  · split <;> simp [h]

@[simp ↓] theorem State.memoryWf_publishAll {s : State} {c : Nat} {t : Team} {value : Nat → Word} {poison : Bool} (h : s.memoryWf = true) :
    (s.publishAll c t value poison).memoryWf = true := by
  unfold State.publishAll
  split
  · exact h
  · refine memoryWf_foldl (fun s i hs => ?_) h
    split
    · exact hs
    · simp [hs]

@[simp ↓] theorem State.dirtyFrame_memoryWf (s : State) (c slot r : Nat) (lanes : List Nat) :
    (s.dirtyFrame c slot r lanes).memoryWf = s.memoryWf := by
  unfold State.dirtyFrame
  dsimp only
  split <;> simp

@[simp ↓] theorem State.dirtyPending_memoryWf (s : State) (c slot : Nat) : (s.dirtyPending c slot).memoryWf = s.memoryWf := by
  unfold State.dirtyPending
  split <;> simp

@[simp ↓] theorem State.uncharge_memoryWf (s : State) (c slot : Nat) (who : Option Bool) :
    (s.uncharge c slot who).memoryWf = s.memoryWf := by
  unfold State.uncharge
  split
  · rfl
  · split
    · rfl
    · dsimp only
      split <;> simp

@[simp ↓] theorem State.unchargeAll_memoryWf (s : State) (c slot : Nat) : (s.unchargeAll c slot).memoryWf = s.memoryWf := by
  unfold State.unchargeAll
  simp

@[simp ↓] theorem State.recordFault_memoryWf (s : State) (x launch core slot : Nat) (cause : BitVec 8) (pc : Nat) (hpc nhdl : Bool) :
    (s.recordFault x launch core slot cause pc hpc nhdl).memoryWf = s.memoryWf := by
  unfold State.recordFault
  simp

@[simp ↓] theorem State.memoryWf_kill {s : State} {c slot : Nat} {cause : BitVec 8} {pc : Nat} {hpc nhdl : Bool} (h : s.memoryWf = true) :
    (s.kill c slot cause pc hpc nhdl).memoryWf = true := by
  unfold State.kill
  split <;> simp [h]

@[simp ↓] theorem State.watchImage_memoryWf (s : State) (x entry codesz : Nat) : (s.watchImage x entry codesz).memoryWf = s.memoryWf := by
  unfold State.watchImage
  simp

@[simp ↓] theorem State.readImage_memoryWf (s : State) (d x va codesz moff : Nat) :
    (s.readImage d x va codesz moff).memoryWf = s.memoryWf := by
  unfold State.readImage
  simp

@[simp ↓] theorem State.readHandler_memoryWf (s : State) (d x : Nat) : (s.readHandler d x).memoryWf = s.memoryWf := by
  unfold State.readHandler
  dsimp only
  split
  · rfl
  · split <;> simp

@[simp ↓] theorem State.handlerPassed_memoryWf (s : State) (x va codesz : Nat) : (s.handlerPassed x va codesz).memoryWf = s.memoryWf := by
  unfold State.handlerPassed
  simp

@[simp ↓] theorem State.stopLaunch_memoryWf (s : State) (x launch : Nat) : (s.stopLaunch x launch).memoryWf = s.memoryWf := (rfl)

@[simp ↓] theorem State.memoryWf_debugStop {s : State} {c slot : Nat} {side : Bool} {reason comparator : Nat} (h : s.memoryWf = true) :
    (s.debugStop c slot side reason comparator).memoryWf = true := by
  unfold State.debugStop
  dsimp only
  split <;> simp [h]

@[simp ↓] theorem State.memoryWf_stopHere {s : State} {c slot : Nat} {side : Bool} {step : Nat} (h : s.memoryWf = true) :
    (s.stopHere c slot side step).memoryWf = true := by
  unfold State.stopHere
  simp [h]

@[simp ↓] theorem State.memoryWf_runnerFault {s : State} {c slot : Nat} {cause : BitVec 8} {fault : DWord} (h : s.memoryWf = true) :
    (s.runnerFault c slot cause fault).memoryWf = true := by
  unfold State.runnerFault
  split <;> simp [h]

@[simp ↓] theorem State.memoryWf_enterTrap {s : State} {c slot : Nat} {e : PendingEntry} (h : s.memoryWf = true) :
    (s.enterTrap c slot e).memoryWf = true := by
  unfold State.enterTrap
  split
  · exact h
  · split
    · exact h
    · dsimp only
      split
      · simp [h]
      · simp [h]
      · simp [h]
      · split <;> simp [h]

@[simp ↓] theorem State.memoryWf_beforeHeader {s : State} {c slot : Nat} {side : Bool} {cause : BitVec 8} {fault : DWord} {t : Team}
    (h : s.memoryWf = true) : (s.beforeHeader c slot side cause fault t).memoryWf = true := by
  unfold State.beforeHeader
  simp [h]

@[simp ↓] theorem State.memoryWf_takeTrap {s : State} {c slot : Nat} {side : Bool} {cause : BitVec 8} {fault : DWord} {aux : Word}
    {flags : Nat} (h : s.memoryWf = true) : (s.takeTrap c slot side cause fault aux flags).memoryWf = true := by
  unfold State.takeTrap
  repeat' split
  all_goals simp [h]

@[simp ↓] theorem State.memoryWf_noRoom {s : State} {x va : Nat} (h : s.memoryWf = true) : (s.noRoom x va).2.memoryWf = true := by
  unfold State.noRoom
  split <;> simp [h]

@[simp ↓] theorem State.memoryWf_trapAgent {s : State} {c slot : Nat} {who : Option Bool} {va : Nat} {aux : Word} (h : s.memoryWf = true) :
    (s.trapAgent c slot who va aux).memoryWf = true := by
  unfold State.trapAgent
  split <;> simp [h]

@[simp ↓] theorem State.memoryWf_trapView {s : State} {v : View} {cause : BitVec 8} {fault : DWord} {aux : Word} {flags : Nat}
    (h : s.memoryWf = true) : (s.trapView v cause fault aux flags).memoryWf = true := by
  unfold State.trapView
  split <;> simp [h]

/-! ### Machine/Operands -/

@[simp ↓] theorem State.setV_memoryWf (s : State) (v : View) (r : Nat) (vals : List (Nat × Word)) (lat : Nat) (fromLast : Bool) :
    (s.setV v r vals lat fromLast).memoryWf = s.memoryWf := by
  unfold State.setV
  simp

@[simp ↓] theorem State.setP_memoryWf (s : State) (v : View) (n : Nat) (vals : List (Nat × Bool)) (lat : Nat) :
    (s.setP v n vals lat).memoryWf = s.memoryWf := by
  unfold State.setP
  simp

@[simp ↓] theorem State.setS_memoryWf (s : State) (v : View) (n : Nat) (w : Word) (lat : Nat) :
    (s.setS v n w lat).memoryWf = s.memoryWf := by
  unfold State.setS
  simp

@[simp ↓] theorem State.setSPair_memoryWf (s : State) (v : View) (n : Nat) (w : DWord) (lat : Nat) :
    (s.setSPair v n w lat).memoryWf = s.memoryWf := by
  unfold State.setSPair
  simp

@[simp ↓] theorem State.setC_memoryWf (s : State) (v : View) (n : Nat) (b : Bool) (ready : Nat) :
    (s.setC v n b ready).memoryWf = s.memoryWf := (rfl)

/-! ### Machine/Issue -/

@[simp ↓] theorem State.reach_memoryWf (s : State) (v : View) : (s.reach v).memoryWf = s.memoryWf := by
  unfold State.reach
  simp

@[simp ↓] theorem State.used_memoryWf (s : State) : s.used.memoryWf = s.memoryWf := (rfl)

@[simp ↓] theorem State.again_memoryWf (s : State) (v : View) : (s.again v).memoryWf = s.memoryWf := (rfl)

@[simp ↓] theorem State.waiting_memoryWf (s : State) (v : View) (reason : Nat) : (s.waiting v reason).memoryWf = s.memoryWf := by
  unfold State.waiting
  simp

@[simp ↓] theorem State.held_memoryWf (s : State) (v : View) (reason : Nat) : (s.held v reason).memoryWf = s.memoryWf := (rfl)

@[simp ↓] theorem State.occupy_memoryWf (s : State) (v : View) (i : Instr) : (s.occupy v i).memoryWf = s.memoryWf := (rfl)

@[simp ↓] theorem State.memoryWf_endStep {s : State} {v : View} (h : s.memoryWf = true) : (s.endStep v).memoryWf = true := by
  unfold State.endStep
  split <;> simp [h]

@[simp ↓] theorem State.noteCommand_memoryWf (s : State) (v : View) (id : Nat) : (s.noteCommand v id).memoryWf = s.memoryWf := by
  unfold State.noteCommand
  split <;> simp

@[simp ↓] theorem State.memoryWf_finish {s : State} {v : View} {i : Instr} (h : s.memoryWf = true) : (s.finish v i).memoryWf = true := by
  unfold State.finish
  simp [h]

@[simp ↓] theorem State.memoryWf_transfer {s : State} {v : View} {i : Instr} {pc : Nat} (h : s.memoryWf = true) :
    (s.transfer v i pc).memoryWf = true := by
  unfold State.transfer
  simp [h]

@[simp ↓] theorem State.memoryWf_settleWord {s : State} {v : View} {i : Instr} {e : Effect} (h : s.memoryWf = true) (he : e.memoryWf = true) :
    (s.settleWord v i e).memoryWf = true := by
  cases e with
  | done t => exact State.memoryWf_finish he
  | jump t pc => exact State.memoryWf_transfer he
  | trap cause fault aux => simp [State.settleWord, h]
  | trapFp flags => simp [State.settleWord, h]
  | wait t reason => exact (State.held_memoryWf t v reason).trans he
  | ended t => exact (State.occupy_memoryWf t.used v i).trans he

@[simp ↓] theorem State.memoryWf_stopWord {s : State} {v : View} {cause : BitVec 8} {fault : DWord} {aux : Word} (h : s.memoryWf = true) :
    (s.stopWord v cause fault aux).memoryWf = true := by
  unfold State.stopWord
  simp [h]

@[simp ↓] theorem State.askGrow_memoryWf (s : State) (v : View) (i : Instr) : (s.askGrow v i).memoryWf = s.memoryWf := by
  unfold State.askGrow
  simp

@[simp ↓] theorem State.heldBack_memoryWf (s : State) (v : View) (i : Instr) (r : Nat) : (s.heldBack v i r).memoryWf = s.memoryWf := by
  unfold State.heldBack
  simp

theorem State.memoryWf_atHold {s t : State} {v : View} {i : Instr} (h : s.memoryWf = true) (e : s.atHold v i = some t) :
    t.memoryWf = true := by
  unfold State.atHold at e
  split at e
  · cases e
    simp [h]
  · split at e
    · cases e
      simp [h]
    · obtain ⟨_, _, rfl⟩ := Option.map_eq_some_iff.mp e
      simp [h]

theorem State.memoryWf_before {s t : State} {v : View} {i : Instr} (h : s.memoryWf = true) (e : s.before v i = some t) :
    t.memoryWf = true := by
  unfold State.before at e
  split at e
  · cases e
    simp [h]
  · split at e
    · cases e
      simp [h]
    · split at e
      · cases e
        simp [h]
      · exact State.memoryWf_atHold h e

@[simp ↓] theorem State.atIssue_memoryWf (s : State) (v : View) : (s.atIssue v).memoryWf = s.memoryWf := by
  unfold State.atIssue
  simp

/-- A word keeps the form when its own meaning does: what stops or holds it beforehand writes trace records only. -/
theorem memoryWf_issueWord {i : Instr} {eff : State → View → Effect}
    (keeps : ∀ (s : State) (v : View), s.memoryWf = true → (eff s v).memoryWf = true) {s : State} (h : s.memoryWf = true) :
    resultWf (issueWord i eff s) = true := by
  unfold issueWord
  split
  · exact h
  · dsimp only
    split
    · next e => exact State.memoryWf_before h e
    · have issued (v : View) : (s.atIssue v).memoryWf = true := (State.atIssue_memoryWf s v).trans h
      exact State.memoryWf_settleWord (issued _) (keeps _ _ (issued _))

@[simp ↓] theorem State.memoryWf_park {s : State} {v : View} {pg va kind : Nat} (h : s.memoryWf = true) :
    (s.park v pg va kind).memoryWf = true := by
  unfold State.park
  simp [h]

theorem State.memoryWf_select {s t : State} {v : View} (h : s.memoryWf = true) (left : s.select v = .left t) : t.memoryWf = true := by
  unfold State.select at left
  split at left
  · next e _ =>
    rw [← Selected.left.inj left]
    simp [h]
  · split at left
    · rw [← Selected.left.inj left]
      simp [h]
    · split at left
      · cases left
      · split at left
        · split at left <;> cases left
        · rw [← Selected.left.inj left]
          simp [h]
        · next pg va _ =>
          dsimp only at left
          generalize unparked : (if v.path.parked.isSome then s.modPath v fun p => { p with parked := none } else s) = u at left
          have hu : u.memoryWf = true := by
            rw [← unparked]
            simp [h]
          have parks : (u.park v pg va 3).memoryWf = true := State.memoryWf_park hu
          rw [← Selected.left.inj left]
          split
          · next e =>
            rw [e] at parks
            exact (State.held_memoryWf _ _ _).trans parks
          · exact hu

/-! ### Machine/Flags -/

@[simp ↓] theorem State.raiseFlags_memoryWf (s : State) (v : View) (flags : Nat) : (s.raiseFlags v flags).memoryWf = s.memoryWf := (rfl)

@[simp ↓] theorem State.memoryWf_setFp {s : State} {v : View} {d : Nat} {vals : List (Nat × Word × Nat)} {lat : Nat} {fromLast : Bool}
    (h : s.memoryWf = true) : (s.setFp v d vals lat fromLast).memoryWf = true := by
  unfold State.setFp
  simp [h]

/-! ### Machine/Scalar -/

@[simp ↓] theorem memoryWf_scalarWord {f : Word → Word → Word} {d a b : BitVec 6} {q : BitVec 2} {s : State} {v : View}
    (h : s.memoryWf = true) : (scalarWord f d a b q s v).memoryWf = true := by
  unfold scalarWord
  simp [h]

/-! ### Machine/Vector -/

@[simp ↓] theorem memoryWf_vectorWord {lat : Nat} {d : BitVec 6} {f : State → View → Nat → Word} {s : State} {v : View}
    (h : s.memoryWf = true) : (vectorWord lat d f s v).memoryWf = true := by
  unfold vectorWord
  simp [h]

@[simp ↓] theorem memoryWf_binaryWord {f : Word → Word → Word} {d a b : BitVec 6} {q : BitVec 2} {s : State} {v : View}
    (h : s.memoryWf = true) : (binaryWord f d a b q s v).memoryWf = true := by
  unfold binaryWord
  simp [h]

@[simp ↓] theorem memoryWf_unaryWord {f : Word → Word} {d b : BitVec 6} {q : BitVec 2} {s : State} {v : View} (h : s.memoryWf = true) :
    (unaryWord f d b q s v).memoryWf = true := by
  unfold unaryWord
  simp [h]

@[simp ↓] theorem State.setVPair_memoryWf (s : State) (v : View) (d : Nat) (vals : List (Nat × DWord)) (lat : Nat) (fromLast : Bool) :
    (s.setVPair v d vals lat fromLast).memoryWf = s.memoryWf := by
  unfold State.setVPair
  simp

@[simp ↓] theorem memoryWf_predicateWord {p : BitVec 3} {f : State → View → Nat → Bool} {s : State} {v : View} (h : s.memoryWf = true) :
    (predicateWord p f s v).memoryWf = true := by
  unfold predicateWord
  simp [h]

/-! ### Machine/Float -/

@[simp ↓] theorem memoryWf_floatWord {d : BitVec 6} {f : State → View → Nat → Word × Nat} {s : State} {v : View} (h : s.memoryWf = true) :
    (floatWord d f s v).memoryWf = true := by
  unfold floatWord
  simp [h]

@[simp ↓] theorem memoryWf_floatBinary {f : FpEnv → Nat → Nat → Nat × Nat} {d a b : BitVec 6} {q : BitVec 2} {s : State} {v : View}
    (h : s.memoryWf = true) : (floatBinary f d a b q s v).memoryWf = true := by
  unfold floatBinary
  simp [h]

@[simp ↓] theorem memoryWf_floatPattern {f : Word → Word} {d b : BitVec 6} {q : BitVec 2} {s : State} {v : View} (h : s.memoryWf = true) :
    (floatPattern f d b q s v).memoryWf = true := by
  unfold floatPattern
  simp [h]

@[simp ↓] theorem memoryWf_convertWord {f : FpEnv → Word → Word × Nat} {d b : BitVec 6} {q : BitVec 2} {s : State} {v : View}
    (h : s.memoryWf = true) : (convertWord f d b q s v).memoryWf = true := by
  unfold convertWord
  simp [h]

@[simp ↓] theorem memoryWf_halfBinary {g : Fmt → FpEnv → Nat → Nat → Nat × Nat} {f : BitVec 1} {d a b : BitVec 6} {q : BitVec 2} {s : State}
    {v : View} (h : s.memoryWf = true) : (halfBinary g f d a b q s v).memoryWf = true := by
  unfold halfBinary
  simp [h]

@[simp ↓] theorem memoryWf_halfPattern {g : Word → Word} {f : BitVec 1} {d b : BitVec 6} {q : BitVec 2} {s : State} {v : View}
    (h : s.memoryWf = true) : (halfPattern g f d b q s v).memoryWf = true := by
  unfold halfPattern
  simp [h]

@[simp ↓] theorem memoryWf_compareWord {p e : BitVec 3} {a b : BitVec 6} {q : BitVec 2} {s : State} {v : View} (h : s.memoryWf = true) :
    (compareWord p e a b q s v).memoryWf = true := by
  unfold compareWord
  simp [h]

/-! ### Machine/Sfu -/

@[simp ↓] theorem State.addOp_memoryWf (s : State) (v : View) (code : Nat) (kind : OpKind) (charged : List Nat) :
    (s.addOp v code kind charged).memoryWf = s.memoryWf := (rfl)

@[simp ↓] theorem memoryWf_sfuWord {fn : Nat} {d b : BitVec 6} {q : BitVec 2} {s : State} {v : View} (h : s.memoryWf = true) :
    (sfuWord fn d b q s v).memoryWf = true := by
  unfold sfuWord
  simp [h]

/-! ### Machine/Fabric -/

@[simp ↓] theorem State.sendRound_memoryWf (s : State) (core op key leg : Nat) : (s.sendRound core op key leg).memoryWf = s.memoryWf := by
  unfold State.sendRound
  repeat' split
  all_goals simp

/-! ### Machine/Perform -/

@[simp ↓] theorem State.dirtyOp_memoryWf (s : State) (c uid : Nat) (o : Op) : (s.dirtyOp c uid o).memoryWf = s.memoryWf := by
  unfold State.dirtyOp
  split <;> simp

@[simp ↓] theorem State.putOp_memoryWf (s : State) (c uid : Nat) (o : Op) : (s.putOp c uid o).memoryWf = s.memoryWf := by
  unfold State.putOp
  split <;> simp

@[simp ↓] theorem State.memoryWf_atomGlobal {s : State} {c : Nat} {t : Team} {o : Op} {op : Nat} {e : AtomLane} {all : List AtomLane}
    (h : s.memoryWf = true) : (s.atomGlobal c t o op e all).2.2.memoryWf = true := by
  unfold State.atomGlobal
  dsimp only
  generalize read : (if op = 12 then _ else _ : State) = s'
  have h' : s'.memoryWf = true := by
    rw [← read]
    simp [h]
  generalize atomValue op _ e.b = value
  cases value <;> simp [h']

@[simp ↓] theorem State.atomScratch_memoryWf (s : State) (target : Nat × Nat) (op : Nat) (e : AtomLane) :
    (s.atomScratch target op e).2.memoryWf = s.memoryWf := by
  unfold State.atomScratch
  dsimp only
  split
  · rfl
  · dsimp only
    split <;> simp

@[simp ↓] theorem State.memoryWf_atomLanes {s : State} {c : Nat} {t : Team} {o : Op} {which : AtomLane → Bool} (h : s.memoryWf = true) :
    (s.atomLanes c t o which).2.memoryWf = true := by
  unfold State.atomLanes
  split
  · refine memoryWf_foldl_of (fun (r : Op × State) => r.2) _ (fun r e hr => ?_) _ _ h
    dsimp only
    split
    · exact hr
    · split <;> simp [hr]
  · exact h

@[simp ↓] theorem State.memoryWf_traceBalloon {s : State} {x d what : Nat} (h : s.memoryWf = true) :
    (s.traceBalloon x d what).memoryWf = true := by
  unfold State.traceBalloon
  simp [h]

@[simp ↓] theorem State.dropPageLines_memoryWf (s : State) (pg : Nat) : (s.dropPageLines pg).memoryWf = s.memoryWf := (rfl)

@[simp ↓] theorem State.memoryWf_clearPage {s : State} {pg : Nat} (h : s.memoryWf = true) : (s.clearPage pg).memoryWf = true := by
  unfold State.clearPage
  simp only [State.tableChange_memoryWf, State.keepPast_memoryWf]
  rw [← State.dropPageLines_memoryWf s pg, State.memoryWf_iff] at h
  rw [State.memoryWf_iff]
  exact ⟨Memory.wf_filter _ (s.dropPageLines pg).mem h.1, h.2⟩

@[simp ↓] theorem State.memoryWf_tear {s : State} {pg : Nat} (h : s.memoryWf = true) : (s.tear pg).memoryWf = true := by
  unfold State.tear
  dsimp only
  generalize freeBytes _ 65536 = bytes
  simp only [State.tableChange_memoryWf, State.keepPast_memoryWf]
  rw [State.memoryWf_iff] at h ⊢
  exact ⟨Memory.wf_writeList s.mem (65536 * pg) bytes h.1, h.2⟩

@[simp ↓] theorem State.noteTorn_memoryWf (s : State) (uid : Nat) (locs : List Loc) : (s.noteTorn uid locs).memoryWf = s.memoryWf := by
  unfold State.noteTorn
  simp

@[simp ↓] theorem State.memoryWf_credit {s : State} {x die n : Nat} (h : s.memoryWf = true) : (s.credit x die n).memoryWf = true := by
  unfold State.credit
  simp [h]

@[simp ↓] theorem State.memoryWf_storeLanes {s : State} {c uid : Nat} {o : Op} {lanes : List (Access × List Byte)} (h : s.memoryWf = true) :
    (s.storeLanes c uid o lanes).memoryWf = true := by
  unfold State.storeLanes
  dsimp only
  refine memoryWf_foldl (fun _ _ => State.memoryWf_tear) (State.memoryWf_tearTrace (State.memoryWf_writeLanes ?_))
  simp [h]

@[simp ↓] theorem State.memoryWf_storePart {s : State} {c uid : Nat} {o : Op} {which : Access → Bool} (h : s.memoryWf = true) :
    (s.storePart c uid o which).2.memoryWf = true := by
  unfold State.storePart
  split <;> simp [h]

@[simp ↓] theorem State.memoryWf_atomPart {s : State} {c : Nat} {t : Team} {o : Op} {which : AtomLane → Bool} (h : s.memoryWf = true) :
    (s.atomPart c t o which).2.memoryWf = true := by
  have torn {t : State} (ht : t.memoryWf = true) : (o.junk.foldl State.tear t).memoryWf = true :=
    memoryWf_foldl (fun _ _ => State.memoryWf_tear) ht
  unfold State.atomPart
  split <;> simp [torn, h]

@[simp ↓] theorem State.memoryWf_finishHalf {s : State} {e : Nat × Nat × Nat × Nat} (h : s.memoryWf = true) :
    (s.finishHalf e).memoryWf = true := by
  unfold State.finishHalf
  split
  · exact h
  · dsimp only
    rw [State.putOp_memoryWf]
    split <;> simp [h]

@[simp ↓] theorem State.memoryWf_finishHalves {s : State} {which : Nat → Bool} (h : s.memoryWf = true) :
    (s.finishHalves which).memoryWf = true :=
  memoryWf_foldl (fun _ _ => State.memoryWf_finishHalf) h

@[simp ↓] theorem State.memoryWf_backLines {s : State} {d : Nat} {runs : List (Nat × Nat)} {drop : Bool} (h : s.memoryWf = true) :
    (s.backLines d runs drop).memoryWf = true := by
  have cleaned (f : State → Nat → List (Nat × Nat)) (bs : List Nat) {t : State} (ht : t.memoryWf = true) :
      (bs.foldl (fun s b => s.writeback b (f s b)) t).memoryWf = true :=
    memoryWf_foldl (fun _ _ => State.memoryWf_writeback) ht
  unfold State.backLines
  dsimp only
  rw [State.ite_memoryWf, State.keepPast_memoryWf, foldl_memoryWf _ fun _ _ => State.dropLine_memoryWf _ _ _, ite_self]
  exact cleaned _ _ (State.memoryWf_finishHalves h)

@[simp ↓] theorem State.memoryWf_surrenderPage {s : State} {uid x pg : Nat} (h : s.memoryWf = true) :
    (s.surrenderPage uid x pg).2.memoryWf = true := by
  unfold State.surrenderPage
  dsimp only
  generalize cleared : State.clearPage _ pg = t
  have ht : t.memoryWf = true := by
    rw [← cleared]
    simp [State.memoryWf_finishHalves h]
  simp [ht]

@[simp ↓] theorem State.memoryWf_surrenderPages {s : State} {uid x : Nat} {o : Op} {d : Nat} {pages : List Nat} {freed : Nat}
    {which : Nat → Bool} (h : s.memoryWf = true) : (s.surrenderPages uid x o d pages freed which).2.memoryWf = true := by
  unfold State.surrenderPages
  exact memoryWf_foldl_of (fun (r : List Nat × Nat × State) => r.2.2) _ (fun r pg hr => by simp [hr]) _ _ h

@[simp ↓] theorem State.memoryWf_performKind {s : State} {c uid : Nat} {o : Op} (h : s.memoryWf = true) :
    (s.performKind c uid o).2.memoryWf = true := by
  unfold State.performKind
  split
  · exact h
  · split <;> try simp [h]
    split <;> simp [h]

@[simp ↓] theorem State.memoryWf_performId {s : State} {c id : Nat} (h : s.memoryWf = true) : (s.performId c id).memoryWf = true := by
  unfold State.performId
  split <;> simp [h]

@[simp ↓] theorem State.memoryWf_eject {s : State} {c id key : Nat} (h : s.memoryWf = true) : (s.eject c id key).memoryWf = true := by
  unfold State.eject
  dsimp only
  split
  · simp [h]
  · split
    · exact h
    · split <;> simp [h]

@[simp ↓] theorem State.memoryWf_clearFor {s : State} {c : Nat} {out : List (Nat × Packet)} (h : s.memoryWf = true) :
    (s.clearFor c out).memoryWf = true :=
  memoryWf_foldl (fun _ _ => State.memoryWf_eject) h

@[simp ↓] theorem State.memoryWf_makeWay {s : State} {c : Nat} {ops : List Op} (h : s.memoryWf = true) :
    (s.makeWay c ops).memoryWf = true := by
  unfold State.makeWay
  simp [h]

@[simp ↓] theorem State.memoryWf_clearWay {s : State} {c : Nat} {locs : List Loc} (h : s.memoryWf = true) :
    (s.clearWay c locs).memoryWf = true := by
  unfold State.clearWay
  simp [h]

@[simp ↓] theorem State.memoryWf_performEarlier {s : State} {c id : Nat} {runs : List (Nat × Nat)} (h : s.memoryWf = true) :
    (s.performEarlier c id runs).memoryWf = true :=
  memoryWf_foldl (fun _ _ => State.memoryWf_performId) (State.memoryWf_makeWay h)

@[simp ↓] theorem State.memoryWf_performOp {s : State} {c uid : Nat} {o : Op} (h : s.memoryWf = true) :
    (s.performOp c uid o).2.memoryWf = true := by
  unfold State.performOp
  simp [State.memoryWf_performEarlier h]

@[simp ↓] theorem State.memoryWf_performScratch {s : State} {c uid : Nat} (h : s.memoryWf = true) :
    (s.performScratch c uid).memoryWf = true :=
  memoryWf_foldl (fun s _ hs => by
    dsimp only
    simp [hs]) h

@[simp ↓] theorem State.memoryWf_performNow {s : State} {c id : Nat} (h : s.memoryWf = true) : (s.performNow c id).memoryWf = true := by
  unfold State.performNow
  split <;> simp [h]

@[simp ↓] theorem State.memoryWf_promote {s : State} (h : s.memoryWf = true) : s.promote.memoryWf = true :=
  memoryWf_foldl (fun _ _ => memoryWf_foldl fun _ _ hs => by simp [hs]) h

@[simp ↓] theorem State.memoryWf_performRelease {s : State} {c uid : Nat} (h : s.memoryWf = true) :
    (s.performRelease c uid).memoryWf = true :=
  memoryWf_foldl (fun _ _ hs => by simp [hs]) h

/-! ### Machine/Memwords -/

/-- What stops an access is a trap, or a park for the page. -/
theorem State.memoryWf_lookAll {s : State} {v : View} {i : Intent} {size : Nat} {addrs : List (Nat × Nat)} (h : s.memoryWf = true) :
    exceptWf (fun _ => s) (s.lookAll v i size addrs) = true := by
  unfold State.lookAll
  split
  · rfl
  · extract_lets looks
    split
    · next found =>
      refine memoryWf_of_findSome found fun a e ha => ?_
      split at ha <;> cases ha
      rfl
    · split
      · next found =>
        rw [Option.orElse_eq_or, Option.or_eq_some_iff] at found
        rcases found with short | ⟨-, away⟩
        · refine memoryWf_of_findSome short fun a e ha => ?_
          split at ha <;> cases ha
          rfl
        · refine memoryWf_of_findSome away fun a e ha => ?_
          split at ha <;> cases ha
          exact State.memoryWf_park h
      · exact h

@[simp ↓] theorem State.memoryWf_traceCapacity {s : State} {x d short : Nat} {none' : Bool} (h : s.memoryWf = true) :
    (s.traceCapacity x d short none').memoryWf = true := by
  unfold State.traceCapacity
  simp [h]

@[simp ↓] theorem State.memoryWf_chargeTrap {s : State} {v : View} {accs : List Access} {addrs : List (Nat × Nat)} {bal : Nat → Nat}
    (h : s.memoryWf = true) : (s.chargeTrap v accs addrs bal).memoryWf = true := by
  unfold State.chargeTrap
  simp [h]

theorem State.memoryWf_charge {s : State} {v : View} {accs : List Access} {addrs : List (Nat × Nat)} (h : s.memoryWf = true) :
    exceptWf (·.1) (s.charge v accs addrs) = true := by
  unfold State.charge
  extract_lets x blocks need0 need1 p done
  have hd : done.memoryWf = true := (State.modPath_memoryWf _ _ _).trans h
  split
  · exact State.memoryWf_chargeTrap h
  · simp [h, hd]
  · simp [h, hd]

@[simp ↓] theorem memoryWf_ldgWord {d a o : BitVec 6} {q : BitVec 2} {f : BitVec 4} {s : State} {v : View} (h : s.memoryWf = true) :
    (ldgWord d a o q f s v).memoryWf = true := by
  unfold ldgWord
  dsimp only
  split
  · next stops => exact memoryWf_of_error (State.memoryWf_lookAll h) stops
  · simp [h]

@[simp ↓] theorem memoryWf_lduWord {d a o : BitVec 6} {q : BitVec 2} {f : BitVec 4} {s : State} {v : View} (h : s.memoryWf = true) :
    (lduWord d a o q f s v).memoryWf = true := by
  unfold lduWord
  dsimp only
  split
  · next stops => exact memoryWf_of_error (State.memoryWf_lookAll h) stops
  · simp [h]

@[simp ↓] theorem memoryWf_stgWord {d a o : BitVec 6} {f : BitVec 4} {s : State} {v : View} (h : s.memoryWf = true) :
    (stgWord d a o f s v).memoryWf = true := by
  unfold stgWord
  dsimp only
  split
  · next stops => exact memoryWf_of_error (State.memoryWf_lookAll h) stops
  · split
    · next stops => exact memoryWf_of_error (State.memoryWf_charge h) stops
    · next t blocks goes =>
      have ht : t.memoryWf = true := memoryWf_of_ok (State.memoryWf_charge h) goes
      simp [ht]

theorem State.memoryWf_scratchCheck {s : State} {v : View} {core : Nat} {k : Cohort} {write remote : Bool} {size align : Nat}
    {addrs : List (Nat × Nat)} (h : s.memoryWf = true) :
    exceptWf (fun t => t) (s.scratchCheck v core k write remote size align addrs) = true := by
  unfold State.scratchCheck
  split
  · rfl
  · split
    · rfl
    · split
      · exact h
      · dsimp only
        split
        · rfl
        · simp [h]

@[simp ↓] theorem memoryWf_ldsWord {d a o : BitVec 6} {fmt : Nat} {s : State} {v : View} (h : s.memoryWf = true) :
    (ldsWord d a o fmt s v).memoryWf = true := by
  unfold ldsWord
  dsimp only
  split
  · rfl
  · split
    · next stops => exact memoryWf_of_error (State.memoryWf_scratchCheck h) stops
    · next t goes =>
      have ht : t.memoryWf = true := memoryWf_of_ok (State.memoryWf_scratchCheck h) goes
      simp [ht]

@[simp ↓] theorem memoryWf_stsWord {d a o : BitVec 6} {fmt : Nat} {s : State} {v : View} (h : s.memoryWf = true) :
    (stsWord d a o fmt s v).memoryWf = true := by
  unfold stsWord
  dsimp only
  split
  · rfl
  · split
    · next stops => exact memoryWf_of_error (State.memoryWf_scratchCheck h) stops
    · next t goes =>
      have ht : t.memoryWf = true := memoryWf_of_ok (State.memoryWf_scratchCheck h) goes
      simp [ht]

theorem State.remoteTarget_error_memoryWf {s : State} {v : View} {x : BitVec 5} {y : BitVec 4} {lane : Nat} {e : Effect}
    (stops : s.remoteTarget v x y lane = .error e) : e.memoryWf = true := by
  unfold State.remoteTarget at stops
  dsimp only at stops
  split at stops
  · cases stops
    rfl
  · split at stops <;> cases stops
    rfl

@[simp ↓] theorem memoryWf_ldsrWord {d a : BitVec 6} {x : BitVec 5} {y : BitVec 4} {g : BitVec 2} {s : State} {v : View}
    (h : s.memoryWf = true) : (ldsrWord d a x y g s v).memoryWf = true := by
  unfold ldsrWord
  dsimp only
  split
  · next stops => exact State.remoteTarget_error_memoryWf stops
  · split
    · next stops => exact memoryWf_of_error (State.memoryWf_scratchCheck h) stops
    · next t goes =>
      have ht : t.memoryWf = true := memoryWf_of_ok (State.memoryWf_scratchCheck h) goes
      simp [ht]

@[simp ↓] theorem memoryWf_stsrWord {d a : BitVec 6} {x : BitVec 5} {y : BitVec 4} {g : BitVec 2} {s : State} {v : View}
    (h : s.memoryWf = true) : (stsrWord d a x y g s v).memoryWf = true := by
  unfold stsrWord
  dsimp only
  split
  · next stops => exact State.remoteTarget_error_memoryWf stops
  · split
    · next stops => exact memoryWf_of_error (State.memoryWf_scratchCheck h) stops
    · next t goes =>
      have ht : t.memoryWf = true := memoryWf_of_ok (State.memoryWf_scratchCheck h) goes
      simp [ht]

/-! ### Machine/Atomics -/

@[simp ↓] theorem State.orderRelease_memoryWf (s : State) (v : View) (o : BitVec 2) (e : BitVec 3) :
    (s.orderRelease v o e).memoryWf = s.memoryWf := by
  unfold State.orderRelease
  simp

@[simp ↓] theorem State.orderAcquire_memoryWf (s : State) (v : View) (o : BitVec 2) (e : BitVec 3) (space : BitVec 1) (id : Nat) :
    (s.orderAcquire v o e space id).memoryWf = s.memoryWf := by
  unfold State.orderAcquire
  simp

@[simp ↓] theorem memoryWf_atomWord {op : Nat} {d a : BitVec 6} {o : BitVec 2} {e : BitVec 3} {p r : BitVec 1} {s : State} {v : View}
    (h : s.memoryWf = true) : (atomWord op d a o e p r s v).memoryWf = true := by
  unfold atomWord
  extract_lets size b id
  split
  · split
    · next stops => exact memoryWf_of_error (State.memoryWf_lookAll h) stops
    · next accs _ =>
      have charged (l : List (Nat × Nat)) : exceptWf (·.1) (if op = 12 then .ok (s, []) else s.charge v accs l) = true := by
        simp [h, State.memoryWf_charge]
      split
      · next stops => exact memoryWf_of_error (charged _) stops
      · next t blocks goes =>
        have ht : t.memoryWf = true := memoryWf_of_ok (charged _) goes
        simp [ht]
  · split
    · rfl
    · split
      · next stops => exact memoryWf_of_error (State.memoryWf_scratchCheck h) stops
      · next t goes =>
        have ht : t.memoryWf = true := memoryWf_of_ok (State.memoryWf_scratchCheck h) goes
        simp [ht]

/-! ### Machine/Memx -/

@[simp ↓] theorem memoryWf_rangeWord {drop : Bool} {a n : BitVec 6} {s : State} {v : View} (h : s.memoryWf = true) :
    (rangeWord drop a n s v).memoryWf = true := by
  unfold rangeWord
  dsimp only
  split
  · exact h
  · split
    · next found =>
      refine memoryWf_of_findSome found fun k e hk => ?_
      split at hk
      · split_ifs at hk
        cases hk
        rfl
      · cases hk
    · simp [h]

@[simp ↓] theorem memoryWf_pfWord {a n : BitVec 6} {l1 : BitVec 1} {s : State} {v : View} (h : s.memoryWf = true) :
    (pfWord a n l1 s v).memoryWf = true := by
  unfold pfWord
  dsimp only
  refine memoryWf_foldl (fun s loc hs => by simp [hs]) (State.memoryWf_clearWay (memoryWf_foldl (fun s p hs => ?_) h))
  split
  · exact State.memoryWf_beginMigration hs
  · split
    · split
      · simp [hs]
      · exact hs
    · exact hs
  · exact hs

@[simp ↓] theorem State.cacheLooks_memoryWf (s before : State) (d x : Nat) (entries pages : List (Nat × Nat)) :
    (s.cacheLooks before d x entries pages).memoryWf = s.memoryWf := by
  unfold State.cacheLooks
  simp

theorem State.memoryWf_translate {s : State} {v : View} {t : Nat} {single : Bool} {lanes : List (Nat × Word × Word)} (h : s.memoryWf = true) :
    exceptWf (·.2) (s.translate v t single lanes) = true := by
  unfold State.translate
  extract_lets word w2 w3 base es
  split
  · rfl
  · split
    · rfl
    · split
      · next stops => exact memoryWf_of_error (State.memoryWf_lookAll h) stops
      · dsimp only
        generalize reads : List.foldl _ _ (firstOfPass _) = read
        have hr : read.memoryWf = true := by
          rw [← reads]
          simp [h]
        split
        · rfl
        · split
          · next found =>
            refine memoryWf_of_findSome found fun k e hk => ?_
            split at hk <;> cases hk <;> rfl
          · split
            · next found =>
              split at found
              · refine memoryWf_of_findSome found fun k e hk => ?_
                split at hk <;> cases hk
                exact State.memoryWf_park hr
              · cases found
            · simp [hr]

@[simp ↓] theorem memoryWf_transWord {d t : BitVec 6} {p : BitVec 3} {s : State} {v : View} (h : s.memoryWf = true) :
    (transWord d t p s v).memoryWf = true := by
  unfold transWord
  split
  · next stops => exact memoryWf_of_error (State.memoryWf_translate h) stops
  · next goes =>
    rw [Effect.done_memoryWf, State.addOp_memoryWf]
    refine memoryWf_foldl (fun s e hs => ?_) (memoryWf_of_ok (State.memoryWf_translate h) goes)
    split
    · exact State.memoryWf_beginMigration hs
    · exact hs

@[simp ↓] theorem memoryWf_transsWord {d t : BitVec 6} {s : State} {v : View} (h : s.memoryWf = true) :
    (transsWord d t s v).memoryWf = true := by
  unfold transsWord
  split
  · next stops => exact memoryWf_of_error (State.memoryWf_translate h) stops
  · next u goes =>
    have hu : u.memoryWf = true := memoryWf_of_ok (State.memoryWf_translate h) goes
    simp [hu]

@[simp ↓] theorem memoryWf_rsvqWord {d : BitVec 6} {i : BitVec 2} {s : State} {v : View} (h : s.memoryWf = true) :
    (rsvqWord d i s v).memoryWf = true := by
  unfold rsvqWord
  simp [h]

@[simp ↓] theorem memoryWf_blnqWord {d : BitVec 6} {s : State} {v : View} (h : s.memoryWf = true) : (blnqWord d s v).memoryWf = true := by
  unfold blnqWord
  simp [h]

@[simp ↓] theorem memoryWf_blkqWord {d a : BitVec 6} {s : State} {v : View} (h : s.memoryWf = true) :
    (blkqWord d a s v).memoryWf = true := by
  unfold blkqWord
  dsimp only
  split <;> simp [h]

theorem State.surrenderCheck_error_memoryWf {s : State} {x start stop va : Nat} {e : Effect}
    (stops : s.surrenderCheck x start stop va = .error e) : e.memoryWf = true := by
  unfold State.surrenderCheck at stops
  dsimp only at stops
  split at stops
  · cases stops
    rfl
  · split at stops
    · cases stops
      rfl
    · split_ifs at stops <;> cases stops <;> rfl

/-- The first error of a list of checks is one of them. -/
theorem mem_of_allOk_error {l : List (Except Effect Nat)} {e : Effect} (stops : allOk l = .error e) : .error e ∈ l := by
  induction l with
  | nil => cases stops
  | cons a l ih =>
    cases a with
    | error f =>
      cases stops
      exact List.mem_cons_self
    | ok n =>
      rw [allOk] at stops
      split at stops
      · cases stops
      · next rest =>
        cases stops
        exact List.mem_cons_of_mem _ (ih rest)

@[simp ↓] theorem memoryWf_pgsurrWord {d a n : BitVec 6} {s : State} {v : View} (h : s.memoryWf = true) :
    (pgsurrWord d a n s v).memoryWf = true := by
  unfold pgsurrWord
  dsimp only
  split
  · exact h
  · split
    · rfl
    · split
      · next stops =>
        obtain ⟨i, -, hi⟩ := List.mem_map.mp (mem_of_allOk_error stops)
        exact State.surrenderCheck_error_memoryWf hi
      · simp [h]

@[simp ↓] theorem memoryWf_blnackWord {a : BitVec 6} {s : State} {v : View} (h : s.memoryWf = true) :
    (blnackWord a s v).memoryWf = true := by
  unfold blnackWord
  simp [h]

/-! ### Machine/Launch -/

@[simp ↓] theorem State.readRecord_memoryWf (s : State) (x d va : Nat) : (s.readRecord x d va).memoryWf = s.memoryWf := by
  unfold State.readRecord
  split
  · dsimp only
    generalize words : List.foldl (fun s a => State.readRun s d x a 4) _ (List.filter _ _) = t
    split <;> simp
  · rfl

@[simp ↓] theorem State.wake_memoryWf (s : State) (c : Nat) : (s.wake c).memoryWf = s.memoryWf := (rfl)

@[simp ↓] theorem State.wakeDie_memoryWf (s : State) (d : Nat) : (s.wakeDie d).memoryWf = s.memoryWf := (rfl)

@[simp ↓] theorem State.readDep_memoryWf (s : State) (x va : Nat) (met : Bool) : (s.readDep x va met).memoryWf = s.memoryWf := by
  unfold State.readDep
  repeat' split
  all_goals simp

@[simp ↓] theorem State.recheck_memoryWf (s : State) (x : Nat) (l : Launch) : (s.recheck x l).memoryWf = s.memoryWf := by
  unfold State.recheck
  simp

@[simp ↓] theorem State.accept_memoryWf (s : State) (x : Nat) (parent : Option Nat) (depth : Nat) (r : Record) (h : Header)
    (defaults : List Word) (spawned : Option (Nat × Nat)) : (s.accept x parent depth r h defaults spawned).2.memoryWf = s.memoryWf := by
  unfold State.accept
  simp

@[simp ↓] theorem memoryWf_launchWord {a : BitVec 6} {s : State} {v : View} (h : s.memoryWf = true) :
    (launchWord a s v).memoryWf = true := by
  unfold launchWord
  dsimp only
  split
  · rfl
  · split
    · rfl
    · split <;> simp [h]

@[simp ↓] theorem State.closeBins_memoryWf (s : State) (k closer : Nat) (which : Bin → Bool) :
    (s.closeBins k closer which).memoryWf = s.memoryWf :=
  foldl_memoryWf _ (fun t i => by dsimp only; split <;> simp) _ s

@[simp ↓] theorem State.closeDue_memoryWf (s : State) (k : Nat) : (s.closeDue k).memoryWf = s.memoryWf := by
  unfold State.closeDue
  simp

theorem State.joinBin_memoryWf {s t : State} {v : View} {key timer : Nat} {arg : Word} (e : s.joinBin v key timer arg = some t) :
    t.memoryWf = s.memoryWf := by
  unfold State.joinBin at e
  dsimp only at e
  split at e
  · cases e
  · split at e
    · split at e <;> cases e
      simp
    · split at e
      · cases e
      · split at e
        · cases e
          simp
        · split at e <;> cases e
          simp

@[simp ↓] theorem State.joinAll_memoryWf (v : View) (timer : Nat) (key : Nat → Nat) (arg : Nat → Word) (todo joined : List Nat) (s : State) :
    (State.joinAll v timer key arg todo joined s).2.2.memoryWf = s.memoryWf := by
  induction todo generalizing joined s with
  | nil => rfl
  | cons l rest ih =>
    rw [State.joinAll]
    split
    · rfl
    · next t e => rw [ih, State.joinBin_memoryWf e]

theorem State.memoryWf_spawnChecks {s : State} {v : View} {keys : List Nat} {e : Effect} (h : s.memoryWf = true)
    (stops : s.spawnChecks v keys = some e) : e.memoryWf = true := by
  unfold State.spawnChecks at stops
  dsimp only at stops
  split at stops
  · cases stops
    rfl
  · split at stops
    · cases stops
      rfl
    · split at stops
      · cases stops
        rfl
      · split at stops
        · next found =>
          cases stops
          refine memoryWf_of_findSome found fun k e hk => ?_
          split at hk <;> cases hk
          rfl
        · split at stops
          · next found =>
            cases stops
            rw [Option.orElse_eq_or, Option.or_eq_some_iff] at found
            rcases found with short | ⟨-, away⟩
            · refine memoryWf_of_findSome short fun k e hk => ?_
              split at hk <;> cases hk
              rfl
            · refine memoryWf_of_findSome away fun k e hk => ?_
              split at hk <;> cases hk
              exact State.memoryWf_park h
          · obtain ⟨_, _, rfl⟩ := Option.map_eq_some_iff.mp stops
            rfl

theorem State.memoryWf_spawnMeasured {s : State} {v : View} {keys : List Nat} {e : Effect} (h : s.memoryWf = true)
    (stops : s.spawnMeasured v keys = some e) : e.memoryWf = true := by
  refine memoryWf_of_findSome stops fun k e hk => ?_
  split at hk
  · split at hk <;> cases hk
    · rfl
    · exact State.memoryWf_park h
    · rfl
    · rfl
  · cases hk

@[simp ↓] theorem State.memoryWf_readKeys {s : State} {v : View} {keys : List Nat} (h : s.memoryWf = true) :
    (s.readKeys v keys).memoryWf = true := by
  unfold State.readKeys
  extract_lets x d deep read
  have hr : read.memoryWf = true :=
    (foldl_memoryWf _ (fun _ _ => State.readRun_memoryWf _ _ _ _ _) _ _).trans (State.memoryWf_clearWay h)
  split
  · exact h
  · split
    · exact hr
    · refine (foldl_memoryWf _ (fun s k => ?_) _ _).trans hr
      split <;> simp

@[simp ↓] theorem memoryWf_spawnWord {a e t : BitVec 6} {s : State} {v : View} (h : s.memoryWf = true) :
    (spawnWord a e t s v).memoryWf = true := by
  unfold spawnWord
  dsimp only
  generalize reads : (if v.path.spawned.isEmpty = true then s.readKeys v _ else s) = s'
  have h' : s'.memoryWf = true := by
    rw [← reads]
    simp [h]
  split
  · next stops =>
    split at stops
    · rw [Option.orElse_eq_or, Option.or_eq_some_iff] at stops
      rcases stops with checks | ⟨-, measured⟩
      · exact State.memoryWf_spawnChecks h' checks
      · exact State.memoryWf_spawnMeasured h' measured
    · cases stops
  · simp [h']

@[simp ↓] theorem State.refuseRoot_memoryWf (s : State) (x : Nat) (err : BitVec 8) : (s.refuseRoot x err).memoryWf = s.memoryWf := by
  unfold State.refuseRoot
  simp

@[simp ↓] theorem State.memoryWf_tryRoot {s : State} {x : Nat} (h : s.memoryWf = true) : (s.tryRoot x).memoryWf = true := by
  unfold State.tryRoot
  dsimp only
  split
  · simp [h]
  · split
    · simp [h]
    · split
      · split <;> simp [h]
      all_goals simp [h]

@[simp ↓] theorem memoryWf_execRootStart {ctx : Nat} {s : State} (h : s.memoryWf = true) : resultWf (execRootStart ctx s) = true := by
  unfold execRootStart
  simp [h]

@[simp ↓] theorem State.memoryWf_retryRoots {s : State} (h : s.memoryWf = true) : s.retryRoots.memoryWf = true :=
  memoryWf_foldl (fun _ _ => State.memoryWf_tryRoot) h

@[simp ↓] theorem memoryWf_execDependenceRecheck {ctx launch : Nat} {s : State} (h : s.memoryWf = true) :
    resultWf (execDependenceRecheck ctx launch s) = true := by
  unfold execDependenceRecheck
  split <;> simp [h]

/-! ### Machine/CrossLane -/

@[simp ↓] theorem memoryWf_crossWord {d : BitVec 6} {f : State → View → Nat → Word} {s : State} {v : View} (h : s.memoryWf = true) :
    (crossWord d f s v).memoryWf = true := by
  unfold crossWord
  simp [h]

@[simp ↓] theorem memoryWf_shuffleWord {src : Nat → Nat → Nat → Option Nat} {d a b : BitVec 6} {q : BitVec 2} {s : State} {v : View}
    (h : s.memoryWf = true) : (shuffleWord src d a b q s v).memoryWf = true := by
  unfold shuffleWord
  simp [h]

@[simp ↓] theorem memoryWf_maskWord {d : BitVec 6} {f : State → View → Nat → Nat} {s : State} {v : View} (h : s.memoryWf = true) :
    (maskWord d f s v).memoryWf = true := by
  unfold maskWord
  simp [h]

@[simp ↓] theorem memoryWf_voteWord {f : List Bool → Bool} {k : BitVec 2} {p : BitVec 3} {s : State} {v : View} (h : s.memoryWf = true) :
    (voteWord f k p s v).memoryWf = true := by
  unfold voteWord
  simp [h]

@[simp ↓] theorem memoryWf_keyedWord {f : Word → Word → Word} {d a b : BitVec 6} {q : BitVec 2} {s : State} {v : View}
    (h : s.memoryWf = true) : (keyedWord f d a b q s v).memoryWf = true := by
  unfold keyedWord
  simp [h]

@[simp ↓] theorem memoryWf_scanWord {exclusive : Bool} {d a : BitVec 6} {t : BitVec 1} {s : State} {v : View} (h : s.memoryWf = true) :
    (scanWord exclusive d a t s v).memoryWf = true := by
  unfold scanWord
  simp [h]

@[simp ↓] theorem memoryWf_reduceWord {max : Bool} {d a : BitVec 6} {t : BitVec 1} {s : State} {v : View} (h : s.memoryWf = true) :
    (reduceWord max d a t s v).memoryWf = true := by
  unfold reduceWord
  simp [h]

/-! ### Machine/Control -/

@[simp ↓] theorem memoryWf_splitWord {c : BitVec 1} {w : BitVec 2} {p : BitVec 3} {o : BitVec 16} {s : State} {v : View}
    (h : s.memoryWf = true) : (splitWord c w p o s v).memoryWf = true := by
  unfold splitWord
  simp [h]

@[simp ↓] theorem memoryWf_joinWord {w : BitVec 2} {s : State} {v : View} (h : s.memoryWf = true) : (joinWord w s v).memoryWf = true := by
  unfold joinWord
  dsimp only
  split
  · exact h
  · split <;> simp [h]

@[simp ↓] theorem memoryWf_exitWord {s : State} {v : View} (h : s.memoryWf = true) : (exitWord s v).memoryWf = true := by
  unfold exitWord
  repeat' split
  all_goals simp [h]

@[simp ↓] theorem memoryWf_srdWord {d : BitVec 6} {n : BitVec 8} {s : State} {v : View} (h : s.memoryWf = true) :
    (srdWord d n s v).memoryWf = true := by
  unfold srdWord
  simp [h]

@[simp ↓] theorem memoryWf_swrWord {a : BitVec 6} {n : BitVec 8} {s : State} {v : View} (h : s.memoryWf = true) :
    (swrWord a n s v).memoryWf = true := by
  unfold swrWord
  simp [h]

@[simp ↓] theorem memoryWf_tagWord {a : BitVec 6} {g : BitVec 12} {s : State} {v : View} (h : s.memoryWf = true) :
    (tagWord a g s v).memoryWf = true := by
  unfold tagWord
  simp [h]

@[simp ↓] theorem memoryWf_rettWord {w : BitVec 2} {k : BitVec 1} {s : State} {v : View} (h : s.memoryWf = true) :
    (rettWord w k s v).memoryWf = true := by
  unfold rettWord
  split
  · rfl
  · simp [h]

@[simp ↓] theorem memoryWf_execReservedEncoding {word : BitVec 32} {s : State} (h : s.memoryWf = true) :
    resultWf (execReservedEncoding word s) = true := by
  unfold execReservedEncoding
  split <;> simp [h]

@[simp ↓] theorem memoryWf_execTrapEntry {core slot : Nat} {path : Bool} {cause : BitVec 8} {fault : BitVec 64} {aux : BitVec 32}
    {s : State} (h : s.memoryWf = true) : resultWf (execTrapEntry core slot path cause fault aux s) = true := by
  unfold execTrapEntry
  split <;> simp [h]

/-! ### Machine/Copy -/

theorem State.memoryWf_copyShadow {s : State} {v : View} {core id : Nat} {write remote : Bool} {rows : List (Nat × Nat)}
    (h : s.memoryWf = true) : exceptWf (fun t => t) (s.copyShadow v core id write remote rows) = true := by
  unfold State.copyShadow
  split
  · exact h
  · split
    · exact h
    · dsimp only
      split
      · rfl
      · simp [h]

theorem State.copyPlace_error_memoryWf {s : State} {v : View} {a dx dy : Nat} {e : Effect} (stops : s.copyPlace v a dx dy = .error e) :
    e.memoryWf = true := by
  unfold State.copyPlace at stops
  split at stops
  · cases stops
  · next target =>
    cases stops
    exact State.remoteTarget_error_memoryWf target

theorem State.copySides_error_memoryWf {s : State} {v : View} {op : Nat} {r : Nat → Word} {e : Effect}
    (stops : s.copySides v op r = .error e) : e.memoryWf = true := by
  unfold State.copySides at stops
  split at stops
  · dsimp only at stops
    split at stops
    · next source =>
      cases stops
      exact State.copyPlace_error_memoryWf source
    · split at stops
      · next target =>
        cases stops
        exact State.copyPlace_error_memoryWf target
      · cases stops
  · cases stops

@[simp ↓] theorem memoryWf_copyWord {op : Nat} {q : BitVec 2} {b n : BitVec 6} {s : State} {v : View} (h : s.memoryWf = true) :
    (copyWord op q b n s v).memoryWf = true := by
  unfold copyWord
  extract_lets r count p base
  split
  · rfl
  · split
    · next stops => exact State.copySides_error_memoryWf stops
    · split
      · rfl
      · rfl
      · split
        · rfl
        · split
          · next stops => exact memoryWf_of_error (State.memoryWf_copyShadow h) stops
          · next t goes =>
            have ht : t.memoryWf = true := memoryWf_of_ok (State.memoryWf_copyShadow h) goes
            split
            · next stops => exact memoryWf_of_error (State.memoryWf_copyShadow ht) stops
            · next u goes =>
              have hu : u.memoryWf = true := memoryWf_of_ok (State.memoryWf_copyShadow ht) goes
              dsimp only
              split
              · next stops => exact memoryWf_of_error (State.memoryWf_lookAll hu) stops
              · have charged (l : List Access) (m : List (Nat × Nat)) :
                    exceptWf (·.1) (if p.writesGlobal then u.charge v l m else .ok (u, [])) = true := by
                  simp [hu, State.memoryWf_charge]
                split
                · next stops => exact memoryWf_of_error (charged _ _) stops
                · next w blocks goes =>
                  have hw : w.memoryWf = true := memoryWf_of_ok (charged _ _) goes
                  simp [hw]

@[simp ↓] theorem State.memoryWf_copyReady {s : State} {c : Nat} {o : Op} {rows : List CopyRow} (h : s.memoryWf = true) :
    (s.copyReady c o rows).memoryWf = true :=
  memoryWf_foldl (fun _ _ => State.memoryWf_performId) (State.memoryWf_makeWay h)

@[simp ↓] theorem State.memoryWf_copyServe {s : State} {uid : Nat} {kind : CopyKind} {rows : List CopyRow} (h : s.memoryWf = true) :
    (s.copyServe uid kind rows).memoryWf = true := by
  unfold State.copyServe
  simp [h]

@[simp ↓] theorem memoryWf_execCopyOperationComplete {core queue : Nat} {s : State} (h : s.memoryWf = true) :
    resultWf (execCopyOperationComplete core queue s) = true := by
  unfold execCopyOperationComplete
  split
  · rfl
  · split
    · next uid o _ _ kind src dst rows t _ _ =>
      extract_lets away ready o' dirty touched answered torn
      have hr : ready.memoryWf = true := by
        simp [ready, State.memoryWf_copyReady h]
      have ht : touched.memoryWf = true := by
        simp [touched, hr]
      have ha : answered.memoryWf = true := (foldl_memoryWf _ (fun _ _ => State.answer_memoryWf _ _ _ _ _ _ _) _ _).trans (State.memoryWf_copyRows ht)
      have hj : torn.memoryWf = true := by
        simp only [torn]
        split
        · exact memoryWf_foldl (fun _ _ => State.memoryWf_tear) (State.memoryWf_tearTrace ha)
        · exact ha
      split
      · exact memoryWf_foldl (fun _ _ => State.memoryWf_beginMigration) h
      · simp [hj]
    · rfl

@[simp ↓] theorem State.memoryWf_copyPart {s : State} {c id key : Nat} {put : Bool} (h : s.memoryWf = true) :
    (s.copyPart c id key put).memoryWf = true := by
  unfold State.copyPart
  split
  · exact h
  · next t o _ =>
    split
    · extract_lets i j ready served o' dirty runs r b answered
      have hs : served.memoryWf = true := by
        simp [served, ready, h]
      have hr : r.2.memoryWf = true := by
        simp [r, hs]
      have ha : answered.memoryWf = true := (foldl_memoryWf _ (fun _ _ => State.answer_memoryWf _ _ _ _ _ _ _) _ _).trans hr
      split
      · exact h
      · split
        · exact memoryWf_foldl (fun _ _ => State.memoryWf_beginMigration) h
        · simp [ha]
    · exact h

/-! ### Machine/Collective -/

theorem State.memoryWf_deviceList {s : State} {v : View} {va n : Nat} (h : s.memoryWf = true) :
    exceptWf (·.2) (s.deviceList v va n) = true := by
  unfold State.deviceList
  dsimp only
  split
  · next stops => exact memoryWf_of_error (State.memoryWf_lookAll h) stops
  · simp [h]

@[simp ↓] theorem memoryWf_cgrpWord {b : BitVec 6} {g : BitVec 2} {s : State} {v : View} (h : s.memoryWf = true) :
    (cgrpWord b g s v).memoryWf = true := by
  have listed (n va : Nat) : exceptWf (·.2) (if n = 0 then .ok ([s.device], s) else s.deviceList v va n) = true := by
    simp [h, State.memoryWf_deviceList]
  unfold cgrpWord
  dsimp only
  split
  · rfl
  · split
    · rfl
    · split
      · next stops => exact memoryWf_of_error (listed _ _) stops
      · next devs t goes =>
        have ht : t.memoryWf = true := memoryWf_of_ok (listed _ _) goes
        simp [ht]

@[simp ↓] theorem State.memoryWf_postCol {s : State} {v : View} {g : Nat} {k : Group} {terms : ColTerms} {src dst : Nat}
    (h : s.memoryWf = true) : (s.postCol v g k terms src dst).memoryWf = true := by
  unfold State.postCol
  simp [h]

@[simp ↓] theorem memoryWf_colWord {op : Nat} {b : BitVec 6} {g : BitVec 2} {s : State} {v : View} (h : s.memoryWf = true) :
    (colWord op b g s v).memoryWf = true := by
  unfold colWord
  dsimp only
  split
  · rfl
  · split
    · rfl
    · split
      · rfl
      · exact State.memoryWf_postCol h

@[simp ↓] theorem memoryWf_cbarWord {g : BitVec 2} {s : State} {v : View} (h : s.memoryWf = true) : (cbarWord g s v).memoryWf = true := by
  unfold cbarWord
  simp [h]

@[simp ↓] theorem State.memoryWf_finishCol {s : State} {c uid : Nat} {o : Op} {bad : Bool} (h : s.memoryWf = true) :
    (s.finishCol c uid o bad).memoryWf = true := by
  unfold State.finishCol
  split <;> simp [h]

@[simp ↓] theorem State.putUnits_memoryWf (s : State) (c region dst : Nat) (us : List (List Nat × Bool)) (skip : List Nat) :
    (s.putUnits c region dst us skip).memoryWf = s.memoryWf := by
  unfold State.putUnits
  simp

@[simp ↓] theorem State.freeUnits_memoryWf (s : State) (c region dst n : Nat) : (s.freeUnits c region dst n).memoryWf = s.memoryWf := by
  unfold State.freeUnits
  simp

@[simp ↓] theorem State.memoryWf_finishMember {s : State} {c uid g seq : Nat} {srcs : List (List (List Nat × Bool))} (h : s.memoryWf = true) :
    (s.finishMember c uid g seq srcs).memoryWf = true := by
  unfold State.finishMember
  split
  · exact h
  · split
    · exact h
    · split
      · simp [h]
      · exact h

@[simp ↓] theorem State.memoryWf_colWay {s : State} {g seq : Nat} {ps : List Posted} (h : s.memoryWf = true) :
    (s.colWay g seq ps).memoryWf = true := by
  refine memoryWf_foldl (fun s p hs => ?_) h
  split
  · split
    · exact State.memoryWf_makeWay hs
    · exact hs
  · exact hs

@[simp ↓] theorem memoryWf_execCollectiveComplete {core op : Nat} {remote : List (Nat × List (BitVec 32))} {s : State}
    (h : s.memoryWf = true) : resultWf (execCollectiveComplete core op remote s) = true := by
  unfold execCollectiveComplete
  split
  · rfl
  · split
    · dsimp only
      split_ifs
      · exact h
      · simp [h]
      · simp [h]
      · exact h
      · refine memoryWf_foldl (fun s p hs => ?_) (State.memoryWf_colWay h)
        split
        · exact State.memoryWf_finishMember hs
        · exact hs
    · rfl

@[simp ↓] theorem State.colRead_memoryWf (s : State) (c uid : Nat) (o : Op) (which : List Nat) :
    (s.colRead c uid o which).memoryWf = s.memoryWf := by
  unfold State.colRead
  repeat' split
  all_goals simp

@[simp ↓] theorem State.memoryWf_colPart {s : State} {c id key : Nat} {put : Bool} (h : s.memoryWf = true) :
    (s.colPart c id key put).memoryWf = true := by
  unfold State.colPart
  split
  · exact h
  · split
    · dsimp only
      generalize reads : List.foldl (fun s p => _) (State.colWay s _ _ _) _ = read
      have hr : read.memoryWf = true := by
        rw [← reads]
        refine memoryWf_foldl (fun s p hs => ?_) (State.memoryWf_colWay h)
        split
        · split
          · simp [hs]
          · exact hs
        · exact hs
      split_ifs
      · exact h
      · exact h
      · simp [h]
      · exact h
      · split
        · exact hr
        · simp [hr]
    · exact h

/-! ### Machine/Matrix -/

@[simp ↓] theorem memoryWf_matrixWord {op nregs : Nat} {i p q : BitVec 5} {base : Nat} {s : State} {v : View} (h : s.memoryWf = true) :
    (matrixWord op nregs i p q base s v).memoryWf = true := by
  unfold matrixWord
  generalize (s.cohort v.core v.team.cohort).getD _ = k
  dsimp only
  generalize (if hasBlock op = true then BitVec.ofNat 256 _ else 0) = f
  split_ifs
  · rfl
  · rfl
  · rfl
  · split
    · rfl
    · split
      · rfl
      · simp [h]

@[simp ↓] theorem memoryWf_mfenceWord {s : State} {v : View} (h : s.memoryWf = true) : (mfenceWord s v).memoryWf = true := by
  unfold mfenceWord
  simp [h]

@[simp ↓] theorem memoryWf_merrqWord {b : Nat} {s : State} {v : View} (h : s.memoryWf = true) : (merrqWord b s v).memoryWf = true := by
  unfold merrqWord
  simp [h]

@[simp ↓] theorem memoryWf_mstatWord {b : Nat} {s : State} {v : View} (h : s.memoryWf = true) : (mstatWord b s v).memoryWf = true := by
  unfold mstatWord
  simp [h]

@[simp ↓] theorem State.meterAdd_memoryWf (s : State) (region n : Nat) : (s.meterAdd region n).memoryWf = s.memoryWf := (rfl)

@[simp ↓] theorem State.meterStream_memoryWf (s : State) (p : Plane) (c : MatCmd) : (s.meterStream p c).memoryWf = s.memoryWf :=
  foldl_memoryWf _ (fun s k => by split <;> simp) _ s

@[simp ↓] theorem State.freeEngine_memoryWf (s : State) (c : Nat) : (s.freeEngine c).memoryWf = s.memoryWf := by
  unfold State.freeEngine
  dsimp only
  split <;> simp

@[simp ↓] theorem State.putRuns_memoryWf (s : State) (c id : Nat) (runs : List (Nat × List Byte)) (done : List Nat) :
    (s.putRuns c id runs done).memoryWf = s.memoryWf := by
  unfold State.putRuns
  simp

@[simp ↓] theorem State.matrixEffect_memoryWf (s : State) (c : Nat) (m : MatCmd) (t : Team) :
    (s.matrixEffect c m t).memoryWf = s.memoryWf := by
  unfold State.matrixEffect
  dsimp only
  split
  · rfl
  · generalize written : State.putRuns _ c _ _ _ = s'
    have h' : s'.memoryWf = s.memoryWf := by
      rw [← written]
      simp
    simp only [State.ite_memoryWf, State.meterStream_memoryWf, ite_self]
    split <;> simp [h']

@[simp ↓] theorem memoryWf_execMatrixCommandStart {core cmd : Nat} {s : State} (h : s.memoryWf = true) :
    resultWf (execMatrixCommandStart core cmd s) = true := by
  unfold execMatrixCommandStart
  dsimp only
  split <;> simp [h]

@[simp ↓] theorem State.setCmd_memoryWf (s : State) (c : Nat) (m : MatCmd) : (s.setCmd c m).memoryWf = s.memoryWf := (rfl)

@[simp ↓] theorem State.logAccumulator_memoryWf (s : State) (c : Nat) (m : MatCmd) (es : List OperandError) :
    (s.logAccumulator c m es).memoryWf = s.memoryWf := by
  unfold State.logAccumulator
  split <;> simp

@[simp ↓] theorem State.matrixPart_memoryWf (s : State) (c id key : Nat) (put : Bool) :
    (s.matrixPart c id key put).memoryWf = s.memoryWf := by
  unfold State.matrixPart
  dsimp only
  split
  · rfl
  · split
    · rfl
    · split_ifs
      · rfl
      all_goals split <;> simp

@[simp ↓] theorem memoryWf_execMatrixCommandRetire {core cmd : Nat} {s : State} (h : s.memoryWf = true) :
    resultWf (execMatrixCommandRetire core cmd s) = true := by
  unfold execMatrixCommandRetire
  dsimp only
  split
  · rfl
  · split
    · exact h
    · split <;> simp [h]

/-! ### Machine/Parts -/

@[simp ↓] theorem State.memoryWf_linePart {s : State} {c id key : Nat} (h : s.memoryWf = true) : (s.linePart c id key).memoryWf = true := by
  unfold State.linePart
  split
  · exact h
  · dsimp only
    split
    · exact h
    · split
      · simp [h]
      · rw [State.putOp_memoryWf]
        split <;> simp [h]

@[simp ↓] theorem State.memoryWf_partTurn {s : State} {c id key : Nat} {put : Bool} (h : s.memoryWf = true) :
    (s.partTurn c id key put).memoryWf = true := by
  unfold State.partTurn
  split
  · simp [h]
  · split
    · exact h
    · split
      · simp [h]
      · simp [h]
      · dsimp only
        split
        · simp [h]
        · exact h

/-! ### Machine/Returns -/

@[simp ↓] theorem State.completeOp_memoryWf (s : State) (c uid : Nat) (o : Op) : (s.completeOp c uid o).memoryWf = s.memoryWf := by
  unfold State.completeOp
  simp

@[simp ↓] theorem memoryWf_execLoadReturn {core op : Nat} {s : State} (h : s.memoryWf = true) :
    resultWf (execLoadReturn core op s) = true := by
  unfold execLoadReturn
  split
  · rfl
  · split
    · exact h
    · split
      · simp [h]
      · split <;> simp [h]

@[simp ↓] theorem memoryWf_execScratchpadLoadReturn {core op : Nat} {s : State} (h : s.memoryWf = true) :
    resultWf (execScratchpadLoadReturn core op s) = true := by
  unfold execScratchpadLoadReturn
  split
  · rfl
  · split
    · exact h
    · split <;> simp [h]

@[simp ↓] theorem memoryWf_execSfuResultReturn {core op : Nat} {s : State} (h : s.memoryWf = true) :
    resultWf (execSfuResultReturn core op s) = true := by
  unfold execSfuResultReturn
  repeat' split
  all_goals simp [h]

@[simp ↓] theorem memoryWf_execStorePerformed {core op : Nat} {s : State} (h : s.memoryWf = true) :
    resultWf (execStorePerformed core op s) = true := by
  unfold execStorePerformed
  repeat' split
  all_goals simp [h]

@[simp ↓] theorem memoryWf_execRemoteStorePerformed {core op : Nat} {s : State} (h : s.memoryWf = true) :
    resultWf (execRemoteStorePerformed core op s) = true := by
  unfold execRemoteStorePerformed
  split
  · rfl
  · split
    · exact memoryWf_foldl (fun s e hs => by simp [hs]) h
    · rfl

@[simp ↓] theorem memoryWf_execAtomicPerformed {core op lane : Nat} {s : State} (h : s.memoryWf = true) :
    resultWf (execAtomicPerformed core op lane s) = true := by
  unfold execAtomicPerformed
  split
  · rfl
  · split
    · simp [State.memoryWf_performEarlier h, h]
    · rfl

@[simp ↓] theorem memoryWf_execCwbComplete {core op : Nat} {s : State} (h : s.memoryWf = true) :
    resultWf (execCwbComplete core op s) = true := by
  unfold execCwbComplete
  repeat' split
  all_goals simp [h]

@[simp ↓] theorem memoryWf_execCinvComplete {core op : Nat} {s : State} (h : s.memoryWf = true) :
    resultWf (execCinvComplete core op s) = true := by
  unfold execCinvComplete
  repeat' split
  all_goals simp [h]

@[simp ↓] theorem memoryWf_execTransReturn {core op : Nat} {s : State} (h : s.memoryWf = true) :
    resultWf (execTransReturn core op s) = true := by
  unfold execTransReturn
  repeat' split
  all_goals simp [h]

@[simp ↓] theorem memoryWf_execPgsurrPageDone {core op : Nat} {s : State} (h : s.memoryWf = true) :
    resultWf (execPgsurrPageDone core op s) = true := by
  unfold execPgsurrPageDone
  repeat' split
  all_goals simp [h]

/-! ### Machine/Capacity -/

@[simp ↓] theorem memoryWf_execBlockWriteback {die block : Nat} {s : State} (h : s.memoryWf = true) :
    resultWf (execBlockWriteback die block s) = true := by
  unfold execBlockWriteback
  simp [h]

@[simp ↓] theorem State.memoryWf_refill {s : State} {c x d short : Nat} (h : s.memoryWf = true) :
    (s.refill c x d short).memoryWf = true := by
  unfold State.refill
  split
  · exact h
  · dsimp only
    split <;> simp [h]

@[simp ↓] theorem State.memoryWf_answerPath {s : State} {c slot : Nat} {t : Team} {who : Option Bool} {p : Path} (h : s.memoryWf = true) :
    (s.answerPath c slot t who p).memoryWf = true := by
  unfold State.answerPath
  simp [h]

@[simp ↓] theorem memoryWf_execLadleRefill {core slot : Nat} {s : State} (h : s.memoryWf = true) :
    resultWf (execLadleRefill core slot s) = true := by
  unfold execLadleRefill
  repeat' split
  all_goals simp [h]

@[simp ↓] theorem memoryWf_execLadleReturn {core ctx : Nat} {s : State} (h : s.memoryWf = true) :
    resultWf (execLadleReturn core ctx s) = true := by
  unfold execLadleReturn
  simp [h]

@[simp ↓] theorem State.memoryWf_traceMigration {s : State} {pg : Nat} {toTier atEnd : Bool} {granules : Nat} (h : s.memoryWf = true) :
    (s.traceMigration pg toTier atEnd granules).memoryWf = true := by
  unfold State.traceMigration
  simp [h]

@[simp ↓] theorem State.memoryWf_performPage {s : State} {pg : Nat} (h : s.memoryWf = true) : (s.performPage pg).memoryWf = true :=
  memoryWf_foldl (fun _ _ => memoryWf_foldl fun _ _ hs => by simp [hs]) h

@[simp ↓] theorem State.memoryWf_leaveHbm {s : State} {pg : Nat} (h : s.memoryWf = true) : (s.leaveHbm pg).memoryWf = true := by
  unfold State.leaveHbm
  dsimp only
  generalize reads : List.foldl (fun s i => State.demand s _) _ _ = read
  have hr : read.memoryWf = true := by
    rw [← reads]
    simp [h]
  generalize writes : List.foldl (fun s i => State.writeback s _ _) _ _ = written
  have hw : written.memoryWf = true := by
    rw [← writes]
    exact memoryWf_foldl (fun _ _ => State.memoryWf_writeback) hr
  simp [hw]

@[simp ↓] theorem State.victim_memoryWf (s : State) (d x : Nat) : (s.victim d x).2.memoryWf = s.memoryWf := by
  unfold State.victim
  dsimp only
  split <;> simp

@[simp ↓] theorem State.memoryWf_makeRoom {s : State} {d x need fuel : Nat} (h : s.memoryWf = true) :
    (s.makeRoom d x need fuel).memoryWf = true := by
  induction fuel generalizing s with
  | zero => exact h
  | succ fuel ih =>
    have hv := (State.victim_memoryWf s d x).trans h
    rw [State.makeRoom]
    split
    · exact h
    · split
      · next e =>
        rw [e] at hv
        exact hv
      · next e =>
        rw [e] at hv
        exact ih (by simp [hv])

@[simp ↓] theorem State.memoryWf_pump {s : State} {d : Nat} (h : s.memoryWf = true) : (s.pump d).memoryWf = true :=
  memoryWf_foldl (fun s e hs => by simp [hs]) h

@[simp ↓] theorem State.unpark_memoryWf (s : State) (c slot : Nat) (who : Option Bool) : (s.unpark c slot who).memoryWf = s.memoryWf := by
  unfold State.unpark
  split <;> simp

@[simp ↓] theorem State.memoryWf_trapParked {s : State} {e : Nat × Nat × Option Bool × Nat} (h : s.memoryWf = true) :
    (s.trapParked e).memoryWf = true := by
  unfold State.trapParked
  split <;> simp [h]

@[simp ↓] theorem State.memoryWf_denyEvicted {s : State} {pg : Nat} (h : s.memoryWf = true) : (s.denyEvicted pg).memoryWf = true := by
  refine memoryWf_foldl (fun s e hs => memoryWf_foldl (fun s who hs => ?_) hs) h
  split
  · exact hs
  · split
    · exact hs
    · split
      · exact hs
      · simp [hs]

@[simp ↓] theorem State.migDone_memoryWf (s : State) (die : Nat) : (s.migDone die).memoryWf = s.memoryWf := by
  unfold State.migDone
  simp

@[simp ↓] theorem State.migRefuse_memoryWf (s : State) (die why : Nat) : (s.migRefuse die why).memoryWf = s.memoryWf := by
  unfold State.migRefuse
  simp

@[simp ↓] theorem State.migBusy_memoryWf (s : State) (die pg : Nat) : (s.migBusy die pg).memoryWf = s.memoryWf := by
  unfold State.migBusy
  simp

@[simp ↓] theorem State.memoryWf_migCommand {s : State} {die ctx : Nat} {va : BitVec 48} {f : State → Nat → Bool → State}
    (hf : ∀ s pg pin, s.memoryWf = true → (f s pg pin).memoryWf = true) (h : s.memoryWf = true) :
    resultWf (s.migCommand die ctx va f) = true := by
  unfold State.migCommand
  dsimp only
  split_ifs
  · rfl
  · simp [h]
  · split
    · simp [h]
    · exact hf _ _ _ (by simp [h])

@[simp ↓] theorem memoryWf_execMigrateToCapacityTier {die ctx : Nat} {va : BitVec 48} {s : State} (h : s.memoryWf = true) :
    resultWf (execMigrateToCapacityTier die ctx va s) = true := by
  refine State.memoryWf_migCommand (fun s pg pin hs => ?_) h
  dsimp only
  split <;> simp [hs]

@[simp ↓] theorem memoryWf_execMigrateToHbm {die ctx : Nat} {va : BitVec 48} {s : State} (h : s.memoryWf = true) :
    resultWf (execMigrateToHbm die ctx va s) = true := by
  refine State.memoryWf_migCommand (fun s pg pin hs => ?_) h
  split <;> simp [hs]

@[simp ↓] theorem memoryWf_execPinPage {die ctx : Nat} {va : BitVec 48} {s : State} (h : s.memoryWf = true) :
    resultWf (execPinPage die ctx va s) = true :=
  State.memoryWf_migCommand (fun s pg pin hs => by simp [hs]) h

@[simp ↓] theorem memoryWf_execUnpinPage {die ctx : Nat} {va : BitVec 48} {s : State} (h : s.memoryWf = true) :
    resultWf (execUnpinPage die ctx va s) = true :=
  State.memoryWf_migCommand (fun s pg pin hs => by simp [hs]) h

@[simp ↓] theorem memoryWf_execCapcfgWrite {die : Nat} {value : BitVec 32} {s : State} (h : s.memoryWf = true) :
    resultWf (execCapcfgWrite die value s) = true := by
  unfold execCapcfgWrite
  simp [h]

@[simp ↓] theorem memoryWf_execBalloonRequest {ctx : Nat} {value : BitVec 32} {s : State} (h : s.memoryWf = true) :
    resultWf (execBalloonRequest ctx value s) = true := by
  unfold execBalloonRequest
  simp [h]

@[simp ↓] theorem memoryWf_execBalloonClose {ctx : Nat} {s : State} (h : s.memoryWf = true) : resultWf (execBalloonClose ctx s) = true := by
  unfold execBalloonClose
  simp [h]

@[simp ↓] theorem memoryWf_execTranslationInvalidate {ctx : Nat} {value : BitVec 64} {s : State} (h : s.memoryWf = true) :
    resultWf (execTranslationInvalidate ctx value s) = true := by
  unfold execTranslationInvalidate
  simp [h]

@[simp ↓] theorem memoryWf_execInvalidationDone {ctx : Nat} {s : State} (h : s.memoryWf = true) :
    resultWf (execInvalidationDone ctx s) = true := by
  unfold execInvalidationDone
  simp [h]

@[simp ↓] theorem memoryWf_execReplicationWindowClear {s : State} (h : s.memoryWf = true) :
    resultWf (execReplicationWindowClear s) = true := by
  unfold execReplicationWindowClear
  simp [h]

/-! ### Machine/Runner -/

@[simp ↓] theorem memoryWf_runWord {o : BitVec 16} {s : State} {v : View} (h : s.memoryWf = true) : (runWord o s v).memoryWf = true := by
  unfold runWord
  dsimp only
  split
  · rfl
  · split <;> simp [h]

@[simp ↓] theorem memoryWf_rstopWord {s : State} {v : View} (h : s.memoryWf = true) : (rstopWord s v).memoryWf = true := by
  unfold rstopWord
  simp [h]

theorem queueShort_memoryWf {t : Team} {q k : Nat} {e : Effect} (stops : queueShort t q k = some e) : e.memoryWf = true := by
  unfold queueShort at stops
  split at stops <;> cases stops
  rfl

@[simp ↓] theorem memoryWf_qpopWord {d : BitVec 6} {q : BitVec 2} {s : State} {v : View} (h : s.memoryWf = true) :
    (qpopWord d q s v).memoryWf = true := by
  unfold qpopWord
  dsimp only
  split
  · rfl
  · split
    · next stops => exact queueShort_memoryWf stops
    · simp [h]

@[simp ↓] theorem memoryWf_qpopsWord {d : BitVec 6} {q : BitVec 2} {s : State} {v : View} (h : s.memoryWf = true) :
    (qpopsWord d q s v).memoryWf = true := by
  unfold qpopsWord
  split <;> simp [h]

@[simp ↓] theorem memoryWf_qpushWord {a : BitVec 6} {q : BitVec 2} {s : State} {v : View} (h : s.memoryWf = true) :
    (qpushWord a q s v).memoryWf = true := by
  unfold qpushWord
  simp [h]

/-! ### Machine/Sync -/

@[simp ↓] theorem memoryWf_colObserved {s : State} {v : View} (h : s.memoryWf = true) : (colObserved s v).memoryWf = true := by
  unfold colObserved
  split <;> simp [h]

@[simp ↓] theorem memoryWf_waitWord {i : BitVec 3} {s : State} {v : View} (h : s.memoryWf = true) : (waitWord i s v).memoryWf = true := by
  unfold waitWord
  simp [h]

@[simp ↓] theorem memoryWf_qfenceWord {m : BitVec 5} {s : State} {v : View} (h : s.memoryWf = true) :
    (qfenceWord m s v).memoryWf = true := by
  unfold qfenceWord
  simp [h]

@[simp ↓] theorem State.completePhase_memoryWf (s : State) (c id b : Nat) : (s.completePhase c id b).memoryWf = s.memoryWf := by
  unfold State.completePhase
  split <;> simp

@[simp ↓] theorem State.memoryWf_arrive {s : State} {v : View} {b : Nat} (h : s.memoryWf = true) : (s.arrive v b).memoryWf = true := by
  unfold State.arrive
  dsimp only
  split
  · exact h
  · rw [State.completePhase_memoryWf]
    split <;> simp [h]

@[simp ↓] theorem memoryWf_barWord {stay : Bool} {b : BitVec 4} {s : State} {v : View} (h : s.memoryWf = true) :
    (barWord stay b s v).memoryWf = true := by
  unfold barWord
  dsimp only
  split
  · simp [h]
  · split
    · split <;> simp [h]
    · simp [h]

@[simp ↓] theorem memoryWf_fenceWord {o : BitVec 2} {e : BitVec 3} {s : State} {v : View} (h : s.memoryWf = true) :
    (fenceWord o e s v).memoryWf = true := by
  unfold fenceWord
  simp [h]

@[simp ↓] theorem memoryWf_spoutWord {n : BitVec 2} {a : BitVec 6} {s : State} {v : View} (h : s.memoryWf = true) :
    (spoutWord n a s v).memoryWf = true := by
  unfold spoutWord
  split
  · rfl
  · simp [h]

theorem growTrap_memoryWf {v : View} {e : Effect} (stops : growTrap v = some e) : e.memoryWf = true := by
  unfold growTrap at stops
  split_ifs at stops <;> cases stops <;> rfl

@[simp ↓] theorem memoryWf_growWord {s : State} {v : View} (h : s.memoryWf = true) : (growWord s v).memoryWf = true := by
  unfold growWord
  split
  · simp [h]
  · split
    · next stops => exact growTrap_memoryWf stops
    · simp [h]

@[simp ↓] theorem memoryWf_growtWord {k : BitVec 2} {s : State} {v : View} (h : s.memoryWf = true) : (growtWord k s v).memoryWf = true := by
  unfold growtWord
  split
  · next stops => exact growTrap_memoryWf stops
  · simp [h]

@[simp ↓] theorem memoryWf_shrinkWord {s : State} {v : View} (h : s.memoryWf = true) : (shrinkWord s v).memoryWf = true := by
  unfold shrinkWord
  simp [h]

/-! ### Machine/Scheduler -/

@[simp ↓] theorem State.releasePoints_memoryWf (s : State) : s.releasePoints.memoryWf = s.memoryWf := (rfl)

@[simp ↓] theorem State.retarget_memoryWf (s : State) (d : Nat) : (s.retarget d).memoryWf = s.memoryWf := by
  unfold State.retarget
  simp

@[simp ↓] theorem State.settleCohort_memoryWf (s : State) (x : Nat) (l : Launch) (c : Nat) (items : List (Nat × Option (List Word))) :
    (s.settleCohort x l c items).memoryWf = s.memoryWf := by
  unfold State.settleCohort
  simp

@[simp ↓] theorem State.memoryWf_beginLaunch {s : State} {x die : Nat} {l : Launch} {nitems : Nat} (h : s.memoryWf = true) :
    (s.beginLaunch x die l nitems).memoryWf = true := by
  unfold State.beginLaunch
  simp [h]

@[simp ↓] theorem memoryWf_execDispatchCohort {die cluster : Nat} {s : State} (h : s.memoryWf = true) :
    resultWf (execDispatchCohort die cluster s) = true := by
  unfold execDispatchCohort
  repeat' split
  all_goals simp [h]

@[simp ↓] theorem memoryWf_execBinTeamDispatch {die cluster : Nat} {s : State} (h : s.memoryWf = true) :
    resultWf (execBinTeamDispatch die cluster s) = true := by
  unfold execBinTeamDispatch
  dsimp only
  split
  · exact h
  · split
    · exact h
    · split <;> simp [h]

@[simp ↓] theorem State.leaveCohort_memoryWf (s : State) (c id uid : Nat) : (s.leaveCohort c id uid).memoryWf = s.memoryWf := by
  unfold State.leaveCohort
  split <;> simp

@[simp ↓] theorem memoryWf_execTeamExit {core slot : Nat} {s : State} (h : s.memoryWf = true) :
    resultWf (execTeamExit core slot s) = true := by
  unfold execTeamExit
  split
  · rfl
  · dsimp only
    split
    · exact h
    · split <;> simp [State.memoryWf_performScratch h]

@[simp ↓] theorem memoryWf_execBinTimerExpiry {die cluster bin : Nat} {s : State} (h : s.memoryWf = true) :
    resultWf (execBinTimerExpiry die cluster bin s) = true := by
  unfold execBinTimerExpiry
  dsimp only
  split <;> simp [h]

@[simp ↓] theorem memoryWf_execReturnEvictedTeam {core : Nat} {s : State} (h : s.memoryWf = true) :
    resultWf (execReturnEvictedTeam core s) = true := by
  unfold execReturnEvictedTeam
  dsimp only
  split
  · exact h
  · split
    · exact h
    · split
      · exact h
      · exact memoryWf_foldl (fun _ _ => State.memoryWf_trapAgent) (by simp [h])

@[simp ↓] theorem memoryWf_execGrowGrant {core : Nat} {s : State} (h : s.memoryWf = true) : resultWf (execGrowGrant core s) = true := by
  unfold execGrowGrant
  split <;> simp [h]

/-- The state that the writing of a completion word leaves has both memories in canonical form. -/
def Word'.memoryWf : Word' → Bool
  | .wait s => s.memoryWf
  | .done s => s.memoryWf

theorem State.memoryWf_writeCompletion {s : State} {x : Nat} {l : Launch} (h : s.memoryWf = true) :
    (s.writeCompletion x l).memoryWf = true := by
  have away (pg : Nat) : (if (s.page pg).state == .migrating || (s.page pg).queued.isSome then Word'.wait s
      else if l.cwAsked then Word'.done (s.setCtx x { s.ctx x with cwf := true })
      else Word'.wait ((s.setLaunch x { l with cwAsked := true }).beginMigration x pg)).memoryWf = true := by
    split_ifs
    · exact h
    · exact h
    · exact State.memoryWf_beginMigration h
  unfold State.writeCompletion
  dsimp only
  split
  · exact h
  · split
    · exact State.memoryWf_ownWrite h
    · exact away _
    · exact away _
    · split
      · exact away _
      · exact h

@[simp ↓] theorem memoryWf_execLaunchCompletion {ctx launch : Nat} {s : State} (h : s.memoryWf = true) :
    resultWf (execLaunchCompletion ctx launch s) = true := by
  unfold execLaunchCompletion
  split
  · rfl
  · next l _ =>
    have written := State.memoryWf_writeCompletion (x := ctx) (l := l) h
    split
    · exact h
    · split
      · next e =>
        rw [e] at written
        exact written
      · next t e =>
        rw [e] at written
        have ht : t.memoryWf = true := written
        simp [ht]

@[simp ↓] theorem memoryWf_execOperatingPointStable {die : Nat} {s : State} (h : s.memoryWf = true) :
    resultWf (execOperatingPointStable die s) = true := by
  unfold execOperatingPointStable
  simp [h]

/-! ### Machine/Image -/

@[simp ↓] theorem State.memoryWf_putImage {s : State} {x va : Nat} {bytes : List Byte} (h : s.memoryWf = true) :
    (s.putImage x va bytes).memoryWf = true := by
  refine memoryWf_foldl (fun s e hs => ?_) h
  split
  · exact State.memoryWf_ownWrite hs
  · exact hs

@[simp ↓] theorem State.memoryWf_touchImage {s : State} {x : Nat} (h : s.memoryWf = true) : (s.touchImage x).memoryWf = true := by
  unfold State.touchImage
  refine memoryWf_foldl (fun _ _ => State.memoryWf_beginMigration) (memoryWf_foldl (fun s e hs => ?_) h)
  split <;> simp [hs]

/-! ### Machine/Preempt -/

@[simp ↓] theorem State.memoryWf_tracePreempt {s : State} {x src team what : Nat} (h : s.memoryWf = true) :
    (s.tracePreempt x src team what).memoryWf = true := by
  unfold State.tracePreempt
  simp [h]

@[simp ↓] theorem State.memoryWf_forceSave {s : State} {x : Nat} (h : s.memoryWf = true) : (s.forceSave x).memoryWf = true := by
  unfold State.forceSave
  simp [h]

@[simp ↓] theorem memoryWf_execPreemptRequest {ctx : Nat} {s : State} (h : s.memoryWf = true) :
    resultWf (execPreemptRequest ctx s) = true := by
  unfold execPreemptRequest
  simp [h]

@[simp ↓] theorem memoryWf_execPreemptDeadline {ctx : Nat} {s : State} (h : s.memoryWf = true) :
    resultWf (execPreemptDeadline ctx s) = true := by
  unfold execPreemptDeadline
  simp [h]

@[simp ↓] theorem memoryWf_execPreemptForce {ctx : Nat} {s : State} (h : s.memoryWf = true) : resultWf (execPreemptForce ctx s) = true := by
  unfold execPreemptForce
  simp [h]

@[simp ↓] theorem State.putSaved_memoryWf (s : State) (x : Nat) (e : SavedCore) : (s.putSaved x e).memoryWf = s.memoryWf := (rfl)

@[simp ↓] theorem State.saveEngine_memoryWf (s : State) (x c : Nat) : (s.saveEngine x c).memoryWf = s.memoryWf := by
  unfold State.saveEngine
  dsimp only
  split <;> simp

@[simp ↓] theorem State.sweepCore_memoryWf (s : State) (x c : Nat) : (s.sweepCore x c).memoryWf = s.memoryWf := by
  unfold State.sweepCore
  simp

@[simp ↓] theorem State.memoryWf_saveTeam {s : State} {x c slot : Nat} {t : Team} (h : s.memoryWf = true) :
    (s.saveTeam x c slot t).memoryWf = true := by
  unfold State.saveTeam
  simp [h]

@[simp ↓] theorem memoryWf_execYieldSave {core slot : Nat} {s : State} (h : s.memoryWf = true) :
    resultWf (execYieldSave core slot s) = true := by
  unfold execYieldSave
  split <;> simp [h]

@[simp ↓] theorem State.putBins_memoryWf (s : State) (x : Nat) : (s.putBins x).memoryWf = s.memoryWf := (rfl)

@[simp ↓] theorem State.takeBins_memoryWf (s : State) (x : Nat) : (s.takeBins x).memoryWf = s.memoryWf := by
  unfold State.takeBins
  simp

@[simp ↓] theorem memoryWf_execSaveComplete {ctx : Nat} {s : State} (h : s.memoryWf = true) : resultWf (execSaveComplete ctx s) = true := by
  unfold execSaveComplete
  dsimp only
  generalize swept : List.foldl (fun s c => State.sweepCore s ctx c) s _ = s'
  have h' : s'.memoryWf = true := by
    rw [← swept]
    simp [h]
  split_ifs
  · exact h
  · exact h
  · exact h'
  · exact memoryWf_foldl (fun _ _ => State.memoryWf_beginMigration) h'
  · simp [h']

@[simp ↓] theorem memoryWf_execPreemptWithdraw {ctx : Nat} {s : State} (h : s.memoryWf = true) :
    resultWf (execPreemptWithdraw ctx s) = true := by
  unfold execPreemptWithdraw
  simp [h]

@[simp ↓] theorem memoryWf_execResume {ctx : Nat} {s : State} (h : s.memoryWf = true) : resultWf (execResume ctx s) = true := by
  unfold execResume
  dsimp only
  split
  · rfl
  · split
    · exact h
    · split <;> simp [h]

@[simp ↓] theorem State.restoreCore_memoryWf (s : State) (x : Nat) (e : SavedCore) : (s.restoreCore x e).memoryWf = s.memoryWf := by
  unfold State.restoreCore
  simp

@[simp ↓] theorem memoryWf_execRestoreComplete {ctx : Nat} {s : State} (h : s.memoryWf = true) :
    resultWf (execRestoreComplete ctx s) = true := by
  unfold execRestoreComplete
  simp [h]

@[simp ↓] theorem memoryWf_execEvictTeam {core : Nat} {s : State} (h : s.memoryWf = true) : resultWf (execEvictTeam core s) = true := by
  unfold execEvictTeam
  dsimp only
  split
  · exact h
  · split
    · exact h
    · split
      · exact h
      · split
        · exact memoryWf_foldl (fun _ _ => State.memoryWf_beginMigration) h
        · simp [h]

@[simp ↓] theorem State.memoryWf_releasePage {s : State} {pg : Nat} (h : s.memoryWf = true) : (s.releasePage pg).memoryWf = true := by
  unfold State.releasePage
  simp [h]

@[simp ↓] theorem State.memoryWf_teardown {s : State} {x : Nat} (h : s.memoryWf = true) : (s.teardown x).memoryWf = true := by
  unfold State.teardown
  dsimp only
  generalize released : List.foldl State.releasePage s _ = s'
  have h' : s'.memoryWf = true := by
    rw [← released]
    exact memoryWf_foldl (fun _ _ => State.memoryWf_releasePage) h
  simp [h']

@[simp ↓] theorem memoryWf_execDriverContextTeardown {ctx : Nat} {s : State} (h : s.memoryWf = true) :
    resultWf (execDriverContextTeardown ctx s) = true := by
  unfold execDriverContextTeardown
  simp [h]

@[simp ↓] theorem memoryWf_execFunctionLevelReset {fn : Nat} {s : State} (h : s.memoryWf = true) :
    resultWf (execFunctionLevelReset fn s) = true := by
  unfold execFunctionLevelReset
  dsimp only
  split
  · rfl
  · exact memoryWf_foldl (fun _ _ => State.memoryWf_teardown) h

/-! ### Machine/Debug -/

@[simp ↓] theorem State.memoryWf_sample {s : State} {c slot : Nat} {side : Bool} (h : s.memoryWf = true) :
    (s.sample c slot side).memoryWf = true := by
  unfold State.sample
  split <;> simp [h]

@[simp ↓] theorem memoryWf_execPcSample {core sched : Nat} {s : State} (h : s.memoryWf = true) :
    resultWf (execPcSample core sched s) = true := by
  unfold execPcSample
  dsimp only
  split
  · rfl
  · split
    · exact h
    · split
      · exact h
      · rw [resultWf_next]
        split <;> simp [h]

@[simp ↓] theorem memoryWf_execComparatorHit {core slot : Nat} {path : Bool} {cmp : Nat} {s : State} (h : s.memoryWf = true) :
    resultWf (execComparatorHit core slot path cmp s) = true := by
  unfold execComparatorHit
  split <;> simp [h]

@[simp ↓] theorem memoryWf_execDebugAttach {ctx : Nat} {s : State} (h : s.memoryWf = true) : resultWf (execDebugAttach ctx s) = true := by
  unfold execDebugAttach
  simp [h]

@[simp ↓] theorem memoryWf_execDebugDetach {ctx : Nat} {s : State} (h : s.memoryWf = true) : resultWf (execDebugDetach ctx s) = true := by
  unfold execDebugDetach
  simp [h]

@[simp ↓] theorem State.debugError_memoryWf (s : State) (ctx : Nat) : (s.debugError ctx).memoryWf = s.memoryWf := (rfl)

@[simp ↓] theorem memoryWf_execDebugStep {ctx core slot : Nat} {path : Bool} {s : State} (h : s.memoryWf = true) :
    resultWf (execDebugStep ctx core slot path s) = true := by
  unfold execDebugStep
  split_ifs
  · rfl
  · exact h
  · split <;> simp [h]

@[simp ↓] theorem memoryWf_execDebugStepToRetire {ctx core slot : Nat} {path : Bool} {s : State} (h : s.memoryWf = true) :
    resultWf (execDebugStepToRetire ctx core slot path s) = true := by
  unfold execDebugStepToRetire
  split_ifs
  · rfl
  · exact h
  · split <;> simp [h]

@[simp ↓] theorem memoryWf_execDebugCancelWait {ctx core slot : Nat} {path : Bool} {s : State} (h : s.memoryWf = true) :
    resultWf (execDebugCancelWait ctx core slot path s) = true := by
  unfold execDebugCancelWait
  repeat' split
  all_goals simp [h]

@[simp ↓] theorem memoryWf_execDebugResume {ctx core slot : Nat} {s : State} (h : s.memoryWf = true) :
    resultWf (execDebugResume ctx core slot s) = true := by
  unfold execDebugResume
  split_ifs
  · rfl
  · exact h
  · split <;> simp [h]

@[simp ↓] theorem memoryWf_execDebugStepEnd {core slot : Nat} {s : State} (h : s.memoryWf = true) :
    resultWf (execDebugStepEnd core slot s) = true := by
  unfold execDebugStepEnd
  repeat' split
  all_goals simp [h]

@[simp ↓] theorem memoryWf_execStopArm {s : State} (h : s.memoryWf = true) : resultWf (execStopArm s) = true := by
  unfold execStopArm
  simp [h]

@[simp ↓] theorem memoryWf_execStopOnTick {s : State} (h : s.memoryWf = true) : resultWf (execStopOnTick s) = true := by
  unfold execStopOnTick
  split
  · exact h
  · exact memoryWf_foldl (fun _ _ => State.memoryWf_traceWord) h

@[simp ↓] theorem memoryWf_execStopRelease {s : State} (h : s.memoryWf = true) : resultWf (execStopRelease s) = true := by
  unfold execStopRelease
  simp [h]

/-! ### Machine/Registers -/

@[simp ↓] theorem memoryWf_execCtxownWrite {ctx : Nat} {value : BitVec 32} {s : State} (h : s.memoryWf = true) :
    resultWf (execCtxownWrite ctx value s) = true := by
  unfold execCtxownWrite
  simp [h]

@[simp ↓] theorem memoryWf_execStitchConfigWrite {offset : Nat} {value : BitVec 32} {s : State} (h : s.memoryWf = true) :
    resultWf (execStitchConfigWrite offset value s) = true := by
  unfold execStitchConfigWrite
  split <;> simp [h]

@[simp ↓] theorem memoryWf_execTrdropClear {ctx : Nat} {s : State} (h : s.memoryWf = true) : resultWf (execTrdropClear ctx s) = true := by
  unfold execTrdropClear
  simp [h]

theorem memoryWf_andThen {f g : State → Result} (hf : ∀ s, s.memoryWf = true → resultWf (f s) = true)
    (hg : ∀ s, s.memoryWf = true → resultWf (g s) = true) {s : State} (h : s.memoryWf = true) : resultWf (andThen f g s) = true := by
  have first := hf s h
  unfold andThen
  split
  · next e =>
    rw [e] at first
    exact hg _ first
  · exact first

@[simp ↓] theorem memoryWf_writePreq {x : Nat} {w : Word} {s : State} (h : s.memoryWf = true) : resultWf (writePreq x w s) = true := by
  unfold writePreq
  refine memoryWf_andThen (fun t ht => ?_) (fun t => memoryWf_andThen (fun t ht => ?_) (fun t ht => ?_)) (by simp [h])
  · split_ifs
    · exact memoryWf_execPreemptRequest ht
    · exact memoryWf_execPreemptWithdraw ht
    · exact ht
  · split_ifs
    · exact memoryWf_execPreemptForce ht
    · exact ht
  · split_ifs
    · exact memoryWf_execResume ht
    · exact ht

@[simp ↓] theorem State.setRoot_memoryWf (s : State) (x base : Nat) : (s.setRoot x base).memoryWf = s.memoryWf := by
  unfold State.setRoot
  simp

@[simp ↓] theorem memoryWf_writeStart {x off : Nat} {value : DWord} {s : State} (h : s.memoryWf = true) :
    resultWf (writeStart x off value s) = true := by
  unfold writeStart
  split <;> simp [h]

@[simp ↓] theorem memoryWf_writeCommand {x : Nat} {w : Word} {s : State} (h : s.memoryWf = true) :
    resultWf (writeCommand x w s) = true := by
  unfold writeCommand
  split <;> simp [h]

@[simp ↓] theorem memoryWf_writeWindow {x off : Nat} {value : DWord} {s : State} (h : s.memoryWf = true) :
    resultWf (writeWindow x off value s) = true := by
  have attached (t : State) (ht : t.memoryWf = true) :
      resultWf ((if (value.setWidth 32 : Word).getLsbD 0 && !(s.ctx x).attach then execDebugAttach x
        else if !(value.setWidth 32 : Word).getLsbD 0 && (s.ctx x).attach then execDebugDetach x else .next) t) = true := by
    split_ifs
    · exact memoryWf_execDebugAttach ht
    · exact memoryWf_execDebugDetach ht
    · exact ht
  unfold writeWindow
  dsimp only
  split
  case h_6 => exact memoryWf_andThen attached (fun t ht => by simp [ht]) h
  all_goals simp [h]

@[simp ↓] theorem memoryWf_writeMig {die : Nat} {value : DWord} {s : State} (h : s.memoryWf = true) :
    resultWf (writeMig die value s) = true := by
  unfold writeMig
  split <;> simp [h]

@[simp ↓] theorem writeRas_memoryWf (off : Nat) (w : Word) (s : State) : (writeRas off w s).memoryWf = s.memoryWf := by
  unfold writeRas
  split <;> simp

@[simp ↓] theorem memoryWf_writeStop {w : Word} {s : State} (h : s.memoryWf = true) : resultWf (writeStop w s) = true := by
  refine memoryWf_andThen (fun t ht => ?_) (fun t ht => ?_) h
  · split_ifs
    · exact memoryWf_execStopRelease ht
    · exact ht
  · split_ifs
    · exact memoryWf_execStopArm ht
    · exact ht

@[simp ↓] theorem memoryWf_writeReg {value : DWord} {s : State} {r : Reg} (h : s.memoryWf = true) :
    resultWf (writeReg value s r) = true := by
  unfold writeReg
  split <;> simp [h]

@[simp ↓] theorem memoryWf_execRegisterWrite {fn offset : Nat} {value : BitVec 64} {s : State} (h : s.memoryWf = true) :
    resultWf (execRegisterWrite fn offset value s) = true := by
  unfold execRegisterWrite
  repeat' split
  all_goals simp [h]

/-! ### Machine/Power -/

@[simp ↓] theorem State.memoryWf_afterReset {s : State} (h : s.memoryWf = true) : s.afterReset.memoryWf = true :=
  (State.memoryWf_iff _).mpr ⟨rfl, ((State.memoryWf_iff s).mp h).2⟩

@[simp ↓] theorem memoryWf_execReset {s : State} (h : s.memoryWf = true) : resultWf (execReset s) = true := by
  unfold execReset
  simp [h]

@[simp ↓] theorem memoryWf_execPowerLoss {s : State} (h : s.memoryWf = true) : resultWf (execPowerLoss s) = true := by
  unfold execPowerLoss
  simp [h]

@[simp ↓] theorem memoryWf_execPerstRelease {s : State} (h : s.memoryWf = true) : resultWf (execPerstRelease s) = true := by
  unfold execPerstRelease
  simp [h]

@[simp ↓] theorem State.stageFailed_memoryWf (s : State) (err : BitVec 8) : (s.stageFailed err).memoryWf = s.memoryWf :=
  State.devstatEvent_memoryWf _

@[simp ↓] theorem memoryWf_execStageAComplete {s : State} (h : s.memoryWf = true) : resultWf (execStageAComplete s) = true := by
  unfold execStageAComplete
  simp [h]

@[simp ↓] theorem State.reportCluster_memoryWf (s : State) (k : Nat) : (s.reportCluster k).memoryWf = s.memoryWf := by
  unfold State.reportCluster
  simp

@[simp ↓] theorem memoryWf_execStageBComplete {firmwareOk hbm0 hbm1 clusters0 clusters1 : Bool} {s : State} (h : s.memoryWf = true) :
    resultWf (execStageBComplete firmwareOk hbm0 hbm1 clusters0 clusters1 s) = true := by
  unfold execStageBComplete
  simp [h]

@[simp ↓] theorem memoryWf_execStageCComplete {fabricOk stitchOk : Bool} {offset : BitVec 64} {s : State} (h : s.memoryWf = true) :
    resultWf (execStageCComplete fabricOk stitchOk offset s) = true := by
  unfold execStageCComplete
  simp [h]

@[simp ↓] theorem State.keepIdle_memoryWf (s : State) : s.keepIdle.memoryWf = s.memoryWf := (rfl)

@[simp ↓] theorem memoryWf_execLtrMessage {snoop noSnoop : Nat} {s : State} (h : s.memoryWf = true) :
    resultWf (execLtrMessage snoop noSnoop s) = true := by
  unfold execLtrMessage
  simp [h]

@[simp ↓] theorem State.goIdle_memoryWf (s : State) (level place : Nat) : (s.goIdle level place).memoryWf = s.memoryWf := by
  unfold State.goIdle
  split <;> simp

@[simp ↓] theorem memoryWf_execIdleEntry {level place : Nat} {s : State} (h : s.memoryWf = true) :
    resultWf (execIdleEntry level place s) = true := by
  unfold execIdleEntry
  simp [h]

@[simp ↓] theorem memoryWf_execIdleWake {level place : Nat} {s : State} (h : s.memoryWf = true) :
    resultWf (execIdleWake level place s) = true := by
  unfold execIdleWake
  simp [h]

@[simp ↓] theorem State.fall_memoryWf (s : State) (d : Nat) : (s.fall d).memoryWf = s.memoryWf := by
  unfold State.fall
  simp

@[simp ↓] theorem memoryWf_execPowerCapEvaluation {die : Nat} {watts : List Nat} {s : State} (h : s.memoryWf = true) :
    resultWf (execPowerCapEvaluation die watts s) = true := by
  unfold execPowerCapEvaluation
  simp [h]

@[simp ↓] theorem State.setTcap_memoryWf (s : State) (n : Nat) : (s.setTcap n).memoryWf = s.memoryWf := by
  unfold State.setTcap
  simp

@[simp ↓] theorem memoryWf_execTcapStep {celsius : Nat} {s : State} (h : s.memoryWf = true) : resultWf (execTcapStep celsius s) = true := by
  unfold execTcapStep
  simp [h]

@[simp ↓] theorem memoryWf_execThermalCapZero {celsius : Nat} {s : State} (h : s.memoryWf = true) :
    resultWf (execThermalCapZero celsius s) = true := by
  unfold execThermalCapZero
  simp [h]

@[simp ↓] theorem memoryWf_execThermalShutdown {celsius : Nat} {s : State} (h : s.memoryWf = true) :
    resultWf (execThermalShutdown celsius s) = true := by
  unfold execThermalShutdown
  simp [h]

/-! ### Machine/Health -/

@[simp ↓] theorem State.scrubCarve_memoryWf (s : State) (die j : Nat) (outcome : ScrubOutcome) :
    (s.scrubCarve die j outcome).memoryWf = s.memoryWf := by
  unfold State.scrubCarve
  split <;> simp

@[simp ↓] theorem memoryWf_execPatrolScrub {die granule : Nat} {outcome : ScrubOutcome} {s : State} (h : s.memoryWf = true) :
    resultWf (execPatrolScrub die granule outcome s) = true := by
  unfold execPatrolScrub
  dsimp only
  split_ifs
  · rfl
  · exact h
  · simp [h]
  · cases outcome <;> simp [h]

@[simp ↓] theorem State.poisonPool_memoryWf (s : State) (c a : Nat) : (s.poisonPool c a).memoryWf = s.memoryWf := by
  unfold State.poisonPool
  dsimp only
  split_ifs
  · split
    · split <;> simp
    · rfl
  · simp
  · split <;> simp

@[simp ↓] theorem State.poisonLine_memoryWf (s : State) (d da : Nat) : (s.poisonLine d da).memoryWf = s.memoryWf := by
  unfold State.poisonLine
  split <;> simp

@[simp ↓] theorem State.upset_memoryWf (s : State) (what a b : Nat) : (s.upset what a b).memoryWf = s.memoryWf := by
  unfold State.upset
  repeat' split
  all_goals simp

@[simp ↓] theorem memoryWf_execEcsPoll {stack pch bank count row : Nat} {s : State} (h : s.memoryWf = true) :
    resultWf (execEcsPoll stack pch bank count row s) = true := by
  unfold execEcsPoll
  simp [h]

@[simp ↓] theorem memoryWf_execCoreFaultInService {core physical : Nat} {s : State} (h : s.memoryWf = true) :
    resultWf (execCoreFaultInService core physical s) = true := by
  unfold execCoreFaultInService
  simp [h]

@[simp ↓] theorem State.memoryWf_hopDown {s : State} {die loop : Nat} (h : s.memoryWf = true) : (s.hopDown die loop).memoryWf = true := by
  unfold State.hopDown
  dsimp only
  generalize torn : List.foldl State.teardown s _ = s'
  have h' : s'.memoryWf = true := by
    rw [← torn]
    exact memoryWf_foldl (fun _ _ => State.memoryWf_teardown) h
  simp [h']

@[simp ↓] theorem memoryWf_execFabricHopRetry {die loop hop : Nat} {s : State} (h : s.memoryWf = true) :
    resultWf (execFabricHopRetry die loop hop s) = true := by
  unfold execFabricHopRetry
  simp [h]

@[simp ↓] theorem State.hopGood_memoryWf (s : State) (die loop hop : Nat) : (s.hopGood die loop hop).memoryWf = s.memoryWf := (rfl)

@[simp ↓] theorem State.inject_memoryWf (s : State) (die stop loop : Nat) : (s.inject die stop loop).memoryWf = s.memoryWf := (rfl)

@[simp ↓] theorem memoryWf_execInjectionStarvation {die stop loop : Nat} {s : State} (h : s.memoryWf = true) :
    resultWf (execInjectionStarvation die stop loop s) = true := by
  unfold execInjectionStarvation
  simp [h]

@[simp ↓] theorem memoryWf_execStitchLanesLost {port lanes : Nat} {s : State} (h : s.memoryWf = true) :
    resultWf (execStitchLanesLost port lanes s) = true := by
  unfold execStitchLanesLost
  simp [h]

@[simp ↓] theorem memoryWf_execStitchPortTrained {port : Nat} {width : BitVec 2} {peer : BitVec 6} {peerPort : BitVec 4} {s : State}
    (h : s.memoryWf = true) : resultWf (execStitchPortTrained port width peer peerPort s) = true := by
  unfold execStitchPortTrained
  simp [h]

@[simp ↓] theorem State.memoryWf_hostWrite {s : State} {da : Nat} {data : List Byte} (h : s.memoryWf = true) :
    (s.hostWrite da data).memoryWf = true := by
  refine memoryWf_foldl_of (fun (r : List Nat × State) => r.2) _ (fun r e hr => ?_) _ _ h
  dsimp only
  split_ifs
  · exact State.memoryWf_writeLoc _ _ _ _ hr
  · exact hr
  · simp [hr]

@[simp ↓] theorem State.memoryWf_hostOwn {s : State} {pa : Nat} {bytes : List Byte} (h : s.memoryWf = true) :
    (s.hostOwn pa bytes).memoryWf = true := by
  unfold State.hostOwn
  rw [State.keepPast_memoryWf]
  rw [State.memoryWf_iff] at h ⊢
  exact ⟨h.1, Memory.wf_writeList s.hostMem pa bytes h.2⟩

@[simp ↓] theorem memoryWf_execHostCxlMemAccess {write : Bool} {da : Nat} {data : List (BitVec 8)} {s : State} (h : s.memoryWf = true) :
    resultWf (execHostCxlMemAccess write da data s) = true := by
  unfold execHostCxlMemAccess
  simp [h]

/-! ### Machine/Migration -/

@[simp ↓] theorem State.memoryWf_afterMigration {s : State} {d : Nat} (h : s.memoryWf = true) : (s.afterMigration d).memoryWf = true := by
  unfold State.afterMigration
  simp [h]

@[simp ↓] theorem State.arrived_memoryWf (s : State) (pg : Nat) : (s.arrived pg).memoryWf = s.memoryWf := (rfl)

@[simp ↓] theorem State.memoryWf_failEntries {s : State} {pg : Nat} (h : s.memoryWf = true) : (s.failEntries pg).memoryWf = true := by
  refine memoryWf_foldl (fun s e hs => ?_) h
  split
  · simp [hs]
  · exact hs

@[simp ↓] theorem memoryWf_execMigrationComplete {page : Nat} {s : State} (h : s.memoryWf = true) :
    resultWf (execMigrationComplete page s) = true := by
  unfold execMigrationComplete
  simp [h]

@[simp ↓] theorem memoryWf_execMigrationFailed {page : Nat} {tierLost : Bool} {s : State} (h : s.memoryWf = true) :
    resultWf (execMigrationFailed page tierLost s) = true := by
  have trapped (l : List (Nat × Nat × Option Bool × Nat)) {t : State} (ht : t.memoryWf = true) :
      ((l.foldl State.trapParked t).denyEvicted page).memoryWf = true :=
    State.memoryWf_denyEvicted (memoryWf_foldl (fun _ _ => State.memoryWf_trapParked) ht)
  have ended {t : State} (ht : t.memoryWf = true) (d : Nat) : (((t.failEntries page).commandPage page 2).afterMigration d).memoryWf = true :=
    State.memoryWf_afterMigration ((State.commandPage_memoryWf _ _ _).trans (State.memoryWf_failEntries ht))
  unfold execMigrationFailed
  dsimp only
  generalize made : State.makeRoom s _ _ _ _ = s'
  have h' : s'.memoryWf = true := by
    rw [← made]
    exact State.memoryWf_makeRoom h
  split_ifs
  · exact h
  · simp [h]
  · exact h
  · exact ended (by simp [h]) _
  · exact h'
  · exact ended (trapped _ (by simp [h'])) _

/-! ### Machine/Sideband -/

@[simp ↓] theorem memoryWf_answer {what : Nat} {request : List Byte} {s : State} (h : s.memoryWf = true) :
    resultWf (answer what request s) = true := by
  unfold answer
  simp [h]

@[simp ↓] theorem memoryWf_execMctpControlMessage {command : BitVec 8} {s : State} (h : s.memoryWf = true) :
    resultWf (execMctpControlMessage command s) = true := by
  unfold execMctpControlMessage
  simp [h]

@[simp ↓] theorem memoryWf_execPldmSensorRead {sensor : Nat} {s : State} (h : s.memoryWf = true) :
    resultWf (execPldmSensorRead sensor s) = true := by
  unfold execPldmSensorRead
  simp [h]

@[simp ↓] theorem memoryWf_execPldmFirmwareUpdate {image : Nat} {signatureOk : Bool} {s : State} (h : s.memoryWf = true) :
    resultWf (execPldmFirmwareUpdate image signatureOk s) = true := by
  unfold execPldmFirmwareUpdate
  simp [h]

@[simp ↓] theorem memoryWf_execGetVersion {s : State} (h : s.memoryWf = true) : resultWf (execGetVersion s) = true := by
  unfold execGetVersion
  simp [h]

@[simp ↓] theorem memoryWf_execGetCapabilities {s : State} (h : s.memoryWf = true) : resultWf (execGetCapabilities s) = true := by
  unfold execGetCapabilities
  simp [h]

@[simp ↓] theorem memoryWf_execNegotiateAlgorithms {p384 sha384 : Bool} {s : State} (h : s.memoryWf = true) :
    resultWf (execNegotiateAlgorithms p384 sha384 s) = true := by
  unfold execNegotiateAlgorithms
  simp [h]

@[simp ↓] theorem memoryWf_execGetDigests {s : State} (h : s.memoryWf = true) : resultWf (execGetDigests s) = true := by
  unfold execGetDigests
  simp [h]

@[simp ↓] theorem memoryWf_execGetCertificate {slot : BitVec 8} {s : State} (h : s.memoryWf = true) :
    resultWf (execGetCertificate slot s) = true := by
  unfold execGetCertificate
  simp [h]

@[simp ↓] theorem memoryWf_execChallenge {nonce : BitVec 256} {s : State} (h : s.memoryWf = true) :
    resultWf (execChallenge nonce s) = true := by
  unfold execChallenge
  simp [h]

@[simp ↓] theorem memoryWf_execGetMeasurements {nonce : BitVec 256} {s : State} (h : s.memoryWf = true) :
    resultWf (execGetMeasurements nonce s) = true := by
  unfold execGetMeasurements
  simp [h]

@[simp ↓] theorem memoryWf_execVendorRegisterAccess {write : Bool} {offset : Nat} {value : BitVec 64} {s : State} (h : s.memoryWf = true) :
    resultWf (execVendorRegisterAccess write offset value s) = true := by
  unfold execVendorRegisterAccess
  split
  · exact h
  · split_ifs
    · exact h
    · exact memoryWf_andThen (fun _ => memoryWf_writeReg) (fun t ht => by simp [ht]) h
    · simp [h]

@[simp ↓] theorem memoryWf_execMregWrite {entry : Nat} {value : BitVec 128} {s : State} (h : s.memoryWf = true) :
    resultWf (execMregWrite entry value s) = true := by
  unfold execMregWrite
  simp [h]

@[simp ↓] theorem memoryWf_execMeterPowerOn {s : State} (h : s.memoryWf = true) : resultWf (execMeterPowerOn s) = true := by
  unfold execMeterPowerOn
  simp [h]

@[simp ↓] theorem memoryWf_execMeterCheckpoint {s : State} (h : s.memoryWf = true) : resultWf (execMeterCheckpoint s) = true := by
  unfold execMeterCheckpoint
  simp [h]

@[simp ↓] theorem memoryWf_execOrderlyPowerDown {s : State} (h : s.memoryWf = true) : resultWf (execOrderlyPowerDown s) = true := by
  unfold execOrderlyPowerDown
  simp [h]

@[simp ↓] theorem State.sendReport_memoryWf (s : State) (nonce : BitVec 256) (tenant : BitVec 16) (final : Bool) :
    (s.sendReport nonce tenant final).memoryWf = s.memoryWf := by
  unfold State.sendReport
  simp

@[simp ↓] theorem memoryWf_execMeteringReport {nonce : BitVec 256} {tenant : BitVec 16} {s : State} (h : s.memoryWf = true) :
    resultWf (execMeteringReport nonce tenant s) = true := by
  unfold execMeteringReport
  simp [h]

@[simp ↓] theorem memoryWf_execFinalReport {nonce : BitVec 256} {s : State} (h : s.memoryWf = true) :
    resultWf (execFinalReport nonce s) = true := by
  unfold execFinalReport
  simp [h]

@[simp ↓] theorem memoryWf_execAllowListInstall {key : Nat} {signatureOk : Bool} {entries : List (BitVec 384)} {s : State}
    (h : s.memoryWf = true) : resultWf (execAllowListInstall key signatureOk entries s) = true := by
  unfold execAllowListInstall
  simp [h]

@[simp ↓] theorem memoryWf_execAttmapWrite {value : BitVec 64} {s : State} (h : s.memoryWf = true) :
    resultWf (execAttmapWrite value s) = true := by
  unfold execAttmapWrite
  simp [h]

/-! ### Machine/Dispatch -/

/-- Every instruction and every event keeps the form. -/
theorem memoryWf_exec (i : Instr) {s : State} (h : s.memoryWf = true) : resultWf (exec i s) = true := by
  cases i <;> dsimp only [exec]
  case nop | bra | brc | call | calli | ret | trap | brk | waitcyc | yield | prio | barw | saddw | scmp | saddi | smovi | ext | vaddw
    | vqfac | vqnorm | mwait | qstat => exact memoryWf_issueWord (fun _ _ hs => by simp [hs]) h
  case split => exact memoryWf_issueWord (fun _ _ => memoryWf_splitWord) h
  case join => exact memoryWf_issueWord (fun _ _ => memoryWf_joinWord) h
  case exit => exact memoryWf_issueWord (fun _ _ => memoryWf_exitWord) h
  case srd => exact memoryWf_issueWord (fun _ _ => memoryWf_srdWord) h
  case swr => exact memoryWf_issueWord (fun _ _ => memoryWf_swrWord) h
  case trtag => exact memoryWf_issueWord (fun _ _ => memoryWf_tagWord) h
  case rett => exact memoryWf_issueWord (fun _ _ => memoryWf_rettWord) h
  case launch => exact memoryWf_issueWord (fun _ _ => memoryWf_launchWord) h
  case spawn => exact memoryWf_issueWord (fun _ _ => memoryWf_spawnWord) h
  case waitc | waitci => exact memoryWf_issueWord (fun _ _ => memoryWf_waitWord) h
  case bar | bara => exact memoryWf_issueWord (fun _ _ => memoryWf_barWord) h
  case fence => exact memoryWf_issueWord (fun _ _ => memoryWf_fenceWord) h
  case qfence => exact memoryWf_issueWord (fun _ _ => memoryWf_qfenceWord) h
  case spout => exact memoryWf_issueWord (fun _ _ => memoryWf_spoutWord) h
  case grow => exact memoryWf_issueWord (fun _ _ => memoryWf_growWord) h
  case growt => exact memoryWf_issueWord (fun _ _ => memoryWf_growtWord) h
  case shrink => exact memoryWf_issueWord (fun _ _ => memoryWf_shrinkWord) h
  case sadd | ssub | smul | smulh | sand | sor | sxor | sshl | sshr | ssra | smin | smax | sminu | smaxu =>
    exact memoryWf_issueWord (fun _ _ => memoryWf_scalarWord) h
  case vadd | vsub | vmul | vmulh | vmulhu | vand | vor | vxor | vshl | vshr | vsra | vmin | vmax | vminu | vmaxu | vbfx =>
    exact memoryWf_issueWord (fun _ _ => memoryWf_binaryWord) h
  case vaddi | vmad | vlane | vitem | vsel => exact memoryWf_issueWord (fun _ _ => memoryWf_vectorWord) h
  case vmov | vpopc | vclz | vbrev | vnot | vabs => exact memoryWf_issueWord (fun _ _ => memoryWf_unaryWord) h
  case vcvtI2f | vcvtU2f | vcvtF2i | vcvtF2u | vcvtF2h | vcvtH2f => exact memoryWf_issueWord (fun _ _ => memoryWf_convertWord) h
  case vfadd | vfsub | vfmul | vfmin | vfmax => exact memoryWf_issueWord (fun _ _ => memoryWf_floatBinary) h
  case vfneg | vfabs | vfclass => exact memoryWf_issueWord (fun _ _ => memoryWf_floatPattern) h
  case vfma | vhdot | vhfmaBf | vhfmaHf => exact memoryWf_issueWord (fun _ _ => memoryWf_floatWord) h
  case vhadd | vhsub | vhmul | vhmin | vhmax => exact memoryWf_issueWord (fun _ _ => memoryWf_halfBinary) h
  case vhneg | vhabs => exact memoryWf_issueWord (fun _ _ => memoryWf_halfPattern) h
  case vcmpS | vcmpU | pand | por | pxor | pnot => exact memoryWf_issueWord (fun _ _ => memoryWf_predicateWord) h
  case vcmpF => exact memoryWf_issueWord (fun _ _ => memoryWf_compareWord) h
  case vrcp | vrsq | vsqrt | vexp2 | vlog2 | vsin | vcos | vtanh => exact memoryWf_issueWord (fun _ _ => memoryWf_sfuWord) h
  case vshfl | vshflu | vshfld | vshflx | vbcast => exact memoryWf_issueWord (fun _ _ => memoryWf_shuffleWord) h
  case vballot | vmatch => exact memoryWf_issueWord (fun _ _ => memoryWf_maskWord) h
  case vany | vall => exact memoryWf_issueWord (fun _ _ => memoryWf_voteWord) h
  case vmredAdd | vmredMin | vmredMax => exact memoryWf_issueWord (fun _ _ => memoryWf_keyedWord) h
  case vscanAdd | vscanxAdd => exact memoryWf_issueWord (fun _ _ => memoryWf_scanWord) h
  case vredgAdd | vredgMax => exact memoryWf_issueWord (fun _ _ => memoryWf_reduceWord) h
  case ldg => exact memoryWf_issueWord (fun _ _ => memoryWf_ldgWord) h
  case stg => exact memoryWf_issueWord (fun _ _ => memoryWf_stgWord) h
  case ldu => exact memoryWf_issueWord (fun _ _ => memoryWf_lduWord) h
  case lds => exact memoryWf_issueWord (fun _ _ => memoryWf_ldsWord) h
  case sts => exact memoryWf_issueWord (fun _ _ => memoryWf_stsWord) h
  case ldsR => exact memoryWf_issueWord (fun _ _ => memoryWf_ldsrWord) h
  case stsR => exact memoryWf_issueWord (fun _ _ => memoryWf_stsrWord) h
  case atomAdd | atomMin | atomMax | atomMinu | atomMaxu | atomAnd | atomOr | atomXor | atomExch | atomCas | atomFaddF32 | atomFaddBf16x2
    | atomLd | atomSt | atomAddW => exact memoryWf_issueWord (fun _ _ => memoryWf_atomWord) h
  case cwb | cinv => exact memoryWf_issueWord (fun _ _ => memoryWf_rangeWord) h
  case pf => exact memoryWf_issueWord (fun _ _ => memoryWf_pfWord) h
  case trans => exact memoryWf_issueWord (fun _ _ => memoryWf_transWord) h
  case transS => exact memoryWf_issueWord (fun _ _ => memoryWf_transsWord) h
  case rsvq => exact memoryWf_issueWord (fun _ _ => memoryWf_rsvqWord) h
  case blnq => exact memoryWf_issueWord (fun _ _ => memoryWf_blnqWord) h
  case pgsurr => exact memoryWf_issueWord (fun _ _ => memoryWf_pgsurrWord) h
  case blnack => exact memoryWf_issueWord (fun _ _ => memoryWf_blnackWord) h
  case blkq => exact memoryWf_issueWord (fun _ _ => memoryWf_blkqWord) h
  case mzero | mload | mloads | mswap | mstream | mstore | mscale => exact memoryWf_issueWord (fun _ _ => memoryWf_matrixWord) h
  case mfence => exact memoryWf_issueWord (fun _ _ => memoryWf_mfenceWord) h
  case merrq => exact memoryWf_issueWord (fun _ _ => memoryWf_merrqWord) h
  case mstat => exact memoryWf_issueWord (fun _ _ => memoryWf_mstatWord) h
  case cpyG2s | cpyS2g | cpyS2s | cpyGth | cpySct | cpyFill => exact memoryWf_issueWord (fun _ _ => memoryWf_copyWord) h
  case cgrp => exact memoryWf_issueWord (fun _ _ => memoryWf_cgrpWord) h
  case cag | crs | car | ca2a => exact memoryWf_issueWord (fun _ _ => memoryWf_colWord) h
  case cbar => exact memoryWf_issueWord (fun _ _ => memoryWf_cbarWord) h
  case run => exact memoryWf_issueWord (fun _ _ => memoryWf_runWord) h
  case rstop => exact memoryWf_issueWord (fun _ _ => memoryWf_rstopWord) h
  case qpop => exact memoryWf_issueWord (fun _ _ => memoryWf_qpopWord) h
  case qpops => exact memoryWf_issueWord (fun _ _ => memoryWf_qpopsWord) h
  case qpush => exact memoryWf_issueWord (fun _ _ => memoryWf_qpushWord) h
  case reservedEncoding => exact memoryWf_execReservedEncoding h
  case comparatorHit => exact memoryWf_execComparatorHit h
  case dispatchCohort => exact memoryWf_execDispatchCohort h
  case teamExit => exact memoryWf_execTeamExit h
  case binTimerExpiry => exact memoryWf_execBinTimerExpiry h
  case binTeamDispatch => exact memoryWf_execBinTeamDispatch h
  case evictTeam => exact memoryWf_execEvictTeam h
  case returnEvictedTeam => exact memoryWf_execReturnEvictedTeam h
  case growGrant => exact memoryWf_execGrowGrant h
  case launchCompletion => exact memoryWf_execLaunchCompletion h
  case operatingPointStable => exact memoryWf_execOperatingPointStable h
  case loadReturn => exact memoryWf_execLoadReturn h
  case scratchpadLoadReturn => exact memoryWf_execScratchpadLoadReturn h
  case sfuResultReturn => exact memoryWf_execSfuResultReturn h
  case storePerformed => exact memoryWf_execStorePerformed h
  case remoteStorePerformed => exact memoryWf_execRemoteStorePerformed h
  case atomicPerformed => exact memoryWf_execAtomicPerformed h
  case cwbComplete => exact memoryWf_execCwbComplete h
  case cinvComplete => exact memoryWf_execCinvComplete h
  case pgsurrPageDone => exact memoryWf_execPgsurrPageDone h
  case transReturn => exact memoryWf_execTransReturn h
  case blockWriteback => exact memoryWf_execBlockWriteback h
  case ladleRefill => exact memoryWf_execLadleRefill h
  case ladleReturn => exact memoryWf_execLadleReturn h
  case migrationComplete => exact memoryWf_execMigrationComplete h
  case migrationFailed => exact memoryWf_execMigrationFailed h
  case copyOperationComplete => exact memoryWf_execCopyOperationComplete h
  case collectiveComplete => exact memoryWf_execCollectiveComplete h
  case matrixCommandStart => exact memoryWf_execMatrixCommandStart h
  case matrixCommandRetire => exact memoryWf_execMatrixCommandRetire h
  case trapEntry => exact memoryWf_execTrapEntry h
  case yieldSave => exact memoryWf_execYieldSave h
  case preemptDeadline => exact memoryWf_execPreemptDeadline h
  case saveComplete => exact memoryWf_execSaveComplete h
  case restoreComplete => exact memoryWf_execRestoreComplete h
  case invalidationDone => exact memoryWf_execInvalidationDone h
  case pcSample => exact memoryWf_execPcSample h
  case debugStepEnd => exact memoryWf_execDebugStepEnd h
  case dependenceRecheck => exact memoryWf_execDependenceRecheck h
  case stopOnTick => exact memoryWf_execStopOnTick h
  case replicationWindowClear => exact memoryWf_execReplicationWindowClear h
  case meterCheckpoint => exact memoryWf_execMeterCheckpoint h
  case rootStart => exact memoryWf_execRootStart h
  case preemptRequest => exact memoryWf_execPreemptRequest h
  case preemptWithdraw => exact memoryWf_execPreemptWithdraw h
  case preemptForce => exact memoryWf_execPreemptForce h
  case resume => exact memoryWf_execResume h
  case functionLevelReset => exact memoryWf_execFunctionLevelReset h
  case translationInvalidate => exact memoryWf_execTranslationInvalidate h
  case migrateToCapacityTier => exact memoryWf_execMigrateToCapacityTier h
  case migrateToHbm => exact memoryWf_execMigrateToHbm h
  case pinPage => exact memoryWf_execPinPage h
  case unpinPage => exact memoryWf_execUnpinPage h
  case capcfgWrite => exact memoryWf_execCapcfgWrite h
  case balloonRequest => exact memoryWf_execBalloonRequest h
  case balloonClose => exact memoryWf_execBalloonClose h
  case ctxownWrite => exact memoryWf_execCtxownWrite h
  case stitchConfigWrite => exact memoryWf_execStitchConfigWrite h
  case registerWrite => exact memoryWf_execRegisterWrite h
  case trdropClear => exact memoryWf_execTrdropClear h
  case debugAttach => exact memoryWf_execDebugAttach h
  case debugDetach => exact memoryWf_execDebugDetach h
  case debugStep => exact memoryWf_execDebugStep h
  case debugStepToRetire => exact memoryWf_execDebugStepToRetire h
  case debugCancelWait => exact memoryWf_execDebugCancelWait h
  case debugResume => exact memoryWf_execDebugResume h
  case stopArm => exact memoryWf_execStopArm h
  case stopRelease => exact memoryWf_execStopRelease h
  case perstRelease => exact memoryWf_execPerstRelease h
  case stageAComplete => exact memoryWf_execStageAComplete h
  case stageBComplete => exact memoryWf_execStageBComplete h
  case stageCComplete => exact memoryWf_execStageCComplete h
  case ltrMessage => exact memoryWf_execLtrMessage h
  case idleEntry => exact memoryWf_execIdleEntry h
  case idleWake => exact memoryWf_execIdleWake h
  case powerCapEvaluation => exact memoryWf_execPowerCapEvaluation h
  case tcapStep => exact memoryWf_execTcapStep h
  case thermalCapZero => exact memoryWf_execThermalCapZero h
  case thermalShutdown => exact memoryWf_execThermalShutdown h
  case mctpControlMessage => exact memoryWf_execMctpControlMessage h
  case pldmSensorRead => exact memoryWf_execPldmSensorRead h
  case pldmFirmwareUpdate => exact memoryWf_execPldmFirmwareUpdate h
  case getVersion => exact memoryWf_execGetVersion h
  case getCapabilities => exact memoryWf_execGetCapabilities h
  case negotiateAlgorithms => exact memoryWf_execNegotiateAlgorithms h
  case getDigests => exact memoryWf_execGetDigests h
  case getCertificate => exact memoryWf_execGetCertificate h
  case challenge => exact memoryWf_execChallenge h
  case getMeasurements => exact memoryWf_execGetMeasurements h
  case vendorRegisterAccess => exact memoryWf_execVendorRegisterAccess h
  case mregWrite => exact memoryWf_execMregWrite h
  case meteringReport => exact memoryWf_execMeteringReport h
  case finalReport => exact memoryWf_execFinalReport h
  case allowListInstall => exact memoryWf_execAllowListInstall h
  case attmapWrite => exact memoryWf_execAttmapWrite h
  case meterPowerOn => exact memoryWf_execMeterPowerOn h
  case orderlyPowerDown => exact memoryWf_execOrderlyPowerDown h
  case patrolScrub => exact memoryWf_execPatrolScrub h
  case ecsPoll => exact memoryWf_execEcsPoll h
  case fabricHopRetry => exact memoryWf_execFabricHopRetry h
  case stitchLanesLost => exact memoryWf_execStitchLanesLost h
  case injectionStarvation => exact memoryWf_execInjectionStarvation h
  case hostCxlMemAccess => exact memoryWf_execHostCxlMemAccess h
  case reset => exact memoryWf_execReset h
  case powerLoss => exact memoryWf_execPowerLoss h
  case driverContextTeardown => exact memoryWf_execDriverContextTeardown h
  case stitchPortTrained => exact memoryWf_execStitchPortTrained h
  case coreFaultInService => exact memoryWf_execCoreFaultInService h

/-! ### Machine/Propose -/

@[simp ↓] theorem State.memoryWf_noteFetch {s : State} {v : View} (h : s.memoryWf = true) : (s.noteFetch v).memoryWf = true := by
  unfold State.noteFetch
  dsimp only
  split
  · exact h
  · split <;> simp [h]

@[simp ↓] theorem State.memoryWf_dueAt {s : State} {f : Focus} (h : s.memoryWf = true) : (s.dueAt f).memoryWf = true := by
  unfold State.dueAt
  dsimp only
  split
  · exact h
  · split
    · exact State.memoryWf_noteFetch h
    · next e => exact State.memoryWf_select (s := { s with here := f }) h e

@[simp ↓] theorem State.lose_memoryWf (s : State) (f : Focus) : (s.lose f).memoryWf = s.memoryWf := by
  unfold State.lose
  split <;> simp

/-! ### Machine/Schedule -/

@[simp ↓] theorem State.choose_memoryWf (s : State) : s.choose.2.memoryWf = s.memoryWf := by
  unfold State.choose
  generalize List.getD _ _ _ = r
  exact foldl_memoryWf State.lose State.lose_memoryWf _ _

@[simp ↓] theorem State.timeTurn_memoryWf (s : State) (ticks c0 c1 : Nat) (rest : List Turn) :
    (s.timeTurn ticks c0 c1 rest).2.memoryWf = s.memoryWf := by
  unfold State.timeTurn
  split <;> simp

@[simp ↓] theorem State.wordTurn_memoryWf (s : State) (t : Turn) (f : Focus) (rest : List Turn) :
    (s.wordTurn t f rest).2.memoryWf = s.memoryWf := by
  unfold State.wordTurn
  split
  · rfl
  · dsimp only
    split <;> simp

@[simp ↓] theorem State.agendaTurn_memoryWf (s : State) (t : Turn) (rest : List Turn) : (s.agendaTurn t rest).2.memoryWf = s.memoryWf := by
  unfold State.agendaTurn
  split <;> simp

@[simp ↓] theorem State.takeTurn_memoryWf (s : State) : s.takeTurn.2.memoryWf = s.memoryWf := by
  unfold State.takeTurn
  split
  · split <;> simp
  · split
    · split
      · rfl
      · split <;> simp
    · split <;> simp

@[simp ↓] theorem State.memoryWf_dueTurn {s : State} {t : Turn} (h : s.memoryWf = true) : (s.dueTurn t).memoryWf = true := by
  have passed (ticks c0 c1 : Nat) : (((s.passTicks ticks).passCycles 0 c0).passCycles 1 c1).keepIdle.memoryWf = true := by
    simp [h]
  cases t with
  | issue c slot side => exact State.memoryWf_dueAt h
  | runner c slot => exact State.memoryWf_dueAt h
  | happen e => simp [State.dueTurn, h]
  | elapse ticks c0 c1 => exact passed ticks c0 c1
  | part c id key put => exact State.memoryWf_partTurn h
  | hostWrite pa bytes => exact State.memoryWf_hostOwn h
  | refuse c id key leg => exact (State.sendRound_memoryWf _ _ _ _ _).trans h
  | inject die stop loop => exact (State.inject_memoryWf _ _ _ _).trans h
  | idle core => exact (State.goIdle_memoryWf _ _ _).trans h
  | hopGood die loop hop => exact (State.hopGood_memoryWf _ _ _ _).trans h
  | upset what a b => exact (State.upset_memoryWf _ _ _ _).trans h

@[simp ↓] theorem State.memoryWf_due {s : State} (h : s.memoryWf = true) : s.due.memoryWf = true := by
  have taken := (State.takeTurn_memoryWf s).trans h
  unfold State.due
  split
  · next e =>
    rw [e] at taken
    exact State.memoryWf_dueTurn taken
  · next e =>
    rw [e] at taken
    exact taken

/-! ### Machine/Step -/

/-- A step keeps the form: the turn that is due leads to a state that has it, and the word or event of that turn keeps it. -/
theorem memoryWf_step {s t : State} (h : s.memoryWf = true) (e : step s = .next t) : t.memoryWf = true := by
  have due : s.due.memoryWf = true := State.memoryWf_due h
  unfold step at e
  split at e
  · next i s' d =>
    rw [d] at due
    have after := memoryWf_exec i due
    rwa [e] at after
  · next d =>
    rw [d] at due
    rwa [← Host.Outcome.next.inj e]

end Sys2Proof.Machine

section

open Sys2Proof Sys2Proof.Machine

/-- Settles O10: by what each turn, each word and each event does to the two memories; a write of bytes keeps the form. -/
theorem stepKeepsMemoryForm : Obligations.StepKeepsMemoryForm :=
  fun _ _ => memoryWf_step

end

namespace Sys2Proof.Machine

/-! ### Bit fields of a number -/

/-- A field of `n` bits cut out by a mask. -/
theorem and_mask_eq_field (v k n : Nat) : v &&& (2 ^ n - 1) * 2 ^ k = v / 2 ^ k % 2 ^ n * 2 ^ k := by
  apply Nat.eq_of_testBit_eq
  intro i
  simp only [Nat.testBit_and, Nat.testBit_mul_two_pow, Nat.testBit_two_pow_sub_one, Nat.testBit_mod_two_pow, Nat.testBit_div_two_pow]
  by_cases h : k ≤ i
  · simp [h, Bool.and_comm]
  · simp [h]

/-- MIGCMD's fields: the address of the page and the context. -/
theorem mig_fields (w : DWord) :
    ((w.setWidth 48 : BitVec 48).toNat / 65536 * 65536) % 2 ^ 48 / 65536 * 65536 + bits w.toNat 13 8 % 64 * 256 =
      (w &&& 0x0000FFFFFFFF3F00).toNat := by
  have mask : (0x0000FFFFFFFF3F00 : DWord).toNat = (2 ^ 32 - 1) * 2 ^ 16 ||| (2 ^ 6 - 1) * 2 ^ 8 := by decide
  have low : w.toNat / 2 ^ 8 % 2 ^ 6 * 2 ^ 8 < 2 ^ 16 := by omega
  rw [BitVec.toNat_and, mask, Nat.and_or_distrib_left, and_mask_eq_field, and_mask_eq_field, Nat.mul_comm _ (2 ^ 16),
    ← Nat.two_pow_add_eq_or_of_lt low, BitVec.toNat_setWidth, bits]
  omega

/-- A number summed up from the bits of a range that a predicate picks: it is below the range's power, and has these bits. -/
theorem testBit_foldl_range (p : Nat → Bool) (n : Nat) :
    (List.range n).foldl (fun m x => if p x then m + 2 ^ x else m) 0 < 2 ^ n ∧
      ∀ i < n, ((List.range n).foldl (fun m x => if p x then m + 2 ^ x else m) 0).testBit i = p i := by
  induction n with
  | zero => simp
  | succ n ih =>
    obtain ⟨below, have_bits⟩ := ih
    rw [List.range_succ, List.foldl_append, List.foldl_cons, List.foldl_nil]
    generalize List.foldl _ 0 (List.range n) = m at below have_bits
    have double : 2 ^ (n + 1) = 2 ^ n + 2 ^ n := by omega
    refine ⟨by split <;> omega, fun i hi => ?_⟩
    by_cases top : i = n
    · subst top
      have clear := Nat.testBit_lt_two_pow below
      split
      · next h => rw [Nat.add_comm, Nat.testBit_two_pow_add_eq, clear, h, Bool.not_false]
      · next h => rw [clear, Bool.not_eq_true _ |>.mp h]
    · have lower : i < n := by omega
      split
      · rw [Nat.add_comm, Nat.testBit_two_pow_add_gt lower, have_bits i lower]
      · exact have_bits i lower

/-! ### Which register an offset names -/

theorem State.lt_of_nthContext {s : State} {fn n x : Nat} (h : s.nthContext fn n = some x) : x < 64 :=
  List.mem_range.mp (List.mem_of_find?_eq_some h)

theorem ite_ne_of {α : Type} {p : Prop} [Decidable p] {a b c : α} (ha : a ≠ c) (hb : b ≠ c) : (if p then a else b) ≠ c := by
  split
  · exact ha
  · exact hb

theorem map_orElse_ne {α β : Type} {f : α → β} {o : Option α} {b : β} {rest : Option β} (h : ∀ a, f a ≠ b) (hr : rest ≠ some b) :
    ((o.map f).orElse fun _ => rest) ≠ some b := by
  cases o with
  | none => exact hr
  | some a => exact fun e => h a (Option.some.inj e)

/-- The PF's own registers hold none of a debug window. -/
theorem pfReg_ne_window (off x o : Nat) : pfReg off ≠ some (.window x o) := by
  unfold pfReg
  iterate 12 refine ite_ne_of nofun ?_
  iterate 7 refine map_orElse_ne (fun _ => nofun) ?_
  simp

/-- A debug window that an offset names belongs to a context. -/
theorem State.lt_of_regAt_window {s : State} {fn off x o : Nat} (h : s.regAt fn off = some (.window x o)) : x < 64 := by
  unfold State.regAt at h
  split_ifs at h
  · simp at h
  · obtain ⟨y, hy, e⟩ := Option.map_eq_some_iff.mp h
    cases e
    exact State.lt_of_nthContext hy
  · exact absurd h (pfReg_ne_window _ _ _)
  · cases h

theorem exec_registerWrite_of_none {s : State} {fn off : Nat} {w : DWord} (hfn : fn < 32) (h : s.regAt fn off = none) :
    exec (.registerWrite fn off w) s = .next s := by
  show execRegisterWrite fn off w s = .next s
  rw [execRegisterWrite, if_neg (by omega), h]

/-- From stage C on a write reaches the register that its offset names. -/
theorem exec_registerWrite_of_some {s : State} {fn off : Nat} {w : DWord} {r : Reg} (stageC : s.stage = 3) (hfn : fn < 32)
    (h : s.regAt fn off = some r) : exec (.registerWrite fn off w) s = writeReg w s r := by
  have opens : s.barOpen fn off = true := by simp [State.barOpen, stageC]
  show execRegisterWrite fn off w s = writeReg w s r
  rw [execRegisterWrite, if_neg (by omega), h]
  split
  · next e => cases e
  · next e =>
    cases e
    rfl
  · next e =>
    cases e
    rw [if_pos opens]

end Sys2Proof.Machine

namespace Sys2Proof.Machine

/-! ### What a change of tables leaves of the contexts -/

theorem foldl_ctxs {α : Type} (f : State → α → State) (hf : ∀ s a, (f s a).ctxs = s.ctxs) (l : List α) (s : State) :
    (l.foldl f s).ctxs = s.ctxs := by
  induction l generalizing s with
  | nil => rfl
  | cons a l ih => rw [List.foldl_cons, ih, hf]

theorem State.commandPage_ctxs (s : State) (pg why : Nat) : (s.commandPage pg why).ctxs = s.ctxs :=
  foldl_ctxs _ (fun s d => by
    dsimp only
    split <;> simp) _ _

theorem State.windowPage_ctxs (s : State) (x pg : Nat) : (s.windowPage x pg).ctxs = s.ctxs := by
  unfold State.windowPage
  dsimp only
  split
  · rfl
  · rw [State.commandPage_ctxs, State.setDie_ctxs]
    exact (foldl_ctxs _ (fun s _ => State.setBlock_ctxs s _ _) _ _).trans (State.setPage_ctxs s _ _)

theorem State.backWindows_ctxs (s : State) (x : Nat) (leaves : List (Nat × Nat × Nat)) : (s.backWindows x leaves).ctxs = s.ctxs :=
  foldl_ctxs _ (fun s _ => foldl_ctxs _ (fun s _ => State.windowPage_ctxs s _ _) _ s) _ s

theorem State.closeWindows_ctxs (s : State) : s.closeWindows.ctxs = s.ctxs :=
  foldl_ctxs _ (fun s _ => State.setPage_ctxs s _ _) _ _

theorem State.tableChange_ctxs (s old : State) : (s.tableChange old).ctxs = s.ctxs :=
  foldl_ctxs _ (fun t e => by
    dsimp only
    split_ifs
    · rfl
    · rfl
    · exact (State.closeWindows_ctxs _).trans (State.backWindows_ctxs t _ _)) _ _

/-- CTXPTB reads as it was written. -/
theorem State.setRoot_ptb (s : State) (x base : Nat) : ((s.setRoot x base).ctx x).ptb = base := by
  have contexts : (s.setRoot x base).ctxs =
      (s.setCtx x { s.ctx x with ptb := base, nextLaunch := if (s.ctx x).ptb = 0 ∧ base ≠ 0 then 1 else (s.ctx x).nextLaunch }).ctxs := by
    unfold State.setRoot
    dsimp only
    split
    · exact State.backWindows_ctxs _ _ _
    · exact State.tableChange_ctxs _ _
  simp [State.ctx, contexts, State.setCtx]

theorem State.setRoot_keeps (s : State) (x base : Nat) : SameSide s (s.setRoot x base) := by
  unfold State.setRoot
  dsimp only
  split
  · exact State.backWindows_keeps (s.setCtx x _) _ _
  · exact State.tableChange_keeps (s.setCtx x _) _

/-! ### What a register gives back after a write -/

/-- A write of `w` to a register is taken; the register then reads `m`, and cores and bytes are as before. -/
def WriteReads (s : State) (r : Reg) (w : DWord) (m : Nat) : Prop :=
  ∃ u, writeReg w s r = .next u ∧ u.readReg r = m ∧ SameBytes s u ∧ u.cores = s.cores

theorem writeReads_of_setCtx {s : State} {r : Reg} {w : DWord} {m x : Nat} {k : Ctx} (wrote : writeReg w s r = .next (s.setCtx x k))
    (reads : (s.setCtx x k).readReg r = m) : WriteReads s r w m :=
  ⟨_, wrote, reads, .of_eq rfl rfl, rfl⟩

theorem writeReads_of_pf {s : State} {r : Reg} {w : DWord} {m : Nat} {pf : Pf} (wrote : writeReg w s r = .next { s with pf := pf })
    (reads : { s with pf := pf }.readReg r = m) : WriteReads s r w m :=
  ⟨_, wrote, reads, .of_eq rfl rfl, rfl⟩

theorem writeReads_csrec (s : State) (w : DWord) (x : Nat) : WriteReads s (.start x 0x00) w (w &&& 0x0000FFFFFFFFFFC0).toNat :=
  writeReads_of_setCtx rfl (by simp [State.readReg, State.readStart])

theorem writeReads_handler (s : State) (w : DWord) (x : Nat) : WriteReads s (.start x 0x18) w (w &&& 0x0000FFFFFFFFFFC0).toNat :=
  writeReads_of_setCtx rfl (by simp [State.readReg, State.readStart])

theorem writeReads_save (s : State) (w : DWord) (x : Nat) : WriteReads s (.start x 0x20) w (w &&& 0x0000FFFFFFFFF000).toNat :=
  writeReads_of_setCtx rfl (by simp [State.readReg, State.readStart])

theorem writeReads_saveSize (s : State) (w : DWord) (x : Nat) : WriteReads s (.start x 0x28) w (w.toNat % 2 ^ 32) :=
  writeReads_of_setCtx rfl (by simp [State.readReg, State.readStart])

theorem writeReads_deadline (s : State) (w : DWord) (x : Nat) : WriteReads s (.start x 0x30) w (w.toNat % 2 ^ 32) :=
  writeReads_of_setCtx rfl (by simp [State.readReg, State.readStart])

theorem writeReads_root (s : State) (w : DWord) (x : Nat) : WriteReads s (.start x 0x40) w (w &&& 0x000001FFFFFFF000).toNat := by
  obtain ⟨cores, mem, hostMem⟩ := State.setRoot_keeps s x (w &&& 0x000001FFFFFFF000).toNat
  exact ⟨_, rfl, State.setRoot_ptb s x _, .of_eq mem hostMem, cores⟩

theorem writeReads_traceBase (s : State) (w : DWord) (x : Nat) : WriteReads s (.window x 0x00) w w.toNat :=
  writeReads_of_setCtx rfl (by simp [State.readReg, State.readWindow])

theorem writeReads_traceSize (s : State) (w : DWord) (x : Nat) : WriteReads s (.window x 0x08) w (w.toNat % 2 ^ 32) :=
  writeReads_of_setCtx rfl (by simp [State.readReg, State.readWindow])

theorem execTrdropClear_of_lt {s : State} {x : Nat} (h : x < 64) :
    execTrdropClear x s = .next (s.setCtx x { s.ctx x with trDrop := 0 }) := by
  rw [execTrdropClear, if_neg (by omega)]

theorem writeReads_traceDrop (s : State) (w : DWord) {x : Nat} (h : x < 64) : WriteReads s (.window x 0x14) w 0 :=
  writeReads_of_setCtx (execTrdropClear_of_lt h) (by simp [State.readReg, State.readWindow])

theorem writeReads_traceControl (s : State) (w : DWord) (x : Nat) :
    WriteReads s (.window x 0x18) w ((w.toNat % 2 ^ 32) &&& 0x001F1FFF) :=
  writeReads_of_setCtx rfl (by simp [State.readReg, State.readWindow])

theorem writeReads_hostRange (s : State) (w : DWord) (n : Nat) : WriteReads s (.hmRange n) w (w &&& 0xFFFFFFFFFFFF0000).toNat :=
  writeReads_of_pf rfl (by simp [State.readReg])

theorem writeReads_comparator (s : State) (w : DWord) (n : Nat) : WriteReads s (.cmp n) w (w &&& 0x80FFFFFFFFFFFFFF).toNat :=
  writeReads_of_pf rfl (by simp [State.readReg])

theorem writeReads_stopTick (s : State) (w : DWord) : WriteReads s .stopTick w w.toNat :=
  writeReads_of_pf rfl rfl

theorem writeReads_powerCap (s : State) (w : DWord) :
    WriteReads s .pwrCtl w (max 600 (min 2800 (w.toNat % 4096)) + s.pf.tcap * 2 ^ 16) :=
  writeReads_of_pf rfl (by simp [State.readReg, bits])

/-! ### Context ownership, the group's registers and the map of attested contexts -/

theorem State.owner_put_other (s : State) {x y : Nat} (v : Word) (h : y ≠ x) :
    { s with pf := { s.pf with ctxOwn := Table.put s.pf.ctxOwn x v } }.owner y = s.owner y := by
  simp [State.owner, Table.get_put_other _ _ h]

/-- A context that holds neither an accepted launch nor a saved image is assigned. -/
theorem execCtxownWrite_free {s : State} {x : Nat} (w : Word) (hx : x < 64) (launches : (s.ctx x).launches = [])
    (image : (s.ctx x).pstate ≠ 2) :
    execCtxownWrite x w s = .next { s with pf := { s.pf with ctxOwn := Table.put s.pf.ctxOwn x (w &&& BitVec.ofNat 32 ownMask) } } := by
  rw [execCtxownWrite, if_neg (by omega), if_neg (by simp [launches, image])]

theorem execCtxownWrite_held {s : State} {x : Nat} (w : Word) (hx : x < 64) (held : (s.ctx x).launches ≠ [] ∨ (s.ctx x).pstate = 2) :
    execCtxownWrite x w s = .next s := by
  rw [execCtxownWrite, if_neg (by omega), if_pos (by simpa using held)]

/-- The route register of device `d`. -/
theorem pfReg_route {d : Nat} (h : d < 64) : pfReg (0xA100 + 4 * d) = some (.stRoute d) := by
  revert d
  decide

theorem execStitchConfigWrite_device {s : State} (w : Word) (idle : ∀ e ∈ s.ctxs, e.2.launches = []) :
    execStitchConfigWrite 0xA000 w s = .next { s with pf := { s.pf with stDev := w &&& 0x00007F3F } } := by
  have free : (s.ctxs.any fun e => !e.2.launches.isEmpty) = false := by simpa using idle
  simp [execStitchConfigWrite, pfReg, free]

theorem execStitchConfigWrite_route {s : State} (w : Word) {d : Nat} (hd : d < 64) (idle : ∀ e ∈ s.ctxs, e.2.launches = []) :
    execStitchConfigWrite (0xA100 + 4 * d) w s =
      .next { s with pf := { s.pf with stRoute := Table.put s.pf.stRoute d (w &&& 0xFFFF) } } := by
  have free : (s.ctxs.any fun e => !e.2.launches.isEmpty) = false := by simpa using idle
  simp [execStitchConfigWrite, pfReg_route hd, free]

theorem execStitchConfigWrite_busy {s : State} (w : Word) (busy : ∃ e ∈ s.ctxs, e.2.launches ≠ []) :
    execStitchConfigWrite 0xA000 w s = .next s := by
  have held : (s.ctxs.any fun e => !e.2.launches.isEmpty) = true := by simpa using busy
  simp [execStitchConfigWrite, pfReg, held]

/-- The mask of the contexts that hold an accepted launch or a saved image. -/
theorem State.getLsbD_heldMask (s : State) {x : Nat} (h : x < 64) :
    s.heldMask.getLsbD x = decide ((s.ctx x).launches ≠ [] ∨ (s.ctx x).pstate = 2) := by
  obtain ⟨-, held⟩ := testBit_foldl_range (fun x => !(s.ctx x).launches.isEmpty || (s.ctx x).pstate == 2) 64
  rw [State.heldMask, BitVec.getLsbD_ofNat, held x h, Bool.eq_iff_iff]
  simp [h]

/-- The map of attested contexts after a write. -/
theorem execAttmapWrite_map {s : State} (w : DWord) (started : s.stage ≠ 0) :
    ∃ u, execAttmapWrite w s = .next u ∧ u.pf.attMap = (s.pf.attMap &&& s.heldMask) ||| (w &&& ~~~s.heldMask) := by
  rw [execAttmapWrite, if_neg started]
  exact ⟨_, rfl, rfl⟩

end Sys2Proof.Machine

namespace Sys2Proof.Machine

/-! ### The fields of MIGCMD

A command keeps its address and context in its die (R358). Nothing that a command sets off writes them: each operation leaves `migArgs`. -/

/-- The address and the context that a die's MIGCMD holds. -/
def State.migArgs (s : State) (d : Nat) : Nat × Nat := ((s.die d).migVa, (s.die d).migCtx)

/-- An update of other fields than the dies. -/
@[simp ↓] theorem State.migArgs_update (s : State) (released here agenda fresh serial cores pipes past bins binTeams ctxs mem hostMem blocks
    pages stage stageErr d0ok d1ok ticksRun tickOffset pf ras meter side msix ltr idlePlaces hopFails window starved routes circling halves
    former hostRead images shutdown) :
    (State.mk released here agenda fresh serial cores pipes past bins binTeams ctxs s.die0 s.die1 mem hostMem blocks pages stage stageErr
      d0ok d1ok ticksRun tickOffset pf ras meter side msix ltr idlePlaces hopFails window starved routes circling halves former hostRead
      images shutdown).migArgs = s.migArgs := (rfl)

@[simp ↓] theorem State.ite_migArgs {p : Prop} [Decidable p] (s t : State) :
    (if p then s else t).migArgs = if p then s.migArgs else t.migArgs := apply_ite _ _ _ _

/-- Steps that each leave MIGCMD in the state `g` of what they carry leave it together. -/
theorem foldl_migArgs_eq {α β : Type} (g : β → State) (f : β → α → β) (hf : ∀ r a, (g (f r a)).migArgs = (g r).migArgs) (l : List α)
    (r : β) : (g (l.foldl f r)).migArgs = (g r).migArgs := by
  induction l generalizing r with
  | nil => rfl
  | cons a l ih => rw [List.foldl_cons, ih, hf]

@[simp ↓] theorem foldl_migArgs {α : Type} (f : State → α → State) (hf : ∀ s a, (f s a).migArgs = s.migArgs) (l : List α) (s : State) :
    (l.foldl f s).migArgs = s.migArgs :=
  foldl_migArgs_eq (fun s => s) f hf l s

/-- A die written with the same two fields. -/
@[simp ↓] theorem State.setDie_migArgs (s : State) (d : Nat) (k : Die) (va : k.migVa = (s.die d).migVa)
    (ctx : k.migCtx = (s.die d).migCtx) : (s.setDie d k).migArgs = s.migArgs := by
  have same (e : Nat) (h : d = 0 ↔ e = 0) : s.die e = s.die d := by
    simp only [State.die, h]
  funext e
  unfold State.migArgs
  rw [State.die_setDie]
  split_ifs with h
  · rw [va, ctx, same e h]
  · rfl

@[simp ↓] theorem State.setCtx_migArgs (s : State) (x : Nat) (k : Ctx) : (s.setCtx x k).migArgs = s.migArgs := (rfl)

@[simp ↓] theorem State.setBlock_migArgs (s : State) (b : Nat) (k : Block) : (s.setBlock b k).migArgs = s.migArgs := (rfl)

@[simp ↓] theorem State.setPage_migArgs (s : State) (p : Nat) (k : Page) : (s.setPage p k).migArgs = s.migArgs := (rfl)

@[simp ↓] theorem State.setCohort_migArgs (s : State) (c : Nat) (h : Cohort) : (s.setCohort c h).migArgs = s.migArgs := (rfl)

@[simp ↓] theorem State.number_migArgs (s : State) : s.number.2.migArgs = s.migArgs := (rfl)

@[simp ↓] theorem State.raise_migArgs (s : State) (fn vec : Nat) : (s.raise fn vec).migArgs = s.migArgs := (rfl)

@[simp ↓] theorem State.reply_migArgs (s : State) (what : Nat) (bytes : List Byte) : (s.reply what bytes).migArgs = s.migArgs := by
  unfold State.reply
  simp

@[simp ↓] theorem State.rasLog_migArgs (s : State) (kind unit detail : Nat) : (s.rasLog kind unit detail).migArgs = s.migArgs := by
  unfold State.rasLog
  simp

@[simp ↓] theorem State.startMigration_migArgs (s : State) (x pg : Nat) : (s.startMigration x pg).migArgs = s.migArgs := by
  unfold State.startMigration
  dsimp only
  split <;> simp

@[simp ↓] theorem State.setLine_migArgs (s : State) (d l : Nat) (k : L2Line) : (s.setLine d l k).migArgs = s.migArgs := by
  unfold State.setLine
  simp

@[simp ↓] theorem State.refer_migArgs (s : State) (pg : Nat) : (s.refer pg).migArgs = s.migArgs := by
  unfold State.refer
  simp

@[simp ↓] theorem State.fillHome_migArgs (s : State) (da : Nat) : (s.fillHome da).migArgs = s.migArgs := by
  unfold State.fillHome
  simp

@[simp ↓] theorem State.fillSwm_migArgs (s : State) (d l : Nat) : (s.fillSwm d l).migArgs = s.migArgs := by
  unfold State.fillSwm
  split <;> simp

@[simp ↓] theorem State.keepPast_migArgs (s : State) (keys : List Nat) : (s.keepPast keys).migArgs = s.migArgs := (rfl)

@[simp ↓] theorem State.countGranule_migArgs (s : State) (stack : Nat) (bad : Bool) :
    (s.countGranule stack bad).migArgs = s.migArgs := (rfl)

@[simp ↓] theorem State.poisonGranule_migArgs (s : State) (g : Nat) (scrub : Bool) : (s.poisonGranule g scrub).migArgs = s.migArgs := by
  unfold State.poisonGranule
  simp

@[simp ↓] theorem State.poisonCarve_migArgs (s : State) (die j : Nat) (scrub : Bool) : (s.poisonCarve die j scrub).migArgs = s.migArgs := by
  unfold State.poisonCarve
  simp

@[simp ↓] theorem State.demand_migArgs (s : State) (loc : Loc) : (s.demand loc).migArgs = s.migArgs := by
  unfold State.demand
  split <;> simp

@[simp ↓] theorem State.readHome_migArgs (s : State) (d da : Nat) (uc : Bool) : (s.readHome d da uc).migArgs = s.migArgs := by
  unfold State.readHome
  simp

@[simp ↓] theorem State.noteRead_migArgs (s : State) (d : Nat) (loc : Loc) : (s.noteRead d loc).migArgs = s.migArgs := by
  unfold State.noteRead
  cases loc with
  | host pa => rfl
  | dev da swm uc hw =>
    dsimp only
    split
    · simp
    · split
      · simp
      · split
        · rfl
        · split <;> simp

@[simp ↓] theorem State.readAtHome_migArgs (s : State) (d : Nat) (loc : Loc) : (s.readAtHome d loc).migArgs = s.migArgs := by
  unfold State.readAtHome
  split <;> simp

@[simp ↓] theorem State.readAt_migArgs (s : State) (d : Nat) (loc : Loc) : (s.readAt d loc).migArgs = s.migArgs := by
  unfold State.readAt
  simp

@[simp ↓] theorem State.noteWrite_migArgs (s : State) (da : Nat) : (s.noteWrite da).migArgs = s.migArgs := by
  unfold State.noteWrite
  simp

@[simp ↓] theorem State.noteImage_migArgs (s : State) (da : Nat) : (s.noteImage da).migArgs = s.migArgs := (rfl)

@[simp ↓] theorem State.commandPage_migArgs (s : State) (pg why : Nat) : (s.commandPage pg why).migArgs = s.migArgs :=
  foldl_migArgs _ (fun s d => by simp) _ _

@[simp ↓] theorem State.windowPage_migArgs (s : State) (x pg : Nat) : (s.windowPage x pg).migArgs = s.migArgs := by
  unfold State.windowPage
  simp

@[simp ↓] theorem State.closeWindows_migArgs (s : State) : s.closeWindows.migArgs = s.migArgs := by
  unfold State.closeWindows
  simp

@[simp ↓] theorem State.backWindows_migArgs (s : State) (x : Nat) (leaves : List (Nat × Nat × Nat)) :
    (s.backWindows x leaves).migArgs = s.migArgs := by
  unfold State.backWindows
  simp

@[simp ↓] theorem State.tableChange_migArgs (s old : State) : (s.tableChange old).migArgs = s.migArgs := by
  unfold State.tableChange
  simp

@[simp ↓] theorem State.healAt_migArgs (s : State) (da n : Nat) : (s.healAt da n).migArgs = s.migArgs := by
  unfold State.healAt
  simp

@[simp ↓] theorem State.storeLoc_migArgs (s : State) (d : Nat) (loc : Loc) (bytes : List Byte) (count : Bool) :
    (s.storeLoc d loc bytes count).migArgs = s.migArgs := by
  unfold State.storeLoc
  cases loc with
  | host pa => rfl
  | dev da swm uc hw =>
    cases swm with
    | true =>
      simp only [if_true]
      split <;> simp
    | false => cases uc <;> simp

@[simp ↓] theorem State.writeLoc_migArgs (s : State) (d : Nat) (loc : Loc) (bytes : List Byte) :
    (s.writeLoc d loc bytes).migArgs = s.migArgs := by
  unfold State.writeLoc
  simp

@[simp ↓] theorem State.poisonLoc_migArgs (s : State) (d : Nat) (loc : Loc) : (s.poisonLoc d loc).migArgs = s.migArgs := by
  unfold State.poisonLoc
  cases loc with
  | host pa => rfl
  | dev da swm uc hw =>
    dsimp only
    split
    · simp
    · split <;> simp

@[simp ↓] theorem State.takeFree_migArgs (s : State) (d n : Nat) : (s.takeFree d n).migArgs = s.migArgs := by
  unfold State.takeFree
  simp

@[simp ↓] theorem State.touchPage_migArgs (s : State) (x pg : Nat) : (s.touchPage x pg).migArgs = s.migArgs := by
  unfold State.touchPage
  split <;> simp

@[simp ↓] theorem State.roomFor_migArgs (s : State) (x : Nat) (loc : Loc) (n : Nat) : (s.roomFor x loc n).migArgs = s.migArgs := by
  unfold State.roomFor
  split <;> simp

@[simp ↓] theorem State.fillL1_migArgs (s : State) (c x : Nat) (line : Loc) : (s.fillL1 c x line).migArgs = s.migArgs := (rfl)

@[simp ↓] theorem State.cachedRead_migArgs (s : State) (c x : Nat) (loc : Loc) (n key : Nat) :
    (s.cachedRead c x loc n key).2.2.2.migArgs = s.migArgs := by
  unfold State.cachedRead
  split <;> simp

@[simp ↓] theorem State.dirtyUnits_migArgs (s : State) (c start n : Nat) : (s.dirtyUnits c start n).migArgs = s.migArgs := (rfl)

@[simp ↓] theorem State.scratchWrite_migArgs (s : State) (c id a : Nat) (bytes : List Byte) :
    (s.scratchWrite c id a bytes).migArgs = s.migArgs := by
  unfold State.scratchWrite
  split <;> simp

@[simp ↓] theorem State.scratchPut_migArgs (s : State) (side : Nat × Nat) (a : Nat) (bytes : List Byte) (bad : List Nat) :
    (s.scratchPut side a bytes bad).migArgs = s.migArgs := by
  unfold State.scratchPut
  dsimp only
  split <;> simp

@[simp ↓] theorem State.writePiece_migArgs (s : State) (c : Nat) (a : Access) (first : Nat) (bytes : List Byte)
    (bad skip before : List Nat) : (s.writePiece c a first bytes bad skip before).migArgs = s.migArgs := by
  refine (foldl_migArgs _ (fun s i => State.poisonLoc_migArgs s _ _) _ _).trans ?_
  split
  · exact State.writeLoc_migArgs s _ _ _
  · refine (State.tableChange_migArgs _ _).trans ((State.keepPast_migArgs _ _).trans ?_)
    exact foldl_migArgs_eq (fun (r : Bool × State) => r.2) _ (fun r i => State.storeLoc_migArgs r.2 _ _ _ _) _ _

@[simp ↓] theorem State.writeRow_migArgs (s : State) (c : Nat) (row : CopyRow) (bytes : List Byte) (bad skip before : List Nat) :
    (s.writeRow c row bytes bad skip before).migArgs = s.migArgs :=
  foldl_migArgs_eq (fun (r : Nat × State) => r.2) _ (fun _ _ => by simp) _ _

@[simp ↓] theorem State.putRow_migArgs (s : State) (side : Nat × Nat) (a : Nat) (bytes : List Byte) (bad skip : List Nat) :
    (s.putRow side a bytes bad skip).migArgs = s.migArgs := by
  unfold State.putRow
  simp

@[simp ↓] theorem State.copyPut_migArgs (s : State) (c : Nat) (kind : CopyKind) (dst : Nat × Nat) (row : CopyRow) (bytes : List Byte)
    (bad skip before : List Nat) : (s.copyPut c kind dst row bytes bad skip before).migArgs = s.migArgs := by
  unfold State.copyPut
  simp

@[simp ↓] theorem State.copyWordPart_migArgs (s : State) (c : Nat) (o : Op) (kind : CopyKind) (src dst : Nat × Nat) (rows : List CopyRow)
    (i j : Nat) (put : Bool) : (s.copyWordPart c o kind src dst rows i j put).2.migArgs = s.migArgs := by
  unfold State.copyWordPart
  split <;> simp

@[simp ↓] theorem State.copyWords_migArgs (s : State) (c : Nat) (o : Op) (which : Loc → Bool) (put : Bool) :
    (s.copyWords c o which put).2.migArgs = s.migArgs := by
  unfold State.copyWords
  split
  · exact foldl_migArgs_eq (fun (r : Op × State) => r.2) _ (fun _ _ => by simp) _ _
  · rfl

@[simp ↓] theorem State.readLine_migArgs (s : State) (c x : Nat) (cached : Bool) (loc : Loc) (mask : BitVec 4) (key : Nat) :
    (s.readLine c x cached loc mask key).2.migArgs = s.migArgs := by
  unfold State.readLine
  simp

@[simp ↓] theorem State.readLanes_migArgs (s : State) (c x : Nat) (cached : Bool) (lanes : List Access) (key : Nat) :
    (s.readLanes c x cached lanes key).2.migArgs = s.migArgs :=
  foldl_migArgs_eq (fun (r : List (Nat × List Byte × Bool) × List ((Nat × Loc) × List Byte × Bool) × State) => r.2.2) _ (fun r a => by
    dsimp only
    split <;> simp) _ _

@[simp ↓] theorem State.loadLine_migArgs (s : State) (c uid : Nat) (o : Op) (line pass : Nat) :
    (s.loadLine c uid o line pass).2.migArgs = s.migArgs := by
  unfold State.loadLine
  split <;> simp

@[simp ↓] theorem State.atomRead_migArgs (s : State) (c : Nat) (o : Op) (which : AtomLane → Bool) :
    (s.atomRead c o which).2.migArgs = s.migArgs := by
  unfold State.atomRead
  split
  · exact foldl_migArgs_eq (fun (r : Op × State) => r.2) _ (fun r e => by
      dsimp only
      split_ifs <;> simp) _ _
  · rfl

@[simp ↓] theorem State.swapOp_migArgs (s : State) (c uid : Nat) (o : Op) : (s.swapOp c uid o).migArgs = s.migArgs := (rfl)

@[simp ↓] theorem State.readInFlight_migArgs (s : State) (c uid : Nat) (o : Op) (line : Nat) :
    (s.readInFlight c uid o line).2.migArgs = s.migArgs := by
  unfold State.readInFlight
  split <;> simp

@[simp ↓] theorem State.serveLine_migArgs (s : State) (line : Nat) : (s.serveLine line).migArgs = s.migArgs := by
  unfold State.serveLine
  split
  · rfl
  · refine foldl_migArgs _ (fun s c => ?_) _ _
    refine foldl_migArgs_eq (fun (r : List (Nat × Nat) × State) => r.2) _ (fun r e => ?_) _ _
    dsimp only
    split_ifs <;> simp

@[simp ↓] theorem State.serveLines_migArgs (s : State) (lines : List Nat) : (s.serveLines lines).migArgs = s.migArgs := by
  unfold State.serveLines
  simp

@[simp ↓] theorem State.ownWrite_migArgs (s : State) (x : Nat) (loc : Loc) (bytes : List Byte) :
    (s.ownWrite x loc bytes).migArgs = s.migArgs := by
  unfold State.ownWrite
  simp

@[simp ↓] theorem State.trace_migArgs (s : State) (x kind src team word : Nat) (path : Bool) (pc payload : Nat) :
    (s.trace x kind src team word path pc payload).migArgs = s.migArgs := by
  unfold State.trace
  dsimp only
  split
  · rfl
  · split
    · simp
    · split <;> simp

@[simp ↓] theorem State.beginMigration_migArgs (s : State) (x pg : Nat) : (s.beginMigration x pg).migArgs = s.migArgs := by
  unfold State.beginMigration
  split <;> simp

@[simp ↓] theorem State.traceMigration_migArgs (s : State) (pg : Nat) (toTier atEnd : Bool) (granules : Nat) :
    (s.traceMigration pg toTier atEnd granules).migArgs = s.migArgs := by
  unfold State.traceMigration
  simp

/-! ### A command written to MIGCMD (R358) -/

@[simp ↓] theorem State.migDone_migArgs (s : State) (die : Nat) : (s.migDone die).migArgs = s.migArgs :=
  State.setDie_migArgs _ _ _ rfl rfl

@[simp ↓] theorem State.migRefuse_migArgs (s : State) (die why : Nat) : (s.migRefuse die why).migArgs = s.migArgs :=
  State.setDie_migArgs _ _ _ rfl rfl

@[simp ↓] theorem State.migBusy_migArgs (s : State) (die pg : Nat) : (s.migBusy die pg).migArgs = s.migArgs :=
  State.setDie_migArgs _ _ _ rfl rfl

/-- A command is taken, whatever it comes to, and MIGCMD keeps its address and context. -/
theorem migCommand_migArgs {die ctx : Nat} {va : BitVec 48} {f : State → Nat → Bool → State} {s : State} (hd : die < 2)
    (hf : ∀ s pg pin, (f s pg pin).migArgs = s.migArgs) :
    ∃ u, s.migCommand die ctx va f = .next u ∧ u.migArgs die = (va.toNat / 65536 * 65536, ctx) := by
  have kept : (s.setDie die { s.die die with migVa := va.toNat / 65536 * 65536, migCtx := ctx }).migArgs die =
      (va.toNat / 65536 * 65536, ctx) := by
    simp [State.migArgs, State.die_setDie]
  unfold State.migCommand
  rw [if_neg (by omega)]
  dsimp only
  generalize s.setDie die _ = t at kept
  split
  · exact ⟨_, rfl, kept⟩
  · split
    · exact ⟨_, rfl, by simp [kept]⟩
    · exact ⟨_, rfl, by simp [hf, kept]⟩

theorem execMigrateToCapacityTier_migArgs {die ctx : Nat} {va : BitVec 48} {s : State} (hd : die < 2) :
    ∃ u, execMigrateToCapacityTier die ctx va s = .next u ∧ u.migArgs die = (va.toNat / 65536 * 65536, ctx) :=
  migCommand_migArgs hd fun s pg pin => by
    dsimp only
    split
    · simp
    · simp
    · split_ifs <;> simp
    · split_ifs <;> simp

theorem execMigrateToHbm_migArgs {die ctx : Nat} {va : BitVec 48} {s : State} (hd : die < 2) :
    ∃ u, execMigrateToHbm die ctx va s = .next u ∧ u.migArgs die = (va.toNat / 65536 * 65536, ctx) :=
  migCommand_migArgs hd fun s pg pin => by
    split
    · simp
    · split <;> simp
    · simp

theorem execPinPage_migArgs {die ctx : Nat} {va : BitVec 48} {s : State} (hd : die < 2) :
    ∃ u, execPinPage die ctx va s = .next u ∧ u.migArgs die = (va.toNat / 65536 * 65536, ctx) :=
  migCommand_migArgs hd fun s pg pin => by simp

theorem execUnpinPage_migArgs {die ctx : Nat} {va : BitVec 48} {s : State} (hd : die < 2) :
    ∃ u, execUnpinPage die ctx va s = .next u ∧ u.migArgs die = (va.toNat / 65536 * 65536, ctx) :=
  migCommand_migArgs hd fun s pg pin => by simp

theorem writeMig_migArgs {die : Nat} (w : DWord) (s : State) (hd : die < 2) :
    ∃ u, writeMig die w s = .next u ∧ u.migArgs die = ((w.setWidth 48 : BitVec 48).toNat / 65536 * 65536, bits w.toNat 13 8) := by
  unfold writeMig
  dsimp only
  split
  · exact execMigrateToCapacityTier_migArgs hd
  · exact execMigrateToHbm_migArgs hd
  · exact execPinPage_migArgs hd
  · exact execUnpinPage_migArgs hd
  · exact ⟨_, rfl, by simp [State.migArgs, State.die_setDie]⟩

/-- MIGCMD reads as it was written, in its address and its context. -/
theorem writeReg_migCommand (w : DWord) (s : State) {die : Nat} (hd : die < 2) :
    ∃ u, writeReg w s (.mig die 0) = .next u ∧ u.readReg (.mig die 0) = (w &&& 0x0000FFFFFFFF3F00).toNat := by
  obtain ⟨u, wrote, args⟩ := writeMig_migArgs w s hd
  obtain ⟨va, ctx⟩ := Prod.mk.inj args
  refine ⟨u, wrote, ?_⟩
  rw [← mig_fields, ← va, ← ctx]
  rfl

end Sys2Proof.Machine

section

open Sys2Proof Sys2Proof.Machine

/-- Settles O57: what each register reads after its write, with MIGCMD's fields kept by every command. -/
theorem registerWrites : Obligations.RegisterWrites := by
  unfold Obligations.RegisterWrites
  refine ⟨fun s fn off r w stageC hfn named => ?_, fun s fn off w hfn => ⟨exec_registerWrite_of_none hfn, fun d stageC hd named => ?_⟩,
    fun s x w hx => ⟨fun launches image => ?_, execCtxownWrite_held w hx, _, execTrdropClear_of_lt hx, by simp⟩,
    fun s w d hd => ⟨fun idle => ⟨⟨_, execStitchConfigWrite_device w idle, rfl⟩, _, execStitchConfigWrite_route w hd idle, ?_⟩,
      execStitchConfigWrite_busy w⟩,
    fun s w started => ?_⟩
  · have writes := exec_registerWrite_of_some (w := w) stageC hfn named
    rw [writes]
    refine ⟨?_, ?_, ?_, ?_, ?_, ?_, ?_, ?_, ?_, ?_, ?_, ?_, ?_, ?_, ?_⟩
    · rintro x rfl
      exact writeReads_csrec s w x
    · rintro x rfl
      exact writeReads_handler s w x
    · rintro x rfl
      exact writeReads_save s w x
    · rintro x rfl
      exact writeReads_saveSize s w x
    · rintro x rfl
      exact writeReads_deadline s w x
    · rintro x rfl
      exact writeReads_root s w x
    · rintro x rfl
      exact writeReads_traceBase s w x
    · rintro x rfl
      exact writeReads_traceSize s w x
    · rintro x rfl
      exact writeReads_traceDrop s w (State.lt_of_regAt_window named)
    · rintro x rfl
      exact writeReads_traceControl s w x
    · rintro n rfl
      exact writeReads_hostRange s w n
    · rintro n rfl
      exact writeReads_comparator s w n
    · rintro rfl
      exact writeReads_stopTick s w
    · rintro rfl
      exact writeReads_powerCap s w
    · rintro (⟨h, rfl⟩ | rfl | rfl | rfl | ⟨h, rfl⟩ | ⟨k, rfl⟩) <;> rfl
  · rw [exec_registerWrite_of_some stageC hfn named]
    exact writeReg_migCommand w s hd
  · exact ⟨_, execCtxownWrite_free w hx launches image, by simp [State.readReg, ownMask], fun y hy => State.owner_put_other s _ hy⟩
  · simp [State.readReg]
  · obtain ⟨u, wrote, map⟩ := execAttmapWrite_map w started
    refine ⟨u, wrote, fun x hx => ?_⟩
    rw [map]
    simp only [BitVec.getLsbD_or, BitVec.getLsbD_and, BitVec.getLsbD_not, State.getLsbD_heldMask s hx, hx]
    by_cases held : (s.ctx x).launches ≠ [] ∨ (s.ctx x).pstate = 2
    · simp [held]
    · simp [held]

end

namespace Sys2Proof.Machine

/-! ### What an event raised or sent leaves alone (R326, R366) -/

/-- An event of DEVSTAT only raises vectors. -/
theorem State.devstatEvent_eq (s : State) : ∃ msix, s.devstatEvent = { s with msix := msix } := by
  unfold State.devstatEvent
  generalize List.range 32 = fns
  induction fns generalizing s with
  | nil => exact ⟨s.msix, rfl⟩
  | cons fn fns ih =>
    obtain ⟨msix, raises⟩ := ih (s.raise fn 0)
    exact ⟨msix, raises⟩

/-- A part of the state that does not hold the vectors raised is as before an event of DEVSTAT. -/
theorem State.devstatEvent_keeps {α : Type} (part : State → α) (same : ∀ s msix, part { s with msix := msix } = part s) (s : State) :
    part s.devstatEvent = part s := by
  obtain ⟨msix, raises⟩ := s.devstatEvent_eq
  rw [raises, same]

@[simp] theorem State.devstatEvent_stage (s : State) : s.devstatEvent.stage = s.stage := State.devstatEvent_keeps _ (fun _ _ => rfl) s
@[simp] theorem State.devstatEvent_stageErr (s : State) : s.devstatEvent.stageErr = s.stageErr := State.devstatEvent_keeps _ (fun _ _ => rfl) s
@[simp] theorem State.devstatEvent_ticksRun (s : State) : s.devstatEvent.ticksRun = s.ticksRun := State.devstatEvent_keeps _ (fun _ _ => rfl) s
@[simp] theorem State.devstatEvent_side (s : State) : s.devstatEvent.side = s.side := State.devstatEvent_keeps _ (fun _ _ => rfl) s
@[simp] theorem State.devstatEvent_ras (s : State) : s.devstatEvent.ras = s.ras := State.devstatEvent_keeps _ (fun _ _ => rfl) s
@[simp] theorem State.devstatEvent_die0 (s : State) : s.devstatEvent.die0 = s.die0 := State.devstatEvent_keeps _ (fun _ _ => rfl) s
@[simp] theorem State.devstatEvent_die1 (s : State) : s.devstatEvent.die1 = s.die1 := State.devstatEvent_keeps _ (fun _ _ => rfl) s
@[simp] theorem State.devstatEvent_tickOffset (s : State) : s.devstatEvent.tickOffset = s.tickOffset := State.devstatEvent_keeps _ (fun _ _ => rfl) s
@[simp] theorem State.devstatEvent_routes (s : State) : s.devstatEvent.routes = s.routes := State.devstatEvent_keeps _ (fun _ _ => rfl) s
@[simp] theorem State.devstatEvent_d0ok (s : State) : s.devstatEvent.d0ok = s.d0ok := State.devstatEvent_keeps _ (fun _ _ => rfl) s
@[simp] theorem State.devstatEvent_d1ok (s : State) : s.devstatEvent.d1ok = s.d1ok := State.devstatEvent_keeps _ (fun _ _ => rfl) s

/-- A message of the sideband only adds to its replies. -/
theorem State.reply_eq (s : State) (what : Nat) (bytes : List Byte) :
    s.reply what bytes = { s with side := (s.reply what bytes).side } := by
  unfold State.reply
  split <;> rfl

/-- The clusters reported withheld touch the sideband alone. -/
theorem reportClusters_eq (l : List Nat) (s : State) : ∃ side, l.foldl State.reportCluster s = { s with side := side } := by
  induction l generalizing s with
  | nil => exact ⟨s.side, rfl⟩
  | cons k l ih =>
    obtain ⟨side, reports⟩ := ih (s.reportCluster k)
    refine ⟨side, ?_⟩
    rw [List.foldl_cons, reports, State.reportCluster, State.reply_eq]

theorem reportClusters_keeps {α : Type} (part : State → α) (same : ∀ s side, part { s with side := side } = part s) (l : List Nat)
    (s : State) : part (l.foldl State.reportCluster s) = part s := by
  obtain ⟨side, reports⟩ := reportClusters_eq l s
  rw [reports, same]

@[simp] theorem reportClusters_stage (l : List Nat) (s : State) : (l.foldl State.reportCluster s).stage = s.stage :=
  reportClusters_keeps _ (fun _ _ => rfl) l s
@[simp] theorem reportClusters_ras (l : List Nat) (s : State) : (l.foldl State.reportCluster s).ras = s.ras :=
  reportClusters_keeps _ (fun _ _ => rfl) l s
@[simp] theorem reportClusters_die0 (l : List Nat) (s : State) : (l.foldl State.reportCluster s).die0 = s.die0 :=
  reportClusters_keeps _ (fun _ _ => rfl) l s
@[simp] theorem reportClusters_die1 (l : List Nat) (s : State) : (l.foldl State.reportCluster s).die1 = s.die1 :=
  reportClusters_keeps _ (fun _ _ => rfl) l s

/-! ### Staged start (R362, R363) -/

/-- The module has no power exactly in a shutdown or before its first power-on (log 24). -/
theorem State.unpowered_iff (s : State) : s.unpowered = true ↔ s.shutdown = true ∨ s.meter.epoch = 0 := by
  simp [State.unpowered]

theorem State.unpowered_eq_false {s : State} (up : s.shutdown = false) (epoch : s.meter.epoch ≠ 0) : s.unpowered = false := by
  simp [State.unpowered, up, epoch]

theorem exec_perstRelease_powered {s : State} (power : s.unpowered = false) :
    exec .perstRelease s = .next { s with released := true } := by
  show execPerstRelease s = _
  rw [execPerstRelease, power, if_neg Bool.false_ne_true]

theorem exec_perstRelease_unpowered {s : State} (power : s.unpowered = true) : exec .perstRelease s = .next s := by
  show execPerstRelease s = _
  rw [execPerstRelease, if_pos power]

theorem exec_stageAComplete_starts {s : State} (stage : s.stage = 0) (released : s.released = true) (power : s.unpowered = false) :
    ∃ u, exec .stageAComplete s = .next u ∧ u.stage = 1 ∧ u.ticksRun = true ∧
      u.side.replies = s.side.kept.map (0, ·) ++ s.side.replies := by
  show ∃ u, execStageAComplete s = .next u ∧ _
  rw [execStageAComplete, if_neg (by simp [stage, released, power])]
  exact ⟨_, rfl, by simp, by simp, by simp⟩

theorem exec_stageAComplete_unreleased {s : State} (released : s.released = false) : exec .stageAComplete s = .next s := by
  show execStageAComplete s = _
  rw [execStageAComplete, if_pos (by simp [released])]

theorem exec_stageAComplete_unpowered {s : State} (power : s.unpowered = true) : exec .stageAComplete s = .next s := by
  show execStageAComplete s = _
  rw [execStageAComplete, if_pos (by simp [power])]

/-- A stage that fails stands at 100 with its code. -/
def StageFails (i : Instr) (s : State) (err : BitVec 8) : Prop := ∃ u, exec i s = .next u ∧ u.stage = 4 ∧ u.stageErr = err

theorem stageFails_of {i : Instr} {s : State} {err : BitVec 8} (fails : exec i s = .next (s.stageFailed err)) : StageFails i s err :=
   ⟨_, fails, by simp [State.stageFailed], by simp [State.stageFailed]⟩

theorem stageB_firmware {s : State} (h0 h1 c0 c1 : Bool) (stage : s.stage = 1) : StageFails (.stageBComplete false h0 h1 c0 c1) s 0x10 := by
  refine stageFails_of ?_
  show execStageBComplete false h0 h1 c0 c1 s = _
  rw [execStageBComplete, if_neg (by simp [stage]), if_pos Bool.not_false]

theorem stageB_memory {s : State} (c0 c1 : Bool) (stage : s.stage = 1) : StageFails (.stageBComplete true false false c0 c1) s 0x11 := by
  refine stageFails_of ?_
  show execStageBComplete true false false c0 c1 s = _
  rw [execStageBComplete, if_neg (by simp [stage]), if_neg (by simp), if_pos (by decide)]

/-- A die stays in service when its HBM and clusters are up and no cluster of it is broken. -/
theorem useOf_false {hbm clusters : Bool} {broken : List Nat} (out : hbm = false ∨ clusters = false ∨ broken ≠ []) :
    (hbm && clusters && broken.isEmpty) = false := by
  rcases out with h | h | h <;> simp [h]

theorem stageB_completes {s : State} {h0 h1 : Bool} (c0 c1 : Bool) (stage : s.stage = 1) (hbm : h0 = true ∨ h1 = true) :
    ∃ u, exec (.stageBComplete true h0 h1 c0 c1) s = .next u ∧ u.stage = 2 ∧ u.ras.mapped = s.ras.faulty ∧ u.ras.rowRepairs = [] ∧
      (h0 = false ∨ c0 = false ∨ s.ras.broken 0 ≠ [] → u.die0.withheld = true) ∧
      (h1 = false ∨ c1 = false ∨ s.ras.broken 1 ≠ [] → u.die1.withheld = true) := by
  show ∃ u, execStageBComplete true h0 h1 c0 c1 s = .next u ∧ _
  have someHbm : ¬ (!h0 && !h1) = true := by rcases hbm with h | h <;> simp [h]
  rw [execStageBComplete, if_neg (by simp [stage]), if_neg (by simp), if_neg someHbm]
  exact ⟨_, rfl, by simp, by simp, by simp, fun out => by simp [useOf_false out], fun out => by simp [useOf_false out]⟩

theorem stageC_fabric {s : State} (st : Bool) (off : BitVec 64) (stage : s.stage = 2) : StageFails (.stageCComplete false st off) s 0x12 := by
  refine stageFails_of ?_
  show execStageCComplete false st off s = _
  rw [execStageCComplete, if_neg (by simp [stage]), if_pos Bool.not_false]

theorem stageC_stitch {s : State} (off : BitVec 64) (stage : s.stage = 2) : StageFails (.stageCComplete true false off) s 0x13 := by
  refine stageFails_of ?_
  show execStageCComplete true false off s = _
  rw [execStageCComplete, if_neg (by simp [stage]), if_neg (by simp), if_pos Bool.not_false]

theorem stageC_completes {s : State} (off : BitVec 64) (stage : s.stage = 2) :
    ∃ u, exec (.stageCComplete true true off) s = .next u ∧ u.stage = 3 ∧ u.tickOffset = off ∧ u.routes = allRoutes ∧
      u.d0ok = !s.die0.withheld ∧ u.d1ok = !s.die1.withheld ∧ u.die0.free = u.die0.pool ∧ u.die1.free = u.die1.pool := by
  show ∃ u, execStageCComplete true true off s = .next u ∧ _
  rw [execStageCComplete, if_neg (by simp [stage]), if_neg (by simp), if_neg (by simp)]
  exact ⟨_, rfl, by simp, by simp, by simp, by simp, by simp, by simp, by simp⟩

/-! ### Idle states (R364) -/

theorem State.mayIdle_iff (s : State) (level place : Nat) :
    s.mayIdle level place = true ↔ exitLatency level ≤ s.ltr ∧ s.idleHolds level place = true := by
  simp [State.mayIdle]

theorem State.mayIdle_eq_false (s : State) (level place : Nat) :
    s.mayIdle level place = false ↔ s.idleHolds level place = false ∨ s.ltr < exitLatency level := by
  rw [← Bool.not_eq_true, State.mayIdle_iff]
  by_cases h : s.idleHolds level place <;> simp [h]

/-- Every idle place that outlives a message is within the new tolerance. -/
theorem exec_ltrMessage (a b : Nat) (s : State) :
    ∃ u, exec (.ltrMessage a b) s = .next u ∧ u.ltr = min a b ∧ ∀ q ∈ u.idlePlaces, exitLatency (q / 4096) ≤ min a b := by
  refine ⟨_, rfl, rfl, fun q hq => ?_⟩
  have open' := (List.mem_filter.mp hq).2
  exact ((State.mayIdle_iff _ _ _).mp open').1

/-- Where its condition holds, a place stands in its own chain. -/
theorem mem_idleChain_of_idleHolds {s : State} {level place : Nat} (holds : s.idleHolds level place = true) :
    (level, place) ∈ idleChain level place := by
  match level with
  | 0 => simp [idleChain]
  | 1 => simp [idleChain]
  | 2 => simp [idleChain]
  | 3 =>
    have only : place = 0 := by
      simp only [State.idleHolds, Bool.and_eq_true, decide_eq_true_eq] at holds
      exact holds.1.1.1
    simp [idleChain, only]
  | n + 4 => simp [State.idleHolds] at holds

/-- A chain lists its places the deepest level first. -/
theorem idleChain_pairwise (level place : Nat) : (idleChain level place).Pairwise fun a b => b.1 < a.1 := by
  unfold idleChain
  exact List.Pairwise.filter _ (by simp)

/-- The place found in a chain is open, and those that lie deeper are not. -/
theorem State.deepest_spec {s : State} {level place q : Nat} (found : s.deepest level place = some q) :
    ∃ l p, q = 4096 * l + p ∧ (l, p) ∈ idleChain level place ∧ s.mayIdle l p = true ∧
      ∀ e ∈ idleChain level place, l < e.1 → s.mayIdle e.1 e.2 = false := by
  unfold State.deepest at found
  obtain ⟨⟨l, p⟩, first, rfl⟩ := Option.map_eq_some_iff.mp found
  obtain ⟨isOpen, before, after, chain, closed⟩ := List.find?_eq_some_iff_append.mp first
  have sorted := idleChain_pairwise level place
  rw [chain] at sorted ⊢
  obtain ⟨-, sortedTail, -⟩ := List.pairwise_append.mp sorted
  refine ⟨l, p, rfl, by simp, isOpen, fun e he deeper => ?_⟩
  rcases List.mem_append.mp he with he | he
  · simpa using closed e he
  · rcases List.mem_cons.mp he with rfl | he
    · exact absurd deeper (lt_irrefl _)
    · exact absurd deeper (Nat.lt_asymm (List.rel_of_pairwise_cons sortedTail he))

theorem State.mem_idlePlaces_goIdle {s : State} {level place q : Nat} (found : s.deepest level place = some q) :
    q ∈ (s.goIdle level place).idlePlaces := by
  unfold State.goIdle
  rw [found]
  dsimp only
  split
  · next h => simpa using h
  · exact List.mem_cons_self

/-- An open place enters the deepest open state of its chain. -/
theorem exec_idleEntry_open {s : State} {level place : Nat} (holds : s.idleHolds level place = true)
    (within : exitLatency level ≤ s.ltr) :
    ∃ u l p, exec (.idleEntry level place) s = .next u ∧ 4096 * l + p ∈ u.idlePlaces ∧ (l, p) ∈ idleChain level place ∧
      s.idleHolds l p = true ∧ exitLatency l ≤ s.ltr ∧
      ∀ e ∈ idleChain level place, l < e.1 → s.idleHolds e.1 e.2 = false ∨ s.ltr < exitLatency e.1 := by
  have some' : (s.deepest level place).isSome = true := by
    rw [State.deepest, Option.isSome_map, List.find?_isSome]
    exact ⟨_, mem_idleChain_of_idleHolds holds, (s.mayIdle_iff _ _).mpr ⟨within, holds⟩⟩
  obtain ⟨q, found⟩ := Option.isSome_iff_exists.mp some'
  obtain ⟨l, p, rfl, inChain, isOpen, deepest⟩ := State.deepest_spec found
  obtain ⟨latency, condition⟩ := (s.mayIdle_iff _ _).mp isOpen
  exact ⟨_, l, p, rfl, State.mem_idlePlaces_goIdle found, inChain, condition, latency,
    fun e he deeper => (s.mayIdle_eq_false _ _).mp (deepest e he deeper)⟩

theorem exec_idleEntry_closed {s : State} {level place : Nat}
    (closed : ∀ e ∈ idleChain level place, s.idleHolds e.1 e.2 = false ∨ s.ltr < exitLatency e.1) :
    exec (.idleEntry level place) s = .next s := by
  have none' : s.deepest level place = none := by
    rw [State.deepest, Option.map_eq_none_iff, List.find?_eq_none]
    exact fun e he => by simp [(s.mayIdle_eq_false _ _).mpr (closed e he)]
  show Host.Outcome.next (s.goIdle level place) = _
  rw [State.goIdle, none']

theorem not_mem_wake {s : State} {level place q : Nat} (w : wakes level place q = true) :
    q ∉ (s.idlePlaces.filter fun q => !wakes level place q) := by
  simp [w]

/-- A core that wakes ends the idle states of its own place, its cluster, its die and the device. -/
theorem exec_idleWake_core {s : State} {place : Nat} (h : place < 4096) :
    ∃ u, exec (.idleWake 0 place) s = .next u ∧ place ∉ u.idlePlaces ∧ 4096 + place / 96 ∉ u.idlePlaces ∧
      8192 + place / 1152 ∉ u.idlePlaces ∧ 12288 ∉ u.idlePlaces := by
  have at' : ∀ k p, p < 4096 → (4096 * k + p) / 4096 = k ∧ (4096 * k + p) % 4096 = p := by omega
  refine ⟨_, rfl, not_mem_wake ?_, not_mem_wake ?_, not_mem_wake ?_, not_mem_wake rfl⟩
  · obtain ⟨l, p⟩ := at' 0 place h
    rw [mul_zero, zero_add] at l p
    simp [wakes, l, p]
  · obtain ⟨l, p⟩ := at' 1 (place / 96) (by omega)
    rw [mul_one] at l p
    simp [wakes, l, p]
  · obtain ⟨l, p⟩ := at' 2 (place / 1152) (by omega)
    simp only [Nat.reduceMul] at l p
    simp [wakes, l, p]

/-! ### Operating points (R365) -/

@[simp] theorem State.fall_pf (s : State) (d : Nat) : (s.fall d).pf = s.pf := by
  unfold State.fall State.releasePoints State.retarget
  simp

/-- After a fall a die stands within its cap, which is as before. -/
theorem State.fall_die (s : State) (d : Nat) : ((s.fall d).die d).effCap = (s.die d).effCap ∧ ((s.fall d).die d).point ≤ (s.fall d).capOf d := by
  have die : (s.fall d).die d = { s.die d with target := s.targetNow d, point := min (s.die d).point (s.capOf d) } := by
    unfold State.fall State.retarget
    show (State.setDie _ d _).die d = _
    simp [State.die_setDie, State.capOf]
  refine ⟨by rw [die], ?_⟩
  rw [State.capOf, die, State.fall_pf]
  exact Nat.min_le_right _ _

theorem exec_powerCapEvaluation {s : State} {d : Nat} (watts : List Nat) (hd : d < 2) (started : s.stage ≠ 0) :
    ∃ u, exec (.powerCapEvaluation d watts) s = .next u ∧ (u.die d).effCap = highestPoint watts s.pf.watts ∧
      (u.die d).point ≤ u.capOf d := by
  show ∃ u, execPowerCapEvaluation d watts s = .next u ∧ _
  rw [execPowerCapEvaluation, if_neg (by omega), if_neg started]
  obtain ⟨cap, below⟩ := (s.setDie d { s.die d with effCap := highestPoint watts s.pf.watts }).fall_die d
  refine ⟨_, rfl, ?_, below⟩
  rw [cap, State.die_setDie, if_pos Iff.rfl]

theorem State.setTcap_tcap (s : State) (n : Nat) : (s.setTcap n).pf.tcap = n := by
  unfold State.setTcap
  split
  · next h => exact h.symm
  · simp [State.raise]

theorem exec_tcapStep {s : State} (c : Nat) (started : s.stage ≠ 0) :
    ∃ u, exec (.tcapStep c) s = .next u ∧ u.pf.tcap = if c < 95 then min 7 (s.pf.tcap + 1) else if c < 105 then s.pf.tcap - 1 else 0 := by
  show ∃ u, execTcapStep c s = .next u ∧ _
  rw [execTcapStep, if_neg started]
  exact ⟨_, rfl, State.setTcap_tcap _ _⟩

theorem exec_thermalCapZero_hot {s : State} {c : Nat} (started : s.stage ≠ 0) (hot : 105 ≤ c) :
    ∃ u, exec (.thermalCapZero c) s = .next u ∧ u.pf.tcap = 0 := by
  show ∃ u, execThermalCapZero c s = .next u ∧ _
  rw [execThermalCapZero, if_pos ⟨hot, started⟩]
  exact ⟨_, rfl, State.setTcap_tcap _ _⟩

theorem exec_thermalCapZero_cool {s : State} {c : Nat} (cool : c < 105) : exec (.thermalCapZero c) s = .next s := by
  show execThermalCapZero c s = _
  rw [execThermalCapZero, if_neg (by omega)]

theorem exec_thermalShutdown_hot {s : State} {c : Nat} (started : s.stage ≠ 0) (hot : 115 ≤ c) :
    ∃ u, exec (.thermalShutdown c) s = .next u ∧ u.shutdown = true ∧ u.cores = [] ∧ u.stage = 0 ∧
      u.side.kept = leBytes 8 c :: s.side.kept := by
  show ∃ u, execThermalShutdown c s = .next u ∧ _
  rw [execThermalShutdown, if_neg (by omega)]
  exact ⟨_, rfl, rfl, rfl, rfl, rfl⟩

theorem exec_thermalShutdown_cool {s : State} {c : Nat} (cool : c < 115) : exec (.thermalShutdown c) s = .next s := by
  show execThermalShutdown c s = _
  rw [execThermalShutdown, if_pos (.inl cool)]

end Sys2Proof.Machine

section

open Sys2Proof Sys2Proof.Machine

/-- Settles O58: each event's effect by the branch that its premises choose; an idle entry finds the first open place of a chain that
lists the deepest level first. -/
theorem startAndPower : Obligations.StartAndPower := by
  unfold Obligations.StartAndPower
  refine ⟨fun s => ⟨fun up epoch => ?_, fun stage released up epoch => ?_, fun _ released => exec_stageAComplete_unreleased released,
      fun off => ?_⟩,
    fun s fw h0 h1 c0 c1 stage => ⟨?_, ?_, ?_⟩,
    fun s fa st off stage => ⟨?_, ?_, ?_⟩,
    fun s a b level place => ⟨exec_ltrMessage a b s, exec_idleEntry_open, exec_idleEntry_closed, fun small _ => ?_⟩,
    fun s d watts hd started => exec_powerCapEvaluation watts hd started,
    fun s c started => ⟨exec_tcapStep c started, exec_thermalCapZero_hot started, exec_thermalCapZero_cool,
      exec_thermalShutdown_hot started, exec_thermalShutdown_cool⟩⟩
  · exact ⟨_, exec_perstRelease_powered (State.unpowered_eq_false up epoch), rfl, rfl⟩
  · exact exec_stageAComplete_starts stage released (State.unpowered_eq_false up epoch)
  · have power := s.unpowered_iff.mpr off
    exact ⟨exec_perstRelease_unpowered power, exec_stageAComplete_unpowered power⟩
  · rintro rfl
    exact stageB_firmware h0 h1 c0 c1 stage
  · rintro rfl rfl rfl
    exact stageB_memory c0 c1 stage
  · rintro rfl hbm
    exact stageB_completes c0 c1 stage hbm
  · rintro rfl
    exact stageC_fabric st off stage
  · rintro rfl rfl
    exact stageC_stitch off stage
  · rintro rfl rfl
    exact stageC_completes off stage
  · by_cases core : level = 0
    · subst core
      obtain ⟨u, runs, ends⟩ := exec_idleWake_core (s := s) small
      exact ⟨u, runs, fun _ => ends⟩
    · exact ⟨_, rfl, fun zero => absurd zero core⟩

end

namespace Sys2Proof.Machine

/-! ### What an entry of the RAS log leaves alone (R370, R371) -/

/-- An event of the log changes the log, the sideband's replies and the vectors raised; an uncorrectable one that finds room sets UE. -/
theorem State.rasLog_eq (s : State) (kind unit detail : Nat) : ∃ ovf ue logWr log side msix,
    s.rasLog kind unit detail =
      { s with ras := { s.ras with ovf := ovf, ue := ue, logWr := logWr, log := log }, side := side, msix := msix } ∧
    (kind = 2 → s.ras.logWr - s.ras.logRd ≠ 256 → ue = true) := by
  unfold State.rasLog
  dsimp only
  rw [State.reply_eq]
  by_cases full : s.ras.logWr - s.ras.logRd = 256
  · rw [if_pos full]
    split
    · exact ⟨_, _, _, _, _, _, rfl, fun _ room => absurd full room⟩
    · exact ⟨_, _, _, _, _, _, rfl, fun _ room => absurd full room⟩
  · rw [if_neg full]
    split
    · exact ⟨_, _, _, _, _, _, rfl, fun hard _ => by simp [hard]⟩
    · exact ⟨_, _, _, _, _, _, rfl, fun hard _ => by simp [hard]⟩

/-- A part of the state that an event of the log does not write is as before it. -/
theorem State.rasLog_keeps_part {α : Type} (part : State → α)
    (same : ∀ (s : State) ovf ue logWr log side msix,
      part { s with ras := { s.ras with ovf := ovf, ue := ue, logWr := logWr, log := log }, side := side, msix := msix } = part s)
    (s : State) (kind unit detail : Nat) : part (s.rasLog kind unit detail) = part s := by
  obtain ⟨_, _, _, _, _, _, logged, -⟩ := s.rasLog_eq kind unit detail
  rw [logged, same]

theorem State.rasLog_ue {s : State} (unit detail : Nat) (room : s.ras.logWr - s.ras.logRd ≠ 256) :
    (s.rasLog 2 unit detail).ras.ue = true := by
  obtain ⟨_, _, _, _, _, _, logged, ue⟩ := s.rasLog_eq 2 unit detail
  rw [logged]
  exact ue rfl room

section
variable (s : State) (kind unit detail : Nat)

@[simp] theorem State.rasLog_cores : (s.rasLog kind unit detail).cores = s.cores :=
  State.rasLog_keeps_part State.cores (fun _ _ _ _ _ _ _ => rfl) s kind unit detail
@[simp] theorem State.rasLog_die0 : (s.rasLog kind unit detail).die0 = s.die0 :=
  State.rasLog_keeps_part State.die0 (fun _ _ _ _ _ _ _ => rfl) s kind unit detail
@[simp] theorem State.rasLog_die1 : (s.rasLog kind unit detail).die1 = s.die1 :=
  State.rasLog_keeps_part State.die1 (fun _ _ _ _ _ _ _ => rfl) s kind unit detail
@[simp] theorem State.rasLog_d0ok : (s.rasLog kind unit detail).d0ok = s.d0ok :=
  State.rasLog_keeps_part State.d0ok (fun _ _ _ _ _ _ _ => rfl) s kind unit detail
@[simp] theorem State.rasLog_d1ok : (s.rasLog kind unit detail).d1ok = s.d1ok :=
  State.rasLog_keeps_part State.d1ok (fun _ _ _ _ _ _ _ => rfl) s kind unit detail
@[simp] theorem State.rasLog_pf : (s.rasLog kind unit detail).pf = s.pf :=
  State.rasLog_keeps_part State.pf (fun _ _ _ _ _ _ _ => rfl) s kind unit detail
@[simp] theorem State.rasLog_hostRead : (s.rasLog kind unit detail).hostRead = s.hostRead :=
  State.rasLog_keeps_part State.hostRead (fun _ _ _ _ _ _ _ => rfl) s kind unit detail
@[simp] theorem State.rasLog_block (b : Nat) : (s.rasLog kind unit detail).block b = s.block b :=
  State.rasLog_keeps_part (·.block b) (fun _ _ _ _ _ _ _ => rfl) s kind unit detail
@[simp] theorem State.rasLog_fatal : (s.rasLog kind unit detail).ras.fatal = s.ras.fatal :=
  State.rasLog_keeps_part (·.ras.fatal) (fun _ _ _ _ _ _ _ => rfl) s kind unit detail
@[simp] theorem State.rasLog_ceue : (s.rasLog kind unit detail).ras.ceue = s.ras.ceue :=
  State.rasLog_keeps_part (·.ras.ceue) (fun _ _ _ _ _ _ _ => rfl) s kind unit detail
@[simp] theorem State.rasLog_latent : (s.rasLog kind unit detail).ras.latent = s.ras.latent :=
  State.rasLog_keeps_part (·.ras.latent) (fun _ _ _ _ _ _ _ => rfl) s kind unit detail
@[simp] theorem State.rasLog_counts : (s.rasLog kind unit detail).ras.counts = s.ras.counts :=
  State.rasLog_keeps_part (·.ras.counts) (fun _ _ _ _ _ _ _ => rfl) s kind unit detail
@[simp] theorem State.rasLog_rowRepairs : (s.rasLog kind unit detail).ras.rowRepairs = s.ras.rowRepairs :=
  State.rasLog_keeps_part (·.ras.rowRepairs) (fun _ _ _ _ _ _ _ => rfl) s kind unit detail
@[simp] theorem State.rasLog_coreRepairs : (s.rasLog kind unit detail).ras.coreRepairs = s.ras.coreRepairs :=
  State.rasLog_keeps_part (·.ras.coreRepairs) (fun _ _ _ _ _ _ _ => rfl) s kind unit detail
@[simp] theorem State.rasLog_mapped : (s.rasLog kind unit detail).ras.mapped = s.ras.mapped :=
  State.rasLog_keeps_part (·.ras.mapped) (fun _ _ _ _ _ _ _ => rfl) s kind unit detail
@[simp] theorem State.rasLog_bridgeBad : (s.rasLog kind unit detail).ras.bridgeBad = s.ras.bridgeBad :=
  State.rasLog_keeps_part (·.ras.bridgeBad) (fun _ _ _ _ _ _ _ => rfl) s kind unit detail

end

theorem SameSide.sameBytes {s t : State} (h : SameSide s t) : SameBytes s t := .of_eq h.2.1 h.2.2

/-! ### The patrol scrub (R367, R370; log 26) -/

theorem exec_patrolScrub_carve_outside {s : State} {d j : Nat} (hd : d < 2) (hj : j < 2 ^ 29) (out : s.limit d / 2048 ≤ j)
    (o : ScrubOutcome) : exec (.patrolScrub d (2 ^ 35 + j) o) s = .next s := by
  show execPatrolScrub d (2 ^ 35 + j) o s = .next s
  rw [execPatrolScrub, if_neg (by omega), if_pos (by omega)]

theorem exec_patrolScrub_granule_outside {s : State} {d g : Nat} (hd : d < 2) (hg : g < 2 ^ 35) (out : s.limit d / 32 ≤ g)
    (o : ScrubOutcome) : exec (.patrolScrub d g o) s = .next s := by
  show execPatrolScrub d g o s = .next s
  rw [execPatrolScrub, if_neg (by omega), if_pos (by omega)]

theorem exec_patrolScrub_carve {s : State} {d j : Nat} (hd : d < 2) (hj : j < 2 ^ 29) (inside : j < s.limit d / 2048) (o : ScrubOutcome) :
    exec (.patrolScrub d (2 ^ 35 + j) o) s = .next (s.scrubCarve d j o) := by
  show execPatrolScrub d (2 ^ 35 + j) o s = _
  rw [execPatrolScrub, if_neg (by omega), if_neg (by omega), if_pos (by omega), Nat.add_sub_cancel_left]

/-- What a scrub of a granule comes to by its outcome. -/
def State.scrubGranule (s : State) (g : Nat) : ScrubOutcome → State
  | .clean => s
  | .corrected =>
    (s.countGranule (stackOf (32 * g)) false).rasLog 0x01 (0xA00 + stackOf (32 * g)) (granuleDetail (32 * g) true)
  | .uncorrectable => s.poisonGranule g true

theorem exec_patrolScrub_granule {s : State} {d g : Nat} (hd : d < 2) (hg : g < 2 ^ 35) (inside : g < s.limit d / 32) (o : ScrubOutcome) :
    exec (.patrolScrub d g o) s = .next (s.scrubGranule (d * 2 ^ 35 + g) o) := by
  show execPatrolScrub d g o s = _
  rw [execPatrolScrub, if_neg (by omega), if_neg (by omega), if_neg (by omega)]
  cases o <;> rfl

/-- Blocks from `b` on that are spoilt one after another all read as poisoned. -/
theorem poison_spoilBlocks (s : State) (b n : Nat) : ∀ i < n,
    (((List.range n).foldl (fun (s : State) i => s.setBlock (b + i) ((s.block (b + i)).spoil 16)) s).block (b + i)).poison = true := by
  induction n with
  | zero => simp
  | succ n ih =>
    intro i hi
    rw [List.range_succ, List.foldl_append, List.foldl_cons, List.foldl_nil]
    by_cases last : i = n
    · subst last
      rw [State.block_setBlock_self]
      rfl
    · rw [State.block_setBlock_other _ _ (by omega)]
      exact ih i (by omega)

theorem foldl_setBlock_ras (f : State → Nat → Nat) (k : State → Nat → Block) (l : List Nat) (s : State) :
    (l.foldl (fun s i => s.setBlock (f s i) (k s i)) s).ras = s.ras := by
  induction l generalizing s with
  | nil => rfl
  | cons i l ih => rw [List.foldl_cons, ih, State.setBlock_ras]

/-- A granule of the carve-out that no correction mends poisons the four blocks that it describes. -/
theorem State.poisonCarve_spec (s : State) (d j : Nat) (scrub : Bool) :
    (s.ras.logWr - s.ras.logRd ≠ 256 → (s.poisonCarve d j scrub).ras.ue = true) ∧
      ∀ i < 4, ((s.poisonCarve d j scrub).block (d * 2 ^ 31 + 4 * j + i)).poison = true := by
  have poisoned := poison_spoilBlocks s (d * 2 ^ 31 + 4 * j) 4
  have ras : ((List.range 4).foldl (fun (s : State) i =>
      s.setBlock (d * 2 ^ 31 + 4 * j + i) ((s.block (d * 2 ^ 31 + 4 * j + i)).spoil 16)) s).ras = s.ras := foldl_setBlock_ras _ _ _ _
  unfold State.poisonCarve
  dsimp only
  generalize (List.range 4).foldl (fun (s : State) i =>
    s.setBlock (d * 2 ^ 31 + 4 * j + i) ((s.block (d * 2 ^ 31 + 4 * j + i)).spoil 16)) s = t at poisoned ras
  refine ⟨fun room => State.rasLog_ue _ _ ?_, fun i hi => ?_⟩
  · show t.ras.logWr - t.ras.logRd ≠ 256
    rwa [ras]
  · rw [State.rasLog_block]
    exact poisoned i hi

/-- Corrected and uncorrectable granules counted so far for a stack. -/
def State.errorsOf (s : State) (stack : Nat) : Nat × Nat := (Table.get s.ras.ceue stack).getD (0, 0)

/-- A granule that no correction mends: counted, no error waiting for a read any more, and the block that stores it poisoned. -/
theorem State.poisonGranule_spec (s : State) (g : Nat) (scrub : Bool) :
    Table.get (s.poisonGranule g scrub).ras.ceue (stackOf (32 * g)) =
        some ((s.errorsOf (stackOf (32 * g))).1, min ((s.errorsOf (stackOf (32 * g))).2 + 1) 0xFFFFFFFF) ∧
      g ∉ (s.poisonGranule g scrub).ras.latent ∧
      (s.ras.logWr - s.ras.logRd ≠ 256 → (s.poisonGranule g scrub).ras.ue = true) ∧
      (g % 16 < (s.block (g / 16)).slots → ((s.poisonGranule g scrub).block (g / 16)).poison = true) := by
  have ras : (if g % 16 < (s.block (g / 16)).slots then s.setBlock (g / 16) ((s.block (g / 16)).spoil (g % 16)) else s).ras = s.ras := by
    split <;> rfl
  refine ⟨?_, ?_, fun room => ?_, fun stored => ?_⟩
  · simp [State.poisonGranule, State.countGranule, State.errorsOf, ras]
  · simp [State.poisonGranule, State.countGranule]
  · refine State.rasLog_ue _ _ ?_
    simpa [State.countGranule, ras] using room
  · unfold State.poisonGranule
    rw [State.rasLog_block, if_pos stored]
    show ((s.setBlock (g / 16) ((s.block (g / 16)).spoil (g % 16))).block (g / 16)).poison = true
    rw [State.block_setBlock_self]
    rfl

theorem State.countGranule_corrected (s : State) (stack : Nat) :
    Table.get (s.countGranule stack false).ras.ceue stack =
      some (min ((s.errorsOf stack).1 + 1) 0xFFFFFFFF, (s.errorsOf stack).2) := by
  simp [State.countGranule, State.errorsOf]

/-! ### ECS polls and core faults (R10, R369; logs 25, 77) -/

theorem exec_ecsPoll {s : State} {stack pch bank : Nat} (n row : Nat) (hs : stack < 8) (hp : pch < 384) (hb : bank < 64) :
    ∃ u, exec (.ecsPoll stack pch bank n row) s = .next u ∧
      Table.get u.ras.counts (stack * 2 ^ 15 + pch * 2 ^ 6 + bank) = some (min n 0xFFFFFFFF) ∧
      (Table.get s.ras.ecsPast (stack * 2 ^ 15 + pch * 2 ^ 6 + bank) = none → s.ras.ecsth ≤ min n 0xFFFFFFFF →
        (stack * 2 ^ 15 + pch * 2 ^ 6 + bank, row) ∈ u.ras.rowRepairs) := by
  show ∃ u, execEcsPoll stack pch bank n row s = .next u ∧ _
  rw [execEcsPoll, if_neg (by simp; omega)]
  dsimp only
  split
  · next below =>
    refine ⟨_, rfl, by simp, fun first high => absurd below ?_⟩
    rw [first]
    simpa using high
  · exact ⟨_, rfl, by simp, fun _ _ => by simp⟩

theorem exec_coreFaultInService {s : State} {c p : Nat} (hc : c < 2304) (served : s.physicalOf c = some p) :
    ∃ u, exec (.coreFaultInService c p) s = .next u ∧ (clusterOf c, p) ∈ u.ras.coreRepairs ∧ u.ras.mapped = s.ras.mapped ∧
      u.cores = s.cores := by
  show ∃ u, execCoreFaultInService c p s = .next u ∧ _
  rw [execCoreFaultInService, if_neg (by simp [served]; omega)]
  exact ⟨_, rfl, by simp, by simp, by simp⟩

/-! ### Hops and stops of the fabric (R273, R372; log 76) -/

/-- A hop that goes down takes its die out of service. -/
theorem State.hopDown_spec (s : State) {d : Nat} (loop : Nat) (hd : d < 2) :
    ((s.hopDown d loop).die d).withheld = true ∧ (s.hopDown d loop).ras.fatal = true ∧ (d = 0 → (s.hopDown d loop).d0ok = false) ∧
      (d = 1 → (s.hopDown d loop).d1ok = false) := by
  unfold State.hopDown
  dsimp only
  generalize List.foldl State.teardown s _ = t
  refine ⟨?_, by simp, fun zero => by simp [zero], fun one => by simp [one]⟩
  obtain rfl | rfl : d = 0 ∨ d = 1 := by omega
  · simp [State.die, State.setDie]
  · simp [State.die, State.setDie]

/-- Consecutive failures of a hop, with one more. -/
def State.failsOf (s : State) (key : Nat × Nat × Nat) : Nat := ((s.hopFails.find? fun e => e.1 == key).map (·.2)).getD 0 + 1

theorem exec_fabricHopRetry {s : State} {d loop hop : Nat} (hd : d < 2) (hl : loop < 64) (hh : hop < stopCount)
    (sits : loop ∈ loopsOf d hop) :
    exec (.fabricHopRetry d loop hop) s =
      if s.failsOf (d, loop, hop) < 8 then
        .next { s with hopFails := ((d, loop, hop), s.failsOf (d, loop, hop)) :: s.hopFails.filter fun e => e.1 != (d, loop, hop) }
      else .next (State.hopDown { s with hopFails := s.hopFails.filter fun e => e.1 != (d, loop, hop) } d loop) := by
  show execFabricHopRetry d loop hop s = _
  rw [execFabricHopRetry, if_neg (by simp; omega), if_neg (by simp [sits])]
  rfl

theorem exec_injectionStarvation {s : State} {d stop loop : Nat} (hd : d < 2) (hs : stop < stopCount) (hl : loop < 64) :
    exec (.injectionStarvation d stop loop) s =
      .next (if loop ∈ loopsOf d stop then { s with starved := (s.starved ++ [(d, stop, loop)]).eraseDups } else s) := by
  show execInjectionStarvation d stop loop s = _
  rw [execInjectionStarvation, if_neg (by simp; omega)]
  by_cases sits : loop ∈ loopsOf d stop
  · rw [if_neg (by simp [sits]), if_pos sits]
  · rw [if_pos (by simp [sits]), if_neg sits]

/-! ### Stitch ports (R361; log 22) -/

/-- With the two bits of a port's width masked out it reads as down. -/
theorem bits_width_masked (w : Word) : bits (w &&& ~~~(0x03000000 : Word)).toNat 25 24 = 0 := by
  apply Nat.eq_of_testBit_eq
  intro i
  rw [bits, Nat.testBit_mod_two_pow, Nat.testBit_div_two_pow, BitVec.testBit_toNat, Nat.zero_testBit]
  by_cases field : i < 25 + 1 - 24
  · obtain rfl | rfl : i = 0 ∨ i = 1 := by omega
    · simp
    · simp
  · simp [field]

theorem getLsbD_port_masked (w : Word) {port : Nat} (h : port < 16) : (w &&& ~~~BitVec.ofNat 32 (2 ^ port)).getLsbD port = false := by
  have set : (BitVec.ofNat 32 (2 ^ port)).getLsbD port = true := by
    rw [BitVec.getLsbD_ofNat, Nat.testBit_two_pow_self, decide_eq_true (by omega), Bool.and_self]
  rw [BitVec.getLsbD_and, BitVec.getLsbD_not, set, Bool.not_true, Bool.and_false, Bool.and_false]

theorem exec_stitchLanesLost_up {s : State} {port lanes : Nat} (hp : port < 16) (good : 4 ≤ lanes) :
    ∃ u, exec (.stitchLanesLost port lanes) s = .next u ∧ u.pf = s.pf := by
  show ∃ u, execStitchLanesLost port lanes s = .next u ∧ _
  rw [execStitchLanesLost, if_neg (by omega), if_neg (by omega)]
  dsimp only
  rw [if_pos good]
  exact ⟨_, rfl, by simp⟩

theorem exec_stitchLanesLost_down {s : State} {port lanes : Nat} (hp : port < 16) (few : lanes < 4) :
    ∃ u, exec (.stitchLanesLost port lanes) s = .next u ∧ bits (u.readReg (.stPort port)) 25 24 = 0 ∧
      ∀ e ∈ u.pf.stRoute, e.2.getLsbD port = false := by
  show ∃ u, execStitchLanesLost port lanes s = .next u ∧ _
  rw [execStitchLanesLost, if_neg (by omega), if_neg (by omega)]
  dsimp only
  rw [if_neg (by omega)]
  refine ⟨_, rfl, ?_, fun e he => ?_⟩
  · simp only [State.readReg, Table.get_put_self, Option.getD_some]
    exact bits_width_masked _
  · obtain ⟨e', -, rfl⟩ := List.mem_map.mp he
    exact getLsbD_port_masked _ hp

theorem exec_stitchLanesLost_bridge {s : State} {port : Nat} (lanes : Nat) (low : 16 ≤ port) (high : port < 18) :
    ∃ u, exec (.stitchLanesLost port lanes) s = .next u ∧ Table.get u.ras.bridgeBad (port - 16) = some lanes ∧ u.pf = s.pf ∧
      u.cores = s.cores := by
  show ∃ u, execStitchLanesLost port lanes s = .next u ∧ _
  rw [execStitchLanesLost, if_neg (by omega), if_pos low]
  exact ⟨_, rfl, by simp, by simp, by simp⟩

/-- The fields of a trained port's register. -/
theorem toNat_trainedPort (w : BitVec 2) (peer : BitVec 6) (pp : BitVec 4) :
    ((0x80000000 : Word) ||| BitVec.ofNat 32 (w.toNat * 2 ^ 24 + peer.toNat * 2 ^ 16 + pp.toNat * 2 ^ 8)).toNat =
      2 ^ 31 + w.toNat * 2 ^ 24 + peer.toNat * 2 ^ 16 + pp.toNat * 2 ^ 8 := by
  have hw := w.isLt
  have hpeer := peer.isLt
  have hpp := pp.isLt
  have low : w.toNat * 2 ^ 24 + peer.toNat * 2 ^ 16 + pp.toNat * 2 ^ 8 < 2 ^ 31 := by omega
  have enabled : (0x80000000 : Word).toNat = 2 ^ 31 * 1 := by decide
  rw [BitVec.toNat_or, BitVec.toNat_ofNat, Nat.mod_eq_of_lt (by omega), enabled, ← Nat.two_pow_add_eq_or_of_lt low]
  omega

theorem exec_stitchPortTrained_enabled {s : State} {port : Nat} (w : BitVec 2) (peer : BitVec 6) (pp : BitVec 4) (hp : port < 16)
    (enabled : ((Table.get s.pf.stPort port).getD 0).getLsbD 31 = true) :
    ∃ u, exec (.stitchPortTrained port w peer pp) s = .next u ∧
      u.readReg (.stPort port) = 2 ^ 31 + w.toNat * 2 ^ 24 + peer.toNat * 2 ^ 16 + pp.toNat * 2 ^ 8 := by
  show ∃ u, execStitchPortTrained port w peer pp s = .next u ∧ _
  rw [execStitchPortTrained, if_neg (by omega)]
  dsimp only
  rw [if_neg (by rw [enabled]; decide)]
  refine ⟨_, rfl, ?_⟩
  simp only [State.readReg, Table.get_put_self, Option.getD_some]
  exact toNat_trainedPort w peer pp

theorem exec_stitchPortTrained_disabled {s : State} {port : Nat} (w : BitVec 2) (peer : BitVec 6) (pp : BitVec 4) (hp : port < 16)
    (disabled : ((Table.get s.pf.stPort port).getD 0).getLsbD 31 = false) :
    exec (.stitchPortTrained port w peer pp) s = .next s := by
  show execStitchPortTrained port w peer pp s = _
  rw [execStitchPortTrained, if_neg (by omega)]
  dsimp only
  rw [if_pos (by rw [disabled]; decide)]

/-! ### Bytes written piece by piece -/

theorem Memory.writeList_append (m : List Host.Cell) (a : Nat) (xs ys : List Byte) :
    Memory.writeList m a (xs ++ ys) = Memory.writeList (Memory.writeList m a xs) (a + xs.length) ys := by
  induction xs generalizing m a with
  | nil => rfl
  | cons x xs ih =>
    rw [List.cons_append, Memory.writeList, ih, Memory.writeList, List.length_cons, Nat.add_assoc, Nat.add_comm 1]

/-- What a canonical memory reads after a run of bytes was written. -/
theorem Memory.read_writeList (m : List Host.Cell) (a c : Nat) (bs : List Byte) (h : Memory.wf m = true) :
    Memory.read (Memory.writeList m a bs) c = if a ≤ c ∧ c < a + bs.length then bs.getD (c - a) 0 else Memory.read m c := by
  induction bs generalizing m a with
  | nil =>
    rw [if_neg (by simp)]
    rfl
  | cons b bs ih =>
    by_cases first : c = a
    · subst first
      rw [Memory.read_writeList_head m c b bs h, if_pos (by simp), Nat.sub_self]
      rfl
    · rw [Memory.writeList, ih _ _ (Memory.wf_write m a b h), List.length_cons]
      by_cases within : a + 1 ≤ c ∧ c < a + 1 + bs.length
      · obtain ⟨i, rfl⟩ := Nat.exists_eq_add_of_le within.1
        rw [if_pos within, if_pos (by omega), Nat.add_sub_cancel_left, Nat.add_assoc, Nat.add_sub_cancel_left, Nat.add_comm 1,
          List.getD_cons_succ]
      · rw [if_neg within, if_neg (by omega), Memory.read_write_other m b first]

/-- One piece of a run of bytes written at its place. -/
def writePieceAt (da : Nat) (data : List Byte) (m : List Host.Cell) (e : Nat × Nat) : List Host.Cell :=
  Memory.writeList m e.1 ((data.drop (e.1 - da)).take e.2)

/-- Line `i` of a run of `n` bytes from `da`: where its piece begins and its length. -/
def linePiece (da n i : Nat) : Nat × Nat :=
  (max da ((da / 128 + i) * 128), min (da + n) ((da / 128 + i) * 128 + 128) - max da ((da / 128 + i) * 128))

theorem linesOf_eq (da n : Nat) : linesOf da n =
    if n = 0 then [] else (List.range ((da + n - 1) / 128 + 1 - da / 128)).map (linePiece da n) := (rfl)

/-- The pieces of a run's first lines, written in turn, write the run's bytes up to the end of these lines. -/
theorem foldl_writePieceAt (da : Nat) (data : List Byte) (m : List Host.Cell) (k : Nat)
    (hk : k ≤ (da + data.length - 1) / 128 + 1 - da / 128) (pos : data ≠ []) :
    ((List.range k).map (linePiece da data.length)).foldl (writePieceAt da data) m =
      Memory.writeList m da (data.take ((da / 128 + k) * 128 - da)) := by
  have length := List.length_pos_iff.mpr pos
  induction k with
  | zero =>
    have none' : (da / 128 + 0) * 128 - da = 0 := by omega
    rw [none']
    rfl
  | succ k ih =>
    have start : (linePiece da data.length k).1 = da + ((da / 128 + k) * 128 - da) := by
      simp only [linePiece]
      omega
    have take' : data.take ((da / 128 + (k + 1)) * 128 - da) =
        data.take ((da / 128 + k) * 128 - da) ++
          (data.drop ((da / 128 + k) * 128 - da)).take (linePiece da data.length k).2 := by
      rw [← List.take_add]
      by_cases whole : da + data.length ≤ (da / 128 + k) * 128 + 128
      · rw [List.take_of_length_le (by omega), List.take_of_length_le (by simp only [linePiece]; omega)]
      · congr 1
        simp only [linePiece]
        omega
    have done : (data.take ((da / 128 + k) * 128 - da)).length = (da / 128 + k) * 128 - da := by
      rw [List.length_take]
      omega
    rw [List.range_succ, List.map_append, List.foldl_append, ih (by omega), take', Memory.writeList_append, done]
    show writePieceAt da data _ (linePiece da data.length k) = _
    rw [writePieceAt, start, Nat.add_sub_cancel_left]

/-- The pieces of a run cut at its lines, written in turn, write the run. -/
theorem foldl_linesOf (da : Nat) (data : List Byte) (m : List Host.Cell) :
    (linesOf da data.length).foldl (writePieceAt da data) m = Memory.writeList m da data := by
  rw [linesOf_eq]
  by_cases empty : data = []
  · subst empty
    rfl
  · have length := List.length_pos_iff.mpr empty
    rw [if_neg (by omega), foldl_writePieceAt da data m _ le_rfl empty, List.take_of_length_le (by omega)]

/-! ### The host's window (R356, R360, R367) -/

/-- Outside host windows a host's write leaves the cores and every byte. -/
theorem State.hostWrite_outside {s : State} {da : Nat} {data : List Byte}
    (outside : ∀ e ∈ linesOf da data.length, s.hostWindow e.1 = false) : SameSide s (s.hostWrite da data) := by
  refine List.foldlRecOn (motive := fun (r : List Nat × State) => SameSide s r.2) _ _ (.refl s) fun r kept e he => ?_
  rw [outside e he, if_neg Bool.false_ne_true]
  split
  · exact kept
  · exact kept.trans (State.rasLog_keeps _ _ _ _)

/-- Inside host windows a host's write performs all its bytes. -/
theorem State.hostWrite_inside {s : State} {da : Nat} {data : List Byte}
    (inside : ∀ e ∈ linesOf da data.length, s.hostWindow e.1 = true) : (s.hostWrite da data).mem = Memory.writeList s.mem da data := by
  rw [← foldl_linesOf]
  unfold State.hostWrite
  generalize linesOf da data.length = lines at inside
  have lockstep : ∀ (r : List Nat × State) (m : List Host.Cell), r.2.mem = m →
      (lines.foldl (fun (r : List Nat × State) e =>
        let bytes := (data.drop (e.1 - da)).take e.2
        if s.hostWindow e.1 then (r.1, r.2.writeLoc (homeDie e.1) (.dev e.1 false (s.uncached e.1) true) bytes)
        else if r.1.contains (pageOf e.1) then r
        else (pageOf e.1 :: r.1, r.2.rasLog 0x08 0xA40 (2 ^ 41 + e.1 % 2 ^ 41))) r).2.mem = lines.foldl (writePieceAt da data) m := by
    induction lines with
    | nil => exact fun r m same => same
    | cons e lines ih =>
      obtain ⟨first, rest⟩ := List.forall_mem_cons.mp inside
      intro r m same
      rw [List.foldl_cons, List.foldl_cons]
      refine ih rest _ _ ?_
      obtain ⟨-, mem, -⟩ := r.2.writeLoc_keeps (homeDie e.1) (.dev e.1 false (s.uncached e.1) true) ((data.drop (e.1 - da)).take e.2)
      rw [if_pos first, writePieceAt, ← same]
      exact mem
  exact lockstep ([], s) s.mem rfl

theorem State.wakeDie_hostWindow (s : State) (d da : Nat) : (s.wakeDie d).hostWindow da = s.hostWindow da := (rfl)

/-- With no error of HBM waiting, a read by the home die leaves what the location holds, and whether it is poisoned. -/
theorem State.readAt_home {s : State} {da : Nat} (uc hw : Bool) (clean : s.ras.latent = []) :
    ∃ pages, s.readAt (homeDie da) (.dev da false uc hw) = { s with pages := pages } := by
  have found : s.demand (.dev da false uc hw) = s := by
    unfold State.demand
    simp [clean]
  unfold State.readAt State.noteRead State.readHome
  rw [found]
  simp only [Bool.false_eq_true, if_false, if_true]
  unfold State.fillHome
  dsimp only
  split
  · exact ⟨_, rfl⟩
  · exact ⟨s.pages, rfl⟩

theorem homeDie_line (da : Nat) : homeDie (da / 64 * 64) = homeDie da := by
  unfold homeDie
  omega

theorem exec_hostCxlMemAccess_read_outside {s : State} {da : Nat} (data : List (BitVec 8)) (hda : da < 2 ^ 41)
    (outside : s.hostWindow da = false) :
    ∃ u, exec (.hostCxlMemAccess false da data) s = .next u ∧ SameBytes s u ∧ u.hostRead = [] := by
  show ∃ u, execHostCxlMemAccess false da data s = .next u ∧ _
  rw [execHostCxlMemAccess, if_neg (by omega), if_pos (by simp [outside])]
  exact ⟨_, rfl, (State.rasLog_keeps { s with hostRead := [] } _ _ _).sameBytes, by simp⟩

theorem exec_hostCxlMemAccess_write_outside {s : State} {da : Nat} {data : List (BitVec 8)} (hda : da < 2 ^ 41)
    (lines : ∀ e ∈ linesOf da data.length, s.hostWindow e.1 = false) (outside : s.hostWindow da = false) :
    ∃ u, exec (.hostCxlMemAccess true da data) s = .next u ∧ SameBytes s u := by
  show ∃ u, execHostCxlMemAccess true da data s = .next u ∧ _
  rw [execHostCxlMemAccess, if_neg (by omega)]
  by_cases empty : data = []
  · rw [if_pos (by simp [outside, empty])]
    exact ⟨_, rfl, (State.rasLog_keeps s _ _ _).sameBytes⟩
  · rw [if_neg (by simp [empty]), if_pos rfl]
    have awake := fun e he => (s.wakeDie_hostWindow (homeDie da) e.1).trans (lines e he)
    exact ⟨_, rfl, (State.hostWrite_outside awake).sameBytes⟩

theorem exec_hostCxlMemAccess_write_inside {s : State} {da : Nat} {data : List (BitVec 8)} (hda : da < 2 ^ 41)
    (lines : ∀ e ∈ linesOf da data.length, s.hostWindow e.1 = true) (inside : s.hostWindow da = true) :
    exec (.hostCxlMemAccess true da data) s = .next ((s.wakeDie (homeDie da)).hostWrite da data) ∧
      ((s.wakeDie (homeDie da)).hostWrite da data).mem = Memory.writeList s.mem da data := by
  refine ⟨?_, State.hostWrite_inside fun e he => (s.wakeDie_hostWindow (homeDie da) e.1).trans (lines e he)⟩
  show execHostCxlMemAccess true da data s = _
  rw [execHostCxlMemAccess, if_neg (by omega), if_neg (by simp [inside]), if_pos rfl]

theorem exec_hostCxlMemAccess_read_inside {s : State} {da : Nat} (data : List (BitVec 8)) (hda : da < 2 ^ 41)
    (inside : s.hostWindow da = true) :
    ∃ u, exec (.hostCxlMemAccess false da data) s = .next u ∧ SameBytes s u ∧
      (s.poisonedLoc (homeDie da) (.dev (da / 64 * 64) false false true) = false → s.ras.latent = [] →
        u.hostRead = s.readLoc (homeDie da) (.dev (da / 64 * 64) false false true) 64) := by
  show ∃ u, execHostCxlMemAccess false da data s = .next u ∧ _
  rw [execHostCxlMemAccess, if_neg (by omega), if_neg (by simp [inside]), if_neg Bool.false_ne_true]
  dsimp only
  have kept := State.readAt_keeps (s.wakeDie (homeDie da)) (homeDie da) (.dev (da / 64 * 64) false false true)
  refine ⟨_, rfl, ?_, fun sound clean => ?_⟩
  · split
    · exact (kept.trans (State.rasLog_keeps { State.readAt _ _ _ with hostRead := [] } _ _ _)).sameBytes
    · exact kept.sameBytes
  · obtain ⟨pages, reads⟩ := State.readAt_home (s := s.wakeDie (homeDie da)) (da := da / 64 * 64) false true clean
    rw [homeDie_line] at reads
    rw [reads, if_neg]
    · rfl
    · rw [Bool.not_eq_true]
      exact sound

end Sys2Proof.Machine

section

open Sys2Proof Sys2Proof.Machine

/-- Settles O60: each event's effect by the branch that its premises choose; the host's write is cut at lines whose pieces write the run. -/
theorem healthEvents : Obligations.HealthEvents := by
  unfold Obligations.HealthEvents
  refine ⟨fun s d j hd hj out => exec_patrolScrub_carve_outside hd hj out,
    fun s d g hd hg out => exec_patrolScrub_granule_outside hd hg out, fun s d j hd hj inside => ⟨?_, ?_, ?_⟩,
    fun s d g hd hg inside => ⟨?_, ?_, ?_⟩, fun s stack pch bank n row => exec_ecsPoll n row,
    fun s c p => exec_coreFaultInService, fun s d loop hop hd hl hh sits => ⟨fun few => ?_, fun many => ?_⟩,
    fun s d stop loop hd hs hl => ⟨fun sits => ?_, fun sits => ?_⟩,
    fun s port lanes hp => ⟨exec_stitchLanesLost_up hp, exec_stitchLanesLost_down hp⟩,
    fun s port lanes => exec_stitchLanesLost_bridge lanes,
    fun s port w peer pp hp => ⟨exec_stitchPortTrained_enabled w peer pp hp, exec_stitchPortTrained_disabled w peer pp hp⟩,
    fun s da data hda wf => ⟨exec_hostCxlMemAccess_write_outside hda, exec_hostCxlMemAccess_read_outside data hda,
      fun lines inside => ?_, exec_hostCxlMemAccess_read_inside data hda⟩⟩
  · exact exec_patrolScrub_carve hd hj inside .clean
  · exact ⟨_, exec_patrolScrub_carve hd hj inside .corrected,
      ((State.countGranule_keeps s _ _).trans (State.rasLog_keeps _ _ _ _)).sameBytes⟩
  · exact ⟨_, exec_patrolScrub_carve hd hj inside .uncorrectable, s.poisonCarve_spec d j true⟩
  · exact exec_patrolScrub_granule hd hg inside .clean
  · exact ⟨_, exec_patrolScrub_granule hd hg inside .corrected, by
      rw [State.scrubGranule, State.rasLog_ceue]
      exact s.countGranule_corrected _,
      ((State.countGranule_keeps s _ _).trans (State.rasLog_keeps _ _ _ _)).sameBytes⟩
  · have place : (d * 2 ^ 35 + g) / 16 = d * 2 ^ 31 + g / 16 ∧ (d * 2 ^ 35 + g) % 16 = g % 16 := by omega
    obtain ⟨counted, mended, ue, poisoned⟩ := s.poisonGranule_spec (d * 2 ^ 35 + g) true
    rw [place.1, place.2] at poisoned
    exact ⟨_, exec_patrolScrub_granule hd hg inside .uncorrectable, counted, mended, ue, poisoned⟩
  · exact ⟨_, (exec_fabricHopRetry hd hl hh sits).trans (if_pos few), List.mem_cons_self, rfl⟩
  · exact ⟨_, (exec_fabricHopRetry hd hl hh sits).trans (if_neg (Nat.not_lt.mpr many)), State.hopDown_spec _ loop hd⟩
  · refine ⟨_, exec_injectionStarvation hd hs hl, ?_⟩
    rw [if_pos sits]
    exact ⟨by simp, rfl⟩
  · rw [exec_injectionStarvation hd hs hl, if_neg sits]
  · obtain ⟨runs, mem⟩ := exec_hostCxlMemAccess_write_inside hda lines inside
    refine ⟨_, runs, fun a => ?_⟩
    rw [mem, Memory.read_writeList s.mem da a data ((State.memoryWf_iff s).mp wf).1]

end

namespace Sys2Proof.Machine

/-! ### A word whose debugger's step ends on it (R269, R303; log 34)

The stop record that ends the step is the device's own write. Where its ring lies on a replicated page, the other die's reads in flight of
the line read before that write, so that a load in flight beside the word does not stay as it was. -/

/-- LDS.B32 v8, [v4], the word 0x12204008 (R166). -/
def ldsB32 : Instr := .lds 0 0 8 4 0 1 0

/-- A load in flight, by lane 0 of die 0, of the line of die 1 that holds the next record of the trace ring. -/
def ringLoad : Op :=
  ⟨0, 0, 0, 0, false, 0, 0, false, .load 4 20 false false [⟨0, .dev (2 ^ 40 + 0x110000) false false false, 4⟩], false, false, false, [],
    [], 0, [], [], []⟩

/-- The team with one operation in flight, and its path A in a step command. -/
def Team.steppingBeside (t : Team) (o : Op) : Team := { t with ops := [o], step := some (false, false) }

/-- The team at its LDS in a step command, its load in flight; context 0 traces the debugger's stops into a ring at 0x20000, which its
tables map to a replicated page of die 1. -/
def steppedOverRing : State :=
  let s := State.reset.withFetchWord 32 0x12204008
  let s := { s with mem := Memory.writeList s.mem 0x103010 (leBytes 8 (2 ^ 40 + 0x110007)) }
  let s := s.setCore 0 { s.core 0 with
    teams := (s.core 0).teams.map fun e => (e.1, e.2.steppingBeside ringLoad)
    nextOp := 1 }
  let s := s.setCtx 0 { s.ctx 0 with trBase := 0x20000, trSize := 16, trCtl := 0x1001 }
  s.setPage (2 ^ 24 + 0x11) { Page.fresh with state := .resident, replicated := true }

/-- How many lanes each operation of the team in slot 0 of core 0 has read once the machine has gone on. -/
def lanesRead (r : Result) : Option (List Nat) :=
  match r with
  | .next t => (t.team 0 0).map fun (u : Team) => u.ops.map fun (o : Op) => o.got.length
  | _ => none

/-- The view of the LDS. -/
def steppedView : Option View := steppedOverRing.view.map (steppedOverRing.paced · ldsB32)

/-- The LDS issues, its addresses lie in the region, and its team has the one load in flight. -/
theorem steppedView_issues : ∀ v ∈ steppedView,
    (steppedOverRing.frozen v = none ∧ steppedOverRing.decodeTrap v ldsB32 = none ∧ steppedOverRing.holds v ldsB32 = none ∧
      v.sourceTrap ldsB32 = none ∧ steppedOverRing.spinePoison v ldsB32 = none) ∧
    (v.team.race = false ∧
      ∀ e ∈ (v.active.map fun l => (l, (v.v 4 l + immOff v.path.ext 0 * 4).toNat)), e.2 % 4 = 0 ∧ e.2 + 4 ≤ v.team.scrb) ∧
    ((steppedOverRing.atIssue v).cohort v.core v.team.cohort).isSome = true ∧ v.core = 0 ∧ v.slot = 0 ∧ v.team.ops = [ringLoad] := by
  decide +kernel

/-- Once it has issued, the load in flight has read its lane. -/
theorem lanesRead_ldsB32 : lanesRead (exec ldsB32 steppedOverRing) = some [1, 0] := by
  decide +kernel

theorem steppedView_isSome : steppedView.isSome = true := by
  decide +kernel

end Sys2Proof.Machine

section

open Sys2Proof Sys2Proof.Machine

/-- Refutes O31: an LDS that ends a debugger's step posts its load, but the step's stop record is written to a replicated page, and the
team's load in flight of that line reads before the write: the operations are not those before the LDS and one more. -/
theorem not_scratchpadWords : ¬ Obligations.ScratchpadWords := by
  unfold Obligations.ScratchpadWords
  rintro ⟨words, -⟩
  obtain ⟨posts, -⟩ := words 0 0 8 4 0 1 0
  obtain ⟨v, viewed⟩ := Option.isSome_iff_exists.mp steppedView_isSome
  obtain ⟨issues, region, resident, core, slot, inFlight⟩ := steppedView_issues v viewed
  obtain ⟨t, runs, ops, -⟩ := posts steppedOverRing v ⟨viewed, issues⟩ ⟨region, resident⟩
  have read := lanesRead_ldsB32
  rw [ldsB32, runs] at read
  obtain ⟨u, team, lanes⟩ := Option.map_eq_some_iff.mp read
  have after : t.teamOf v = u := by rw [State.teamOf, core, slot, team, Option.getD_some]
  rw [after, inFlight] at ops
  rw [ops] at lanes
  exact absurd lanes (by simp [ringLoad, View.op])

end

namespace Sys2Proof.Machine

/-! ### A JOIN that ends a debugger's step (R25, R303) -/

/-- The sibling of the splitting path, suspended in the record until the halves have merged. -/
def suspendedSibling : Path := Path.fresh [4]

/-- The record of a SPLIT of path A while `suspendedSibling` stood in slot B. -/
def siblingRecord : Recon := ⟨true, false, some suspendedSibling, false, false, 0, [], [], [], false⟩

/-- The half in slot A, which waits at its JOIN. -/
def waitingHalf : Path := { Path.fresh [1] with pid := 2, joined := true }

/-- The team with both halves of `siblingRecord`, the one in slot B at its JOIN and in a step command. -/
def Team.steppingJoin (t : Team) : Team :=
  { t with
    recs := [siblingRecord]
    pathA := some waitingHalf
    pathB := some { Path.fresh [2] with pid := 3 }
    step := some (true, false) }

/-- Path B issues next; comparator 0 names word 0 of packet 0, which is the sibling's next word. -/
def steppedJoin : State :=
  let s := State.reset.withFetchWord 32 0
  let s := s.setCore 0 { s.core 0 with teams := (s.core 0).teams.map fun e => (e.1, e.2.steppingJoin) }
  { s with here := ⟨0, 0, true, false⟩, pf := { s.pf with cmps := [(0, 2 ^ 63)] } }

/-- The view of the JOIN. -/
def steppedJoinView : Option View := steppedJoin.view.map (steppedJoin.paced · (.join 0 0))

theorem steppedJoinView_isSome : steppedJoinView.isSome = true := by
  decide +kernel

/-- The JOIN issues, under the record of the sibling, with the other half waiting. -/
theorem steppedJoinView_issues : ∀ v ∈ steppedJoinView,
    (steppedJoin.frozen v = none ∧ steppedJoin.decodeTrap v (.join 0 0) = none ∧ steppedJoin.holds v (.join 0 0) = none ∧
      v.sourceTrap (.join 0 0) = none ∧ steppedJoin.spinePoison v (.join 0 0) = none) ∧
    v.team.recs = [siblingRecord] ∧ v.team.at (!v.side) = some waitingHalf ∧ v.team.at v.side = some v.path ∧ v.run = false ∧
    v.core = 0 ∧ v.slot = 0 := by
  decide +kernel

/-- Whether the comparator stop before the next word of path B of slot 0 of core 0 counts as reported once the machine has gone on. -/
def pathBPassed (r : Result) : Option Bool :=
  match r with
  | .next t => ((t.team 0 0).bind (·.at true)).map (·.passed)
  | _ => none

/-- After the JOIN the stop is reported at slot B, where the sibling has resumed. -/
theorem pathBPassed_join : pathBPassed (exec (.join 0 0) steppedJoin) = some true := by
  decide +kernel

end Sys2Proof.Machine

section

open Sys2Proof Sys2Proof.Machine

/-- Refutes O37: a JOIN of the half in slot B that ends a debugger's step resumes the sibling in that slot before the stop is reported there;
a comparator that names the sibling's next word marks it as reported, so the resumed sibling is not the suspended one as it stood. -/
theorem not_joinPaths : ¬ Obligations.JoinPaths := by
  unfold Obligations.JoinPaths
  rintro ⟨words, -⟩
  obtain ⟨-, -, halves⟩ := words 0 0
  obtain ⟨v, viewed⟩ := Option.isSome_iff_exists.mp steppedJoinView_isSome
  obtain ⟨issues, recs, other, own, path, core, slot⟩ := steppedJoinView_issues v viewed
  obtain ⟨t, -, -, -, runs, -, -, resumed, -⟩ :=
    (halves steppedJoin v siblingRecord [] ⟨viewed, issues⟩ recs rfl rfl rfl waitingHalf other own path).2 rfl
  have reported := pathBPassed_join
  rw [runs] at reported
  obtain ⟨p, inB, passed⟩ := Option.map_eq_some_iff.mp reported
  obtain ⟨u, team, atB⟩ := Option.bind_eq_some_iff.mp inB
  have after : t.teamOf v = u := by rw [State.teamOf, core, slot, team, Option.getD_some]
  have sibling : some p = some suspendedSibling := by rw [← atB, ← after]; exact resumed
  obtain rfl := Option.some.inj sibling
  exact absurd passed (by decide)

end

namespace Sys2Proof.Machine

/-! ### A dependence word across the end of a line (R57, R246)

The read of a dependence word on an SWM page fills its line at L2, and from then on the word is read from that line: of a word that crosses the
line's end it gives the bytes before the end only. -/

/-- The address of a word whose upper two bytes lie in the next line. -/
def crossingAddress : Nat := 0x1007E

/-- A launch that waits for the word at `crossingAddress` to reach 0x10000. -/
def crossingLaunch : Launch :=
  { bootLaunch with ready := false, dep0Met := false, rcd := { bootRecord with dep0a := crossingAddress, dep0v := 0x10000 } }

/-- Context 0 holds the launch; its tables map the page of the word, whose value is 0x10000, as SWM. -/
def crossingDependence : State :=
  let s := State.reset.withFetchWord 32 0
  let s := { s with mem := Memory.writeList (Memory.writeList s.mem 0x103008 (leBytes 8 0x11001F)) 0x11007E (leBytes 4 0x10000) }
  s.setLaunch 0 crossingLaunch

theorem crossingDependence_waits : crossingDependence.launch 0 1 = some crossingLaunch := by
  decide +kernel

/-- As memory stands the dependence is met. -/
theorem crossingDependence_met : crossingDependence.depMet 0 crossingAddress 0x10000 = true := by
  decide +kernel

/-- Whether launch 1 of context 0 is ready once the machine has gone on. -/
def launchReady (r : Result) : Option Bool :=
  match r with
  | .next t => (t.launch 0 1).map (·.ready)
  | _ => none

/-- Read through the filled line, the dependence is not met. -/
theorem launchReady_recheck : launchReady (exec (.dependenceRecheck 0 1) crossingDependence) = some false := by
  decide +kernel

end Sys2Proof.Machine

section

open Sys2Proof Sys2Proof.Machine

/-- Refutes O51: a dependence word on an SWM page that crosses the end of its line is at its threshold in memory, but the recheck first fills
the line and then reads only the bytes of the word that lie in it, so the launch does not become ready. -/
theorem not_schedulerEvents : ¬ Obligations.SchedulerEvents := by
  unfold Obligations.SchedulerEvents
  rintro ⟨-, -, -, -, -, -, -, -, -, -, recheck⟩
  obtain ⟨u, m, runs, found, ready⟩ := recheck crossingDependence 0 1 crossingLaunch crossingDependence_waits
  have waits := launchReady_recheck
  rw [runs, launchReady, found] at waits
  have met : m.ready = true := by
    rw [ready]
    exact congrArg (fun b => b && true) crossingDependence_met
  rw [Option.map_some, met] at waits
  exact absurd waits (by decide)

end

namespace Sys2Proof.Machine

/-! ### Masks of lanes (R20) -/

/-- The mask that a list of lanes gives is on in those lanes of its slices. -/
theorem laneOn_maskOf {slices l : Nat} (on : Nat → Bool) (h : l < 32 * slices) : laneOn (maskOf slices on) l = on l := by
  have word : wordAt (maskOf slices on) (l / 32) =
      BitVec.ofNat 32 ((List.range 32).foldl (fun n j => if on (32 * (l / 32) + j) then n + 2 ^ j else n) 0) := by
    rw [wordAt, maskOf, List.getD_eq_getElem _ _ (by rw [List.length_map, List.length_range]; omega), List.getElem_map, List.getElem_range]
  have place : l % 32 < 32 := Nat.mod_lt _ (by omega)
  rw [laneOn, word, BitVec.getLsbD_ofNat, (testBit_foldl_range (fun j => on (32 * (l / 32) + j)) 32).2 _ place, decide_eq_true place,
    Bool.true_and, Nat.div_add_mod]

theorem View.mem_active {v : View} {l : Nat} : l ∈ v.active ↔ l < v.team.lanes ∧ laneOn v.path.mask l = true := by
  rw [View.active, activeLanes, List.mem_filter, List.mem_range]

/-! ### The executing team at issue -/

/-- A path at issue: one that was parked, or was to be replayed, is so no longer. -/
def Path.issuing (p : Path) : Path := if p.pending then { p with parked := none, replay := false } else p

theorem Path.issuing_eq (p : Path) : p.issuing = { p with parked := p.issuing.parked, replay := p.issuing.replay } := by
  unfold Path.issuing
  split <;> rfl

/-- At issue the team is the one of the view but for what has parked the path. -/
theorem State.teamOf_atIssue {s : State} {v : View} {i : Instr} (h : s.Views v i) (hr : v.run = false) :
    (s.atIssue v).teamOf v = v.team.setAt v.side (some v.path.issuing) := by
  obtain ⟨-, team, path, -⟩ := h.spec
  have reached : (s.reach v).teamOf v = v.team := by rw [State.teamOf_reach, team]
  have keep : v.team = v.team.setAt v.side (some v.path) := by
    rw [← path hr]
    cases v.side <;> rfl
  have pathOf : (s.reach v).pathOf v = v.path := by
    rw [State.pathOf_eq, reached, hr, path hr]
    rfl
  unfold State.atIssue Path.issuing
  dsimp only
  split
  · rw [State.modPath, State.teamOf_putPath, pathOf, reached, hr]
    rfl
  · rw [reached]
    exact keep

theorem State.pathOf_atIssue {s : State} {v : View} {i : Instr} (h : s.Views v i) (hr : v.run = false) :
    (s.atIssue v).pathOf v = v.path.issuing := by
  rw [State.pathOf_eq, State.teamOf_atIssue h hr, hr, Team.at_setAt_self]
  rfl

/-! ### The end of a debugger's step -/

theorem Team.halt_recs (t : Team) (side : Bool) (r : Nat) : (t.halt side r).recs = t.recs := by
  cases side <;> rfl

theorem Team.haltWith_recs (t : Team) (x n : Nat) : (t.haltWith x n).recs = t.recs := by
  unfold Team.haltWith
  split <;> rfl

/-- A stop leaves the reconvergence records of every team. -/
theorem State.debugStop_recs (s : State) (c slot : Nat) (side : Bool) (r k d i : Nat) (t : Team) (h : s.team d i = some t) :
    ∃ u, (s.debugStop c slot side r k).team d i = some u ∧ u.recs = t.recs := by
  obtain ⟨ops, traced⟩ := (State.traceWord_tells s c slot side 12 (r + 8 * k)).team d i t h
  unfold State.debugStop
  dsimp only
  generalize s.traceWord c slot side 12 (r + 8 * k) = s1 at traced ⊢
  split
  · exact ⟨_, traced, rfl⟩
  · next u found =>
    have halted : ∃ w, (s1.setTeam c slot (u.halt side r)).team d i = some w ∧ w.recs = t.recs := by
      by_cases core : d = c
      · by_cases place : i = slot
        · subst core place
          obtain rfl := Option.some.inj (found.symm.trans traced)
          exact ⟨_, State.team_setTeam_self _ _ _ _, Team.halt_recs _ _ _⟩
        · subst core
          exact ⟨_, (State.team_setTeam_slot _ _ _ place).trans traced, rfl⟩
      · exact ⟨_, (State.team_setTeam_core _ _ _ _ core).trans traced, rfl⟩
    obtain ⟨w, team, recs⟩ := halted
    split
    · exact ⟨_, State.stopLaunch_team _ _ _ d i w team, (Team.haltWith_recs _ _ _).trans recs⟩
    · exact ⟨w, team, recs⟩

theorem State.endStep_recs (s : State) (v : View) (h : (s.team v.core v.slot).isSome = true) :
    ((s.endStep v).teamOf v).recs = (s.teamOf v).recs := by
  obtain ⟨t, team⟩ := Option.isSome_iff_exists.mp h
  unfold State.endStep
  split
  · split
    · obtain ⟨u, stopped, recs⟩ := State.debugStop_recs s v.core v.slot v.side (s.stopReason v.core v.slot v.side 2).1
        (s.stopReason v.core v.slot v.side 2).2 v.core v.slot t team
      rw [State.stopHere, State.teamOf, stopped, State.teamOf, team]
      exact recs
    · rfl
  · rfl

/-! ### SPLIT (R23, R24, R27, R99) -/

/-- The record of a SPLIT with both halves. -/
def State.splitRecord (s : State) (v : View) : Recon :=
  ⟨true, v.side, (s.teamOf v).at (!v.side), false, false, 0, [], (s.pathOf v).wroteS, (s.pathOf v).wroteC, (s.pathOf v).wroteMode⟩

/-- A half of a SPLIT, from the path that splits. -/
def View.splitHalf (v : View) (i : Instr) (q : Path) : Path :=
  { v.land i v.nextPacket q with wroteS := [], wroteC := [], wroteMode := false, lastCommand := none }

/-- The half in slot A: the lanes of which the predicate holds, at the next packet. -/
def View.splitA (v : View) (i : Instr) (on : List Nat) (q : Path) : Path :=
  { v.splitHalf i q with mask := maskOf v.path.mask.length on.contains, lastCommand := q.lastCommand }

/-- The half in slot B: the other active lanes, at the target. -/
def State.splitB (s : State) (v : View) (i : Instr) (on : List Nat) (target : Nat) (q : Path) : Path :=
  { v.splitHalf i q with
    pid := (s.teamOf v).nextPid, before := (q.pid, (s.core v.core).nextOp) :: q.before, pc := target
    mask := maskOf v.path.mask.length fun l => v.active.contains l && !on.contains l }

/-- The team after a SPLIT with both halves. -/
def State.splitTeam (s : State) (v : View) (i : Instr) (on : List Nat) (target : Nat) (t : Team) : Team :=
  { t with
    recs := s.splitRecord v :: t.recs, nextPid := t.nextPid + 1, pathA := some (v.splitA i on (s.pathOf v))
    pathB := some (s.splitB v i on target (s.pathOf v)), lastPath := false }

section

variable (c : BitVec 1) (w : BitVec 2) (p : BitVec 3) (o : BitVec 16) {s : State} {v : View}

theorem splitWord_full (h : 15 ≤ v.team.recs.length) : splitWord c w p o s v = Effect.plain 0x01 :=
  if_pos h

/-- SPLIT with both halves. -/
theorem splitWord_both (room : v.team.recs.length < 15) (some' : ∃ l ∈ v.active, v.p p.toNat l = true)
    (others : ∃ l ∈ v.active, v.p p.toNat l = false) :
    splitWord c w p o s v = .ended ((s.modTeam v
      (s.splitTeam v (.split c w p o) (v.active.filter (v.p p.toNat)) (v.target (immInt v.path.ext o)))).endStep v) := by
  obtain ⟨l, active, on⟩ := some'
  obtain ⟨k, active', off⟩ := others
  have fewer : (v.active.filter (v.p p.toNat)).length ≠ v.active.length := fun all =>
    Bool.false_ne_true (off.symm.trans (List.length_filter_eq_length_iff.mp all k active'))
  have nonempty : (v.active.filter (v.p p.toNat)).isEmpty = false :=
    List.isEmpty_eq_false_iff.mpr (List.ne_nil_of_mem (List.mem_filter.mpr ⟨active, on⟩))
  unfold splitWord
  simp only [if_neg (Nat.not_le.mpr room), if_neg fewer, nonempty, Bool.false_eq_true, if_false]
  rfl

theorem splitWord_all (room : v.team.recs.length < 15) (all : ∀ l ∈ v.active, v.p p.toNat l = true) :
    splitWord c w p o s v = .jump (s.modTeam v fun t =>
      { t with recs := ⟨false, v.side, none, false, false, 0, [], [], [], false⟩ :: t.recs }) v.nextPacket := by
  unfold splitWord
  simp only [if_neg (Nat.not_le.mpr room), List.filter_eq_self.mpr all, if_true]

theorem splitWord_none (room : v.team.recs.length < 15) (active : v.active ≠ []) (none' : ∀ l ∈ v.active, v.p p.toNat l = false) :
    splitWord c w p o s v = .jump (s.modTeam v fun t =>
      { t with recs := ⟨false, v.side, none, false, false, 0, [], [], [], false⟩ :: t.recs }) (v.target (immInt v.path.ext o)) := by
  have off : v.active.filter (v.p p.toNat) = [] := List.filter_eq_nil_iff.mpr fun l h => by rw [none' l h]; decide
  have fewer : ([] : List Nat).length ≠ v.active.length := fun h => active (List.length_eq_zero_iff.mp h.symm)
  unfold splitWord
  simp only [if_neg (Nat.not_le.mpr room), off, if_neg fewer, List.isEmpty_nil, if_true]

end

/-- The lanes of half A are those of the path of which the predicate holds. -/
theorem laneOn_splitA (v : View) (i : Instr) (q : Path) (n : Nat) {l : Nat} (hl : l < v.team.lanes)
    (inside : v.team.lanes ≤ 32 * v.path.mask.length) :
    laneOn (v.splitA i (v.active.filter (v.p n)) q).mask l = (laneOn v.path.mask l && v.p n l) := by
  rw [View.splitA, laneOn_maskOf _ (hl.trans_le inside), Bool.eq_iff_iff, List.contains_iff_mem, List.mem_filter, View.mem_active,
    Bool.and_eq_true, and_iff_right hl]

/-- The lanes of half B are the path's others. -/
theorem laneOn_splitB (s : State) (v : View) (i : Instr) (target : Nat) (q : Path) (n : Nat) {l : Nat} (hl : l < v.team.lanes)
    (inside : v.team.lanes ≤ 32 * v.path.mask.length) :
    laneOn (s.splitB v i (v.active.filter (v.p n)) target q).mask l = (laneOn v.path.mask l && !v.p n l) := by
  have lane : l ∈ v.active ↔ laneOn v.path.mask l = true := by rw [View.mem_active, and_iff_right hl]
  rw [State.splitB, laneOn_maskOf _ (hl.trans_le inside), Bool.eq_iff_iff]
  simp only [List.contains_iff_mem, List.mem_filter, Bool.and_eq_true, Bool.not_eq_true', lane, ← Bool.not_eq_true]
  tauto

/-- Where a SPLIT with both halves leaves its team: the halves but for the debugger's mark, the record, and the registers as they were. -/
theorem State.splitTeam_endStep (s : State) (v : View) (i : Instr) (on : List Nat) (target : Nat) :
    let t := (((s.modTeam v (s.splitTeam v i on target)).endStep v).used).occupy v i
    (∃ m, (t.teamOf v).pathA = some ((v.splitA i on (s.pathOf v)).marked m)) ∧
      (∃ m, (t.teamOf v).pathB = some ((s.splitB v i on target (s.pathOf v)).marked m)) ∧
      (t.teamOf v).recs = s.splitRecord v :: (s.teamOf v).recs ∧ (t.teamOf v).v = (s.teamOf v).v ∧ (t.teamOf v).p = (s.teamOf v).p := by
  intro t
  have isSome : ((s.modTeam v (s.splitTeam v i on target)).team v.core v.slot).isSome = true := by rw [State.team_modTeam]; rfl
  have near := State.endStep_teamOf _ v isSome
  have recs := State.endStep_recs _ v isSome
  rw [State.teamOf_modTeam] at near recs
  have after : t.teamOf v = ((s.modTeam v (s.splitTeam v i on target)).endStep v).teamOf v := rfl
  rw [after]
  exact ⟨near.path false, near.path true, recs, near.v, near.p⟩

end Sys2Proof.Machine

section

open Sys2Proof Sys2Proof.Machine

/-- Settles O36: by how many of the active lanes are true; the two halves are read off the team that the word sets. -/
theorem splitPaths : Obligations.SplitPaths := by
  intro c w p o
  refine ⟨traps_of (fun _ => rfl) fun _ _ => splitWord_full c w p o, transfers_of (fun _ => rfl) fun _ _ h => splitWord_all c w p o h.1 h.2,
    transfers_of (fun _ => rfl) fun _ _ h => splitWord_none c w p o h.1 h.2.1 h.2.2, fun s v issues room on off inside => ?_⟩
  have views := issues.1
  have team := State.teamOf_atIssue views (issues.not_run rfl)
  have path := State.pathOf_atIssue views (issues.not_run rfl)
  obtain ⟨⟨m, hA⟩, ⟨k, hB⟩, recs, hv, hp⟩ := (s.atIssue v).splitTeam_endStep v (.split c w p o) (v.active.filter (v.p p.toNat))
    (v.target (immInt v.path.ext o))
  obtain ⟨vSame, pSame, -⟩ := State.atIssue_spec views
  rw [Path.issuing_eq] at path
  refine ⟨_, _, _, (s.atIssue v).splitRecord v, issueWord_ended issues (splitWord_both c w p o room on off), hA, hB, ?_, rfl, rfl, ?_, rfl,
    rfl, rfl, rfl, fun l hl => ⟨?_, ?_⟩, ?_⟩
  · rw [recs, team]
    cases v.side <;> rfl
  · rw [State.splitRecord, team, Team.at_setAt_other]
  · exact laneOn_splitA v (.split c w p o) ((s.atIssue v).pathOf v) p.toNat hl inside
  · exact laneOn_splitB (s.atIssue v) v (.split c w p o) (v.target (immInt v.path.ext o)) ((s.atIssue v).pathOf v) p.toNat hl inside
  · refine ⟨by rw [path]; rfl, by rw [path]; rfl, by rw [path]; rfl, by rw [path]; rfl, by rw [path]; rfl, by rw [path]; rfl,
      by rw [path]; rfl, by rw [path]; rfl, fun r _ l => ?_, fun n _ l => ?_⟩
    · rw [State.vAt, State.vAt, hv, vSame, State.view_teamOf views]
    · rw [State.pAt, State.pAt, hp, pSame, State.view_teamOf views]

end

namespace Sys2Proof.Machine

/-! ### The least reason (R299) -/

/-- The lowest of some numbers, a first one among them. -/
def leastOf (m : Option Nat) (r : Nat) : Option Nat :=
  match m with
  | none => some r
  | some k => some (min k r)

theorem foldl_leastOf_some (rs : List Nat) (m : Nat) :
    ∃ k ≤ m, rs.foldl leastOf (some m) = some k ∧ ∀ r ∈ rs, k ≤ r := by
  induction rs generalizing m with
  | nil => exact ⟨m, le_rfl, rfl, fun _ h => nomatch h⟩
  | cons r rs ih =>
    obtain ⟨k, le, least, all⟩ := ih (min m r)
    exact ⟨k, le.trans (min_le_left m r), least, List.forall_mem_cons.mpr ⟨le.trans (min_le_right m r), all⟩⟩

/-- No reason stops the whole team. -/
def NoStop (rs : List Nat) : Prop := ∀ q ∈ [23, 21, 20, 24], q ∉ rs

/-- Where no reason stops the whole team, what is said is at most any of the reasons. -/
theorem leastReason_le {rs : List Nat} {r : Nat} (free : NoStop rs) (h : r ∈ rs) : ∃ k ≤ r, leastReason rs = some k := by
  have none' : [23, 21, 20, 24].find? rs.contains = none :=
    List.find?_eq_none.mpr fun q hq on => free q hq (List.contains_iff_mem.mp on)
  unfold leastReason
  rw [none']
  obtain _ | ⟨m, rs⟩ := rs
  · exact nomatch h
  · obtain ⟨k, le, least, all⟩ := foldl_leastOf_some rs m
    exact ⟨k, (List.forall_mem_cons.mpr ⟨le, all⟩ : ∀ q ∈ m :: rs, k ≤ q) r h, least⟩

/-- What is said is nothing only where there is no reason. -/
theorem leastReason_none {rs : List Nat} (h : leastReason rs = none) : rs = [] := by
  unfold leastReason at h
  split at h
  · exact nomatch h
  · obtain _ | ⟨m, rs⟩ := rs
    · rfl
    · obtain ⟨k, -, least, -⟩ := foldl_leastOf_some rs m
      exact nomatch least.symm.trans h

/-- No reason of a path that may be looked at stops its team (R298). -/
theorem State.noStop_pathReasons {s : State} {v : View} (h : s.frozen v = none) : NoStop (s.pathReasons v) := fun q hq mem => by
  have stays : q ∈ (s.pathReasons v).filter fun r => [15, 20, 21, 23, 24].contains r :=
    List.mem_filter.mpr ⟨mem, (by decide : ∀ q ∈ [23, 21, 20, 24], [15, 20, 21, 23, 24].contains q = true) q hq⟩
  rw [leastReason_none h] at stays
  exact nomatch stays

/-! ### The reasons of a word (R298) -/

/-- Reasons that a word has by itself: none of them stops the whole team. -/
def WordOnly (rs : List Nat) : Prop := ∀ r ∈ rs, r ≤ 16

theorem WordOnly.nil : WordOnly [] := fun _ h => nomatch h
theorem WordOnly.one {r : Nat} (h : r ≤ 16) : WordOnly [r] := fun _ m => (List.mem_singleton.mp m).symm ▸ h
theorem WordOnly.append {a b : List Nat} (ha : WordOnly a) (hb : WordOnly b) : WordOnly (a ++ b) := List.forall_mem_append.mpr ⟨ha, hb⟩

theorem WordOnly.ite {c : Prop} [Decidable c] {a b : List Nat} (ha : WordOnly a) (hb : WordOnly b) : WordOnly (if c then a else b) := by
  split <;> assumption

theorem WordOnly.when {c : Prop} [Decidable c] {r : Nat} (h : r ≤ 16) : WordOnly (if c then [r] else []) := .ite (.one h) .nil

theorem WordOnly.flatMap {α : Type} {l : List α} {f : α → List Nat} (h : ∀ a, WordOnly (f a)) : WordOnly (l.flatMap f) := fun r m => by
  obtain ⟨a, -, mem⟩ := List.mem_flatMap.mp m
  exact h a r mem

theorem NoStop.append_wordOnly {a b : List Nat} (ha : NoStop a) (hb : WordOnly b) : NoStop (a ++ b) := fun q hq mem => by
  have high : 16 < q := (by decide : ∀ q ∈ [23, 21, 20, 24], 16 < q) q hq
  obtain mem | mem := List.mem_append.mp mem
  · exact ha q hq mem
  · exact absurd (hb q mem) (by omega)

theorem View.wordOnly_acquireReasons (v : View) (i : Instr) : WordOnly (v.acquireReasons i) :=
  .ite (.append (.when (by omega)) (.when (by omega))) .nil

theorem View.wordOnly_queueReasons (v : View) (i : Instr) : WordOnly (v.queueReasons i) := by
  unfold View.queueReasons
  split
  · exact .when (by omega)
  · exact .when (by omega)
  · exact .when (by omega)
  · exact .nil

theorem State.wordOnly_rmtReasons (s : State) (v : View) (o : BitVec 2) (e : BitVec 3) : WordOnly (s.rmtReasons v o e) :=
  .ite (.append (.append (.when (by omega)) (.when (by omega))) (.when (by omega))) .nil

theorem State.wordOnly_barReasons (s : State) (v : View) (b : BitVec 4) : WordOnly (s.barReasons v b) := by
  unfold State.barReasons
  split
  · exact .when (by omega)
  · exact .nil

theorem State.wordOnly_begunReasons (s : State) (v : View) (i : Instr) : WordOnly (s.begunReasons v i) := by
  unfold State.begunReasons
  split
  · exact s.wordOnly_barReasons v _
  · exact .when (by omega)
  · exact s.wordOnly_rmtReasons v _ _
  · exact .nil

theorem State.wordOnly_chainReasons (s : State) (v : View) (i : Instr) : WordOnly (s.chainReasons v i) :=
  .append (.append (.append (v.wordOnly_acquireReasons i) (.when (by omega))) (v.wordOnly_queueReasons i)) (s.wordOnly_begunReasons v i)

theorem State.wordOnly_fenceReasons (s : State) (v : View) (f i : Instr) : WordOnly (s.fenceReasons v f i) := by
  unfold State.fenceReasons
  split
  · exact .append (.when (by omega)) (.ite (.append (.when (by omega)) (.when (by omega))) .nil)
  · exact .nil

theorem State.wordOnly_fencedChain (s : State) (v : View) (is : List Instr) : WordOnly (s.fencedChain v is) := by
  induction is with
  | nil => exact .nil
  | cons f rest ih => exact .append (.flatMap fun i => s.wordOnly_fenceReasons v f i) ih

theorem State.wordOnly_growReasons (s : State) (v : View) (i : Instr) : WordOnly (s.growReasons v i) := by
  unfold State.growReasons
  split
  · exact .ite .nil (.one (by omega))
  · exact .nil

theorem State.wordOnly_wordReasons (s : State) (v : View) (i : Instr) : WordOnly (s.wordReasons v i) := by
  unfold State.wordReasons
  dsimp only
  refine .append (.append (.append (.append (.append (.append (.append (.append (.append (.append (v.wordOnly_queueReasons i)
    (v.wordOnly_acquireReasons i)) ?full) ?atomFull) ?cpy) ?mtx) (.when (by omega))) ?spine) (.when (by omega))) ?own) (.when (by omega))
  case full => split <;> [exact .when (by omega); exact .nil]
  case atomFull => split <;> [exact .when (by omega); exact .nil]
  case cpy => split <;> [exact .when (by omega); exact .nil]
  case mtx => exact .ite (.when (by omega)) .nil
  case spine =>
    split
    · split <;> [exact .one (by omega); exact .nil]
    · exact .nil
  case own =>
    split
    case h_1 h a => exact .ite .nil (.when (by have := h.isLt; omega))
    case h_2 h n => exact .ite .nil (.when (by have := h.isLt; omega))
    case h_3 =>
      exact .ite .nil (.append (.append (.append (.when (by omega)) (.when (by omega))) (.when (by omega))) (.when (by omega)))
    case h_4 => split <;> [exact .when (by omega); exact .nil]
    case h_5 b =>
      split
      · exact s.wordOnly_barReasons v b
      · split <;> [exact .when (by omega); exact .nil]
    case h_6 =>
      split
      · exact .nil
      · split <;> [exact .when (by omega); exact .nil]
    case h_9 o e => exact s.wordOnly_rmtReasons v o e
    case h_13 => exact .nil
    all_goals exact .when (by omega)

theorem State.wordOnly_reasons (s : State) (v : View) (i : Instr) : WordOnly (s.reasons v i) := by
  refine .ite (s.wordOnly_chainReasons v i) (.append (.append (s.wordOnly_wordReasons v i) (.flatMap fun j => ?_)) (s.wordOnly_fencedChain v _))
  exact .append (s.wordOnly_wordReasons v j.2) (s.wordOnly_growReasons v j.2)

/-- What an acquire holds a word for is among its reasons, in a chain that has issued as well (R115, R171). -/
theorem State.acquireReasons_subset (s : State) (v : View) (i : Instr) : v.acquireReasons i ⊆ s.reasons v i := fun r mem => by
  unfold State.reasons
  split
  · exact List.mem_append_left _ (List.mem_append_left _ (List.mem_append_left _ mem))
  · refine List.mem_append_left _ (List.mem_append_left _ ?_)
    unfold State.wordReasons
    dsimp only
    iterate 8 refine List.mem_append_left _ ?_
    refine List.mem_append_left _ (List.mem_append_right _ mem)

/-! ### A word that waits for an earlier fence (R115) -/

/-- A word that a reason holds once it has been decoded stays at its place (R298). -/
theorem State.before_of_holds {s : State} {v : View} {i : Instr} {r : Nat} (frozen : s.frozen v = none) (decoded : s.decodeTrap v i = none)
    (sources : holdReads i = true → v.sourceTrap i = none) (h : s.holds v i = some r) : s.before v i = some (s.heldBack v i r) := by
  have source : (if holdReads i then v.sourceTrap i else none) = none := by
    split
    · next reads => exact sources reads
    · rfl
  unfold State.before State.atHold
  simp only [frozen, decoded, source, h]

/-- A word of the encoding is executed by its effect at issue. -/
theorem exec_of_encode {i : Instr} {w : Word} (h : encode i = some w) : ∃ eff, ∀ s, exec i s = issueWord i eff s := by
  cases i <;> cases h <;> dsimp only [exec] <;> exact ⟨_, fun _ => rfl⟩

theorem exec_of_before {s t : State} {v : View} {i : Instr} {w : Word} (word : encode i = some w) (views : s.Views v i)
    (before : s.before v i = some t) : exec i s = .next t := by
  obtain ⟨eff, exec⟩ := exec_of_encode word
  obtain ⟨u, view, rfl⟩ := Option.map_eq_some_iff.mp views
  rw [exec]
  unfold issueWord
  rw [view]
  simp only [before]

/-- What holds a word that may be looked at is at most any of its reasons (R299). -/
theorem State.holds_le {s : State} {v : View} {i : Instr} {r : Nat} (frozen : s.frozen v = none) (h : r ∈ s.pathReasons v ++ s.reasons v i) :
    ∃ k ≤ r, s.holds v i = some k :=
  leastReason_le ((State.noStop_pathReasons frozen).append_wordOnly (s.wordOnly_reasons v i)) h

/-- What a release of the path still waits for holds every word of it. -/
theorem State.release_mem_pathReasons {s : State} {v : View} (h : ∃ x ∈ s.coreOps v.core, x.2.id ∈ v.path.releaseOps) :
    9 ∈ s.pathReasons v := by
  obtain ⟨x, mem, waits⟩ := h
  have held : (!v.path.releaseOps.isEmpty && (s.coreOps v.core).any fun e => v.path.releaseOps.contains e.2.id) = true := by
    rw [Bool.and_eq_true, Bool.not_eq_true', List.any_eq_true]
    exact ⟨List.isEmpty_eq_false_iff.mpr (List.ne_nil_of_mem waits), x, mem, List.contains_iff_mem.mpr waits⟩
  unfold State.pathReasons
  dsimp only
  rw [held]
  exact List.mem_append_left _ (List.mem_append_right _ (List.mem_singleton_self 9))

/-- A read that an acquire of the path still waits for holds an access of it, on its counter. -/
theorem View.acquire_mem_acquireReasons {v : View} {i : Instr} {x : Op} (access : accessWord i = true) (mem : x ∈ v.team.ops)
    (waits : x.id ∈ v.path.acquireOps) (reads : x.isRead = true) : 3 + x.code ∈ v.acquireReasons i := by
  have pend (code : Nat) (h : x.code = code) : (v.team.ops.any fun o => v.path.acquireOps.contains o.id && o.code == code) = true :=
    List.any_eq_true.mpr ⟨x, mem, by rw [List.contains_iff_mem.mpr waits, h, beq_self_eq_true]; rfl⟩
  unfold View.acquireReasons
  dsimp only
  rw [if_pos access]
  obtain zero | one : x.code = 0 ∨ x.code = 1 := by simpa [Op.isRead] using reads
  · rw [zero, if_pos (pend 0 zero)]
    exact List.mem_append_left _ (List.mem_singleton_self 3)
  · rw [one, if_pos (pend 1 one)]
    exact List.mem_append_right _ (List.mem_singleton_self 4)

/-- A word that an earlier FENCE of its path still holds: a release every word, an acquire an access (R115). -/
theorem exec_of_fenced {i : Instr} {w : Word} {s : State} {v : View} (word : encode i = some w) (views : s.Views v i)
    (frozen : s.frozen v = none) (decoded : s.decodeTrap v i = none) (sources : holdReads i = true → v.sourceTrap i = none) {r : Nat}
    (h : r ∈ s.pathReasons v ++ s.reasons v i) : ∃ k ≤ r, exec i s = .next (s.heldBack v i k) := by
  obtain ⟨k, le, holds⟩ := State.holds_le frozen h
  exact ⟨k, le, exec_of_before word views (State.before_of_holds frozen decoded sources holds)⟩

/-! ### Register blocks (R30, R31, R118) -/

section

variable {s : State} {v : View}

theorem growTrap_none (one : v.team.two = false) (free : v.team.extHeld = false) (declared : v.team.extn ≠ 0) : growTrap v = none := by
  unfold growTrap
  rw [one, free, Bool.false_or, beq_eq_false_iff_ne.mpr declared]
  rfl

theorem growWord_granted (h : v.team.granted = true) : growWord s v = .done (s.modTeam v fun t => { t with granted := false }) :=
  if_pos h

theorem growWord_free (granted : v.team.granted = false) (trap : growTrap v = none) :
    growWord s v = if s.canGrow v.core (s.teamOf v) then .done (s.modTeam v Team.grown)
      else .wait (s.modTeam v fun t => { t with growPending := true }) 14 := by
  unfold growWord
  rw [granted, trap]
  rfl

theorem growtWord_free (k : BitVec 2) (trap : growTrap v = none) :
    growtWord k s v = .done ((if s.canGrow v.core (s.teamOf v) then s.modTeam v Team.grown else s).setC v k.toNat
      (s.canGrow v.core (s.teamOf v)) (v.time + 1)) := by
  unfold growtWord
  rw [trap]

theorem shrinkWord_held (one : v.team.two = false) (held : v.team.extHeld = true) :
    shrinkWord s v = .done (s.modTeam v fun t => { t.clearExt with extHeld := false }) := by
  unfold shrinkWord
  rw [one, held]
  rfl

theorem shrinkWord_none (one : v.team.two = false) (free : v.team.extHeld = false) : shrinkWord s v = .done s := by
  unfold shrinkWord
  rw [one, free]
  rfl

/-- A word of lanes that are all zero is zero. -/
theorem wordAt_replicate_zero (n l : Nat) : wordAt (List.replicate n 0) l = 0 := by
  unfold wordAt
  rw [List.getD_eq_getElem?_getD, List.getElem?_getD_replicate_default_eq]

theorem Team.clearExt_v (t : Team) {r : Nat} (h : r < t.v.length) :
    t.clearExt.v.getD r [] = if t.base ≤ r ∧ r < t.base + t.extn then List.replicate t.lanes 0 else t.v.getD r [] := by
  have inside : r < (t.v.zipIdx.map fun e => if t.base ≤ e.2 ∧ e.2 < t.base + t.extn then List.replicate t.lanes 0 else e.1).length := by
    rw [List.length_map, List.length_zipIdx]
    exact h
  rw [Team.clearExt, List.getD_eq_getElem _ _ inside, List.getElem_map, List.getElem_zipIdx, Nat.zero_add, List.getD_eq_getElem _ _ h]

theorem Team.wordAt_clearExt (t : Team) {r : Nat} (l : Nat) (h : r < t.v.length) :
    wordAt (t.clearExt.v.getD r []) l = if t.base ≤ r ∧ r < t.base + t.extn then 0 else wordAt (t.v.getD r []) l := by
  rw [t.clearExt_v h]
  split
  · exact wordAt_replicate_zero _ _
  · rfl

/-! ### SPOUT (R117) -/

variable (n : BitVec 2) (a : BitVec 6) {l : Launch}

theorem spoutWord_declared (launch : s.launch v.team.ctx v.team.launch = some l) (ordered : l.rcd.ordered = true)
    (declared : (l.slotInfo n.toNat).declared = true) :
    spoutWord n a s v = .done (s.publish v.team.ctx l (clusterOf v.core) v.team.item.toNat n.toNat (v.s a.toNat 0) false) := by
  unfold spoutWord
  rw [launch]
  simp only [ordered, declared, Bool.not_true, Bool.or_false, Bool.false_eq_true, if_false]

theorem spoutWord_undeclared (launch : s.launch v.team.ctx v.team.launch = some l)
    (h : l.rcd.ordered = false ∨ (l.slotInfo n.toNat).declared = false) : spoutWord n a s v = Effect.plain 0x01 := by
  have off : (!l.rcd.ordered || !(l.slotInfo n.toNat).declared) = true := by
    rw [Bool.or_eq_true, Bool.not_eq_true', Bool.not_eq_true']
    exact h
  unfold spoutWord
  rw [launch]
  exact if_pos off

end

/-! ### What leaves the cores alone -/

/-- Steps that leave the cores, of a state and what is carried beside it. -/
theorem foldl_cores_of {α β : Type} (g : β → State) {f : β → α → β} (hf : ∀ r a, (g (f r a)).cores = (g r).cores) (l : List α)
    (r : β) : (g (l.foldl f r)).cores = (g r).cores := by
  induction l generalizing r with
  | nil => rfl
  | cons a l ih => exact (ih _).trans (hf r a)

theorem foldl_cores {α : Type} {f : State → α → State} (hf : ∀ s a, (f s a).cores = s.cores) (l : List α) (s : State) :
    (l.foldl f s).cores = s.cores := foldl_cores_of (fun s => s) hf l s

theorem State.noteTorn_cores (s : State) (uid : Nat) (locs : List Loc) : (s.noteTorn uid locs).cores = s.cores :=
  foldl_cores (fun s pg => by dsimp only; split <;> rfl) _ s

theorem State.touchPage_cores (s : State) (x pg : Nat) : (s.touchPage x pg).cores = s.cores := by
  unfold State.touchPage
  split <;> rfl

theorem State.touchLoc_cores (s : State) (x : Nat) (loc : Loc) : (s.touchLoc x loc).cores = s.cores := by
  cases loc with
  | host pa => rfl
  | dev da swm uc hw => exact s.touchPage_cores x _

theorem State.touch_cores (s : State) (d : Nat) (loc : Loc) : (s.touch d loc).cores = s.cores := by
  cases loc with
  | host pa => rfl
  | dev da swm uc hw => cases swm <;> [exact (s.fillHome_keeps da).1; exact (s.fillSwm_keeps d _).1]

theorem State.storeLoc_cores (s : State) (d : Nat) (loc : Loc) (bs : List Byte) (count : Bool) :
    (s.storeLoc d loc bs count).cores = s.cores := (s.storeLoc_keeps d loc bs count).1

theorem State.tableChange_cores (s old : State) : (s.tableChange old).cores = s.cores := (s.tableChange_keeps old).1

theorem State.writeLanes_cores (s : State) (d : Nat) (lanes : List (Access × List Byte)) : (s.writeLanes d lanes).cores = s.cores :=
  (State.tableChange_cores _ _).trans (foldl_cores_of Prod.fst (fun _ _ => State.storeLoc_cores _ _ _ _ _) lanes (s, []))

theorem State.tearTrace_cores (s : State) (d x : Nat) (runs : List (Loc × Nat)) : (s.tearTrace d x runs).cores = s.cores := by
  unfold State.tearTrace
  dsimp only
  split
  · rfl
  · change (List.foldl _ s _).cores = s.cores
    refine foldl_cores (fun _ _ => ?_) _ s
    exact State.storeLoc_cores _ _ _ _ _

theorem State.tear_cores (s : State) (pg : Nat) : (s.tear pg).cores = s.cores := State.tableChange_cores _ _

theorem State.addFree_cores (s : State) (d n : Nat) : (s.addFree d n).cores = s.cores := s.setDie_cores _ _

theorem State.sizeBlockAt_cores (s : State) (b : Nat) (clean : Bool) : (s.sizeBlockAt b clean).cores = s.cores := by
  simp only [State.sizeBlockAt, State.takeFree, State.addFree, State.setDie_cores, apply_ite State.cores, State.touchPage_cores,
    State.setBlock_cores, ite_self]

theorem State.writeback_cores (s : State) (b : Nat) (lines : List (Nat × Nat)) : (s.writeback b lines).cores = s.cores := by
  have cleaned (t : State) : (lines.foldl (fun s e => s.cleanLine e.1 e.2) t).cores = t.cores :=
    foldl_cores (fun s e => (s.cleanLine_keeps e.1 e.2).1) lines t
  unfold State.writeback
  split
  · rfl
  · simp only [State.tableChange_cores, apply_ite State.cores, State.sizeBlockAt_cores, (State.refer_keeps _ _).1, cleaned,
      (State.demand_keeps _ _).1, ite_self]

theorem State.clearPage_cores (s : State) (pg : Nat) : (s.clearPage pg).cores = s.cores := State.tableChange_cores _ _

theorem State.poisonLoc_cores (s : State) (d : Nat) (loc : Loc) : (s.poisonLoc d loc).cores = s.cores := by
  cases loc with
  | host pa => rfl
  | dev da swm uc hw =>
    unfold State.poisonLoc
    dsimp only
    split
    · rfl
    · split
      · exact State.setLine_cores _ _ _ _
      · rfl

theorem State.writeRow_cores (s : State) (c : Nat) (row : CopyRow) (bytes : List Byte) (bad skip before : List Nat) :
    (s.writeRow c row bytes bad skip before).cores = s.cores := by
  refine foldl_cores_of Prod.snd (fun r a => ?_) row.global (0, s)
  unfold State.writePiece
  dsimp only
  rw [foldl_cores fun _ _ => State.poisonLoc_cores _ _ _]
  split
  · exact (State.writeLoc_keeps _ _ _ _).1
  · exact (State.tableChange_cores _ _).trans (foldl_cores_of Prod.snd (fun _ _ => State.storeLoc_cores _ _ _ _ _) _ _)

/-! ### The number of the team in a slot -/

/-- A team of this number is in the slot of the core. -/
def State.Seats (s : State) (c i uid : Nat) : Prop := ∃ t, s.team c i = some t ∧ t.uid = uid

section

variable {s t : State} {c i n : Nat}

theorem State.Seats.of_cores (same : t.cores = s.cores) (h : s.Seats c i n) : t.Seats c i n := by
  unfold State.Seats State.team State.core at h ⊢
  rwa [same]

/-- Operations served, returned or marked are all that changes of a team. -/
theorem State.Seats.of_team (same : ∀ c i t', s.team c i = some t' → ∃ ops, t.team c i = some { t' with ops := ops }) (h : s.Seats c i n) :
    t.Seats c i n := by
  obtain ⟨u, team, uid⟩ := h
  obtain ⟨ops, team'⟩ := same c i u team
  exact ⟨_, team', uid⟩

theorem State.Seats.ite {p : Prop} [Decidable p] {a b : State} (ha : a.Seats c i n) (hb : b.Seats c i n) :
    (if p then a else b).Seats c i n := by
  split <;> assumption

theorem foldl_seats_of {α β : Type} (g : β → State) {f : β → α → β} (hf : ∀ r a, (g r).Seats c i n → (g (f r a)).Seats c i n)
    (l : List α) {r : β} (h : (g r).Seats c i n) : (g (l.foldl f r)).Seats c i n := by
  induction l generalizing r with
  | nil => exact h
  | cons a l ih => exact ih (hf r a h)

theorem foldl_seats {α : Type} {f : State → α → State} (hf : ∀ s a, s.Seats c i n → (f s a).Seats c i n) (l : List α)
    (h : s.Seats c i n) : (l.foldl f s).Seats c i n := foldl_seats_of (fun s => s) hf l h

/-- A core set with other teams of the same numbers. -/
theorem State.Seats.setCore {d : Nat} {k : Core} (same : ∀ j w, Table.get (s.core d).teams j = some w →
    ∃ w', Table.get k.teams j = some w' ∧ w'.uid = w.uid) (h : s.Seats c i n) : (s.setCore d k).Seats c i n := by
  obtain ⟨u, team, uid⟩ := h
  by_cases core : c = d
  · subst core
    obtain ⟨w, team', uid'⟩ := same i u team
    exact ⟨w, by rw [State.team, State.core_setCore_self, team'], uid'.trans uid⟩
  · exact ⟨u, by rw [State.team, State.core_setCore_other _ _ core]; exact team, uid⟩

/-- A core set with the same teams. -/
theorem State.Seats.setCore_same {d : Nat} {k : Core} (same : k.teams = (s.core d).teams) (h : s.Seats c i n) : (s.setCore d k).Seats c i n :=
  h.setCore fun _ w get => ⟨w, same ▸ get, rfl⟩

/-! ### Operations put back -/

theorem State.seats_setUid {d : Nat} {w : Team} (h : s.Seats c i n) : (s.setUid d w).Seats c i n := by
  refine h.setCore fun j u get => ?_
  have own (e : Nat × Team) : (if e.2.uid = w.uid then (e.1, w) else e) = (e.1, if e.2.uid = w.uid then w else e.2) := by split <;> rfl
  dsimp only
  simp only [own]
  rw [Table.get_map (fun (u : Team) => if u.uid = w.uid then w else u), get]
  refine ⟨_, rfl, ?_⟩
  dsimp only
  split
  · next same => exact same.symm
  · rfl

theorem State.seats_dirtyOp {d uid : Nat} {o : Op} (h : s.Seats c i n) : (s.dirtyOp d uid o).Seats c i n := by
  unfold State.dirtyOp
  split
  · exact h
  · refine foldl_seats (fun t r ht => ?_) _ h
    obtain ⟨u, team, number⟩ := ht
    exact ⟨u, by rw [(t.dirtyFrame_keeps d _ _ c i _).1]; exact team, number⟩

theorem State.seats_putOp {d uid : Nat} {o : Op} (h : s.Seats c i n) : (s.putOp d uid o).Seats c i n := by
  unfold State.putOp
  split
  · exact h
  · exact State.seats_dirtyOp (State.seats_setUid h)

/-! ### Answers to charged stores (R176) -/

theorem State.seats_setLadle {d : Nat} {l : Ladle} (h : s.Seats c i n) : (s.setLadle d l).Seats c i n := h.setCore_same rfl

theorem State.seats_excess {d x e : Nat} (h : s.Seats c i n) : (s.excess d x e).Seats c i n := by
  unfold State.excess
  split
  · exact h
  · split
    · exact State.seats_setLadle (h.of_cores (State.addFree_cores _ _ _))
    · exact h

theorem State.seats_refund {d x e m : Nat} (h : s.Seats c i n) : (s.refund d x e m).Seats c i n := by
  unfold State.refund
  split
  · exact h.of_cores (State.addFree_cores _ _ _)
  · exact State.seats_excess (State.seats_setLadle h)

theorem State.seats_touchPage {x pg : Nat} (h : s.Seats c i n) : (s.touchPage x pg).Seats c i n := h.of_cores (State.touchPage_cores _ _ _)

theorem State.seats_keepCharge {d id b : Nat} {m : Option Nat} (h : s.Seats c i n) : (s.keepCharge d id b m).Seats c i n := h

theorem State.seats_answer {d x id b : Nat} {wasDirty more : Bool} (h : s.Seats c i n) : (s.answer d x id b wasDirty more).Seats c i n := by
  have touched (k : Block) : (s.setBlock b k |>.touchPage x (b / 128)).Seats c i n := State.seats_touchPage (s := s.setBlock b k) h
  exact .ite (.ite h (State.seats_refund h))
    (.ite (State.seats_keepCharge (.ite h (touched _))) (State.seats_refund (State.seats_keepCharge (.ite h (touched _)))))

/-! ### Scratchpads -/

theorem State.seats_setCohort {d : Nat} {g : Cohort} (h : s.Seats c i n) : (s.setCohort d g).Seats c i n := h.setCore_same rfl

theorem State.seats_scratchWrite {d id a : Nat} {bytes : List Byte} (h : s.Seats c i n) : (s.scratchWrite d id a bytes).Seats c i n := by
  unfold State.scratchWrite
  split
  · exact h
  · exact State.Seats.setCore_same rfl (State.seats_setCohort h)

theorem State.seats_scratchPut {side : Nat × Nat} {a : Nat} {bytes : List Byte} {bad : List Nat} (h : s.Seats c i n) :
    (s.scratchPut side a bytes bad).Seats c i n := by
  unfold State.scratchPut
  dsimp only
  split
  · exact State.seats_setCohort (State.seats_scratchWrite h)
  · exact State.seats_scratchWrite h

theorem State.seats_copyPut {d : Nat} {kind : CopyKind} {dst : Nat × Nat} {row : CopyRow} {bytes : List Byte} {bad skip before : List Nat}
    (h : s.Seats c i n) : (s.copyPut d kind dst row bytes bad skip before).Seats c i n := by
  unfold State.copyPut
  split
  · exact h.of_cores (State.writeRow_cores _ _ _ _ _ _ _)
  · unfold State.putRow
    split
    · exact State.seats_scratchPut h
    · exact foldl_seats (fun _ _ => State.seats_scratchPut) _ h

theorem State.seats_copyWords {d : Nat} {o : Op} {which : Loc → Bool} {put : Bool} (h : s.Seats c i n) :
    (s.copyWords d o which put).2.Seats c i n := by
  unfold State.copyWords
  split
  · refine foldl_seats_of Prod.snd (fun r e hr => ?_) _ h
    unfold State.copyWordPart
    split
    · exact hr
    · next kind src dst rows _ _ row _ =>
      dsimp only
      split
      · exact hr
      · generalize read : (if kind.global = true then r.2 else _ : State) = t
        have ht : t.Seats c i n := by
          rw [← read]
          split
          · exact hr
          · exact hr.of_cores (foldl_cores (fun s a => (s.demand_keeps _).1) _ _)
        rw [apply_ite Prod.snd]
        exact .ite (State.seats_copyPut ht) ht
  · exact h

/-! ### Stores and atomics -/

theorem State.seats_serveLines {lines : List Nat} (h : s.Seats c i n) : (s.serveLines lines).Seats c i n :=
  h.of_team (s.serveLines_serves lines).team

theorem State.storeLanes_cores (s : State) (d uid : Nat) (o : Op) (lanes : List (Access × List Byte)) :
    (s.storeLanes d uid o lanes).cores = (s.serveLines (lanes.map (·.1.loc.lineKey))).cores := by
  unfold State.storeLanes
  dsimp only
  rw [foldl_cores State.tear_cores, State.tearTrace_cores, State.writeLanes_cores, foldl_cores fun s r => s.touchLoc_cores _ _]
  exact State.noteTorn_cores _ _ _

theorem State.seats_storePart {d uid : Nat} {o : Op} {which : Access → Bool} (h : s.Seats c i n) : (s.storePart d uid o which).2.Seats c i n := by
  unfold State.storePart
  split
  · exact foldl_seats (fun _ _ => State.seats_answer) _ ((State.seats_serveLines h).of_cores (State.storeLanes_cores _ _ _ _ _))
  · exact h

theorem State.seats_atomGlobal {d : Nat} {u : Team} {o : Op} {op : Nat} {e : AtomLane} {all : List AtomLane} (h : s.Seats c i n) :
    (s.atomGlobal d u o op e all).2.2.Seats c i n := by
  have read (b : Bool) : (if op = 12 then if b then s else (s.demand e.loc).readAtHome (dieOf d) e.loc
      else (s.demand e.loc).touch (dieOf d) e.loc).Seats c i n :=
    .ite (.ite h (h.of_cores ((State.readAtHome_keeps _ _ _).1.trans (s.demand_keeps _).1)))
      (h.of_cores ((State.touch_cores _ _ _).trans (s.demand_keeps _).1))
  have torn {t : State} (x : Nat) (runs : List (Loc × Nat)) (p : Prop) [Decidable p] (ht : t.Seats c i n) :
      (if p then t.tearTrace (dieOf d) x runs else t).Seats c i n := .ite (ht.of_cores (State.tearTrace_cores _ _ _ _)) ht
  have answered {t : State} (x id b : Nat) (was more : Bool) (p : Prop) [Decidable p] (ht : t.Seats c i n) :
      (if p then t.answer d x id b was more else t).Seats c i n := .ite (State.seats_answer ht) ht
  unfold State.atomGlobal
  dsimp only
  generalize value : atomValue op _ e.b = q
  cases q with
  | none => exact torn _ _ _ (answered _ _ _ _ _ _ (read _))
  | some w =>
    exact torn _ _ _ (answered _ _ _ _ _ _ ((read _).of_cores
      ((State.tableChange_cores _ _).trans ((State.storeLoc_cores _ _ _ _ _).trans (State.touchLoc_cores _ _ _)))))

theorem State.seats_atomScratch {target : Nat × Nat} {op : Nat} {e : AtomLane} (h : s.Seats c i n) :
    (s.atomScratch target op e).2.Seats c i n := by
  unfold State.atomScratch
  dsimp only
  split
  · exact h
  · dsimp only
    split
    · exact State.seats_scratchWrite h
    · exact h

theorem State.seats_atomLanes {d : Nat} {u : Team} {o : Op} {which : AtomLane → Bool} (h : s.Seats c i n) :
    (s.atomLanes d u o which).2.Seats c i n := by
  unfold State.atomLanes
  split
  · refine foldl_seats_of Prod.snd (fun r e hr => ?_) _ h
    dsimp only
    split
    · exact hr
    · split
      · exact State.seats_atomScratch hr
      · exact State.seats_atomGlobal hr
  · exact h

theorem State.seats_atomPart {d : Nat} {u : Team} {o : Op} {which : AtomLane → Bool} (h : s.Seats c i n) :
    (s.atomPart d u o which).2.Seats c i n := by
  unfold State.atomPart
  split
  · have read (lines : List Nat) (uid : Nat) (locs : List Loc) (p : Prop) [Decidable p] :
        (if p then s else (s.serveLines lines).noteTorn uid locs).Seats c i n :=
      .ite h ((State.seats_serveLines h).of_cores (State.noteTorn_cores _ _ _))
    exact .ite (State.seats_atomLanes (read _ _ _ _)) ((State.seats_atomLanes (read _ _ _ _)).of_cores (foldl_cores State.tear_cores _ _))
  · exact State.seats_atomLanes h

/-! ### Lines written back -/

theorem State.seats_finishHalf {e : Nat × Nat × Nat × Nat} (h : s.Seats c i n) : (s.finishHalf e).Seats c i n := by
  unfold State.finishHalf
  split
  · exact h
  · dsimp only
    refine State.seats_putOp ?_
    split
    · exact State.seats_storePart h
    · refine (State.seats_copyWords ?_).of_cores (State.tearTrace_cores _ _ _ _)
      exact (State.seats_serveLines (s := s.noteRing _) h).of_cores (State.noteTorn_cores _ _ _)
    · exact State.seats_atomPart h

theorem State.seats_finishHalves {which : Nat → Bool} (h : s.Seats c i n) : (s.finishHalves which).Seats c i n :=
  foldl_seats (fun _ _ => State.seats_finishHalf) _ h

theorem State.seats_backLines {d : Nat} {runs : List (Nat × Nat)} {drop : Bool} (h : s.Seats c i n) : (s.backLines d runs drop).Seats c i n := by
  have cleaned (f : State → Nat → List (Nat × Nat)) (bs : List Nat) {t : State} (ht : t.Seats c i n) :
      (bs.foldl (fun s b => s.writeback b (f s b)) t).Seats c i n :=
    foldl_seats (fun s b hs => hs.of_cores (s.writeback_cores b _)) bs ht
  have finished := State.seats_finishHalves (which := fun b => meets [(4 * b, 4)] runs) h
  have dropped (lines past : List Nat) {t : State} (ht : t.Seats c i n) : ((lines.foldl (fun s l => s.dropLine d l) t).keepPast past).Seats c i n :=
    ht.of_cores (foldl_cores (fun s l => s.dropLine_cores d l) lines t)
  exact .ite (dropped _ _ (cleaned _ _ finished)) (cleaned _ _ finished)

/-! ### Pages surrendered (R186, R187) -/

/-- A core with a change made to each of its teams, resident or evicted. -/
def Core.mapTeams (f : Team → Team) (k : Core) : Core :=
  { k with teams := k.teams.map fun e => (e.1, f e.2), evicted := k.evicted.map fun e => (e.1, f e.2) }

theorem State.seats_mapTeams {f : Team → Team} (same : ∀ u, (f u).uid = u.uid) (h : s.Seats c i n) :
    ({ s with cores := s.cores.map fun e => (e.1, e.2.mapTeams f) } : State).Seats c i n := by
  obtain ⟨u, team, uid⟩ := h
  refine ⟨f u, ?_, (same u).trans uid⟩
  unfold State.team State.core at team ⊢
  rw [Table.get_map (Core.mapTeams f)]
  cases core : Table.get s.cores c with
  | none =>
    rw [core] at team
    exact nomatch team
  | some k =>
    rw [core] at team
    exact (Table.get_map f k.teams i).trans (congrArg (Option.map f) team)

theorem State.seats_credit {x d m : Nat} (h : s.Seats c i n) : (s.credit x d m).Seats c i n :=
  .ite h (State.Seats.of_team (State.trace_tells _ _ _ _ _ _ _ _ _).team h)

theorem State.seats_surrenderPage {uid x pg : Nat} (h : s.Seats c i n) : (s.surrenderPage uid x pg).2.Seats c i n := by
  have finished := State.seats_finishHalves (which := fun b => b / 128 == pg) h
  have cleared {t : State} (ht : t.Seats c i n) (a : Nat) (run : List (Loc × Nat)) : (((t.noteImage a).noteRing run).clearPage pg).Seats c i n :=
    ht.of_cores ((((t.noteImage a).noteRing run).clearPage_cores pg).trans (t.noteImage_keeps a).1)
  have marked {f : Team → Team} (same : ∀ u, (f u).uid = u.uid) {t : State} (ht : t.Seats c i n) (d m : Nat) (p : Page) :
      ((({ t with cores := t.cores.map fun e => (e.1, e.2.mapTeams f) } : State).addFree d m).setPage pg p).Seats c i n :=
    (State.seats_mapTeams same ht).of_cores (State.addFree_cores _ _ _)
  have own (u : Team) : (if u.uid = uid then u else
      { u with ops := u.ops.map fun o => if o.writesTo.contains pg then { o with junk := pg :: o.junk } else o }).uid = u.uid := by
    split <;> rfl
  have served : (if ((s.finishHalves fun b => b / 128 == pg).page pg).replicated then
      (s.finishHalves fun b => b / 128 == pg).serveLines (pageLines pg) else s.finishHalves fun b => b / 128 == pg).Seats c i n :=
    .ite (State.seats_serveLines finished) finished
  have torn {t : State} (ht : t.Seats c i n) : (t.tear pg).Seats c i n := ht.of_cores (t.tear_cores pg)
  exact State.Seats.of_cores (State.commandPage_keeps _ _ _).1 (State.seats_credit
    (.ite (torn (marked own (cleared served _ _) _ _ _)) (marked own (cleared served _ _) _ _ _)))

theorem State.seats_surrenderPages {uid x : Nat} {o : Op} {d : Nat} {pages : List Nat} {freed : Nat} {which : Nat → Bool}
    (h : s.Seats c i n) : (s.surrenderPages uid x o d pages freed which).2.Seats c i n := by
  refine foldl_seats_of (fun (r : List Nat × Nat × State) => r.2.2) (fun r pg hr => ?_) _ h
  dsimp only
  split
  · exact hr
  · exact State.seats_surrenderPage hr

/-! ### Operations performed -/

theorem State.seats_performKind {d uid : Nat} {o : Op} (h : s.Seats c i n) : (s.performKind d uid o).2.Seats c i n := by
  unfold State.performKind
  split
  · exact h
  · split
    · exact State.Seats.of_team (State.readLanes_serves _ _ _ _ _ _).team h
    · exact State.seats_storePart h
    · split
      · exact State.seats_atomPart h
      · exact h
    · exact State.seats_backLines h
    · exact State.seats_surrenderPages h
    · exact foldl_seats (fun _ _ => State.seats_scratchWrite) _ h
    · exact h
    · exact h

theorem State.seats_performId {d id : Nat} (h : s.Seats c i n) : (s.performId d id).Seats c i n := by
  unfold State.performId
  split
  · exact h
  · exact State.seats_putOp (State.seats_performKind h)

theorem State.seats_eject {d id key : Nat} (h : s.Seats c i n) : (s.eject d id key).Seats c i n := by
  have left (l : List (Nat × Nat × Nat × Nat × Nat)) : ({ s with circling := l } : State).Seats c i n := h
  unfold State.eject
  dsimp only
  split
  · exact left _
  · split
    · exact h
    · split
      · exact State.seats_putOp ((left _).of_team (State.loadLine_serves _ _ _ _ _ _).team)
      · exact State.seats_putOp (State.seats_storePart (left _))
      · exact State.seats_putOp (State.seats_atomPart (left _))
      · exact State.seats_backLines (left _)
      · exact State.seats_putOp (State.seats_surrenderPages (left _))
      · exact State.seats_performId (left _)
      · exact State.seats_performId (left _)
      · exact left _

theorem State.seats_makeWay {d : Nat} {ops : List Op} (h : s.Seats c i n) : (s.makeWay d ops).Seats c i n :=
  foldl_seats (fun _ _ => State.seats_eject) _ h

theorem State.seats_performEarlier {d id : Nat} {runs : List (Nat × Nat)} (h : s.Seats c i n) : (s.performEarlier d id runs).Seats c i n :=
  foldl_seats (fun _ _ => State.seats_performId) _ (State.seats_makeWay h)

theorem State.seats_performOp {d uid : Nat} {o : Op} (h : s.Seats c i n) : (s.performOp d uid o).2.Seats c i n := by
  unfold State.performOp
  exact State.seats_performKind (State.seats_makeWay (State.seats_performEarlier h))

theorem State.seats_performNow {d id : Nat} (h : s.Seats c i n) : (s.performNow d id).Seats c i n := by
  unfold State.performNow
  split
  · exact h
  · split
    · exact h
    · exact State.seats_putOp (State.seats_performOp h)

/-- A promotion leaves the teams in their slots (R244). -/
theorem State.seats_promote (h : s.Seats c i n) : s.promote.Seats c i n :=
  foldl_seats (fun _ _ ht => foldl_seats (fun _ _ hu => .ite (State.seats_performNow hu) hu) _ ht) _ h

end

/-! ### The operations of a core, in the order of issue -/

theorem insertOp_perm (e : Nat × Op) (l : List (Nat × Op)) : (insertOp e l).Perm (e :: l) := by
  induction l with
  | nil => exact .refl _
  | cons f l ih =>
    unfold insertOp
    split
    · exact .refl _
    · exact (ih.cons f).trans (.swap e f l)

/-- Operations in ascending order of their numbers. -/
def IssueOrder (l : List (Nat × Op)) : Prop := l.Pairwise fun a b => a.2.id ≤ b.2.id

theorem issueOrder_insertOp (e : Nat × Op) {l : List (Nat × Op)} (h : IssueOrder l) : IssueOrder (insertOp e l) := by
  induction l with
  | nil => exact List.pairwise_singleton _ _
  | cons f l ih =>
    obtain ⟨first, rest⟩ := List.pairwise_cons.mp h
    unfold insertOp
    split
    · next before =>
      exact List.pairwise_cons.mpr ⟨List.forall_mem_cons.mpr ⟨before.le, fun g mem => before.le.trans (first g mem)⟩, h⟩
    · next after =>
      refine List.pairwise_cons.mpr ⟨fun g mem => ?_, ih rest⟩
      obtain rfl | mem := List.mem_cons.mp ((insertOp_perm e l).mem_iff.mp mem)
      · exact Nat.not_lt.mp after
      · exact first g mem

theorem insertOp_first {e : Nat × Op} {l : List (Nat × Op)} (h : ∀ f ∈ l, e.2.id < f.2.id) : insertOp e l = e :: l := by
  cases l with
  | nil => rfl
  | cons f l => exact if_pos (h f List.mem_cons_self)

theorem filter_insertOp (p : Nat × Op → Bool) (e : Nat × Op) {l : List (Nat × Op)} (h : IssueOrder l) :
    (insertOp e l).filter p = if p e then insertOp e (l.filter p) else l.filter p := by
  induction l with
  | nil => rw [insertOp, List.filter_nil, List.filter_cons, List.filter_nil]; rfl
  | cons f l ih =>
    obtain ⟨first, rest⟩ := List.pairwise_cons.mp h
    by_cases before : e.2.id < f.2.id
    · have all : ∀ g ∈ (f :: l).filter p, e.2.id < g.2.id := fun g mem => by
        obtain rfl | mem := List.mem_cons.mp (List.mem_of_mem_filter mem)
        · exact before
        · exact before.trans_le (first g mem)
      rw [insertOp, if_pos before, List.filter_cons, insertOp_first all]
    · rw [insertOp, if_neg before, List.filter_cons, List.filter_cons, ih rest]
      cases p f
      · rfl
      · cases p e
        · rfl
        · rw [if_pos rfl, if_pos rfl, if_pos rfl, if_pos rfl, insertOp, if_neg before]

theorem foldr_insertOp_perm (l : List (Nat × Op)) : (l.foldr insertOp []).Perm l := by
  induction l with
  | nil => exact .refl _
  | cons e l ih => exact (insertOp_perm e _).trans (ih.cons e)

theorem issueOrder_foldr_insertOp (l : List (Nat × Op)) : IssueOrder (l.foldr insertOp []) := by
  induction l with
  | nil => exact .nil
  | cons e l ih => exact issueOrder_insertOp e ih

theorem filter_foldr_insertOp (p : Nat × Op → Bool) (l : List (Nat × Op)) :
    (l.foldr insertOp []).filter p = (l.filter p).foldr insertOp [] := by
  induction l with
  | nil => rfl
  | cons e l ih =>
    rw [List.foldr_cons, filter_insertOp p e (issueOrder_foldr_insertOp l), ih, List.filter_cons]
    split <;> rfl

/-- Every operation of a team, with the team's number. -/
def Team.numberedOps (t : Team) : List (Nat × Op) := t.ops.map fun o => (t.uid, o)

theorem State.coreOps_eq (s : State) (c : Nat) :
    s.coreOps c = (((s.core c).teams ++ (s.core c).evicted).flatMap fun e => e.2.numberedOps).foldr insertOp [] := rfl

theorem State.mem_coreOps {s : State} {c : Nat} {x : Nat × Op} :
    x ∈ s.coreOps c ↔ ∃ e ∈ (s.core c).teams ++ (s.core c).evicted, x ∈ e.2.numberedOps := by
  rw [State.coreOps_eq, (foldr_insertOp_perm _).mem_iff, List.mem_flatMap]

/-- The operations of a core's other teams, in the order of issue. -/
def State.otherOps (s : State) (c n : Nat) : List (Nat × Op) := (s.coreOps c).filter fun e => e.1 != n

theorem State.pastReleases_eq (s : State) (v : View) (scope : Nat) :
    s.pastReleases v scope = if scope < 2 then []
      else ((s.otherOps v.core v.team.uid).filter fun e => e.2.released && e.2.isWrite && !e.2.done).map (·.2.id) := by
  rw [State.otherOps, List.filter_filter]
  unfold State.pastReleases
  split
  · rfl
  · refine congrArg (List.map _) (List.filter_congr fun e _ => ?_)
    ac_rfl

/-- What is put into a table and replaced in it brings nothing to a list: the list stays. -/
theorem flatMap_put {α β : Type} {g : Nat × α → List β} (t : List (Nat × α)) {k : Nat} {a : α} (new : g (k, a) = [])
    (old : ∀ b, Table.get t k = some b → g (k, b) = []) : (Table.put t k a).flatMap g = t.flatMap g := by
  induction t with
  | nil => exact (List.flatMap_cons).trans (by rw [new]; rfl)
  | cons e t ih =>
    obtain ⟨j, b⟩ := e
    rw [Table.put_cons]
    split
    · rw [List.flatMap_cons, new]; rfl
    · split
      · next same =>
        subst same
        rw [List.flatMap_cons, List.flatMap_cons, new, old b (if_pos rfl)]
      · next other =>
        rw [List.flatMap_cons, List.flatMap_cons, ih fun d get => old d ((if_neg (Ne.symm other)).trans get)]

/-- A team replaced by one of the same number leaves the operations of the others. -/
theorem State.otherOps_setTeam {s : State} {c i n : Nat} {u : Team} (new : u.uid = n) (old : ∀ w, s.team c i = some w → w.uid = n) :
    (s.setTeam c i u).otherOps c n = s.otherOps c n := by
  have none' {w : Team} (h : w.uid = n) : w.numberedOps.filter (fun e => e.1 != n) = [] :=
    List.filter_eq_nil_iff.mpr fun e mem => by
      obtain ⟨o, -, rfl⟩ := List.mem_map.mp mem
      simp [h]
  unfold State.otherOps State.setTeam
  rw [State.coreOps_eq, State.coreOps_eq, State.core_setCore_self, filter_foldr_insertOp, filter_foldr_insertOp, List.filter_flatMap,
    List.filter_flatMap, List.flatMap_append, List.flatMap_append, flatMap_put _ (none' new) fun w get => none' (old w get)]

theorem State.pastReleases_modTeam {s : State} {v : View} {f : Team → Team} (same : ∀ t, (f t).uid = t.uid)
    (seat : s.Seats v.core v.slot v.team.uid) (scope : Nat) : (s.modTeam v f).pastReleases v scope = s.pastReleases v scope := by
  obtain ⟨u, team, uid⟩ := seat
  have at' : s.teamOf v = u := by rw [State.teamOf, team]; rfl
  have others : (s.modTeam v f).otherOps v.core v.team.uid = s.otherOps v.core v.team.uid :=
    State.otherOps_setTeam (by rw [same, at', uid]) fun w get => by rw [Option.some.inj (get.symm.trans team), uid]
  rw [State.pastReleases_eq, State.pastReleases_eq, others]

/-! ### A team's operations kept -/

theorem Table.mem_put {α : Type} {t : List (Nat × α)} {k : Nat} {a : α} {e : Nat × α} (h : e ∈ Table.put t k a) : e = (k, a) ∨ e ∈ t := by
  induction t with
  | nil => exact .inl (List.mem_singleton.mp h)
  | cons f t ih =>
    obtain ⟨j, b⟩ := f
    rw [Table.put_cons] at h
    split at h
    · exact List.mem_cons.mp h
    · split at h
      · exact (List.mem_cons.mp h).imp id (List.mem_cons_of_mem _)
      · obtain rfl | h := List.mem_cons.mp h
        · exact .inr List.mem_cons_self
        · exact (ih h).imp id (List.mem_cons_of_mem _)

/-- A core with a resident team is one of the state's cores. -/
theorem State.mem_coreNumbers {s : State} {c i : Nat} {u : Team} (h : s.team c i = some u) : c ∈ s.coreNumbers := by
  unfold State.team State.core at h
  cases core : Table.get s.cores c with
  | none =>
    rw [core] at h
    exact nomatch h
  | some k => exact List.mem_map.mpr ⟨_, Table.mem_of_get core, rfl⟩

/-- A team replaced by one with the same operations brings no operation and no core. -/
theorem State.ops_setTeam_subset {s : State} {c i : Nat} {t u : Team} (team : s.team c i = some t) (ops : u.numberedOps = t.numberedOps) :
    ∀ d ∈ (s.setTeam c i u).coreNumbers, d ∈ s.coreNumbers ∧ ∀ x ∈ (s.setTeam c i u).coreOps d, x ∈ s.coreOps d := by
  intro d number
  refine ⟨?_, fun x mem => ?_⟩
  · obtain ⟨e, mem, rfl⟩ := List.mem_map.mp number
    obtain rfl | mem := Table.mem_put mem
    · exact State.mem_coreNumbers team
    · exact List.mem_map.mpr ⟨e, mem, rfl⟩
  · by_cases core : d = c
    · subst core
      rw [State.mem_coreOps, State.setTeam, State.core_setCore_self] at mem
      obtain ⟨e, mem, op⟩ := mem
      obtain mem | mem := List.mem_append.mp mem
      · obtain rfl | mem := Table.mem_put mem
        · exact State.mem_coreOps.mpr ⟨_, List.mem_append_left _ (Table.mem_of_get team), ops ▸ op⟩
        · exact State.mem_coreOps.mpr ⟨e, List.mem_append_left _ mem, op⟩
      · exact State.mem_coreOps.mpr ⟨e, List.mem_append_right _ mem, op⟩
    · rw [State.mem_coreOps, State.setTeam, State.core_setCore_other _ _ core] at mem
      exact State.mem_coreOps.mpr mem

/-- Where no released surrender waits for a migration, none does among fewer operations. -/
theorem State.promoteHeld_of_subset {s t : State} (fewer : ∀ c ∈ t.coreNumbers, c ∈ s.coreNumbers ∧ ∀ x ∈ t.coreOps c, x ∈ s.coreOps c)
    (pages : t.pages = s.pages) (h : s.promoteHeld = false) : t.promoteHeld = false := by
  have page : t.page = s.page := by
    funext pg
    rw [State.page, State.page, pages]
  unfold State.promoteHeld at h ⊢
  rw [page]
  simp only [List.any_eq_false, Bool.not_eq_true] at h ⊢
  exact fun c number e mem => h c (fewer c number).1 e ((fewer c number).2 e mem)

/-! ### The state at issue -/

theorem State.reach_cores (s : State) (v : View) : (s.reach v).cores = s.cores := by
  unfold State.reach
  dsimp only
  split
  · rfl
  · rw [State.passTicks_cores, State.passCycles_cores]

theorem State.reach_pages (s : State) (v : View) : (s.reach v).pages = s.pages := by
  unfold State.reach
  dsimp only
  split
  · rfl
  · rw [State.passTicks_pages, State.passCycles_pages]

section

variable {s : State} {v : View} {i : Instr}

theorem State.reach_team (c j : Nat) : (s.reach v).team c j = s.team c j := by
  rw [State.team, State.core, State.reach_cores]
  rfl

theorem State.seats_atIssue (h : s.Views v i) : (s.atIssue v).Seats v.core v.slot v.team.uid := by
  have seat : (s.reach v).Seats v.core v.slot v.team.uid := ⟨v.team, by rw [State.reach_team, State.view_team h], rfl⟩
  have kept (p : Path) : ((s.reach v).putPath v p).Seats v.core v.slot v.team.uid := by
    refine ⟨_, State.team_setTeam_self _ _ _ _, ?_⟩
    rw [State.teamOf_reach, State.view_teamOf h]
    cases v.run <;> cases v.side <;> rfl
  exact .ite (kept _) seat

/-- At issue no further operation is in flight. -/
theorem State.promoteHeld_atIssue (h : s.Views v i) (hr : v.run = false) (free : s.promoteHeld = false) : (s.atIssue v).promoteHeld = false := by
  have reached : (s.reach v).promoteHeld = false := by
    refine State.promoteHeld_of_subset (fun c number => ?_) (s.reach_pages v) free
    rw [State.coreNumbers, State.reach_cores] at number
    refine ⟨number, fun x mem => ?_⟩
    rw [State.coreOps_eq, State.core, State.reach_cores] at mem
    exact mem
  unfold State.atIssue
  dsimp only
  split
  · have team : (s.reach v).team v.core v.slot = some v.team := by rw [State.reach_team, State.view_team h]
    unfold State.modPath State.putPath
    dsimp only
    rw [hr]
    refine State.promoteHeld_of_subset (State.ops_setTeam_subset team ?_) rfl reached
    rw [State.teamOf, team]
    cases v.side <;> rfl
  · exact reached

end

/-! ### FENCE (R115, R243, R244) -/

/-- What a FENCE does before it is written into its path: the promotion, and the team's operations marked as released. -/
def State.fenceFirst (s : State) (v : View) (o : BitVec 2) (e : BitVec 3) : State :=
  let t := if (o == 1 || o == 3) && e == 6 then s.promote else s
  if (o == 2 || o == 3) && e != 0 then t.modTeam v Team.markReleased else t

/-- The path of a FENCE, with what its release and its acquire wait for. -/
def Team.fencedPath (t : Team) (past : List Nat) (o : BitVec 2) (e : BitVec 3) (p : Path) : Path :=
  { p with
    releaseOps := if o == 2 || o == 3 then (t.ops.filter fun x => x.blocksRelease e.toNat).map (·.id) ++ past else p.releaseOps
    acquireOps := if o == 1 || o == 3 then (t.ops.filter fun x => !x.byRunner && x.isRead).map (·.id) else p.acquireOps }

/-- What a FENCE leaves, before its path goes on. -/
def State.fenced (s : State) (v : View) (o : BitVec 2) (e : BitVec 3) : State :=
  (s.fenceFirst v o e).modPath v ((s.teamOf v).fencedPath ((s.fenceFirst v o e).pastReleases v e.toNat) o e)

/-- Nothing keeps a FENCE from its promotion. -/
def State.MayPromote (s : State) (t : Team) (o : BitVec 2) (e : BitVec 3) : Prop :=
  (o = 1 ∨ o = 3) → e = 6 → (∀ x ∈ t.ops, x.byRunner = false → x.isRead = false) ∧ s.promoteHeld = false

section

variable {s : State} {v : View} {o : BitVec 2} {e : BitVec 3}

theorem fenceWord_eq (free : s.MayPromote (s.teamOf v) o e) : fenceWord o e s v = .done (s.fenced v o e) := by
  have noRead : ((o == 1 || o == 3) && e == 6 && (s.teamOf v).ops.any fun x => !x.byRunner && x.isRead) = false := by
    refine Bool.eq_false_iff.mpr fun on => ?_
    simp only [Bool.and_eq_true, Bool.or_eq_true, beq_iff_eq, List.any_eq_true, Bool.not_eq_true'] at on
    obtain ⟨⟨acquire, core⟩, x, mem, own, reads⟩ := on
    exact Bool.false_ne_true (((free acquire core).1 x mem own).symm.trans reads)
  have noPage : ((o == 1 || o == 3) && e == 6 && s.promoteHeld) = false := by
    refine Bool.eq_false_iff.mpr fun on => ?_
    simp only [Bool.and_eq_true, Bool.or_eq_true, beq_iff_eq] at on
    obtain ⟨⟨acquire, core⟩, held⟩ := on
    exact Bool.false_ne_true ((free acquire core).2.symm.trans held)
  unfold fenceWord
  dsimp only
  rw [noRead, noPage]
  rfl

/-- No reason holds a FENCE that issues, and not as one word of a chain: it may promote. -/
theorem State.Issues.mayPromote {c : BitVec 1} {w : BitVec 2} (h : s.Issues v (.fence c w o e)) (hr : v.run = false)
    (first : (o = 1 ∨ o = 3) → e = 6 → v.path.chainAt = none) : (s.atIssue v).MayPromote v.team o e := by
  intro acquire core
  obtain ⟨views, -, -, holds, -⟩ := h
  have none' := (List.append_eq_nil_iff.mp (leastReason_none holds)).2
  unfold State.reasons at none'
  rw [first acquire core] at none'
  have own : s.wordReasons v (.fence c w o e) = [] := (List.append_eq_nil_iff.mp (List.append_eq_nil_iff.mp none').1).1
  have rmt : s.rmtReasons v o e = [] := (List.append_eq_nil_iff.mp (List.append_eq_nil_iff.mp own).1).2
  have on : ((o == 1 || o == 3) && e == 6) = true := by
    rw [Bool.and_eq_true, Bool.or_eq_true, beq_iff_eq, beq_iff_eq, beq_iff_eq]
    exact ⟨acquire, core⟩
  unfold State.rmtReasons at rmt
  rw [if_pos on] at rmt
  obtain ⟨reads, page⟩ := List.append_eq_nil_iff.mp rmt
  obtain ⟨zero, one⟩ := List.append_eq_nil_iff.mp reads
  have off {p : Bool} {r : Nat} (nil : (if p = true then [r] else []) = []) : p = false := by
    cases p <;> [rfl; exact nomatch nil]
  refine ⟨fun x mem mine => ?_, State.promoteHeld_atIssue views hr (off page)⟩
  have no {code : Nat} (none' : (v.team.ops.any fun o => !o.byRunner && o.code == code) = false) : (x.code == code) = false := by
    have here := List.any_eq_false.mp none' x mem
    rwa [mine, Bool.not_false, Bool.true_and, Bool.not_eq_true] at here
  rw [Op.isRead, no (off zero), no (off one)]
  rfl

/-- A release of the fence waits for what other teams have released before, as it stands after the promotion. -/
theorem State.pastReleases_fenceFirst (release : o = 2 ∨ o = 3) (seat : s.Seats v.core v.slot v.team.uid) :
    (s.fenceFirst v o e).pastReleases v e.toNat = (if o = 3 ∧ e = 6 then s.promote else s).pastReleases v e.toNat := by
  have promotes : (if ((o == 1 || o == 3) && e == 6) = true then s.promote else s) = if o = 3 ∧ e = 6 then s.promote else s := by
    refine if_congr ?_ rfl rfl
    obtain rfl | rfl := release <;> simp
  have seat' : (if o = 3 ∧ e = 6 then s.promote else s).Seats v.core v.slot v.team.uid := .ite (State.seats_promote seat) seat
  unfold State.fenceFirst
  dsimp only
  rw [promotes]
  split
  · exact State.pastReleases_modTeam (f := Team.markReleased) (fun _ => rfl) seat' _
  · rfl

/-- A FENCE other than core.rmt changes no register, no mode and no byte before it is written into its path. -/
theorem State.fenceFirst_keeps (plain : e ≠ 6) :
    (s.fenceFirst v o e).regsOf v = s.regsOf v ∧ (s.fenceFirst v o e).pathOf v = s.pathOf v ∧
      ((s.fenceFirst v o e).teamOf v).step = (s.teamOf v).step ∧ (s.fenceFirst v o e).mem = s.mem ∧ (s.fenceFirst v o e).hostMem = s.hostMem := by
  have first : s.fenceFirst v o e = if (o == 2 || o == 3) && e != 0 then s.modTeam v Team.markReleased else s := by
    unfold State.fenceFirst
    rw [beq_eq_false_iff_ne.mpr plain, Bool.and_false]
    rfl
  rw [first]
  split
  · have path : (s.modTeam v Team.markReleased).pathOf v = s.pathOf v := State.pathOf_modTeam s v _ fun _ => ⟨rfl, rfl, rfl⟩
    refine ⟨?_, path, ?_, rfl, rfl⟩
    · rw [State.regsOf, path, State.teamOf_modTeam]
      rfl
    · rw [State.teamOf_modTeam]
      rfl
  · exact ⟨rfl, rfl, rfl, rfl, rfl⟩

theorem State.pathOf_fenced (hr : v.run = false) : (s.fenced v o e).pathOf v =
    (s.teamOf v).fencedPath ((s.fenceFirst v o e).pastReleases v e.toNat) o e ((s.fenceFirst v o e).pathOf v) :=
  State.pathOf_putPath _ _ _ hr

/-- What the path of such a FENCE waits for is all that it changes of registers, modes and bytes. -/
theorem State.fenced_keeps (hr : v.run = false) (plain : e ≠ 6) :
    (s.fenced v o e).regsOf v = s.regsOf v ∧ (s.fenced v o e).modesOf v = s.modesOf v ∧
      ((s.fenced v o e).teamOf v).step = (s.teamOf v).step ∧ (s.fenced v o e).mem = s.mem ∧ (s.fenced v o e).hostMem = s.hostMem := by
  obtain ⟨regs, path, step, mem, hostMem⟩ := State.fenceFirst_keeps (s := s) (v := v) (o := o) plain
  unfold State.fenced State.modPath
  generalize written : (s.teamOf v).fencedPath _ o e _ = p
  obtain ⟨vectors, predicates⟩ := State.teamOf_putPath_vectors (s.fenceFirst v o e) v p
  refine ⟨?_, ?_, ?_, mem, hostMem⟩
  · rw [← regs, State.regsOf, vectors, predicates, State.pathOf_putPath _ _ _ hr, ← written]
    rfl
  · rw [← State.modesOf_congr path]
    exact State.modesOf_putPath _ _ _ (written ▸ ⟨rfl, rfl, rfl, rfl⟩)
  · rw [State.teamOf_putPath, hr, ← step]
    exact (Team.setAt_keeps _ _ _).2.2.2.2.2

/-- A FENCE that issues: what its path then waits for, and what it leaves. -/
theorem exec_fence (c : BitVec 1) (w : BitVec 2) (h : s.Issues v (.fence c w o e)) (hr : v.run = false)
    (first : (o = 1 ∨ o = 3) → e = 6 → v.path.chainAt = none) :
    ∃ t, exec (.fence c w o e) s = .next t ∧
      (o = 2 ∨ o = 3 → (t.pathOf v).releaseOps = (v.team.ops.filter fun x => x.blocksRelease e.toNat).map (·.id) ++
        (if o = 3 ∧ e = 6 then (s.atIssue v).promote else s.atIssue v).pastReleases v e.toNat) ∧
      (o = 1 ∨ o = 3 → (t.pathOf v).acquireOps = (v.team.ops.filter fun x => !x.byRunner && x.isRead).map (·.id)) ∧
      (e ≠ 6 → KeepsRegisters v s t ∧ KeepsModes v s t ∧ (v.team.step = none → SameBytes s t)) := by
  have views := h.1
  have ops : ((s.atIssue v).teamOf v).ops = v.team.ops := by
    rw [State.teamOf_atIssue views hr, (v.team.setAt_keeps _ _).2.2.2.1]
  have may : (s.atIssue v).MayPromote ((s.atIssue v).teamOf v) o e := by
    unfold State.MayPromote
    rw [ops]
    exact h.mayPromote hr first
  obtain ⟨regs, path, -⟩ := ((s.atIssue v).fenced v o e).finish_spec v (.fence c w o e)
  obtain ⟨m, path⟩ := path hr
  rw [State.pathOf_fenced hr] at path
  refine ⟨_, issueWord_done (eff := fenceWord o e) h (fenceWord_eq may), fun release => ?_, fun acquire => ?_, fun plain => ?_⟩
  · rw [path, ← State.pastReleases_fenceFirst release (State.seats_atIssue views), ← ops]
    exact if_pos (by simpa using release)
  · rw [path, ← ops]
    exact if_pos (by simpa using acquire)
  · obtain ⟨regs', modes, step, mem, hostMem⟩ := (s.atIssue v).fenced_keeps (o := o) hr plain
    obtain ⟨-, mem', hostMem', -, step', regs''⟩ := State.atIssue_frame views
    refine ⟨keepsRegisters_of_regsOf (regs.trans (regs'.trans regs'')),
      keepsModes_of_modesOf ((State.modesOf_finish _ _ _).trans (modes.trans (State.modesOf_atIssue s v))), fun noStep => ?_⟩
    obtain ⟨-, memEnd, hostMemEnd, -⟩ := State.finish_frame _ v (.fence c w o e) (step.trans (step'.trans noStep))
    exact .of_eq (memEnd.trans (mem.trans mem')) (hostMemEnd.trans (hostMem.trans hostMem'))

end

end Sys2Proof.Machine

section

open Sys2Proof Sys2Proof.Machine

/-- Settles O44: a FENCE's own lists by the state that it writes its path into, where a promotion has left every team in its slot; the word
that it holds by the least of the word's reasons; SPOUT and the register blocks by the branch that the premises choose. -/
theorem fencesSpineAndBlocks : Obligations.FencesSpineAndBlocks := by
  refine ⟨fun c w o e s v issues run first => exec_fence c w issues run first,
    fun i w s v word views frozen decoded sources => ⟨fun waits => ?_, fun access x mem waits reads => ?_⟩,
    fun c w n a l => ⟨completes_of (fun _ => rfl) fun _ _ h => spoutWord_declared n a h.1 h.2.1 h.2.2,
      traps_of (fun _ => rfl) fun _ _ h => spoutWord_undeclared n a h.1 h.2⟩,
    fun c w k => ⟨?_, ?_, ?_, ?_, ?_, ?_, ?_⟩⟩
  · exact exec_of_fenced word views frozen decoded sources (List.mem_append_left _ (State.release_mem_pathReasons waits))
  · exact exec_of_fenced word views frozen decoded sources
      (List.mem_append_right _ (s.acquireReasons_subset v i (View.acquire_mem_acquireReasons access mem waits reads)))
  · refine completes_of (fun _ => rfl) fun s v ⟨⟨granted, one, free, declared⟩, grows⟩ => ?_
    rw [growWord_free granted (growTrap_none one free declared), grows]
    rfl
  · refine waits_of (fun _ => rfl) fun s v ⟨⟨granted, one, free, declared⟩, full⟩ => ?_
    rw [growWord_free granted (growTrap_none one free declared), full]
    rfl
  · exact completes_of (fun _ => rfl) fun s v h => growWord_granted h
  · exact completes_of (fun _ => rfl) fun s v ⟨_, one, free, declared⟩ => growtWord_free k (growTrap_none one free declared)
  · exact completes_of (fun _ => rfl) fun s v h => shrinkWord_held h.1 h.2
  · exact completes_of (fun _ => rfl) fun s v h => shrinkWord_none h.1 h.2
  · exact fun t r l inside _ => t.wordAt_clearExt l inside

end

namespace Sys2Proof.Machine

/-! ### Hardwired registers (R46, R68) -/

theorem View.s_sixtyThree {v : View} (team : v.run = false) (k : Nat) : v.s 63 k = 0 := by
  simp [View.s, team]

theorem View.setS_sixtyThree {v : View} (team : v.run = false) (p : Path) (w : Word) (lat : Nat) : v.setS p 63 w lat = p := by
  simp [View.setS, team]

theorem View.p_seven (v : View) (l : Nat) : v.p 7 l = true := if_pos rfl

theorem State.setP_seven (s : State) (v : View) (vals : List (Nat × Bool)) (lat : Nat) : s.setP v 7 vals lat = s := if_pos rfl

/-! ### Floating-point words that raise no flag (R136) -/

theorem orFlags_quiet (f : Nat → Word) (ls : List Nat) : orFlags (ls.map fun l => (l, f l, 0)) = 0 := by
  rw [orFlags, List.foldl_map]
  induction ls with
  | nil => rfl
  | cons l ls ih => rw [List.foldl_cons, Nat.zero_or]; exact ih

theorem State.setFp_quiet (s : State) (v : View) (d : Nat) (f : Nat → Word) (ls : List Nat) (lat : Nat) (last : Bool) :
    s.setFp v d (ls.map fun l => (l, f l, 0)) lat last = .done ((s.setV v d (ls.map fun l => (l, f l)) lat last).raiseFlags v 0) := by
  rw [State.setFp, orFlags_quiet, List.map_map]
  simp [Path.enabled, Function.comp_def]

/-- What a vector write leaves of the tick that the path has latched, once the word is over. -/
theorem State.tick_setV_raiseFlags_finish {s : State} {v : View} {i : Instr} (hv : s.Views v i) (team : v.run = false) (d : Nat)
    (vals : List (Nat × Word)) (lat : Nat) (last : Bool) (n : Nat) :
    (((((s.atIssue v).setV v d vals lat last).raiseFlags v n).finish v i).pathOf v).tick = v.path.tick := by
  have finished := State.modesOf_finish (((s.atIssue v).setV v d vals lat last).raiseFlags v n) v i
  have raised := (State.raiseFlags_spec ((s.atIssue v).setV v d vals lat last) v n).2.2.2.2.2.1 team
  have written := (State.setV_spec (s.atIssue v) v d vals lat last).2.2.2.2.2.1
  have issued := State.modesOf_atIssue s v
  simp only [State.modesOf, Prod.mk.injEq] at finished written issued
  rw [finished.2.2.2, raised.2.2.2, written.2.2.2, issued.2.2.2, State.view_pathOf hv]

/-- Every word whose effect is floating-point results without flags in its active lanes is one that writes a vector register: it
never traps, and FPFLAGS stays. -/
theorem vectorResult_of_quiet {i : Instr} {d lat : Nat} {last : Bool} {f : State → View → Nat → Word} (hrun : runnerMay i = false)
    (h : ∀ s, exec i s = issueWord i (fun s v => s.setFp v d (v.active.map fun l => (l, f s v l, 0)) lat last) s) : VectorResult i d f := by
  intro s v hi _ hcol
  have quiet : v.flagsOf (fun l => (f (s.atIssue v) v l, 0)) = 0 := orFlags_quiet _ _
  have disabled : v.path.enabled (v.flagsOf fun l => (f (s.atIssue v) v l, 0)) = false := by simp [quiet, Path.enabled]
  obtain ⟨t, exec_t, on, off, flags, mode, mask, vectors, scalars, conditions, predicates, frame⟩ :=
    (floatResult_of hrun h).1 s v hi trivial hcol disabled
  have finished := exec_t.symm.trans ((h s).trans (issueWord_done hi (State.setFp_quiet _ _ _ _ _ _ _)))
  have tick : (t.pathOf v).tick = (s.pathOf v).tick := by
    rw [Host.Outcome.next.inj finished, State.tick_setV_raiseFlags_finish hi.1 (hi.not_run hrun), State.view_pathOf hi.1]
  exact ⟨t, exec_t, on, off, vectors, scalars, conditions, predicates,
    ⟨by rw [mask, State.view_pathOf hi.1], by rw [mode, State.view_pathOf hi.1],
      by rw [flags, quiet, State.view_pathOf hi.1]; simp, tick⟩, frame⟩

end Sys2Proof.Machine

section

open Sys2Proof Sys2Proof.Machine

/-- Settles O16: by the branch of each accessor that names the register. -/
theorem hardwiredRegisters : Obligations.HardwiredRegisters :=
  ⟨fun _ k team => View.s_sixtyThree team k, fun _ p w lat team => View.setS_sixtyThree team p w lat, View.p_seven, State.setP_seven⟩

/-- Settles O22: each word's effect is one write of results with flags in the active lanes; those of VFNEG, VFABS and VFCLASS raise none. -/
theorem floatArithmetic : Obligations.FloatArithmetic :=
  ⟨fun _ _ _ _ _ _ => ⟨floatResult_of rfl fun _ => rfl, floatResult_of rfl fun _ => rfl, floatResult_of rfl fun _ => rfl,
      floatResult_of rfl fun _ => rfl, floatResult_of rfl fun _ => rfl⟩,
    fun _ _ _ _ _ _ => floatResult_of rfl fun _ => rfl,
    fun _ _ _ _ _ => ⟨vectorResult_of_quiet rfl fun _ => rfl, vectorResult_of_quiet rfl fun _ => rfl, vectorResult_of_quiet rfl fun _ => rfl⟩⟩

end

namespace Sys2Proof.Machine

/-! ### Words that a check of R78 stops -/

theorem issueWord_of_decodeTrap {s : State} {v : View} {i : Instr} (eff : State → View → Effect) {cause : BitVec 8} {fault : DWord} {aux : Word}
    (views : s.Views v i) (frozen : s.frozen v = none) (stops : s.decodeTrap v i = some (cause, fault, aux)) :
    issueWord i eff s = .next (((s.reach v).trapView v cause fault aux 0).used) := by
  obtain ⟨u, view, rfl⟩ := Option.map_eq_some_iff.mp views
  have before : s.before (s.paced u i) i = some (s.stopWord (s.paced u i) cause fault aux) := by
    unfold State.before
    simp only [frozen, stops]
  unfold issueWord
  rw [view]
  simp only [before, State.stopWord]

theorem State.malformed_of_illFormed {s : State} {v : View} {i : Instr} (h : i.wellFormed = false) : s.malformed v i = true := by
  simp [State.malformed, h]

theorem State.decodeTrap_malformed {s : State} {v : View} {i : Instr} (h : s.malformed v i = true) : s.decodeTrap v i = some (0x01, 0, 0) :=
  if_pos h

/-- SWR of a special register other than FPMODE and FPFLAGS (R49). -/
theorem State.decodeTrap_swr {s : State} {v : View} {c : BitVec 1} {w : BitVec 2} {a : BitVec 6} {n : BitVec 8} (mode : n ≠ 19) (flags : n ≠ 20)
    (well : s.malformed v (.swr c w a n) = false) : s.decodeTrap v (.swr c w a n) = some (0x12, 0, 0) := by
  unfold State.decodeTrap
  rw [well, if_neg Bool.false_ne_true, if_pos (by rw [Bool.and_eq_true, bne_iff_ne, bne_iff_ne]; exact ⟨mode, flags⟩)]

/-! ### Words that change the modes of their path (R48, R50, R51, R107) -/

section
variable {s : State} {v : View} {i : Instr} {f : Path → Path}

/-- A change of the executing path that leaves its registers, at issue. -/
theorem State.modPath_atIssue (hv : s.Views v i) (team : v.run = false) (same : ∀ p, (f p).s = p.s ∧ (f p).cond = p.cond) :
    State.Within v s ((s.atIssue v).modPath v f) ∧ ((s.atIssue v).modPath v f).pathOf v = f v.path.issuing ∧
      ((s.atIssue v).modPath v f).regsOf v = s.regsOf v := by
  have path : ((s.atIssue v).modPath v f).pathOf v = f v.path.issuing := by
    rw [State.modPath, State.pathOf_putPath _ _ _ team, State.pathOf_atIssue hv team]
  obtain ⟨vectors, predicates⟩ := State.teamOf_putPath_vectors (s.atIssue v) v (f ((s.atIssue v).pathOf v))
  obtain ⟨-, -, -, -, -, issued⟩ := State.atIssue_frame hv
  refine ⟨(State.Within.atIssue hv).trans (State.Within.putPath v _ _), path, ?_⟩
  rw [← issued, State.regsOf, State.regsOf, path, State.pathOf_atIssue hv team, (same _).1, (same _).2, State.modPath, vectors, predicates]

/-- A word that changes only the modes of its path. -/
theorem State.modPath_finish (hv : s.Views v i) (team : v.run = false) (same : ∀ p, (f p).s = p.s ∧ (f p).cond = p.cond) :
    KeepsRegisters v s (((s.atIssue v).modPath v f).finish v i) ∧
      ((((s.atIssue v).modPath v f).finish v i).pathOf v).fpmode = (f v.path.issuing).fpmode ∧
      ((((s.atIssue v).modPath v f).finish v i).pathOf v).fpflags = (f v.path.issuing).fpflags ∧
      (v.team.step = none → SameBytes s (((s.atIssue v).modPath v f).finish v i)) := by
  obtain ⟨within, path, registers⟩ := State.modPath_atIssue hv team same
  have modes := State.modesOf_finish ((s.atIssue v).modPath v f) v i
  simp only [State.modesOf, Prod.mk.injEq, path] at modes
  obtain ⟨-, mode, flags, -⟩ := modes
  exact ⟨keepsRegisters_of_regsOf ((State.finish_spec _ v i).1.trans registers), mode, flags,
    fun step => (keepsPackage_finish hv within step).2⟩

theorem Path.issuing_modes (p : Path) : p.issuing.fpmode = p.fpmode ∧ p.issuing.fpflags = p.fpflags := by
  rw [Path.issuing_eq]
  exact ⟨rfl, rfl⟩

end

/-! ### SRD (R48, R107) -/

theorem srdWord_of_ne (d : BitVec 6) {n : BitVec 8} (h : n ≠ 0) : srdWord d n = fun s v => .done (s.setS v d.toNat (s.special v n.toNat) 1) := by
  unfold srdWord
  simp only [if_neg h]

/-- The tick that SRD of TICK lo latches. -/
def State.latchTick (s : State) (v : View) : State := s.modPath v fun p => { p with tick := some s.tick }

theorem srdWord_zero (d : BitVec 6) (s : State) (v : View) :
    srdWord d 0 s v = .done ((s.latchTick v).setS v d.toNat (s.tick.setWidth 32) 1) := rfl

theorem State.latchTick_atIssue {s : State} {v : View} {i : Instr} (hv : s.Views v i) (team : v.run = false) :
    State.Within v s ((s.atIssue v).latchTick v) ∧
      ((s.atIssue v).latchTick v).pathOf v = { v.path.issuing with tick := some (s.atIssue v).tick } ∧
      ((s.atIssue v).latchTick v).regsOf v = s.regsOf v :=
  State.modPath_atIssue hv team fun _ => ⟨rfl, rfl⟩

theorem exec_srd_tick (c : BitVec 1) (w : BitVec 2) {d : BitVec 6} {s : State} {v : View} (h : s.Issues v (.srd c w d 0)) (team : v.run = false)
    (held : d.toNat < v.path.s.length) :
    ∃ t, exec (.srd c w d 0) s = .next t ∧ (d.toNat ≠ 63 → t.sAt v d.toNat = (s.atIssue v).tick.setWidth 32) ∧
      (t.pathOf v).tick = some (s.atIssue v).tick ∧ KeepsScalars v s t [d.toNat] ∧ KeepsVectors v s t [] ∧
      KeepsConditions v s t [] ∧ KeepsPredicates v s t [] ∧ (v.team.step = none → SameBytes s t) := by
  have hv := h.1
  refine ⟨_, issueWord_done h (srdWord_zero d _ v), ?_⟩
  obtain ⟨within, path, registers⟩ := State.latchTick_atIssue hv team
  generalize (s.atIssue v).latchTick v = latched at within path registers
  generalize (s.atIssue v).tick = tick at path
  obtain ⟨wrote, scalars, conditions, vectors, predicates, modes, -⟩ := State.setS_spec latched v d.toNat (tick.setWidth 32) 1
  have finished := State.modesOf_finish (latched.setS v d.toNat (tick.setWidth 32) 1) v (.srd c w d 0)
  obtain ⟨sAt, cAt, vAt, pAt, s0, c0, v0, p0⟩ := finish_registers (u := latched.setS v d.toNat (tick.setWidth 32) 1) (.srd c w d 0) hv
  simp only [State.regsOf, Prod.mk.injEq, State.view_teamOf hv, State.view_pathOf hv] at registers
  obtain ⟨keptV, keptP, keptS, keptC⟩ := registers
  simp only [State.modesOf, Prod.mk.injEq, path] at modes finished
  rw [keptS] at scalars
  refine ⟨fun ne => ?_, ?_, fun n ne => ?_, fun r _ l => ?_, fun n _ => ?_, fun n _ l => ?_,
    fun step => (keepsPackage_finish hv (within.trans wrote) step).2⟩
  · rw [sAt, scalars, if_neg (fun h => ne h.2), wordAt_set _ _ _ _ held, if_pos rfl]
  · rw [finished.2.2.2, modes.2.2.2]
  · rw [sAt, s0, scalars]
    split
    · rfl
    · exact wordAt_set_other _ _ (by simpa using ne)
  · rw [vAt, v0, vectors, keptV]
  · rw [cAt, c0, conditions, keptC]
  · rw [pAt, p0, predicates, keptP]

theorem State.device_eq (s : State) : s.device = if s.pf.stDev.toNat / 256 % 128 = 0 then 0 else s.pf.stDev.toNat % 64 := by
  unfold State.device bits
  norm_num

theorem State.mstatus_eq (s : State) (c : Nat) (t : Team) :
    s.mstatus c t = BitVec.ofNat 32 (((s.core c).mtx.window.filter fun m => m.team == t.uid).length * 256 +
      (if (s.core c).mtx.window = [] then 0 else 4) + (if t.logovf then 2 else 0) + if t.operr then 1 else 0) := by
  unfold State.mstatus State.commandsOf
  cases (s.core c).mtx.window <;> cases t.logovf <;> cases t.operr <;> rfl

/-- What SRD reads of its launch. -/
theorem State.special_launch {s : State} {v : View} {l : Launch} (h : s.launch v.team.ctx v.team.launch = some l) :
    let items := if l.spawned.isSome then v.team.item.toNat + 1 else l.rcd.nitems
    s.special v 15 = BitVec.ofNat 32 l.depth ∧ s.special v 16 = BitVec.ofNat 32 l.rcd.args ∧
      s.special v 17 = BitVec.ofNat 32 (l.rcd.args / 2 ^ 32) ∧
      s.special v 24 = BitVec.ofNat 32 items ∧ s.special v 25 = BitVec.ofNat 32 (items / 2 ^ 32) := by
  simp only [State.special, h, Option.map_some, Option.getD_some, and_self]

end Sys2Proof.Machine

section

open Sys2Proof Sys2Proof.Machine

/-- Settles O38: SRD is one scalar write, of TICK lo after the latch; SWR is stopped by a check of R78 or changes one mode of its path. -/
theorem specialRegisters : Obligations.SpecialRegisters := by
  refine ⟨fun c w d n ne => scalarResult_of (lat := 1) fun s => ?_, fun c w d s v issues team held => exec_srd_tick c w issues team held, fun s v => ?_,
    fun c w a n s v views frozen => ⟨fun large => ?_, fun mode flags well => ?_⟩,
    fun c w a s v team => ⟨fun issues => ?_, fun issues => ?_⟩⟩
  · rw [← srdWord_of_ne d ne]
    rfl
  · exact ⟨rfl, rfl, rfl, rfl, rfl, rfl, rfl, rfl, rfl, rfl, rfl, rfl, rfl, rfl, rfl, rfl, rfl, rfl,
      congrArg (BitVec.ofNat 32) s.device_eq, s.mstatus_eq _ _, fun l launch => State.special_launch launch⟩
  · exact issueWord_of_decodeTrap _ views frozen
      (State.decodeTrap_malformed (State.malformed_of_illFormed (decide_eq_false (Nat.not_lt.mpr large))))
  · exact issueWord_of_decodeTrap _ views frozen (State.decodeTrap_swr mode flags well)
  · obtain ⟨registers, mode, flags, bytes⟩ :=
      State.modPath_finish (f := fun p => { p with fpmode := v.s a.toNat 0 &&& 0x1F7, wroteMode := true }) issues.1 team fun _ => ⟨rfl, rfl⟩
    exact ⟨_, issueWord_done issues rfl, mode, flags.trans (Path.issuing_modes _).2, registers, bytes⟩
  · obtain ⟨registers, mode, flags, bytes⟩ :=
      State.modPath_finish (f := fun p => { p with fpflags := v.s a.toNat 0 &&& 0x1F }) issues.1 team fun _ => ⟨rfl, rfl⟩
    exact ⟨_, issueWord_done issues rfl, flags, mode.trans (Path.issuing_modes _).1, registers, bytes⟩

end

namespace Sys2Proof.Machine

/-! ### What a read leaves of the contexts (R268, R367) -/

theorem State.setLine_ctxs (s : State) (d l : Nat) (k : L2Line) : (s.setLine d l k).ctxs = s.ctxs := State.setDie_ctxs s _ _

theorem State.fillSwm_ctxs (s : State) (d l : Nat) : (s.fillSwm d l).ctxs = s.ctxs := by
  unfold State.fillSwm State.refer
  split
  · rfl
  · split
    · exact State.setLine_ctxs _ _ _ _
    · exact State.setLine_ctxs _ _ _ _

/-- A read at the home slice changes pages only. -/
theorem State.readHome_eq (s : State) (d da : Nat) (uc : Bool) : ∃ pages, s.readHome d da uc = { s with pages := pages } := by
  unfold State.readHome State.fillHome
  dsimp only
  split <;> split <;> exact ⟨_, rfl⟩

theorem State.readHome_ctxs (s : State) (d da : Nat) (uc : Bool) : (s.readHome d da uc).ctxs = s.ctxs := by
  obtain ⟨pages, read⟩ := s.readHome_eq d da uc
  rw [read]

theorem State.noteRead_ctxs (s : State) (d : Nat) (loc : Loc) : (s.noteRead d loc).ctxs = s.ctxs := by
  unfold State.noteRead
  split
  · rfl
  · split_ifs
    · exact State.fillSwm_ctxs _ _ _
    · exact State.readHome_ctxs _ _ _ _
    · split
      · rfl
      · exact (State.setLine_ctxs _ _ _ _).trans (State.readHome_ctxs _ _ _ _)
    · split
      · rfl
      · exact State.readHome_ctxs _ _ _ _

theorem State.readAtHome_ctxs (s : State) (d : Nat) (loc : Loc) : (s.readAtHome d loc).ctxs = s.ctxs := by
  unfold State.readAtHome
  split
  · exact State.readHome_ctxs _ _ _ _
  · exact State.noteRead_ctxs _ _ _

theorem State.rasLog_ctxs (s : State) (kind unit detail : Nat) : (s.rasLog kind unit detail).ctxs = s.ctxs :=
  State.rasLog_keeps_part State.ctxs (fun _ _ _ _ _ _ _ => rfl) s kind unit detail

theorem State.poisonGranule_ctxs (s : State) (g : Nat) (scrub : Bool) : (s.poisonGranule g scrub).ctxs = s.ctxs := by
  unfold State.poisonGranule
  refine (State.rasLog_ctxs _ _ _ _).trans ?_
  dsimp only [State.countGranule]
  split <;> rfl

theorem State.poisonCarve_ctxs (s : State) (die j : Nat) (scrub : Bool) : (s.poisonCarve die j scrub).ctxs = s.ctxs :=
  (State.rasLog_ctxs _ _ _ _).trans (foldl_ctxs _ (fun t _ => State.setBlock_ctxs t _ _) _ s)

theorem State.demand_ctxs (s : State) (loc : Loc) : (s.demand loc).ctxs = s.ctxs := by
  unfold State.demand
  split
  · rfl
  · refine (foldl_ctxs _ (fun t g => State.poisonGranule_ctxs t g false) _ _).trans ?_
    split
    · exact State.poisonCarve_ctxs _ _ _ _
    · rfl

/-! ### Reads in flight served before a write (R269) -/

/-- Every context is as before, and every team of a core, by its number, is of the same context. -/
structure SameContexts (s t : State) : Prop where
  ctxs : t.ctxs = s.ctxs
  ctxOf : ∀ c uid, t.ctxOf c uid = s.ctxOf c uid

theorem SameContexts.refl (s : State) : SameContexts s s := ⟨rfl, fun _ _ => rfl⟩

theorem SameContexts.trans {s t u : State} (a : SameContexts s t) (b : SameContexts t u) : SameContexts s u :=
  ⟨b.ctxs.trans a.ctxs, fun c uid => (b.ctxOf c uid).trans (a.ctxOf c uid)⟩

theorem SameContexts.of_cores {s t : State} (cores : t.cores = s.cores) (ctxs : t.ctxs = s.ctxs) : SameContexts s t :=
  ⟨ctxs, fun c uid => by unfold State.ctxOf State.teamUid State.core; rw [cores]⟩

theorem foldl_sameContexts {α β : Type} (g : β → State) {f : β → α → β} (hf : ∀ r a, SameContexts (g r) (g (f r a))) (l : List α) (r : β) :
    SameContexts (g r) (g (l.foldl f r)) := by
  induction l generalizing r with
  | nil => exact .refl _
  | cons a l ih => exact (hf r a).trans (ih _)

theorem find?_teams_map {f : Team → Team} (same : ∀ u, (f u).uid = u.uid) (l : List (Nat × Team)) (uid : Nat) :
    (l.map fun e => (e.1, f e.2)).find? (fun e => e.2.uid == uid) = (l.find? fun e => e.2.uid == uid).map fun e => (e.1, f e.2) := by
  rw [List.find?_map]
  simp only [Function.comp_def, same]

/-- A core set with a change made to each of its teams that leaves their numbers and contexts. -/
theorem SameContexts.setCore {s : State} {c : Nat} {k : Core} {f : Team → Team} (uid : ∀ u, (f u).uid = u.uid) (ctx : ∀ u, (f u).ctx = u.ctx)
    (teams : k.teams = (s.core c).teams.map fun e => (e.1, f e.2)) (evicted : k.evicted = (s.core c).evicted.map fun e => (e.1, f e.2)) :
    SameContexts s (s.setCore c k) := by
  refine ⟨rfl, fun d n => ?_⟩
  by_cases other : d = c
  · subst other
    unfold State.ctxOf State.teamUid
    rw [State.core_setCore_self, teams, evicted, find?_teams_map uid, find?_teams_map uid]
    cases (s.core d).teams.find? fun e => e.2.uid == n with
    | some e => simp [ctx]
    | none => cases (s.core d).evicted.find? fun e => e.2.uid == n <;> simp [ctx]
  · unfold State.ctxOf State.teamUid
    rw [State.core_setCore_other _ _ other]

theorem State.demand_sameContexts (s : State) (loc : Loc) : SameContexts s (s.demand loc) :=
  .of_cores (s.demand_keeps loc).1 (s.demand_ctxs loc)

theorem State.noteRead_sameContexts (s : State) (d : Nat) (loc : Loc) : SameContexts s (s.noteRead d loc) :=
  .of_cores (s.noteRead_keeps d loc).1 (s.noteRead_ctxs d loc)

theorem State.fillL1_sameContexts (s : State) (c x : Nat) (line : Loc) : SameContexts s (s.fillL1 c x line) :=
  .setCore (f := id) (fun _ => rfl) (fun _ => rfl) (by simp) (by simp)

theorem State.cachedRead_sameContexts (s : State) (c x : Nat) (loc : Loc) (n key : Nat) : SameContexts s (s.cachedRead c x loc n key).2.2.2 := by
  unfold State.cachedRead
  dsimp only
  split
  · exact .refl s
  · exact (s.demand_sameContexts loc).trans (State.fillL1_sameContexts _ _ _ _)

theorem State.readLine_sameContexts (s : State) (c x : Nat) (cached : Bool) (loc : Loc) (mask : BitVec 4) (key : Nat) :
    SameContexts s (s.readLine c x cached loc mask key).2 := by
  have read := s.cachedRead_sameContexts c x loc.line 128 key
  unfold State.readLine
  split
  · dsimp only
    split
    · exact read.trans (State.noteRead_sameContexts _ _ _)
    · exact read
  · exact (s.demand_sameContexts loc).trans (State.noteRead_sameContexts _ _ _)

theorem State.readLanes_sameContexts (s : State) (c x : Nat) (cached : Bool) (lanes : List Access) (key : Nat) :
    SameContexts s (s.readLanes c x cached lanes key).2 := by
  refine foldl_sameContexts (fun (r : List (Nat × List Byte × Bool) × List ((Nat × Loc) × List Byte × Bool) × State) => r.2.2)
    (fun r a => ?_) lanes ([], [], s)
  dsimp only
  split
  · exact .refl _
  · exact State.readLine_sameContexts _ _ _ _ _ _ _

theorem State.loadLine_sameContexts (s : State) (c uid : Nat) (o : Op) (line pass : Nat) : SameContexts s (s.loadLine c uid o line pass).2 := by
  unfold State.loadLine
  split
  · exact (State.readLanes_sameContexts _ _ _ _ _ _).trans (.of_cores rfl rfl)
  · exact .refl s

theorem State.atomRead_sameContexts (s : State) (c : Nat) (o : Op) (which : AtomLane → Bool) : SameContexts s (s.atomRead c o which).2 := by
  unfold State.atomRead
  split
  · refine foldl_sameContexts (fun (r : Op × State) => r.2) (fun r e => ?_) _ (o, s)
    dsimp only
    split_ifs
    · exact .refl _
    · exact (State.demand_sameContexts _ _).trans (.of_cores (State.readAtHome_keeps _ _ _).1 (State.readAtHome_ctxs _ _ _))
    · exact .refl _
  · exact .refl s

/-- A word of a copy that is only read. -/
theorem State.copyWords_sameContexts (s : State) (c : Nat) (o : Op) (which : Loc → Bool) : SameContexts s (s.copyWords c o which false).2 := by
  have demanded (row : CopyRow) (t : State) : SameContexts t (row.global.foldl (fun s a => s.demand a.loc) t) :=
    foldl_sameContexts (fun t => t) (fun t (a : Access) => t.demand_sameContexts a.loc) _ t
  unfold State.copyWords
  split
  · refine foldl_sameContexts (fun (r : Op × State) => r.2) (fun r e => ?_) _ (o, s)
    unfold State.copyWordPart
    split
    · exact .refl _
    · simp only [Bool.false_and, Bool.false_eq_true, if_false]
      split
      · exact .refl _
      · dsimp only
        split
        · exact .refl _
        · exact demanded _ _
  · exact .refl s

theorem State.readInFlight_sameContexts (s : State) (c uid : Nat) (o : Op) (line : Nat) : SameContexts s (s.readInFlight c uid o line).2 := by
  unfold State.readInFlight
  split
  · exact State.loadLine_sameContexts _ _ _ _ _ _
  · exact State.atomRead_sameContexts _ _ _ _
  · split
    · exact .refl s
    · exact (State.copyWords_sameContexts _ _ _ _).trans (.of_cores rfl rfl)
  · exact .refl s

theorem State.swapOp_sameContexts (s : State) (c uid : Nat) (o : Op) : SameContexts s (s.swapOp c uid o) :=
  .setCore (f := fun u => u.swapOp uid o) (fun u => by unfold Team.swapOp; split <;> rfl) (fun u => by unfold Team.swapOp; split <;> rfl) rfl rfl

theorem State.serveLine_sameContexts (s : State) (line : Nat) : SameContexts s (s.serveLine line) := by
  unfold State.serveLine
  split
  · exact .refl s
  · refine foldl_sameContexts (fun t => t) (fun t c => ?_) _ s
    refine foldl_sameContexts (fun (r : List (Nat × Nat) × State) => r.2) (fun r e => ?_) _ ([], t)
    dsimp only
    generalize (_ || _ : Bool) = now
    cases now
    · exact .refl _
    · exact (State.readInFlight_sameContexts _ _ _ _ _).trans (State.swapOp_sameContexts _ _ _ _)

theorem State.serveLines_sameContexts (s : State) (lines : List Nat) : SameContexts s (s.serveLines lines) :=
  foldl_sameContexts (fun t => t) (fun t l => t.serveLine_sameContexts l) _ s

end Sys2Proof.Machine

namespace Sys2Proof.Machine

/-! ### Trace rings and balloons of the contexts across a write -/

/-- What a context has of a trace ring's records, and of an open balloon. -/
def Ctx.rings (k : Ctx) : Word × Bool := (k.trWr, k.blnOpen)

def SameRings (s t : State) : Prop := ∀ x, (t.ctx x).rings = (s.ctx x).rings

theorem SameRings.refl (s : State) : SameRings s s := fun _ => rfl

theorem SameRings.trans {s t u : State} (a : SameRings s t) (b : SameRings t u) : SameRings s u := fun x => (b x).trans (a x)

theorem SameRings.of_ctxs {s t : State} (h : t.ctxs = s.ctxs) : SameRings s t := fun x => by unfold State.ctx; rw [h]

theorem SameRings.trWr {s t : State} (h : SameRings s t) (x : Nat) : (t.ctx x).trWr = (s.ctx x).trWr := congrArg Prod.fst (h x)

theorem SameRings.blnOpen {s t : State} (h : SameRings s t) (x : Nat) : (t.ctx x).blnOpen = (s.ctx x).blnOpen := congrArg Prod.snd (h x)

theorem Table.map_get_map {α β : Type} (part : α → β) {g : Nat × α → Nat × α} (key : ∀ e, (g e).1 = e.1) (same : ∀ e, part (g e).2 = part e.2)
    (l : List (Nat × α)) (k : Nat) : (Table.get (l.map g) k).map part = (Table.get l k).map part := by
  induction l with
  | nil => rfl
  | cons e l ih =>
    rw [List.map_cons, show g e = ((g e).1, (g e).2) from rfl, Table.get_cons, show e = (e.1, e.2) from rfl, Table.get_cons, key]
    split
    · exact congrArg some (same e)
    · exact ih

/-- A change made to each context. -/
theorem SameRings.map (s : State) {g : Nat × Ctx → Nat × Ctx} (key : ∀ e, (g e).1 = e.1) (same : ∀ e, (g e).2.rings = e.2.rings) :
    SameRings s { s with ctxs := s.ctxs.map g } := fun x => by
  have rings (o : Option Ctx) : (o.getD Ctx.reset).rings = (o.map Ctx.rings).getD Ctx.reset.rings := by cases o <;> rfl
  unfold State.ctx
  rw [rings, rings, Table.map_get_map Ctx.rings key same]

theorem State.noteImage_sameRings (s : State) (da : Nat) : SameRings s (s.noteImage da) :=
  .map s (fun e => by dsimp only; split <;> rfl) (fun e => by dsimp only; split <;> rfl)

theorem State.noteRing_sameRings (s : State) (runs : List (Loc × Nat)) : SameRings s (s.noteRing runs) :=
  .map s (fun _ => rfl) (fun _ => rfl)

theorem State.noteWrite_ctxs (s : State) (da : Nat) : (s.noteWrite da).ctxs = s.ctxs := by
  unfold State.noteWrite
  dsimp only
  split
  · exact (State.setPage_ctxs _ _ _).trans (State.setDie_ctxs _ _ _)
  · rfl

theorem State.healAt_ctxs (s : State) (da n : Nat) : (s.healAt da n).ctxs = s.ctxs := by
  unfold State.healAt
  dsimp only
  split <;> rfl

theorem State.storeLoc_sameRings (s : State) (d : Nat) (loc : Loc) (bs : List Byte) (count : Bool) : SameRings s (s.storeLoc d loc bs count) := by
  cases loc with
  | host pa => exact .of_ctxs rfl
  | dev da swm uc hw =>
    have noted := s.noteImage_sameRings da
    unfold State.storeLoc
    dsimp only
    generalize s.noteImage da = t at noted ⊢
    refine noted.trans (.of_ctxs ?_)
    have window : (if hw then t.windowPage (t.page (pageOf da)).ctx (pageOf da) else t).ctxs = t.ctxs := by
      split
      · exact State.windowPage_ctxs _ _ _
      · rfl
    generalize (if hw then t.windowPage (t.page (pageOf da)).ctx (pageOf da) else t) = u at window ⊢
    rw [← window]
    split
    · split
      · exact State.fillSwm_ctxs _ _ _
      · exact (State.setLine_ctxs _ _ _ _).trans (State.fillSwm_ctxs _ _ _)
    · have counted : (if count then u.noteWrite da else u).ctxs = u.ctxs := by
        split
        · exact State.noteWrite_ctxs _ _
        · rfl
      split
      · exact (State.healAt_ctxs _ _ _).trans counted
      · exact (State.setLine_ctxs _ _ _ _).trans counted

theorem foldl_sameRings {α β : Type} (g : β → State) {f : β → α → β} (hf : ∀ r a, SameRings (g r) (g (f r a))) (l : List α) (r : β) :
    SameRings (g r) (g (l.foldl f r)) := by
  induction l generalizing r with
  | nil => exact .refl _
  | cons a l ih => exact (hf r a).trans (ih _)

theorem State.writeLanes_sameRings (s : State) (d : Nat) (lanes : List (Access × List Byte)) : SameRings s (s.writeLanes d lanes) :=
  (foldl_sameRings Prod.fst (fun r e => State.storeLoc_sameRings r.1 d e.1.loc e.2 _) lanes (s, [])).trans
    (.of_ctxs (State.tableChange_ctxs _ _))

/-- An empty trace ring has no record that a write could reach (R295). -/
theorem State.tearTrace_empty {s : State} {x : Nat} (empty : (s.ctx x).trWr = 0) (d : Nat) (runs : List (Loc × Nat)) : s.tearTrace d x runs = s := by
  have none' : s.ringRecords x runs = [] := by
    unfold State.ringRecords
    simp [empty]
  unfold State.tearTrace
  rw [none']
  rfl

/-! ### Stores performed (R165) -/

theorem State.noteTorn_keeps (s : State) (uid : Nat) (locs : List Loc) : SameSide s (s.noteTorn uid locs) :=
  foldl_keeps _ (fun s pg => by dsimp only; split <;> exact ⟨rfl, rfl, rfl⟩) _ s

theorem State.noteTorn_ctxs (s : State) (uid : Nat) (locs : List Loc) : (s.noteTorn uid locs).ctxs = s.ctxs :=
  foldl_ctxs _ (fun s pg => by dsimp only; split <;> rfl) _ s

theorem State.touchPage_eq (s : State) (x pg : Nat) : ∃ pages, s.touchPage x pg = { s with pages := pages } := by
  unfold State.touchPage
  split <;> exact ⟨_, rfl⟩

theorem State.touchLoc_eq (s : State) (x : Nat) (loc : Loc) : ∃ pages, s.touchLoc x loc = { s with pages := pages } := by
  cases loc with
  | host pa => exact ⟨_, rfl⟩
  | dev da swm uc hw => exact s.touchPage_eq x (pageOf da)

theorem State.touchLoc_ctxs (s : State) (x : Nat) (loc : Loc) : (s.touchLoc x loc).ctxs = s.ctxs := by
  obtain ⟨pages, touched⟩ := s.touchLoc_eq x loc
  rw [touched]

theorem State.touchLoc_mem (s : State) (x : Nat) (loc : Loc) : (s.touchLoc x loc).mem = s.mem := by
  obtain ⟨pages, touched⟩ := s.touchLoc_eq x loc
  rw [touched]

theorem foldl_mem_of {α β : Type} (g : β → State) {f : β → α → β} (hf : ∀ r a, (g (f r a)).mem = (g r).mem) (l : List α) (r : β) :
    (g (l.foldl f r)).mem = (g r).mem := by
  induction l generalizing r with
  | nil => rfl
  | cons a l ih => exact (ih _).trans (hf r a)

/-- Steps that write memory alike. -/
theorem foldl_mem_congr {α β : Type} (g : β → State) {f : β → α → β} {h : State → α → State}
    (alike : ∀ r t a, (g r).mem = t.mem → (g (f r a)).mem = (h t a).mem) (l : List α) (r : β) (t : State) (same : (g r).mem = t.mem) :
    (g (l.foldl f r)).mem = (l.foldl h t).mem := by
  induction l generalizing r t with
  | nil => exact same
  | cons a l ih => exact ih _ _ (alike r t a same)

theorem State.storeLoc_mem_congr {s t : State} (d : Nat) (loc : Loc) (bs : List Byte) (count : Bool) (same : s.mem = t.mem) :
    (s.storeLoc d loc bs count).mem = (t.writeLoc d loc bs).mem := by
  have stored := (State.storeLoc_keeps s d loc bs count).2.1
  have written := (State.writeLoc_keeps t d loc bs).2.1
  cases loc with
  | host pa => exact stored.trans (same.trans written.symm)
  | dev da swm uc hw =>
    cases swm with
    | true => exact stored.trans (same.trans written.symm)
    | false => exact stored.trans ((congrArg (Memory.writeList · da bs) same).trans written.symm)

/-- The lanes of a store leave in memory what writes of them in lane order leave. -/
theorem State.writeLanes_mem (s u : State) (d : Nat) (lanes : List (Access × List Byte)) (same : u.mem = s.mem) :
    (u.writeLanes d lanes).mem = (lanes.foldl (fun s e => s.writeLoc d e.1.loc e.2) s).mem :=
  (State.tableChange_keeps _ _).2.1.trans
    (foldl_mem_congr Prod.fst (fun _ _ e => State.storeLoc_mem_congr d e.1.loc e.2 _) lanes (u, []) s same)

theorem State.storeLanes_mem {s : State} {c uid : Nat} {o : Op} (lanes : List (Access × List Byte)) (quiet : (s.ctx (s.ctxOf c uid)).trWr = 0)
    (whole : o.junk = []) :
    (s.storeLanes c uid o lanes).mem = (lanes.foldl (fun s e => s.writeLoc (dieOf c) e.1.loc e.2) s).mem := by
  have served := s.serveLines_sameContexts (lanes.map (·.1.loc.lineKey))
  have bytes := (s.serveLines_serves (lanes.map (·.1.loc.lineKey))).mem
  unfold State.storeLanes
  dsimp only
  generalize s.serveLines (lanes.map (·.1.loc.lineKey)) = t at served bytes ⊢
  have torn : SameContexts t (t.noteTorn uid (lanes.map (·.1.loc))) :=
    .of_cores (t.noteTorn_keeps uid _).1 (t.noteTorn_ctxs uid _)
  have tornBytes := (t.noteTorn_keeps uid (lanes.map (·.1.loc))).2.1
  generalize t.noteTorn uid (lanes.map (·.1.loc)) = t at torn tornBytes ⊢
  have owner : t.ctxOf c uid = s.ctxOf c uid := (served.trans torn).ctxOf c uid
  rw [owner]
  generalize s.ctxOf c uid = x at quiet ⊢
  generalize lanes.map (fun e => (e.1.loc, e.1.size)) = runs
  have touched : SameRings s (runs.foldl (fun s r => s.touchLoc x r.1) (t.noteRing runs)) :=
    (SameRings.of_ctxs (served.trans torn).ctxs).trans ((t.noteRing_sameRings runs).trans
      (.of_ctxs (foldl_ctxs _ (fun s r => s.touchLoc_ctxs x r.1) runs _)))
  have touchedBytes : (runs.foldl (fun s r => s.touchLoc x r.1) (t.noteRing runs)).mem = s.mem :=
    (foldl_mem_of (fun s => s) (fun s r => s.touchLoc_mem x r.1) runs (t.noteRing runs)).trans (tornBytes.trans bytes)
  generalize runs.foldl (fun s r => s.touchLoc x r.1) (t.noteRing runs) = u at touched touchedBytes ⊢
  have empty : ((u.writeLanes (dieOf c) lanes).ctx x).trWr = 0 :=
    ((touched.trans (u.writeLanes_sameRings (dieOf c) lanes)).trWr x).trans quiet
  rw [State.tearTrace_empty empty, whole]
  exact State.writeLanes_mem s u (dieOf c) lanes touchedBytes

theorem State.excess_mem (s : State) (c x d : Nat) : (s.excess c x d).mem = s.mem := by
  unfold State.excess
  split
  · rfl
  · split
    · exact State.setDie_mem _ _ _
    · rfl

theorem State.refund_mem (s : State) (c x d n : Nat) : (s.refund c x d n).mem = s.mem := by
  unfold State.refund
  split
  · exact State.setDie_mem _ _ _
  · exact State.excess_mem _ _ _ _

theorem State.touchPage_mem (s : State) (x pg : Nat) : (s.touchPage x pg).mem = s.mem := by
  obtain ⟨pages, touched⟩ := s.touchPage_eq x pg
  rw [touched]

/-- An answer to a charged store writes no byte. -/
theorem State.answer_mem (s : State) (c x id b : Nat) (wasDirty more : Bool) : (s.answer c x id b wasDirty more).mem = s.mem := by
  have headroom (t : State) (h : Nat) (k : Block) : (if h = 0 then t else (t.setBlock b k).touchPage x (b / 128)).mem = t.mem := by
    split
    · rfl
    · exact State.touchPage_mem _ _ _
  unfold State.answer
  split
  · split
    · rfl
    · exact State.refund_mem _ _ _ _ _
  · dsimp only
    split
    · exact headroom _ _ _
    · exact (State.refund_mem _ _ _ _ _).trans (headroom _ _ _)

theorem State.performKind_store {s : State} {c uid : Nat} {o : Op} {lanes : List (Access × List Byte)} (store : o.kind = .store lanes)
    (whole : o.junk = []) (free : s.stuckOp c o.id = false) (quiet : (s.ctx (s.ctxOf c uid)).trWr = 0) :
    (s.performKind c uid o).2.mem = (lanes.foldl (fun s e => s.writeLoc (dieOf c) e.1.loc e.2) s).mem ∧
      (s.performKind c uid o).1.done = true := by
  have all : (lanes.filter fun _ => true) = lanes := List.filter_eq_self.mpr fun _ _ => rfl
  have left : (lanes.filter fun _ => !true) = [] := List.filter_eq_nil_iff.mpr fun _ _ => Bool.false_ne_true
  unfold State.performKind
  rw [free, if_neg Bool.false_ne_true]
  simp only [store]
  unfold State.storePart
  simp only [store, all, left]
  exact ⟨(foldl_mem_of (fun r => r) (fun r b => State.answer_mem _ _ _ _ _ _ _) _ _).trans (State.storeLanes_mem lanes quiet whole), rfl⟩

end Sys2Proof.Machine

namespace Sys2Proof.Machine

/-! ### Operations put back and pages surrendered (R186, R187) -/

theorem State.dirtyOp_mem (s : State) (c uid : Nat) (o : Op) : (s.dirtyOp c uid o).mem = s.mem := by
  unfold State.dirtyOp
  split
  · rfl
  · exact foldl_mem_of (fun s => s) (fun s r => (s.dirtyFrame_keeps c _ _ 0 0 _).2.1) _ s

theorem State.putOp_mem (s : State) (c uid : Nat) (o : Op) : (s.putOp c uid o).mem = s.mem := by
  unfold State.putOp
  split
  · rfl
  · exact State.dirtyOp_mem _ _ _ _

theorem Memory.read_filter (p : Nat → Bool) (m : List Host.Cell) (a : Nat) :
    Memory.read (m.filter fun e => p e.1) a = if p a then Memory.read m a else 0 := by
  induction m with
  | nil => exact (ite_self _).symm
  | cons e m ih =>
    obtain ⟨k, b⟩ := e
    rw [List.filter_cons, Memory.read_cons]
    by_cases here : k = a
    · subst here
      cases keep : p k with
      | true => simp [Memory.read_cons]
      | false => simpa [keep] using ih
    · rw [if_neg here]
      cases p k with
      | true => simpa [Memory.read_cons, here] using ih
      | false => simpa using ih

theorem State.credit_closed {s : State} {x : Nat} (closed : (s.ctx x).blnOpen = false) (d n : Nat) : s.credit x d n = s := by
  unfold State.credit
  simp [closed]

theorem State.finishHalves_whole {s : State} (whole : s.halves = []) (which : Nat → Bool) : s.finishHalves which = s := by
  unfold State.finishHalves
  rw [whole]
  rfl

theorem State.clearPage_mem (s : State) (pg : Nat) : (s.clearPage pg).mem = s.mem.filter fun e => e.1 / 65536 != pg :=
  (State.tableChange_keeps _ _).2.1

theorem State.clearPage_ctxs (s : State) (pg : Nat) : (s.clearPage pg).ctxs = s.ctxs := State.tableChange_ctxs _ _

/-- A page surrendered whole, with no store to it in flight and no balloon open, reads as 0; no other byte changes. -/
theorem State.surrenderPage_mem {s : State} {uid x pg : Nat} (whole : s.halves = []) (untorn : (s.page pg).torn = false)
    (closed : (s.ctx x).blnOpen = false) : (s.surrenderPage uid x pg).2.mem = s.mem.filter fun e => e.1 / 65536 != pg := by
  have served : SameContexts s (if (s.page pg).replicated then s.serveLines (pageLines pg) else s) := by
    split
    · exact State.serveLines_sameContexts _ _
    · exact .refl s
  have bytes : (if (s.page pg).replicated then s.serveLines (pageLines pg) else s).mem = s.mem := by
    split
    · exact (State.serveLines_serves _ _).mem
    · rfl
  unfold State.surrenderPage
  simp only [State.finishHalves_whole whole, untorn, Bool.false_eq_true, if_false]
  generalize (if (s.page pg).replicated then s.serveLines (pageLines pg) else s) = t at served bytes ⊢
  generalize run : [(Loc.dev (65536 * pg) false false false, 65536)] = runs
  have noted : SameRings s (((t.noteImage (65536 * pg)).noteRing runs).clearPage pg) :=
    (SameRings.of_ctxs served.ctxs).trans ((t.noteImage_sameRings _).trans ((State.noteRing_sameRings _ runs).trans
      (.of_ctxs (State.clearPage_ctxs _ pg))))
  have cleared : (((t.noteImage (65536 * pg)).noteRing runs).clearPage pg).mem = s.mem.filter fun e => e.1 / 65536 != pg := by
    rw [← bytes]
    exact State.clearPage_mem _ pg
  have stillClosed (u : State) (same : u.ctxs = (((t.noteImage (65536 * pg)).noteRing runs).clearPage pg).ctxs) : (u.ctx x).blnOpen = false :=
    ((noted.trans (.of_ctxs same)).blnOpen x).trans closed
  rw [(State.commandPage_keeps _ _ _).2.1, State.credit_closed]
  · exact (State.setDie_mem _ _ _).trans cleared
  · exact stillClosed _ (State.setDie_ctxs _ _ _)

/-! ### An operation named by its number -/

theorem State.id_of_opAt {s : State} {c id : Nat} {t : Team} {o : Op} (h : s.opAt c id = some (t, o)) : o.id = id := by
  obtain ⟨e, -, found⟩ := List.exists_of_findSome?_eq_some h
  obtain ⟨q, own, eq⟩ := Option.map_eq_some_iff.mp found
  obtain rfl : q = o := congrArg Prod.snd eq
  have named := List.find?_some own
  exact beq_iff_eq.mp named

section
variable {s : State} {c id : Nat} {t : Team} {o : Op}

/-- A remote store alone in flight is performed at once (R240). -/
theorem execRemoteStorePerformed_alone (named : s.opAt c id = some (t, o)) (pending : o.done = false) {a b : Nat} {lanes : List (Nat × List Byte)}
    (kind : o.kind = .remote a b lanes) (alone : s.coreOps c = [(t.uid, o)]) :
    execRemoteStorePerformed c id s = .next ((s.makeWay c [o]).performId c id) := by
  unfold execRemoteStorePerformed
  simp [named, kind, alone, pending, State.id_of_opAt named]

theorem execPgsurrPageDone_page (named : s.opAt c id = some (t, o)) (free : s.stuckOp c id = false) {d pg n : Nat} {rest : List Nat}
    (kind : o.kind = .surrender d (pg :: rest) n) (here : (s.page pg).state ≠ .migrating) :
    ∃ q : Op, execPgsurrPageDone c id s = .next ((s.surrenderPage t.uid t.ctx pg).2.putOp c t.uid q) := by
  unfold execPgsurrPageDone
  simp only [named, kind, here, free, decide_false, Bool.or_false, Bool.false_eq_true, if_false]
  cases rest.isEmpty with
  | true => exact ⟨_, rfl⟩
  | false => exact ⟨_, rfl⟩

theorem exec_pgsurrPageDone (named : s.opAt c id = some (t, o)) (free : s.stuckOp c id = false) {d pg n : Nat} {rest : List Nat}
    (kind : o.kind = .surrender d (pg :: rest) n) (here : (s.page pg).state ≠ .migrating) (untorn : (s.page pg).torn = false)
    (closed : (s.ctx t.ctx).blnOpen = false) (whole : s.halves = []) :
    ∃ u, exec (.pgsurrPageDone c id) s = .next u ∧ ∀ a, Memory.read u.mem a = if a / 65536 = pg then 0 else Memory.read s.mem a := by
  obtain ⟨q, done⟩ := execPgsurrPageDone_page named free kind here
  refine ⟨_, done, fun a => ?_⟩
  rw [State.putOp_mem, State.surrenderPage_mem whole untorn closed, Memory.read_filter fun a => a / 65536 != pg]
  by_cases inside : a / 65536 = pg <;> simp [inside]

end

end Sys2Proof.Machine

namespace Sys2Proof.Machine

/-! ### Locations that every agent reads alike

Host memory, and pages of device memory that are not SWM and whose mappings agree: a read of one returns what the memory holds. -/

/-- The location is one of them. -/
def State.PlainAt (s : State) : Loc → Prop
  | .dev da swm _ _ => swm = false ∧ s.mixed (pageOf da) = false
  | .host _ => True

theorem State.leavesOf_congr {s t : State} (mem : t.mem = s.mem) (ctxs : t.ctxs = s.ctxs) (ovc : ∀ d, (t.die d).ovc = (s.die d).ovc) (x : Nat) :
    t.leavesOf x = s.leavesOf x := by
  have leaf (e size : Nat) : t.leafEntry e size = s.leafEntry e size := by unfold State.leafEntry State.limit; simp only [ovc]
  have leaves (n table va : Nat) : t.leaves table va n = s.leaves table va n := by
    induction n generalizing table va with
    | zero => simp only [State.leaves, State.tableCells, State.entryAt, mem, leaf]; rfl
    | succ n ih => simp only [State.leaves, State.tableCells, State.entryAt, mem, leaf, ih]; rfl
  unfold State.leavesOf State.ctx
  simp only [ctxs, leaves]

theorem State.mixed_congr {s t : State} (mem : t.mem = s.mem) (ctxs : t.ctxs = s.ctxs) (ovc : ∀ d, (t.die d).ovc = (s.die d).ovc) (pg : Nat) :
    t.mixed pg = s.mixed pg := by
  have mappings : t.mappingsOf pg = s.mappingsOf pg := by
    unfold State.mappingsOf State.deviceLeaves
    simp only [ctxs, State.leavesOf_congr mem ctxs ovc]
  unfold State.mixed
  rw [mappings]

/-- Reads of a die at such locations have changed nothing that another one sees. -/
structure PlainReads (d : Nat) (s t : State) : Prop where
  ras : t.ras = s.ras
  plain : ∀ loc, s.PlainAt loc → t.PlainAt loc
  bytes : ∀ loc, s.PlainAt loc → ∀ n, t.readLoc d loc n = s.readLoc d loc n
  poisoned : ∀ loc, s.PlainAt loc → t.poisonedLoc d loc = s.poisonedLoc d loc

theorem PlainReads.refl (d : Nat) (s : State) : PlainReads d s s := ⟨rfl, fun _ h => h, fun _ _ _ => rfl, fun _ _ => rfl⟩

theorem PlainReads.trans {d : Nat} {s t u : State} (a : PlainReads d s t) (b : PlainReads d t u) : PlainReads d s u :=
  ⟨b.ras.trans a.ras, fun loc h => b.plain loc (a.plain loc h), fun loc h n => (b.bytes loc (a.plain loc h) n).trans (a.bytes loc h n),
    fun loc h => (b.poisoned loc (a.plain loc h)).trans (a.poisoned loc h)⟩

theorem State.PlainAt.readLoc_dev {s : State} {da : Nat} {swm uc hw : Bool} (h : s.PlainAt (.dev da swm uc hw)) (d n : Nat) :
    s.readLoc d (.dev da swm uc hw) n = Memory.readList s.mem da n := by
  obtain ⟨rfl, agree⟩ := h
  unfold State.readLoc State.bytesAt
  simp [agree]

theorem PlainReads.of_parts {d : Nat} {s t : State} (same : SameSide s t) (ctxs : t.ctxs = s.ctxs) (ovc : ∀ d, (t.die d).ovc = (s.die d).ovc)
    (ras : t.ras = s.ras) (poisoned : ∀ da uc hw, t.poisonedLoc d (.dev da false uc hw) = s.poisonedLoc d (.dev da false uc hw)) :
    PlainReads d s t := by
  have plain (loc : Loc) (h : s.PlainAt loc) : t.PlainAt loc := by
    cases loc with
    | host pa => trivial
    | dev da swm uc hw => exact ⟨h.1, (State.mixed_congr same.2.1 ctxs ovc _).trans h.2⟩
  refine ⟨ras, plain, fun loc h n => ?_, fun loc h => ?_⟩
  · cases loc with
    | host pa => exact congrArg (Memory.readList · pa n) same.2.2
    | dev da swm uc hw => rw [(plain _ h).readLoc_dev, h.readLoc_dev, same.2.1]
  · cases loc with
    | host pa => rfl
    | dev da swm uc hw =>
      obtain ⟨rfl, -⟩ := h
      exact poisoned da uc hw

/-! ### Lines of L2 -/

theorem State.line_setLine (s : State) (d l e m : Nat) (k : L2Line) :
    (s.setLine d l k).line e m = if (d = 0 ↔ e = 0) ∧ m = l then some k else s.line e m := by
  unfold State.line State.setLine
  rw [State.die_setDie]
  by_cases die : d = 0 ↔ e = 0
  · have own : s.die d = s.die e := by
      unfold State.die
      by_cases zero : d = 0
      · rw [if_pos zero, if_pos (die.mp zero)]
      · rw [if_neg zero, if_neg (mt die.mpr zero)]
    rw [if_pos die]
    by_cases line : m = l
    · rw [if_pos ⟨die, line⟩, line]
      exact Table.get_put_self _ _ _
    · rw [if_neg fun h => line h.2, own]
      exact Table.get_put_other _ _ line
  · rw [if_neg die, if_neg fun h => die h.1]

theorem homeDie_of_lineOf {a b : Nat} (h : lineOf a = lineOf b) : homeDie a = homeDie b := by
  unfold lineOf at h
  unfold homeDie
  omega

theorem plainReads_pages (d : Nat) (s : State) (pages : List (Nat × Page)) : PlainReads d s { s with pages := pages } :=
  .of_parts ⟨rfl, rfl, rfl⟩ rfl (fun _ => rfl) rfl fun _ _ _ => rfl

/-- A line poisoned in the L2 at which a die reads it, of a page that is not SWM. -/
def State.markedLine (s : State) (d da : Nat) : Bool :=
  match s.line (s.servedBy d da false) (lineOf da) with
  | some k => !k.bad.isEmpty
  | none => false

theorem State.poisonedLoc_dev (s : State) (d da : Nat) (uc hw : Bool) :
    s.poisonedLoc d (.dev da false uc hw) = ((s.block (blockOf da)).poison || s.markedLine d da) := rfl

/-- A replica filled with the marks of the home line is poisoned just as the home line is (R269, R367). -/
theorem State.markedLine_replica {s : State} {d da : Nat} (missing : s.line d (lineOf da) = none) (a : Nat) :
    (s.setLine d (lineOf da) ⟨false, true, [], [], ((s.line (homeDie da) (lineOf da)).map (·.bad)).getD []⟩).markedLine d a = s.markedLine d a := by
  unfold State.markedLine State.servedBy
  simp only [Bool.false_eq_true, if_false, State.line_setLine, true_and]
  by_cases same : lineOf a = lineOf da
  · rw [same, homeDie_of_lineOf same, missing]
    simp only [if_true, true_and]
    cases s.line (homeDie da) (lineOf da) <;> rfl
  · simp only [same, and_false, if_false]

theorem plainReads_replica {s : State} {d da : Nat} (missing : s.line d (lineOf da) = none) :
    PlainReads d s (s.setLine d (lineOf da) ⟨false, true, [], [], ((s.line (homeDie da) (lineOf da)).map (·.bad)).getD []⟩) := by
  refine .of_parts ⟨State.setLine_cores _ _ _ _, State.setLine_mem _ _ _ _, State.setLine_hostMem _ _ _ _⟩ (State.setLine_ctxs _ _ _ _)
    (fun e => ?_) (State.setDie_ras _ _ _) fun a uc hw => ?_
  · unfold State.setLine
    rw [State.die_setDie]
    split
    · next die => unfold State.die; by_cases zero : d = 0 <;> simp_all
    · rfl
  · rw [State.poisonedLoc_dev, State.poisonedLoc_dev, State.markedLine_replica missing]
    unfold State.block State.setLine
    rw [State.setDie_blocks]

theorem State.demand_clean {s : State} (clean : s.ras.latent = []) (loc : Loc) : s.demand loc = s := by
  unfold State.demand
  split
  · rfl
  · simp [clean]

theorem State.readAt_plainReads {s : State} (clean : s.ras.latent = []) (d : Nat) {loc : Loc} (plain : s.PlainAt loc) :
    PlainReads d s (s.readAt d loc) := by
  have home (da : Nat) (uc : Bool) : PlainReads d s (s.readHome d da uc) := by
    obtain ⟨pages, read⟩ := s.readHome_eq d da uc
    rw [read]
    exact plainReads_pages d s pages
  unfold State.readAt State.noteRead
  rw [State.demand_clean clean]
  cases loc with
  | host pa => exact .refl d s
  | dev da swm uc hw =>
    obtain ⟨rfl, -⟩ := plain
    simp only [Bool.false_eq_true, if_false]
    split
    · exact home da uc
    · split
      · exact .refl d s
      · next missing =>
        split
        · obtain ⟨pages, read⟩ := s.readHome_eq d da uc
          rw [read]
          exact (plainReads_pages d s pages).trans (plainReads_replica missing)
        · exact home da uc

/-! ### A load's line requests (R161, R264) -/

theorem pageOf_line (da : Nat) : pageOf (da / 128 * 128) = pageOf da := by
  unfold pageOf
  omega

theorem State.PlainAt.line {s : State} {loc : Loc} (h : s.PlainAt loc) : s.PlainAt loc.line := by
  cases loc with
  | host pa => trivial
  | dev da swm uc hw => exact ⟨h.1, by rw [pageOf_line]; exact h.2⟩

theorem Memory.take_drop_readList (m : List Host.Cell) (a : Nat) {off n len : Nat} (inside : off + n ≤ len) :
    ((Memory.readList m a len).drop off).take n = Memory.readList m (a + off) n := by
  refine List.ext_getElem (by simp [Memory.readList]; omega) fun i _ _ => ?_
  simp [Memory.readList, Nat.add_assoc]

/-- A run inside a line is read with its line. -/
theorem State.PlainAt.take_drop_readLoc {s : State} {loc : Loc} (h : s.PlainAt loc) (d : Nat) {n : Nat} (inside : loc.offset + n ≤ 128) :
    ((s.readLoc d loc.line 128).drop loc.offset).take n = s.readLoc d loc n := by
  cases loc with
  | host pa =>
    refine (Memory.take_drop_readList s.hostMem _ inside).trans ?_
    exact congrArg (Memory.readList s.hostMem · n) (Nat.div_add_mod' pa 128)
  | dev da swm uc hw =>
    have line : s.readLoc d (Loc.dev da swm uc hw).line 128 = Memory.readList s.mem (da / 128 * 128) 128 := State.PlainAt.readLoc_dev h.line d 128
    rw [line, h.readLoc_dev]
    refine (Memory.take_drop_readList s.mem _ inside).trans ?_
    exact congrArg (Memory.readList s.mem · n) (Nat.div_add_mod' da 128)

theorem State.poisonedLoc_line (s : State) (d : Nat) (loc : Loc) : s.poisonedLoc d loc.line = s.poisonedLoc d loc := by
  cases loc with
  | host pa => rfl
  | dev da swm uc hw =>
    have line : lineOf (da / 128 * 128) = lineOf da := by unfold lineOf; omega
    have block : blockOf (da / 128 * 128) = blockOf da := by unfold blockOf; omega
    unfold Loc.line State.poisonedLoc State.servedBy
    simp only [line, block, homeDie_of_lineOf line]

/-- A request names every sector that one of its runs has a byte in. -/
theorem getLsbD_sectorMask {runs : List (Nat × Nat)} {r : Nat × Nat} (mem : r ∈ runs) {i : Nat} (low : r.1 ≤ i) (high : i < r.1 + r.2)
    (inside : i < 128) : (sectorMask runs).getLsbD (i / 32) = true := by
  have sector : i / 32 < 4 := by omega
  have used : (runs.any fun r => decide (r.1 < 32 * (i / 32) + 32) && decide (32 * (i / 32) < r.1 + r.2)) = true :=
    List.any_eq_true.mpr ⟨r, mem, by rw [Bool.and_eq_true, decide_eq_true_eq, decide_eq_true_eq]; omega⟩
  rw [sectorMask, BitVec.getLsbD_ofNat, decide_eq_true sector, Bool.true_and, (testBit_foldl_range _ 4).2 _ sector]
  exact used

theorem take_drop_maskedLine {mask : BitVec 4} {off n : Nat} (named : ∀ i, off ≤ i → i < off + n → mask.getLsbD (i / 32) = true) (bytes : List Byte) :
    ((maskedLine mask bytes).drop off).take n = (bytes.drop off).take n := by
  refine List.ext_getElem (by simp [maskedLine]) fun i below _ => ?_
  have here : i < n := by
    rw [List.length_take] at below
    omega
  simp [maskedLine, named (off + i) (by omega) (by omega)]

/-- The sectors that the lanes of a pass in a line use. -/
def requestMask (lanes : List Access) (q : Nat × Loc) : BitVec 4 :=
  sectorMask ((lanes.filter fun b => (b.lane / 32, b.loc.line) == q).map fun b => (b.loc.offset, b.size))

/-- What one of a load's line requests returns. -/
def State.request (s : State) (d : Nat) (lanes : List Access) (q : Nat × Loc) : List Byte × Bool :=
  (maskedLine (requestMask lanes q) (s.readLoc d q.2 128), s.poisonedLoc d q.2)

theorem State.take_drop_request {s : State} (d : Nat) {lanes : List Access} {a : Access} (mem : a ∈ lanes) (plain : s.PlainAt a.loc)
    (inside : a.loc.offset + a.size ≤ 128) :
    ((s.request d lanes (a.lane / 32, a.loc.line)).1.drop a.loc.offset).take a.size = s.readLoc d a.loc a.size := by
  have named (i : Nat) (low : a.loc.offset ≤ i) (high : i < a.loc.offset + a.size) :
      (requestMask lanes (a.lane / 32, a.loc.line)).getLsbD (i / 32) = true := by
    have run : (a.loc.offset, a.size) ∈ (lanes.filter fun b => (b.lane / 32, b.loc.line) == (a.lane / 32, a.loc.line)).map fun b => (b.loc.offset, b.size) :=
      List.mem_map_of_mem (List.mem_filter.mpr ⟨mem, beq_self_eq_true (a.lane / 32, a.loc.line)⟩)
    exact getLsbD_sectorMask run low high (by omega)
  unfold State.request
  rw [take_drop_maskedLine named, plain.take_drop_readLoc d inside]

theorem State.readLine_uncached {s : State} (clean : s.ras.latent = []) (c x : Nat) {lanes : List Access} {a : Access} (plain : s.PlainAt a.loc)
    (key : Nat) :
    (s.readLine c x false a.loc (requestMask lanes (a.lane / 32, a.loc.line)) key).1 = s.request (dieOf c) lanes (a.lane / 32, a.loc.line) ∧
      PlainReads (dieOf c) s (s.readLine c x false a.loc (requestMask lanes (a.lane / 32, a.loc.line)) key).2 := by
  have read := State.readAt_plainReads clean (dieOf c) plain
  unfold State.readLine
  simp only [Bool.false_eq_true, if_false]
  refine ⟨?_, read⟩
  rw [read.bytes _ plain.line, read.poisoned _ plain, State.request, State.poisonedLoc_line]

/-- Steps that each append one value, as long as what they carry beside the list stays good. -/
theorem foldl_append_values {α β γ : Type} {f : List β × γ → α → List β × γ} {good : γ → Prop} {value : α → β} {l : List α}
    (step : ∀ r, ∀ a ∈ l, good r.2 → (f r a).1 = r.1 ++ [value a] ∧ good (f r a).2) {r : List β × γ} (h : good r.2) :
    (l.foldl f r).1 = r.1 ++ l.map value := by
  induction l generalizing r with
  | nil => exact (List.append_nil _).symm
  | cons a l ih =>
    obtain ⟨appended, still⟩ := step r a List.mem_cons_self h
    rw [List.foldl_cons, ih (fun r b mem => step r b (List.mem_cons_of_mem _ mem)) still, appended, List.map_cons, List.append_assoc]
    rfl

/-- The requests made so far, and the state that they have left. -/
def State.Requested (s : State) (d : Nat) (lanes : List Access) (r : List ((Nat × Loc) × List Byte × Bool) × State) : Prop :=
  (∀ e ∈ r.1, e.2 = s.request d lanes e.1) ∧ PlainReads d s r.2

/-- A load that bypasses the L1 reads in every lane what its location holds. -/
theorem State.readLanes_uncached {s : State} (clean : s.ras.latent = []) (c x : Nat) {lanes : List Access} (key : Nat)
    (plain : ∀ a ∈ lanes, a.loc.offset + a.size ≤ 128 ∧ s.PlainAt a.loc) :
    (s.readLanes c x false lanes key).1 = lanes.map fun a => (a.lane, s.readLoc (dieOf c) a.loc a.size, s.poisonedLoc (dieOf c) a.loc) := by
  have start : s.Requested (dieOf c) lanes ([], s) := ⟨fun _ h => absurd h List.not_mem_nil, PlainReads.refl _ s⟩
  refine (foldl_append_values (good := s.Requested (dieOf c) lanes) (fun r a mem good => ?_) start).trans (List.nil_append _)
  obtain ⟨seen, reads⟩ := good
  obtain ⟨inside, at'⟩ := plain a mem
  have value := State.take_drop_request (dieOf c) mem at' inside
  have marked : (s.request (dieOf c) lanes (a.lane / 32, a.loc.line)).2 = s.poisonedLoc (dieOf c) a.loc := s.poisonedLoc_line _ _
  dsimp only
  split
  · next e found =>
    have same : e.1 = (a.lane / 32, a.loc.line) := by
      have eq := List.find?_some found
      exact beq_iff_eq.mp eq
    have answer := seen e (List.mem_of_find?_eq_some found)
    rw [same] at answer
    exact ⟨by rw [answer, value, marked], seen, reads⟩
  · have fresh : r.2.2.request (dieOf c) lanes (a.lane / 32, a.loc.line) = s.request (dieOf c) lanes (a.lane / 32, a.loc.line) := by
      unfold State.request
      rw [reads.bytes _ at'.line, reads.poisoned _ at'.line]
    obtain ⟨answer, read⟩ := State.readLine_uncached (lanes := lanes) ((congrArg Ras.latent reads.ras).trans clean) c x (reads.plain _ at') (key + a.lane)
    rw [fresh] at answer
    refine ⟨?_, fun e mem => ?_, reads.trans read⟩
    · change r.1 ++ [(a.lane, ((r.2.2.readLine c x false a.loc (requestMask lanes (a.lane / 32, a.loc.line)) (key + a.lane)).1.1.drop _).take _,
        (r.2.2.readLine c x false a.loc (requestMask lanes (a.lane / 32, a.loc.line)) (key + a.lane)).1.2)] = _
      rw [answer, value, marked]
    · obtain rfl | mem := List.mem_cons.mp mem
      · exact answer
      · exact seen e mem

end Sys2Proof.Machine

namespace Sys2Proof.Machine

/-! ### A load that returns into the team's vector registers (R161) -/

theorem column_other (vals : List (Nat × Word)) (col : List Word) {l : Nat} (other : l ∉ vals.map (·.1)) :
    wordAt (column col vals) l = wordAt col l := by
  induction vals generalizing col with
  | nil => rfl
  | cons e vals ih =>
    rw [List.map_cons, List.mem_cons, not_or] at other
    exact (ih (col.set e.1 e.2) other.2).trans (wordAt_set_other col e.2 other.1)

/-- Of lanes that are each written once, every one gets its own value. -/
theorem column_of_mem {vals : List (Nat × Word)} (once : (vals.map (·.1)).Nodup) {col : List Word} (inside : ∀ e ∈ vals, e.1 < col.length)
    {e : Nat × Word} (mem : e ∈ vals) : wordAt (column col vals) e.1 = e.2 := by
  induction vals generalizing col with
  | nil => exact absurd mem List.not_mem_nil
  | cons q vals ih =>
    rw [List.map_cons, List.nodup_cons] at once
    obtain rfl | mem := List.mem_cons.mp mem
    · refine (column_other vals (col.set e.1 e.2) once.1).trans ?_
      rw [wordAt_set col e.1 e.1 e.2 (inside e List.mem_cons_self), if_pos rfl]
    · refine ih once.2 (col := col.set q.1 q.2) (fun e mem => ?_) mem
      rw [List.length_set]
      exact inside e (List.mem_cons_of_mem _ mem)

/-- An operation that no later write overlaps writes all its lanes. -/
theorem Team.putLanes_v {o : Op} (clean : o.clash = []) (t : Team) (r : Nat) (vals : List (Nat × Word × Bool)) :
    (t.putLanes o r vals).v = t.v.set r (column (t.v.getD r []) (vals.map fun e => (e.1, e.2.1))) := by
  unfold Team.putLanes Op.yields
  simp only [clean, List.contains_nil, Bool.false_and, Bool.not_false, List.filter_true]
  rfl

/-- Of the registers that an operation writes one after the other, each one gets its own values. -/
theorem Team.foldl_putLanes_v {o : Op} (clean : o.clash = []) (d : Nat) (words : Nat → List (Nat × Word × Bool)) (t : Team) (n : Nat) :
    ((List.range n).foldl (fun t i => t.putLanes o (d + i) (words i)) t).v.length = t.v.length ∧
      (∀ i, n ≤ i → ((List.range n).foldl (fun t i => t.putLanes o (d + i) (words i)) t).v.getD (d + i) [] = t.v.getD (d + i) []) ∧
      ∀ i, i < n → d + i < t.v.length → ((List.range n).foldl (fun t i => t.putLanes o (d + i) (words i)) t).v.getD (d + i) [] =
        column (t.v.getD (d + i) []) ((words i).map fun e => (e.1, e.2.1)) := by
  induction n with
  | zero => exact ⟨rfl, fun _ _ => rfl, fun _ low => absurd low (Nat.not_lt_zero _)⟩
  | succ n ih =>
    obtain ⟨length, above, below⟩ := ih
    simp only [List.range_succ, List.foldl_append, List.foldl_cons, List.foldl_nil, Team.putLanes_v clean]
    refine ⟨List.length_set.trans length, fun i high => ?_, fun i low inside => ?_⟩
    · rw [getD_set_other _ _ _ (by omega), above i (by omega)]
    · obtain earlier | rfl := Nat.lt_succ_iff_lt_or_eq.mp low
      · rw [getD_set_other _ _ _ (by omega), below i earlier inside]
      · rw [getD_set_self _ _ _ _ (by omega), above i le_rfl]

/-- A load that has read its lanes leaves in each of its registers the column of its words. -/
theorem Team.retire_loaded {t : Team} {o : Op} {f d : Nat} {data : List (Nat × List Byte × Bool)} (kind : o.kind = .loaded f d false data)
    (clean : o.clash = []) {i : Nat} (low : i < loadCount f) (inside : d + i < t.v.length) :
    (t.retire o).v.getD (d + i) [] = column (t.v.getD (d + i) []) (data.map fun e => (e.1, wordAt (loadWords f e.2.1) i)) := by
  have writes := (Team.foldl_putLanes_v clean d (fun i => (data.map fun e => (e.1, loadWords f e.2.1, e.2.2)).map fun e => (e.1, wordAt e.2.1 i, e.2.2))
    t (loadCount f)).2.2 i low inside
  unfold Team.retire
  simp only [kind, Bool.false_eq_true, if_false]
  rw [writes, List.map_map, List.map_map]
  rfl

theorem Team.retire_loaded_lane {t : Team} {o : Op} {f d : Nat} {data : List (Nat × List Byte × Bool)} (kind : o.kind = .loaded f d false data)
    (clean : o.clash = []) (once : (data.map (·.1)).Nodup) {i : Nat} (low : i < loadCount f) (inside : d + i < t.v.length)
    (lanes : ∀ e ∈ data, e.1 < (t.v.getD (d + i) []).length) {e : Nat × List Byte × Bool} (mem : e ∈ data) :
    wordAt ((t.retire o).v.getD (d + i) []) e.1 = wordAt (loadWords f e.2.1) i := by
  rw [Team.retire_loaded kind clean low inside]
  refine column_of_mem (e := (e.1, wordAt (loadWords f e.2.1) i)) ?_ (fun q written => ?_) (List.mem_map_of_mem mem)
  · rw [List.map_map]
    exact once
  · obtain ⟨e, mem, rfl⟩ := List.mem_map.mp written
    exact lanes e mem

theorem Team.retire_loaded_other {t : Team} {o : Op} {f d : Nat} {data : List (Nat × List Byte × Bool)} (kind : o.kind = .loaded f d false data)
    (clean : o.clash = []) {i : Nat} (low : i < loadCount f) (inside : d + i < t.v.length) {l : Nat} (other : l ∉ data.map (·.1)) :
    wordAt ((t.retire o).v.getD (d + i) []) l = wordAt (t.v.getD (d + i) []) l := by
  rw [Team.retire_loaded kind clean low inside]
  refine column_other _ _ ?_
  rw [List.map_map]
  exact other

/-! ### The event of each operation (R146, R161 to R170, R179 to R187) -/

section
variable {s : State} {c id : Nat} {t : Team} {o : Op}

theorem execLoadReturn_query (named : s.opAt c id = some (t, o)) (pending : o.done = false) (free : s.stuckOp c id = false) {f d : Nat}
    {bytes : List Byte} (query : s.queryBytes t.ctx o.kind = some (f, d, bytes)) : execLoadReturn c id s =
      .next ({ s with fresh := s.fresh + 1 }.completeOp c t.uid { o with kind := .loaded f d true [(0, bytes, false)] }) := by
  simp [execLoadReturn, named, pending, free, query]

theorem execLoadReturn_load (named : s.opAt c id = some (t, o)) (pending : o.done = false) (free : s.stuckOp c id = false) {f d : Nat}
    {sc ca : Bool} {lanes : List Access} (kind : o.kind = .load f d sc ca lanes) :
    execLoadReturn c id s = .next ((s.performOp c t.uid o).2.completeOp c t.uid (s.performOp c t.uid o).1) := by
  simp [execLoadReturn, named, pending, free, kind, State.queryBytes]

theorem execLoadReturn_atom (named : s.opAt c id = some (t, o)) (pending : o.done = false) (free : s.stuckOp c id = false) {op : Nat} {d : Nat}
    {r : Bool} {lanes : List AtomLane} (kind : o.kind = .atom op d r none lanes) (settled : o.rmt = false) :
    execLoadReturn c id s = .next ((s.performOp c t.uid (s.opNow c o)).2.completeOp c t.uid (s.performOp c t.uid (s.opNow c o)).1) := by
  simp [execLoadReturn, named, pending, free, kind, settled, State.queryBytes]

theorem execScratchpadLoadReturn_scratch (named : s.opAt c id = some (t, o)) (pending : o.done = false) {f d co r n : Nat}
    {lanes : List (Nat × Nat)} (kind : o.kind = .scratch f d co r lanes n) : execScratchpadLoadReturn c id s =
      .next (((s.makeWay c [o]).performKind c t.uid o).2.completeOp c t.uid ((s.makeWay c [o]).performKind c t.uid o).1) := by
  simp [execScratchpadLoadReturn, named, pending, kind]

theorem execStorePerformed_store (named : s.opAt c id = some (t, o)) (pending : o.done = false) (free : s.stuckOp c id = false)
    {lanes : List (Access × List Byte)} (kind : o.kind = .store lanes) :
    execStorePerformed c id s = .next ((s.performOp c t.uid o).2.completeOp c t.uid (s.performOp c t.uid o).1) := by
  simp [execStorePerformed, named, pending, free, kind]

theorem execAtomicPerformed_atom (named : s.opAt c id = some (t, o)) (pending : o.done = false) (free : s.stuckOp c id = false) {op : Nat} {d : Nat}
    {r : Bool} {tg : Option (Nat × Nat)} {lanes : List AtomLane} (kind : o.kind = .atom op d r tg lanes) (lane : Nat) :
    let s1 := (s.performEarlier c o.id o.lineRuns).makeWay c [o]
    let p := s1.atomPart c t (s1.opNow c o) (sameLocation lanes lane)
    execAtomicPerformed c id lane s = .next (p.2.putOp c t.uid p.1) := by
  simp [execAtomicPerformed, named, pending, free, kind]

theorem execCwbComplete_back (named : s.opAt c id = some (t, o)) (pending : o.done = false) (free : s.stuckOp c id = false)
    {runs : List (Nat × Nat)} (kind : o.kind = .cwb runs false) :
    execCwbComplete c id s = .next ((s.performOp c t.uid o).2.completeOp c t.uid (s.performOp c t.uid o).1) := by
  simp [execCwbComplete, named, pending, free, kind]

theorem execCinvComplete_drop (named : s.opAt c id = some (t, o)) (pending : o.done = false) (free : s.stuckOp c id = false)
    {runs : List (Nat × Nat)} (kind : o.kind = .cwb runs true) :
    execCinvComplete c id s = .next ((s.performOp c t.uid o).2.completeOp c t.uid (s.performOp c t.uid o).1) := by
  simp [execCinvComplete, named, pending, free, kind]

theorem execSfuResultReturn_sfu (named : s.opAt c id = some (t, o)) {d : Nat} {vals : List (Nat × Word × Option Word)} {fl : Word}
    (kind : o.kind = .sfu d vals fl) : execSfuResultReturn c id s = .next (s.completeOp c t.uid o) := by
  simp [execSfuResultReturn, named, kind]

theorem execTransReturn_trans (named : s.opAt c id = some (t, o)) {d p : Nat} {sc : Bool} {res : List (Nat × Option Nat)}
    (kind : o.kind = .trans d p sc res) : execTransReturn c id s = .next (s.completeOp c t.uid o) := by
  simp [execTransReturn, named, kind]

end

end Sys2Proof.Machine

section

open Sys2Proof Sys2Proof.Machine

/-- Settles O49: each event takes its operation's branch; the bytes a load reads, a store leaves and a surrendered page keeps come from the
lemmas about them. -/
theorem operationReturns : Obligations.OperationReturns := by
  unfold Obligations.OperationReturns
  refine ⟨fun s c id t o named pending free => ⟨?_, ?_, ?_, ?_, ?_, ?_, ?_, ?_, ?_, ?_, ?_, ?_⟩, ?_, ?_, ?_⟩
  · exact fun f d bs query => execLoadReturn_query named pending free query
  · exact fun f d sc ca lanes kind => execLoadReturn_load named pending free kind
  · exact fun f d co r lanes n kind => execScratchpadLoadReturn_scratch named pending kind
  · exact fun d vals fl kind => execSfuResultReturn_sfu named kind
  · exact fun d p sc res kind => execTransReturn_trans named kind
  · exact fun lanes kind => execStorePerformed_store named pending free kind
  · exact fun a b lanes kind alone => execRemoteStorePerformed_alone named pending kind alone
  · exact fun op d r tg lanes lane kind => execAtomicPerformed_atom named pending free kind lane
  · exact fun op d r lanes kind settled => execLoadReturn_atom named pending free kind settled
  · exact fun runs kind => execCwbComplete_back named pending free kind
  · exact fun runs kind => execCinvComplete_drop named pending free kind
  · exact fun d pg rest n kind here untorn closed whole => exec_pgsurrPageDone named free kind here untorn closed whole
  · intro s c x lanes key clean plain
    refine State.readLanes_uncached clean c x key fun a mem => ?_
    obtain ⟨inside, alike⟩ := plain a mem
    refine ⟨inside, ?_⟩
    cases loc : a.loc with
    | dev da swm uc hw => rwa [loc] at alike
    | host pa => trivial
  · exact fun s c uid o lanes store whole free quiet => State.performKind_store store whole free quiet
  · intro t o f d data kind clean _ once i low inside lanes
    exact ⟨fun e mem => Team.retire_loaded_lane kind clean once low inside lanes mem,
      fun l other => Team.retire_loaded_other kind clean low inside other⟩

end

namespace Sys2Proof.Encoding

/-! ### Words as runs of fields (R60, R72) -/

/-- One field of a word: its width and its bits. -/
abbrev Part := (n : Nat) × BitVec n

/-- The bits that a run of fields takes. -/
def width : List Part → Nat
  | [] => 0
  | e :: L => e.1 + width L

/-- The number that a run of fields makes, the first field highest. -/
def number : List Part → Nat
  | [] => 0
  | e :: L => e.2.toNat * 2 ^ width L + number L

/-- The lowest bits of a word are these fields, the last one from bit 0 up. -/
def Reads (w : Word) : List Part → Prop
  | [] => True
  | e :: L => field w (width L) e.1 = e.2 ∧ Reads w L

theorem field_toNat (w : Word) (lo n : Nat) : (field w lo n).toNat = w.toNat / 2 ^ lo % 2 ^ n := by
  rw [field, BitVec.extractLsb'_toNat, Nat.shiftRight_eq_div_pow]

theorem number_lt (L : List Part) : number L < 2 ^ width L := by
  induction L with
  | nil => exact Nat.one_pos
  | cons e L ih =>
    calc e.2.toNat * 2 ^ width L + number L
      _ < e.2.toNat * 2 ^ width L + 2 ^ width L := Nat.add_lt_add_left ih _
      _ = (e.2.toNat + 1) * 2 ^ width L := (Nat.succ_mul _ _).symm
      _ ≤ 2 ^ e.1 * 2 ^ width L := Nat.mul_le_mul_right _ e.2.isLt
      _ = 2 ^ width (e :: L) := (pow_add ..).symm

/-- A word reads as a run of fields exactly if they make the number of its lowest bits. -/
theorem reads_iff (w : Word) (L : List Part) : Reads w L ↔ w.toNat % 2 ^ width L = number L := by
  induction L with
  | nil => exact iff_of_true trivial (Nat.mod_one _)
  | cons e L ih =>
    have pos := Nat.two_pow_pos (width L)
    have top : w.toNat / 2 ^ width L % 2 ^ e.1 = w.toNat % 2 ^ width (e :: L) / 2 ^ width L := by
      rw [width, Nat.add_comm, pow_add, Nat.mod_mul_right_div_self]
    have rest : w.toNat % 2 ^ width L = w.toNat % 2 ^ width (e :: L) % 2 ^ width L := by
      rw [width, Nat.add_comm, pow_add, Nat.mod_mul_right_mod]
    rw [Reads, ih, BitVec.toNat_eq, field_toNat, top, rest, Nat.div_mod_unique pos, and_iff_left (number_lt L), number, eq_comm,
      Nat.add_comm, Nat.mul_comm]

/-- A run of 32 bits makes one word. -/
theorem reads_iff_eq {L : List Part} (h : width L = 32) (w : Word) : Reads w L ↔ BitVec.ofNat 32 (number L) = w := by
  have small := number_lt L
  rw [h] at small
  rw [reads_iff, h, Nat.mod_eq_of_lt w.isLt, BitVec.toNat_eq, BitVec.toNat_ofNat, Nat.mod_eq_of_lt small, eq_comm]

/-! ### The opcode map as runs of fields (R72 to R76) -/

/-- C, S, the major opcode and the body of a word (R60). -/
def row (c : BitVec 1) (w : BitVec 2) (major : BitVec 5) (body : List Part) : Option (List Part) :=
  some (⟨1, c⟩ :: ⟨2, w⟩ :: ⟨5, major⟩ :: body)

/-- The body with D, A, B, BC and FN. -/
def dabq (d a b : BitVec 6) (q : BitVec 2) (f : BitVec 4) : List Part := [⟨6, d⟩, ⟨6, a⟩, ⟨6, b⟩, ⟨2, q⟩, ⟨4, f⟩]

/-- The body of a packed word, FN[3] its format (R140). -/
def half (d a b : BitVec 6) (q : BitVec 2) (f : BitVec 1) (fn : BitVec 3) : List Part :=
  [⟨6, d⟩, ⟨6, a⟩, ⟨6, b⟩, ⟨2, q⟩, ⟨1, f⟩, ⟨3, fn⟩]

/-- The body of an atomic (R169). -/
def atom (d a : BitVec 6) (op : BitVec 4) (o : BitVec 2) (e : BitVec 3) (p r : BitVec 1) : List Part :=
  [⟨6, d⟩, ⟨6, a⟩, ⟨4, op⟩, ⟨2, o⟩, ⟨3, e⟩, ⟨1, p⟩, ⟨1, r⟩, ⟨1, 0⟩]

/-- The fields of each encoded instruction, highest first. -/
def layout : Instr → Option (List Part)
  | .nop c w => row c w 0 [⟨5, 0⟩, ⟨19, 0⟩]
  | .bra c w o => row c w 0 [⟨5, 1⟩, ⟨_, o⟩]
  | .brc c w z k o => row c w 0 [⟨5, 2⟩, ⟨_, z⟩, ⟨_, k⟩, ⟨_, o⟩]
  | .split c w p o => row c w 0 [⟨5, 3⟩, ⟨_, p⟩, ⟨_, o⟩]
  | .join c w => row c w 0 [⟨5, 4⟩, ⟨19, 0⟩]
  | .call c w l o => row c w 0 [⟨5, 5⟩, ⟨_, l⟩, ⟨_, o⟩]
  | .calli c w l t => row c w 0 [⟨5, 6⟩, ⟨_, l⟩, ⟨_, t⟩, ⟨7, 0⟩]
  | .ret c w t => row c w 0 [⟨5, 7⟩, ⟨_, t⟩, ⟨13, 0⟩]
  | .exit c w => row c w 0 [⟨5, 8⟩, ⟨19, 0⟩]
  | .trap c w k => row c w 0 [⟨5, 9⟩, ⟨11, 0⟩, ⟨_, k⟩]
  | .brk c w g => row c w 0 [⟨5, 10⟩, ⟨11, 0⟩, ⟨_, g⟩]
  | .waitcyc c w n => row c w 0 [⟨5, 11⟩, ⟨3, 0⟩, ⟨_, n⟩]
  | .yield c w => row c w 0 [⟨5, 12⟩, ⟨19, 0⟩]
  | .prio c w p => row c w 0 [⟨5, 13⟩, ⟨16, 0⟩, ⟨_, p⟩]
  | .srd c w d n => row c w 0 [⟨5, 14⟩, ⟨_, d⟩, ⟨5, 0⟩, ⟨_, n⟩]
  | .swr c w a n => row c w 0 [⟨5, 15⟩, ⟨_, a⟩, ⟨5, 0⟩, ⟨_, n⟩]
  | .trtag c w a g => row c w 0 [⟨5, 16⟩, ⟨_, a⟩, ⟨1, 0⟩, ⟨_, g⟩]
  | .rett c w k => row c w 0 [⟨5, 17⟩, ⟨18, 0⟩, ⟨_, k⟩]
  | .launch c w a => row c w 0 [⟨5, 18⟩, ⟨_, a⟩, ⟨13, 0⟩]
  | .spawn c w a e t => row c w 0 [⟨5, 19⟩, ⟨_, a⟩, ⟨_, e⟩, ⟨1, 0⟩, ⟨_, t⟩]
  | .waitc c w h a => row c w 1 [⟨5, 0⟩, ⟨_, h⟩, ⟨_, a⟩, ⟨10, 0⟩]
  | .waitci c w h n => row c w 1 [⟨5, 1⟩, ⟨_, h⟩, ⟨10, 0⟩, ⟨_, n⟩]
  | .bar c w b => row c w 1 [⟨5, 2⟩, ⟨_, b⟩, ⟨15, 0⟩]
  | .bara c w b => row c w 1 [⟨5, 3⟩, ⟨_, b⟩, ⟨15, 0⟩]
  | .barw c w b => row c w 1 [⟨5, 4⟩, ⟨_, b⟩, ⟨15, 0⟩]
  | .fence c w o e => row c w 1 [⟨5, 5⟩, ⟨_, o⟩, ⟨_, e⟩, ⟨14, 0⟩]
  | .qfence c w m => row c w 1 [⟨5, 6⟩, ⟨14, 0⟩, ⟨_, m⟩]
  | .spout c w n a => row c w 1 [⟨5, 7⟩, ⟨_, n⟩, ⟨_, a⟩, ⟨11, 0⟩]
  | .grow c w => row c w 1 [⟨5, 8⟩, ⟨19, 0⟩]
  | .growt c w k => row c w 1 [⟨5, 9⟩, ⟨_, k⟩, ⟨17, 0⟩]
  | .shrink c w => row c w 1 [⟨5, 10⟩, ⟨19, 0⟩]
  | .sadd c w d a b q => row c w 2 (dabq d a b q 0)
  | .ssub c w d a b q => row c w 2 (dabq d a b q 1)
  | .smul c w d a b q => row c w 2 (dabq d a b q 2)
  | .smulh c w d a b q => row c w 2 (dabq d a b q 3)
  | .sand c w d a b q => row c w 2 (dabq d a b q 4)
  | .sor c w d a b q => row c w 2 (dabq d a b q 5)
  | .sxor c w d a b q => row c w 2 (dabq d a b q 6)
  | .sshl c w d a b q => row c w 2 (dabq d a b q 7)
  | .sshr c w d a b q => row c w 2 (dabq d a b q 8)
  | .ssra c w d a b q => row c w 2 (dabq d a b q 9)
  | .smin c w d a b q => row c w 2 (dabq d a b q 10)
  | .smax c w d a b q => row c w 2 (dabq d a b q 11)
  | .sminu c w d a b q => row c w 2 (dabq d a b q 12)
  | .smaxu c w d a b q => row c w 2 (dabq d a b q 13)
  | .saddw c w d a b q => row c w 2 (dabq d a b q 14)
  | .scmp c w k e a b q => row c w 2 [⟨_, k⟩, ⟨_, e⟩, ⟨1, 0⟩, ⟨_, a⟩, ⟨_, b⟩, ⟨_, q⟩, ⟨4, 15⟩]
  | .saddi c w d a i => row c w 3 [⟨_, d⟩, ⟨_, a⟩, ⟨_, i⟩]
  | .smovi c w d i => row c w 4 [⟨_, d⟩, ⟨_, i⟩]
  | .ext x => row 0 0 26 [⟨_, x⟩]
  | .vadd c w d a b q => row c w 5 (dabq d a b q 0)
  | .vsub c w d a b q => row c w 5 (dabq d a b q 1)
  | .vmul c w d a b q => row c w 5 (dabq d a b q 2)
  | .vmulh c w d a b q => row c w 5 (dabq d a b q 3)
  | .vmulhu c w d a b q => row c w 5 (dabq d a b q 4)
  | .vand c w d a b q => row c w 5 (dabq d a b q 5)
  | .vor c w d a b q => row c w 5 (dabq d a b q 6)
  | .vxor c w d a b q => row c w 5 (dabq d a b q 7)
  | .vshl c w d a b q => row c w 5 (dabq d a b q 8)
  | .vshr c w d a b q => row c w 5 (dabq d a b q 9)
  | .vsra c w d a b q => row c w 5 (dabq d a b q 10)
  | .vmin c w d a b q => row c w 5 (dabq d a b q 11)
  | .vmax c w d a b q => row c w 5 (dabq d a b q 12)
  | .vminu c w d a b q => row c w 5 (dabq d a b q 13)
  | .vmaxu c w d a b q => row c w 5 (dabq d a b q 14)
  | .vaddw c w d a b q => row c w 5 (dabq d a b q 15)
  | .vaddi c w d a i => row c w 27 [⟨_, d⟩, ⟨_, a⟩, ⟨_, i⟩]
  | .vmad c w d a b j => row c w 7 [⟨_, d⟩, ⟨_, a⟩, ⟨_, b⟩, ⟨_, j⟩]
  | .vmov c w d b q => row c w 6 (dabq d 0 b q 0)
  | .vpopc c w d b q => row c w 6 (dabq d 0 b q 1)
  | .vclz c w d b q => row c w 6 (dabq d 0 b q 2)
  | .vlane c w d => row c w 6 [⟨_, d⟩, ⟨14, 0⟩, ⟨4, 3⟩]
  | .vitem c w d => row c w 6 [⟨_, d⟩, ⟨14, 0⟩, ⟨4, 4⟩]
  | .vbrev c w d b q => row c w 6 (dabq d 0 b q 5)
  | .vnot c w d b q => row c w 6 (dabq d 0 b q 6)
  | .vabs c w d b q => row c w 6 (dabq d 0 b q 7)
  | .vcvtI2f c w d b q => row c w 6 (dabq d 0 b q 8)
  | .vcvtU2f c w d b q => row c w 6 (dabq d 0 b q 9)
  | .vcvtF2i c w d b q => row c w 6 (dabq d 0 b q 10)
  | .vcvtF2u c w d b q => row c w 6 (dabq d 0 b q 11)
  | .vcvtF2h c w d b q => row c w 6 (dabq d 0 b q 12)
  | .vcvtH2f c w d b q => row c w 6 (dabq d 0 b q 13)
  | .vbfx c w d a b q => row c w 6 (dabq d a b q 14)
  | .vfadd c w d a b q => row c w 8 (dabq d a b q 0)
  | .vfsub c w d a b q => row c w 8 (dabq d a b q 1)
  | .vfmul c w d a b q => row c w 8 (dabq d a b q 2)
  | .vfmin c w d a b q => row c w 8 (dabq d a b q 3)
  | .vfmax c w d a b q => row c w 8 (dabq d a b q 4)
  | .vfneg c w d b q => row c w 8 (dabq d 0 b q 5)
  | .vfabs c w d b q => row c w 8 (dabq d 0 b q 6)
  | .vfclass c w d b q => row c w 8 (dabq d 0 b q 7)
  | .vqfac c w d a b q => row c w 8 (dabq d a b q 8)
  | .vqnorm c w d a b q => row c w 8 (dabq d a b q 9)
  | .vfma c w d a b j => row c w 9 [⟨_, d⟩, ⟨_, a⟩, ⟨_, b⟩, ⟨_, j⟩]
  | .vhadd c w d a b q f => row c w 10 (half d a b q f 0)
  | .vhsub c w d a b q f => row c w 10 (half d a b q f 1)
  | .vhmul c w d a b q f => row c w 10 (half d a b q f 2)
  | .vhmin c w d a b q f => row c w 10 (half d a b q f 3)
  | .vhmax c w d a b q f => row c w 10 (half d a b q f 4)
  | .vhdot c w d a b q f => row c w 10 (half d a b q f 5)
  | .vhneg c w d b q f => row c w 10 (half d 0 b q f 6)
  | .vhabs c w d b q f => row c w 10 (half d 0 b q f 7)
  | .vhfmaBf c w d a b j => row c w 11 [⟨_, d⟩, ⟨_, a⟩, ⟨_, b⟩, ⟨_, j⟩]
  | .vhfmaHf c w d a b j => row c w 12 [⟨_, d⟩, ⟨_, a⟩, ⟨_, b⟩, ⟨_, j⟩]
  | .vcmpS c w p e a b q => row c w 13 [⟨_, p⟩, ⟨_, e⟩, ⟨_, a⟩, ⟨_, b⟩, ⟨_, q⟩, ⟨4, 0⟩]
  | .vcmpU c w p e a b q => row c w 13 [⟨_, p⟩, ⟨_, e⟩, ⟨_, a⟩, ⟨_, b⟩, ⟨_, q⟩, ⟨4, 1⟩]
  | .vcmpF c w p e a b q => row c w 13 [⟨_, p⟩, ⟨_, e⟩, ⟨_, a⟩, ⟨_, b⟩, ⟨_, q⟩, ⟨4, 2⟩]
  | .pand c w p a b => row c w 13 [⟨_, p⟩, ⟨6, 0⟩, ⟨_, a⟩, ⟨3, 0⟩, ⟨_, b⟩, ⟨2, 0⟩, ⟨4, 3⟩]
  | .por c w p a b => row c w 13 [⟨_, p⟩, ⟨6, 0⟩, ⟨_, a⟩, ⟨3, 0⟩, ⟨_, b⟩, ⟨2, 0⟩, ⟨4, 4⟩]
  | .pxor c w p a b => row c w 13 [⟨_, p⟩, ⟨6, 0⟩, ⟨_, a⟩, ⟨3, 0⟩, ⟨_, b⟩, ⟨2, 0⟩, ⟨4, 5⟩]
  | .pnot c w p b => row c w 13 [⟨_, p⟩, ⟨12, 0⟩, ⟨_, b⟩, ⟨2, 0⟩, ⟨4, 6⟩]
  | .vsel c w d a b q r => row c w 13 [⟨_, d⟩, ⟨_, a⟩, ⟨_, b⟩, ⟨_, q⟩, ⟨1, 1⟩, ⟨_, r⟩]
  | .vrcp c w d b q => row c w 14 (dabq d 0 b q 0)
  | .vrsq c w d b q => row c w 14 (dabq d 0 b q 1)
  | .vsqrt c w d b q => row c w 14 (dabq d 0 b q 2)
  | .vexp2 c w d b q => row c w 14 (dabq d 0 b q 3)
  | .vlog2 c w d b q => row c w 14 (dabq d 0 b q 4)
  | .vsin c w d b q => row c w 14 (dabq d 0 b q 5)
  | .vcos c w d b q => row c w 14 (dabq d 0 b q 6)
  | .vtanh c w d b q => row c w 14 (dabq d 0 b q 7)
  | .vshfl c w d a b q => row c w 15 (dabq d a b q 0)
  | .vshflu c w d a b q => row c w 15 (dabq d a b q 1)
  | .vshfld c w d a b q => row c w 15 (dabq d a b q 2)
  | .vshflx c w d a b q => row c w 15 (dabq d a b q 3)
  | .vbcast c w d a b q => row c w 15 (dabq d a b q 4)
  | .vballot c w d p => row c w 15 [⟨_, d⟩, ⟨3, 0⟩, ⟨_, p⟩, ⟨8, 0⟩, ⟨4, 5⟩]
  | .vany c w k p => row c w 15 [⟨_, k⟩, ⟨7, 0⟩, ⟨_, p⟩, ⟨8, 0⟩, ⟨4, 6⟩]
  | .vall c w k p => row c w 15 [⟨_, k⟩, ⟨7, 0⟩, ⟨_, p⟩, ⟨8, 0⟩, ⟨4, 7⟩]
  | .vmredAdd c w d a b q => row c w 15 (dabq d a b q 8)
  | .vmredMin c w d a b q => row c w 15 (dabq d a b q 9)
  | .vmredMax c w d a b q => row c w 15 (dabq d a b q 10)
  | .vscanAdd c w d a t => row c w 15 [⟨_, d⟩, ⟨_, a⟩, ⟨5, 0⟩, ⟨_, t⟩, ⟨2, 3⟩, ⟨4, 11⟩]
  | .vscanxAdd c w d a t => row c w 15 [⟨_, d⟩, ⟨_, a⟩, ⟨5, 0⟩, ⟨_, t⟩, ⟨2, 3⟩, ⟨4, 12⟩]
  | .vredgAdd c w d a t => row c w 15 [⟨_, d⟩, ⟨_, a⟩, ⟨5, 0⟩, ⟨_, t⟩, ⟨2, 3⟩, ⟨4, 13⟩]
  | .vredgMax c w d a t => row c w 15 [⟨_, d⟩, ⟨_, a⟩, ⟨5, 0⟩, ⟨_, t⟩, ⟨2, 3⟩, ⟨4, 14⟩]
  | .vmatch c w d a => row c w 15 [⟨_, d⟩, ⟨_, a⟩, ⟨8, 0⟩, ⟨4, 15⟩]
  | .ldg c w d a o q f => row c w 16 (dabq d a o q f)
  | .stg c w d a o q f => row c w 17 (dabq d a o q f)
  | .ldu c w d a o q f => row c w 28 (dabq d a o q f)
  | .lds c w d a o fh fl => row c w 18 [⟨_, d⟩, ⟨_, a⟩, ⟨_, o⟩, ⟨2, 0⟩, ⟨_, fh⟩, ⟨1, 0⟩, ⟨_, fl⟩]
  | .sts c w d a o fh fl => row c w 19 [⟨_, d⟩, ⟨_, a⟩, ⟨_, o⟩, ⟨2, 0⟩, ⟨_, fh⟩, ⟨1, 0⟩, ⟨_, fl⟩]
  | .ldsR c w d a x y g => row c w 18 [⟨_, d⟩, ⟨_, a⟩, ⟨_, x⟩, ⟨_, y⟩, ⟨1, 1⟩, ⟨_, g⟩]
  | .stsR c w d a x y g => row c w 19 [⟨_, d⟩, ⟨_, a⟩, ⟨_, x⟩, ⟨_, y⟩, ⟨1, 1⟩, ⟨_, g⟩]
  | .atomAdd c w d a o e p r => row c w 20 (atom d a 0 o e p r)
  | .atomMin c w d a o e p r => row c w 20 (atom d a 1 o e p r)
  | .atomMax c w d a o e p r => row c w 20 (atom d a 2 o e p r)
  | .atomMinu c w d a o e p r => row c w 20 (atom d a 3 o e p r)
  | .atomMaxu c w d a o e p r => row c w 20 (atom d a 4 o e p r)
  | .atomAnd c w d a o e p r => row c w 20 (atom d a 5 o e p r)
  | .atomOr c w d a o e p r => row c w 20 (atom d a 6 o e p r)
  | .atomXor c w d a o e p r => row c w 20 (atom d a 7 o e p r)
  | .atomExch c w d a o e p r => row c w 20 (atom d a 8 o e p r)
  | .atomCas c w d a o e p r => row c w 20 (atom d a 9 o e p r)
  | .atomFaddF32 c w d a o e p r => row c w 20 (atom d a 10 o e p r)
  | .atomFaddBf16x2 c w d a o e p r => row c w 20 (atom d a 11 o e p r)
  | .atomLd c w d a o e p r => row c w 20 (atom d a 12 o e p r)
  | .atomSt c w d a o e p r => row c w 20 (atom d a 13 o e p r)
  | .atomAddW c w d a o e p r => row c w 20 (atom d a 14 o e p r)
  | .cwb c w a n => row c w 21 [⟨5, 0⟩, ⟨_, a⟩, ⟨_, n⟩, ⟨7, 0⟩]
  | .cinv c w a n => row c w 21 [⟨5, 1⟩, ⟨_, a⟩, ⟨_, n⟩, ⟨7, 0⟩]
  | .pf c w a n l => row c w 21 [⟨5, 2⟩, ⟨_, a⟩, ⟨_, n⟩, ⟨_, l⟩, ⟨6, 0⟩]
  | .trans c w d t p => row c w 21 [⟨5, 3⟩, ⟨_, d⟩, ⟨_, t⟩, ⟨_, p⟩, ⟨4, 0⟩]
  | .transS c w d t => row c w 21 [⟨5, 4⟩, ⟨_, d⟩, ⟨_, t⟩, ⟨7, 0⟩]
  | .rsvq c w d i => row c w 21 [⟨5, 5⟩, ⟨_, d⟩, ⟨_, i⟩, ⟨11, 0⟩]
  | .blnq c w d => row c w 21 [⟨5, 6⟩, ⟨_, d⟩, ⟨13, 0⟩]
  | .pgsurr c w d a n => row c w 21 [⟨5, 7⟩, ⟨_, d⟩, ⟨_, a⟩, ⟨_, n⟩, ⟨1, 0⟩]
  | .blnack c w a => row c w 21 [⟨5, 8⟩, ⟨_, a⟩, ⟨13, 0⟩]
  | .blkq c w d a => row c w 21 [⟨5, 9⟩, ⟨_, d⟩, ⟨_, a⟩, ⟨7, 0⟩]
  | .mzero c w i p q b => row c w 22 [⟨4, 0⟩, ⟨_, i⟩, ⟨_, p⟩, ⟨_, q⟩, ⟨_, b⟩]
  | .mload c w i p q b => row c w 22 [⟨4, 1⟩, ⟨_, i⟩, ⟨_, p⟩, ⟨_, q⟩, ⟨_, b⟩]
  | .mloads c w i p q b => row c w 22 [⟨4, 2⟩, ⟨_, i⟩, ⟨_, p⟩, ⟨_, q⟩, ⟨_, b⟩]
  | .mswap c w i p q => row c w 22 [⟨4, 3⟩, ⟨_, i⟩, ⟨_, p⟩, ⟨_, q⟩, ⟨5, 0⟩]
  | .mstream c w i p q b => row c w 22 [⟨4, 4⟩, ⟨_, i⟩, ⟨_, p⟩, ⟨_, q⟩, ⟨_, b⟩]
  | .mstore c w i p q b => row c w 22 [⟨4, 5⟩, ⟨_, i⟩, ⟨_, p⟩, ⟨_, q⟩, ⟨_, b⟩]
  | .mscale c w i p q b => row c w 22 [⟨4, 6⟩, ⟨_, i⟩, ⟨_, p⟩, ⟨_, q⟩, ⟨_, b⟩]
  | .mfence c w => row c w 22 [⟨4, 7⟩, ⟨20, 0⟩]
  | .mwait c w b => row c w 22 [⟨4, 8⟩, ⟨15, 0⟩, ⟨_, b⟩]
  | .merrq c w b => row c w 22 [⟨4, 9⟩, ⟨15, 0⟩, ⟨_, b⟩]
  | .mstat c w b => row c w 22 [⟨4, 10⟩, ⟨15, 0⟩, ⟨_, b⟩]
  | .cpyG2s c w q b n => row c w 23 [⟨4, 0⟩, ⟨_, q⟩, ⟨6, 0⟩, ⟨_, b⟩, ⟨_, n⟩]
  | .cpyS2g c w q b n => row c w 23 [⟨4, 1⟩, ⟨_, q⟩, ⟨6, 0⟩, ⟨_, b⟩, ⟨_, n⟩]
  | .cpyS2s c w q b n => row c w 23 [⟨4, 2⟩, ⟨_, q⟩, ⟨6, 0⟩, ⟨_, b⟩, ⟨_, n⟩]
  | .cpyGth c w q b n => row c w 23 [⟨4, 3⟩, ⟨_, q⟩, ⟨6, 0⟩, ⟨_, b⟩, ⟨_, n⟩]
  | .cpySct c w q b n => row c w 23 [⟨4, 4⟩, ⟨_, q⟩, ⟨6, 0⟩, ⟨_, b⟩, ⟨_, n⟩]
  | .cpyFill c w q b n => row c w 23 [⟨4, 5⟩, ⟨_, q⟩, ⟨6, 0⟩, ⟨_, b⟩, ⟨_, n⟩]
  | .cgrp c w b g => row c w 24 [⟨4, 0⟩, ⟨8, 0⟩, ⟨_, b⟩, ⟨4, 0⟩, ⟨_, g⟩]
  | .cag c w b g => row c w 24 [⟨4, 1⟩, ⟨8, 0⟩, ⟨_, b⟩, ⟨4, 0⟩, ⟨_, g⟩]
  | .crs c w b g => row c w 24 [⟨4, 2⟩, ⟨8, 0⟩, ⟨_, b⟩, ⟨4, 0⟩, ⟨_, g⟩]
  | .car c w b g => row c w 24 [⟨4, 3⟩, ⟨8, 0⟩, ⟨_, b⟩, ⟨4, 0⟩, ⟨_, g⟩]
  | .ca2a c w b g => row c w 24 [⟨4, 4⟩, ⟨8, 0⟩, ⟨_, b⟩, ⟨4, 0⟩, ⟨_, g⟩]
  | .cbar c w g => row c w 24 [⟨4, 5⟩, ⟨18, 0⟩, ⟨_, g⟩]
  | .run c w o => row c w 25 [⟨5, 0⟩, ⟨3, 0⟩, ⟨_, o⟩]
  | .rstop c w => row c w 25 [⟨5, 1⟩, ⟨19, 0⟩]
  | .qpop c w d q => row c w 25 [⟨5, 2⟩, ⟨_, d⟩, ⟨_, q⟩, ⟨11, 0⟩]
  | .qpops c w d q => row c w 25 [⟨5, 3⟩, ⟨_, d⟩, ⟨_, q⟩, ⟨11, 0⟩]
  | .qpush c w a q f => row c w 25 [⟨5, 4⟩, ⟨_, a⟩, ⟨_, q⟩, ⟨_, f⟩, ⟨10, 0⟩]
  | .qstat c w d q => row c w 25 [⟨5, 5⟩, ⟨_, d⟩, ⟨_, q⟩, ⟨11, 0⟩]
  | _ => none

/-- The bits of a word are the fields of an instruction. -/
def Fits (w : Word) (i : Instr) : Prop := ∃ L, layout i = some L ∧ Reads w L

theorem width_layout {i : Instr} {L : List Part} (h : layout i = some L) : width L = 32 := by
  cases i <;> cases h <;> simp only [dabq, half, atom, width, Nat.reduceAdd]

/-- The word of an instruction is what its fields make. -/
theorem encode_eq (i : Instr) : encode i = (layout i).map fun L => BitVec.ofNat 32 (number L) := by
  cases i <;> dsimp only [encode, layout, row, dabq, half, atom, Option.map, number, width]
  all_goals
    simp only [BitVec.reduceToNat, Nat.reduceAdd, Nat.reducePow, Nat.reduceMul]
    refine congrArg (fun n => some (BitVec.ofNat 32 n)) ?_
    ring

/-- A word encodes an instruction exactly if its bits are the instruction's fields. -/
theorem encode_eq_some_iff {i : Instr} {w : Word} : encode i = some w ↔ Fits w i := by
  rw [encode_eq, Option.map_eq_some_iff, Fits]
  refine exists_congr fun L => and_congr_right fun h => ?_
  rw [reads_iff_eq (width_layout h) w]

/-- Whatever the decoder answers fits the word. -/
def Sound (w : Word) (r : Except Reject Instr) : Prop := ∀ i, r = .ok i → Fits w i

theorem sound_ok {w : Word} {i : Instr} : Sound w (.ok i) ↔ Fits w i :=
  ⟨fun h => h i rfl, fun h _ e => Except.ok.inj e ▸ h⟩

theorem sound_error (w : Word) (r : Reject) : Sound w (.error r) := fun _ e => nomatch e

theorem sound_keep {w : Word} {i : Instr} {ok : Bool} : Sound w (keep ok i) ↔ (ok = true → Fits w i) := by
  cases ok
  · exact iff_of_true (sound_error w _) nofun
  · rw [eq_self, true_imp_iff]
    exact sound_ok

/-- FN is FN[3] and the bits below it (R140, R145). -/
theorem fn_toNat (w : Word) : (field w 0 4).toNat = 8 * (field w 3 1).toNat + (field w 0 3).toNat := by
  simp only [field_toNat]
  omega

theorem sound_decodeScratch {w : Word} {store : Bool} (major : (field w 24 5).toNat = if store then 19 else 18) :
    Sound w (decodeScratch w (field w 31 1) (field w 29 2) store) := by
  unfold decodeScratch
  split
  case isTrue two =>
    cases store
    all_goals
      refine sound_ok.mpr ⟨_, rfl, ?_⟩
      simp [BitVec.toNat_eq] at major two
      simp [Reads, width, BitVec.toNat_eq, major, two]
  case isFalse two =>
    rw [sound_keep]
    intro zero
    cases store
    all_goals
      refine ⟨_, rfl, ?_⟩
      simp [Reads, width, BitVec.toNat_eq] at major two zero ⊢
      omega

/-- Each arm of the decoder tests the fixed fields of its row and takes the others as operands. -/
theorem sound_decodeWord (w : Word) : Sound w (decodeWord w) := by
  unfold decodeWord decodeCtl decodeSync decodeSalu decodeVint decodeVuni decodeVfp decodeVhp decodeVcmp decodeVsfu decodeXln decodeAtom decodeMemx
    decodeMtx decodeCpy decodeCol decodeRunq
  dsimp only
  repeat' split
  all_goals
    simp only [sound_ok, sound_error, sound_keep, sound_decodeScratch, Bool.and_eq_true, beq_iff_eq, eq_self, Bool.false_eq_true, if_true, if_false, *]
  all_goals
    intros
    refine ⟨_, rfl, ?_⟩
    simp only [dabq, half, atom, Reads, width, Nat.reduceAdd, BitVec.toNat_eq, BitVec.reduceToNat, true_and, and_true, *]
  case h_27.isTrue flags => simpa [BitVec.toNat_eq] using flags
  -- FN[3] of a VSEL is set: its FN is 8 or more.
  all_goals
    have fn := fn_toNat w
    omega

/-! ### The decoder of each unit (R75) -/

theorem decodeWord_ctl {w : Word} (major : field w 24 5 = 0) : decodeWord w = decodeCtl w (field w 31 1) (field w 29 2) := by
  rw [decodeWord, major]; rfl
theorem decodeWord_sync {w : Word} (major : field w 24 5 = 1) : decodeWord w = decodeSync w (field w 31 1) (field w 29 2) := by
  rw [decodeWord, major]; rfl
theorem decodeWord_salu {w : Word} (major : field w 24 5 = 2) : decodeWord w = decodeSalu w (field w 31 1) (field w 29 2) := by
  rw [decodeWord, major]; rfl
theorem decodeWord_vint {w : Word} (major : field w 24 5 = 5) : decodeWord w = decodeVint w (field w 31 1) (field w 29 2) := by
  rw [decodeWord, major]; rfl
theorem decodeWord_vuni {w : Word} (major : field w 24 5 = 6) : decodeWord w = decodeVuni w (field w 31 1) (field w 29 2) := by
  rw [decodeWord, major]; rfl
theorem decodeWord_vfp {w : Word} (major : field w 24 5 = 8) : decodeWord w = decodeVfp w (field w 31 1) (field w 29 2) := by
  rw [decodeWord, major]; rfl
theorem decodeWord_vhp {w : Word} (major : field w 24 5 = 10) : decodeWord w = decodeVhp w (field w 31 1) (field w 29 2) := by
  rw [decodeWord, major]; rfl
theorem decodeWord_vcmp {w : Word} (major : field w 24 5 = 13) : decodeWord w = decodeVcmp w (field w 31 1) (field w 29 2) := by
  rw [decodeWord, major]; rfl
theorem decodeWord_vsfu {w : Word} (major : field w 24 5 = 14) : decodeWord w = decodeVsfu w (field w 31 1) (field w 29 2) := by
  rw [decodeWord, major]; rfl
theorem decodeWord_xln {w : Word} (major : field w 24 5 = 15) : decodeWord w = decodeXln w (field w 31 1) (field w 29 2) := by
  rw [decodeWord, major]; rfl
theorem decodeWord_atom {w : Word} (major : field w 24 5 = 20) : decodeWord w = decodeAtom w (field w 31 1) (field w 29 2) := by
  rw [decodeWord, major]; rfl
theorem decodeWord_memx {w : Word} (major : field w 24 5 = 21) : decodeWord w = decodeMemx w (field w 31 1) (field w 29 2) := by
  rw [decodeWord, major]; rfl
theorem decodeWord_mtx {w : Word} (major : field w 24 5 = 22) : decodeWord w = decodeMtx w (field w 31 1) (field w 29 2) := by
  rw [decodeWord, major]; rfl
theorem decodeWord_cpy {w : Word} (major : field w 24 5 = 23) : decodeWord w = decodeCpy w (field w 31 1) (field w 29 2) := by
  rw [decodeWord, major]; rfl
theorem decodeWord_col {w : Word} (major : field w 24 5 = 24) : decodeWord w = decodeCol w (field w 31 1) (field w 29 2) := by
  rw [decodeWord, major]; rfl
theorem decodeWord_runq {w : Word} (major : field w 24 5 = 25) : decodeWord w = decodeRunq w (field w 31 1) (field w 29 2) := by
  rw [decodeWord, major]; rfl
theorem decodeWord_lds {w : Word} (major : field w 24 5 = 18) : decodeWord w = decodeScratch w (field w 31 1) (field w 29 2) false := by
  rw [decodeWord, major]; rfl
theorem decodeWord_sts {w : Word} (major : field w 24 5 = 19) : decodeWord w = decodeScratch w (field w 31 1) (field w 29 2) true := by
  rw [decodeWord, major]; rfl

/-- The bits that must be zero are zero. -/
theorem keep_true (i : Instr) : keep true i = .ok i := rfl

/-- FN 8 to 15 are VSEL, the predicate in the bits below FN[3] (R145). -/
theorem decodeVcmp_vsel {w : Word} (c : BitVec 1) (s : BitVec 2) (fn3 : field w 3 1 = 1) :
    decodeVcmp w c s = .ok (.vsel c s (field w 18 6) (field w 12 6) (field w 6 6) (field w 4 2) (field w 0 3)) := by
  have fn := fn_toNat w
  have one : (field w 3 1).toNat = 1 := congrArg BitVec.toNat fn3
  unfold decodeVcmp
  split <;> try omega
  case h_16 =>
    simp only [imp_false] at *
    omega
  all_goals rfl

/-- A word whose bits are the fields of an instruction takes its row of the decoder. -/
theorem decodeWord_of_fits {i : Instr} {w : Word} (h : Fits w i) : decodeWord w = .ok i := by
  obtain ⟨L, h, reads⟩ := h
  cases i <;> cases h
  all_goals
    simp only [dabq, half, atom, Reads, width, Nat.reduceAdd, and_true] at reads
    obtain ⟨chain, stall, major, body⟩ := reads
  case nop | bra | brc | split | join | call | calli | ret | exit | trap | brk | waitcyc | yield | prio | srd | swr | trtag | rett | launch | spawn =>
    rw [decodeWord_ctl major, chain, stall]
    simp only [decodeCtl, body, BitVec.reduceToNat, BEq.rfl, keep_true]
  case waitc | waitci | bar | bara | barw | fence | qfence | spout | grow | growt | shrink =>
    rw [decodeWord_sync major, chain, stall]
    simp only [decodeSync, body, BitVec.reduceToNat, BEq.rfl, keep_true]
  case sadd | ssub | smul | smulh | sand | sor | sxor | sshl | sshr | ssra | smin | smax | sminu | smaxu | saddw | scmp =>
    rw [decodeWord_salu major, chain, stall]
    simp only [decodeSalu, body, BitVec.reduceToNat, BEq.rfl, keep_true]
  case vadd | vsub | vmul | vmulh | vmulhu | vand | vor | vxor | vshl | vshr | vsra | vmin | vmax | vminu | vmaxu | vaddw =>
    rw [decodeWord_vint major, chain, stall]
    simp only [decodeVint, body, BitVec.reduceToNat]
  case vmov | vpopc | vclz | vlane | vitem | vbrev | vnot | vabs | vcvtI2f | vcvtU2f | vcvtF2i | vcvtF2u | vcvtF2h | vcvtH2f | vbfx =>
    rw [decodeWord_vuni major, chain, stall]
    simp only [decodeVuni, body, BitVec.reduceToNat, BEq.rfl, keep_true]
  case vfadd | vfsub | vfmul | vfmin | vfmax | vfneg | vfabs | vfclass | vqfac | vqnorm =>
    rw [decodeWord_vfp major, chain, stall]
    simp only [decodeVfp, body, BitVec.reduceToNat, BEq.rfl, keep_true]
  case vhadd | vhsub | vhmul | vhmin | vhmax | vhdot | vhneg | vhabs =>
    rw [decodeWord_vhp major, chain, stall]
    simp only [decodeVhp, body, BitVec.reduceToNat, BEq.rfl, keep_true]
  case vcmpS | vcmpU | vcmpF | pand | por | pxor | pnot =>
    rw [decodeWord_vcmp major, chain, stall]
    simp only [decodeVcmp, body, BitVec.reduceToNat, BEq.rfl, Bool.and_true, keep_true]
  case vsel =>
    obtain ⟨d, a, b, q, fn3, p⟩ := body
    rw [decodeWord_vcmp major, chain, stall, decodeVcmp_vsel _ _ fn3, d, a, b, q, p]
  case vrcp | vrsq | vsqrt | vexp2 | vlog2 | vsin | vcos | vtanh =>
    rw [decodeWord_vsfu major, chain, stall]
    simp only [decodeVsfu, body, BitVec.reduceToNat, BEq.rfl, keep_true]
  case vshfl | vshflu | vshfld | vshflx | vbcast | vballot | vany | vall | vmredAdd | vmredMin | vmredMax | vscanAdd | vscanxAdd | vredgAdd | vredgMax | vmatch =>
    rw [decodeWord_xln major, chain, stall]
    simp only [decodeXln, body, BitVec.reduceToNat, BEq.rfl, Bool.and_true, keep_true]
  case atomAdd | atomMin | atomMax | atomMinu | atomMaxu | atomAnd | atomOr | atomXor | atomExch | atomCas | atomFaddF32 | atomFaddBf16x2 | atomLd | atomSt | atomAddW =>
    rw [decodeWord_atom major, chain, stall]
    simp only [decodeAtom, body, BitVec.reduceToNat, BEq.rfl, keep_true]
  case cwb | cinv | pf | trans | transS | rsvq | blnq | pgsurr | blnack | blkq =>
    rw [decodeWord_memx major, chain, stall]
    simp only [decodeMemx, body, BitVec.reduceToNat, BEq.rfl, keep_true]
  case mzero | mload | mloads | mswap | mstream | mstore | mscale | mfence | mwait | merrq | mstat =>
    rw [decodeWord_mtx major, chain, stall]
    simp only [decodeMtx, body, BitVec.reduceToNat, BEq.rfl, keep_true]
  case cpyG2s | cpyS2g | cpyS2s | cpyGth | cpySct | cpyFill =>
    rw [decodeWord_cpy major, chain, stall]
    simp only [decodeCpy, body, BitVec.reduceToNat, BEq.rfl, keep_true]
  case cgrp | cag | crs | car | ca2a | cbar =>
    rw [decodeWord_col major, chain, stall]
    simp only [decodeCol, body, BitVec.reduceToNat, BEq.rfl, Bool.and_true, keep_true]
  case run | rstop | qpop | qpops | qpush | qstat =>
    rw [decodeWord_runq major, chain, stall]
    simp only [decodeRunq, body, BitVec.reduceToNat, BEq.rfl, keep_true]
  case lds | ldsR =>
    rw [decodeWord_lds major, chain, stall]
    simp [decodeScratch, body, keep_true]
  case sts | stsR =>
    rw [decodeWord_sts major, chain, stall]
    simp [decodeScratch, body, keep_true]
  all_goals
    rw [decodeWord, chain, stall, major]
    simp only [BitVec.reduceToNat, body, BEq.rfl, Bool.and_true, if_true]

end Sys2Proof.Encoding

section

open Sys2Proof Sys2Proof.Encoding

/-- Settles O2: the word of an instruction has the instruction's fields, and a word with these fields takes its row of the decoder. -/
theorem decodeOfEncode : Obligations.DecodeOfEncode :=
  fun _ _ h => decodeWord_of_fits (encode_eq_some_iff.mp h)

/-- Settles O3: the row by which a word decodes tests or takes each of its bits. -/
theorem encodeOfDecode : Obligations.EncodeOfDecode :=
  fun w i h => encode_eq_some_iff.mpr (sound_decodeWord w i h)

end

namespace Sys2Proof.Machine

/-! ### Fixed latencies (R66) -/

/-- Of the older producers of a register, the ones that a new write of lane 0 has not overtaken. -/
theorem Path.pushLag_find (p : Path) (n : Nat) (old : List Word) (ready now : Nat) :
    ((p.pushLag n 0 1 old ready now).lag.find? fun g => g.reg == n && g.slice == 0 && g.mask.getLsbD 0) =
      if now + 1 < ready then some ⟨n, 0, 1, old, ready, p.pc, p.word⟩ else none := by
  have overtaken : ((((p.lag.map fun g => if g.reg = n ∧ g.slice = 0 then { g with mask := g.mask &&& ~~~ (1 : Word) } else g).filter
      fun g => g.mask != 0 && decide (now < g.ready))).find? fun g => g.reg == n && g.slice == 0 && g.mask.getLsbD 0) = none := by
    refine List.find?_eq_none.mpr fun g kept => ?_
    obtain ⟨g', -, rfl⟩ := List.mem_map.mp (List.mem_filter.mp kept).1
    by_cases same : g'.reg = n ∧ g'.slice = 0
    · simp [same]
    · rw [if_neg same]
      simp only [Bool.and_eq_true, beq_iff_eq]
      exact fun h => same h.1
  rw [Path.pushLag]
  by_cases late : now + 1 < ready
  · simp [late]
  · simp only [if_neg late]
    exact overtaken

theorem Path.lagged_pushLag (p : Path) (n : Nat) (old : List Word) (ready now t : Nat) :
    (p.pushLag n 0 1 old ready now).lagged n 0 0 t =
      if now + 1 < ready ∧ t < ready then some (old.getD 0 0) else none := by
  rw [Path.lagged, Path.pushLag_find]
  by_cases late : now + 1 < ready
  · simp [late]
  · simp [late]

theorem View.setS_of_writes {v : View} {n : Nat} (writes : v.run = false → n ≠ 63) (p : Path) (w : Word) (lat t : Nat) :
    (v.setS p n w lat).s = p.s.set n w ∧
      (v.setS p n w lat).lagged n 0 0 t = (p.pushLag n 0 1 [wordAt p.s n] (v.time + lat) v.time).lagged n 0 0 t := by
  have taken : (!v.run && n == 63) = false := by
    cases run : v.run with
    | true => rfl
    | false => simpa using writes run
  rw [View.setS, taken]
  exact ⟨rfl, rfl⟩

theorem View.lagged_setS {v : View} {n : Nat} (writes : v.run = false → n ≠ 63) (p : Path) (w : Word) (lat t : Nat) :
    (v.setS p n w lat).lagged n 0 0 t = if 1 < lat ∧ t < v.time + lat then some (wordAt p.s n) else none := by
  simp only [(View.setS_of_writes writes p w lat t).2, Path.lagged_pushLag, Nat.add_lt_add_iff_left]
  rfl

/-! ### The words of the code (R61, R62, R353) -/

theorem codeOf_team {t : Team} (h : t.handler = none) (side run : Bool) : codeOf t side run = (t.image, t.codesz) := by
  rw [codeOf, h]

theorem State.fetch_beyond {s : State} {v : View} {pc : Nat} (w : Nat) (h : (codeOf v.team v.side v.run).2 / 12 ≤ pc) :
    s.fetch v pc w = .trap 0x01 (BitVec.ofNat 64 pc) 0 :=
  if_pos h

theorem State.fetch_found {s : State} {v : View} {pc w : Nat} {loc : Loc} (inside : pc < (codeOf v.team v.side v.run).2 / 12)
    (found : s.check v.team.ctx Intent.fetch ((codeOf v.team v.side v.run).1 + 64 + 12 * pc + 4 * w) = .found loc)
    (measured : s.pf.attMap.getLsbD v.team.ctx = false ∨ (codeOf v.team v.side v.run).1 ∉ (s.ctx v.team.ctx).unmeasured) :
    s.fetch v pc w = .word (BitVec.ofNat 32 (leNat (s.readLoc (dieOf v.core) loc 4))) := by
  have clean : (s.pf.attMap.getLsbD v.team.ctx && (s.ctx v.team.ctx).unmeasured.contains (codeOf v.team v.side v.run).1) = false := by
    simpa [← Bool.not_eq_true, imp_iff_not_or] using measured
  simp only [State.fetch, if_neg (Nat.not_le.mpr inside), found, clean]
  rfl

/-! ### The B operand and immediates (R69 to R71) -/

theorem State.spineWord_of_value {s : State} {v : View} {b : BitVec 6} {w : Word}
    (h : s.spineRead v.team (b.toNat % 4) (b.toNat / 4 + 1) = .value w) : s.spineWord v b = w := by
  have slot : spineSlotOf b = b.toNat % 4 := rfl
  have distance : spineDistance b = b.toNat / 4 + 1 := rfl
  rw [State.spineWord, slot, distance, h]

end Sys2Proof.Machine

section
open Sys2Proof Sys2Proof.Machine

/-- Settles O7, by the two outcomes of fetch: beyond the code, and at a byte that the translation finds. -/
theorem fetchReadsCode : Obligations.FetchReadsCode := by
  refine ⟨fun s v n w loc user inside found measured => ?_, fun s v n w user beyond => ?_⟩
  · refine State.fetch_found ?_ ?_ ?_ <;> rw [codeOf_team user] <;> assumption
  · refine State.fetch_beyond w ?_
    rwa [codeOf_team user]

/-- Settles O15: the newest producer of a register is the one that a read finds, and it is kept only while its latency runs. -/
theorem fixedLatencyReads : Obligations.FixedLatencyReads := by
  intro v p n lat w held writes
  refine ⟨?_, fun t after => ?_, fun long t before => ?_, fun short t => ?_⟩
  · rw [(View.setS_of_writes writes p w lat 0).1, wordAt_set _ _ _ _ held, if_pos rfl]
  · rw [View.lagged_setS writes, if_neg fun h => absurd h.2 (Nat.not_lt.mpr after)]
  · rw [View.lagged_setS writes, if_pos ⟨long, before⟩]
  · rw [View.lagged_setS writes, if_neg fun h => absurd h.1 (Nat.not_lt.mpr short)]

/-- Settles O17: each class of B and each form of an immediate is a case of its definition. -/
theorem operandForms : Obligations.OperandForms := by
  refine ⟨fun s v k b l => ⟨rfl, rfl, fun w value => ?_, rfl, rfl, rfl⟩, fun n f => rfl, fun x n f => rfl, fun f => rfl,
    fun x f => rfl⟩
  exact ⟨State.spineWord_of_value value, State.spineWord_of_value value⟩

/-- Settles O1: the words are literals, and the decoder runs on each. -/
theorem decodesSpecWords : Obligations.DecodesSpecWords := by
  unfold Obligations.DecodesSpecWords
  decide

end

namespace Sys2Proof.Machine

/-! ### Words that the checks of R78 stop -/

theorem decodeWord_reserved {w : Word} (h : 0x1D ≤ (field w 24 5).toNat) : ∃ r, decodeWord w = .error r := by
  unfold decodeWord
  split
  case h_31 => exact ⟨_, rfl⟩
  case h_30 => exact ⟨_, rfl⟩
  all_goals omega

theorem exec_reservedEncoding (w : Word) {s : State} {v : View} (view : s.view = some v) :
    exec (.reservedEncoding w) s =
      .next (((s.reach v).trapView v (if (field w 24 5).toNat = 0x1F then 0x12 else 0x01) 0 0 0).used) := by
  have run : exec (.reservedEncoding w) s = execReservedEncoding w s := rfl
  have major : field w 24 5 = 0x1F ↔ (field w 24 5).toNat = 0x1F := BitVec.toNat_inj.symm
  rw [run, execReservedEncoding, view]
  simp only [major]

/-- Once a word is well formed and no SWR, a vector register not held stops it, and otherwise a barrier beyond NBAR (R28, R52, R78). -/
theorem State.decodeTrap_of_wellFormed {s : State} {v : View} {i : Instr} (well : s.malformed v i = false)
    (swr : ∀ c x d n, i ≠ .swr c x d n) :
    (∀ r, ((v.info i).reads ++ (v.info i).writes).find? (fun r => decide (64 + v.team.held ≤ r) && decide (r < 128)) = some r →
      s.decodeTrap v i = some (0x02, BitVec.ofNat 64 (r - 64), 0)) ∧
    (((v.info i).reads ++ (v.info i).writes).find? (fun r => decide (64 + v.team.held ≤ r) && decide (r < 128)) = none →
      ∀ b, barrierOf i = some b → v.team.nbar ≤ b → s.decodeTrap v i = some (0x0A, BitVec.ofNat 64 b, 0)) := by
  unfold State.decodeTrap
  rw [well, if_neg Bool.false_ne_true, if_neg]
  · refine ⟨fun r beyond => ?_, fun held b barrier beyond => ?_⟩
    · rw [beyond]
    · rw [held]
      simp only [barrier, if_pos beyond]
  · split
    · next c x d n => exact absurd rfl (swr c x d n)
    · exact Bool.false_ne_true

/-- Rows 6 and 7 of R78 stop a word that nothing holds, or whose sources are read before the holds. -/
theorem State.before_of_sourceTrap {s : State} {v : View} {i : Instr} {cause : BitVec 8} {fault : DWord} {aux : Word}
    (frozen : s.frozen v = none) (decoded : s.decodeTrap v i = none) (reads : s.holds v i = none ∨ holdReads i = true)
    (stops : v.sourceTrap i = some (cause, fault, aux)) : s.before v i = some (s.stopWord v cause fault aux) := by
  unfold State.before
  simp only [frozen, decoded]
  cases first : holdReads i with
  | true => simp only [if_true, stops]
  | false =>
    have free : s.holds v i = none := reads.resolve_right (by simp [first])
    simp only [Bool.false_eq_true, if_false, State.atHold, free, stops]

theorem View.sourceTrap_early {v : View} {i : Instr} {r : Nat} (checks : v.team.checkSb = true) (team : v.run = false)
    (first : v.path.exempt = false) (early : v.tooEarly i = some r) : v.sourceTrap i = some (0x03, BitVec.ofNat 64 (classNumber r), 0) := by
  simp [View.sourceTrap, checks, team, first, early]

theorem View.sourceTrap_poisoned {v : View} {i : Instr} {r pc : Nat}
    (timely : v.team.checkSb = false ∨ v.run = true ∨ v.path.exempt = true ∨ v.tooEarly i = none) (poisoned : v.poisoned i = some (r, pc)) :
    v.sourceTrap i = some (0x06, BitVec.ofNat 64 r, BitVec.ofNat 32 pc) := by
  have none_early : (if v.team.checkSb && !v.run && !v.path.exempt then v.tooEarly i else none) = none := by
    obtain h | h | h | h := timely <;> simp [h]
  rw [View.sourceTrap, none_early, poisoned]
  rfl

end Sys2Proof.Machine

section
open Sys2Proof Sys2Proof.Machine

/-- Settles O4: every check of R78 stops the word in `State.before`, with the cause of its row. -/
theorem reservedWordsTrap : Obligations.ReservedWordsTrap := by
  refine ⟨fun w => decodeWord_reserved, fun w s v => exec_reservedEncoding w, fun i w s v word views frozen => ?_⟩
  intro traps
  have decodes : ∀ {cause fault aux}, s.decodeTrap v i = some (cause, fault, aux) → traps cause fault aux := fun stops => by
    obtain ⟨eff, run⟩ := exec_of_encode word
    exact (run s).trans (issueWord_of_decodeTrap eff views frozen stops)
  refine ⟨fun ill => decodes (State.decodeTrap_malformed (State.malformed_of_illFormed ill)), fun c x d n swr mode flags well => ?_,
    fun well swr => ⟨fun r beyond => decodes ((State.decodeTrap_of_wellFormed well swr).1 r beyond),
      fun held b barrier beyond => decodes ((State.decodeTrap_of_wellFormed well swr).2 held b barrier beyond)⟩,
    fun decoded reads => ⟨fun r checks team first early => ?_, fun r pc timely poisoned => ?_⟩⟩
  · subst swr
    exact decodes (State.decodeTrap_swr mode flags well)
  · exact exec_of_before word views
      (State.before_of_sourceTrap frozen decoded reads (View.sourceTrap_early checks team first early))
  · exact exec_of_before word views (State.before_of_sourceTrap frozen decoded reads (View.sourceTrap_poisoned timely poisoned))

end

namespace Sys2Proof.Machine

/-! ### The effects of control words (R98, R100, R104 to R106, R108) -/

section
variable (c : BitVec 1) (w : BitVec 2)

theorem exec_nop (s : State) : exec (.nop c w) s = issueWord (.nop c w) (fun s _ => .done s) s := rfl

theorem exec_bra (o : BitVec 19) (s : State) :
    exec (.bra c w o) s = issueWord (.bra c w o) (fun s v => .jump s (v.target (immInt v.path.ext o))) s := rfl

theorem exec_brc (z : BitVec 1) (k : BitVec 2) (o : BitVec 16) (s : State) :
    exec (.brc c w z k o) s = issueWord (.brc c w z k o)
      (fun s v => if v.c k.toNat == (z == 0) then .jump s (v.target (immInt v.path.ext o)) else .done s) s := rfl

theorem exec_call (l : BitVec 6) (o : BitVec 13) (s : State) :
    exec (.call c w l o) s = issueWord (.call c w l o)
      (fun s v => .jump (s.setS v l.toNat (BitVec.ofNat 32 v.nextPacket) 1) (v.target (immInt v.path.ext o))) s := rfl

theorem exec_calli (l t : BitVec 6) (s : State) :
    exec (.calli c w l t) s = issueWord (.calli c w l t)
      (fun s v => .jump (s.setS v l.toNat (BitVec.ofNat 32 v.nextPacket) 1) (v.s t.toNat 0).toNat) s := rfl

theorem exec_ret (t : BitVec 6) (s : State) :
    exec (.ret c w t) s = issueWord (.ret c w t) (fun s v => .jump s (v.s t.toNat 0).toNat) s := rfl

theorem exec_exit (s : State) : exec (.exit c w) s = issueWord (.exit c w) exitWord s := rfl

theorem exec_waitcyc (n : BitVec 16) (s : State) :
    exec (.waitcyc c w n) s = issueWord (.waitcyc c w n)
      (fun s v => .done (s.modPath v fun p => { p with nextAt := v.time + 1 + n.toNat + w.toNat })) s := rfl

theorem exec_prio (p : BitVec 3) (s : State) :
    exec (.prio c w p) s = issueWord (.prio c w p) (fun s v => .done (s.modTeam v fun t =>
      { t with prio := min p.toNat (((s.launch t.ctx t.launch).map (·.rcd.prio)).getD 0) })) s := rfl

theorem exec_yield (s : State) :
    exec (.yield c w) s = issueWord (.yield c w) (fun s v => if !(s.ctx v.team.ctx).req || v.team.two then .done s
      else .done (s.modTeam v fun t => { t with yielding := true })) s := rfl

theorem exec_trtag (a : BitVec 6) (g : BitVec 12) (s : State) :
    exec (.trtag c w a g) s = issueWord (.trtag c w a g) (tagWord a g) s := rfl

end

/-! ### The end of a word, and EXIT (R29, R61, R62, R101) -/

/-- A transfer leaves no EXT in progress (R71). -/
theorem State.ext_transfer (s : State) (v : View) (i : Instr) (pc : Nat) : ((s.transfer v i pc).pathOf v).ext = none := by
  have put : ((((s.modPath v (v.land i pc)).used).modTeam v fun t => t.issued v).pathOf v).ext = none := by
    rw [State.pathOf_modTeam_issued]
    exact (State.pathOf_putPath_regs s v (v.land i pc (s.pathOf v))).2.2.2.2
  have live : ((((s.modPath v (v.land i pc)).used).modTeam v fun t => t.issued v).team v.core v.slot).isSome = true := by
    rw [State.team_modTeam]
    rfl
  rw [State.transfer]
  generalize ((s.modPath v (v.land i pc)).used).modTeam v (fun t => t.issued v) = u at put live ⊢
  obtain ⟨m, marked⟩ := State.pathOf_of_near (State.endStep_teamOf (u.occupy v i) v live)
  rw [marked, State.pathOf_congr (State.teamOf_occupy u v v i)]
  exact put

/-- A transfer of a team in no step leaves every byte. -/
theorem State.sameBytes_transfer {s : State} {v : View} (i : Instr) (pc : Nat) (h : (s.teamOf v).step = none) :
    SameBytes s (s.transfer v i pc) := by
  have step : (((((s.modPath v (v.land i pc)).used).modTeam v fun t => t.issued v).occupy v i).teamOf v).step = none := by
    rw [State.teamOf_occupy, State.teamOf_modTeam, (Team.issued_keeps _ v).2.2.2.2.2, State.teamOf_used]
    exact (State.Within.putPath v s _).step.trans h
  rw [State.transfer, State.endStep_none _ v step]
  exact SameBytes.of_eq rfl rfl

theorem exitWord_runner (s : State) {v : View} (run : v.run = true) :
    exitWord s v = .ended (s.modTeam v fun t => { t with runner := { t.runner with running := false, exited := true } }) :=
  if_pos run

theorem exitWord_handler (s : State) {v : View} {h : Handler} (team : v.run = false) (handler : v.team.handler = some h) :
    exitWord s v = .ended (s.kill v.core v.slot ((wordAt h.h 0).setWidth 8) (wordAt h.h 1).toNat false false) := by
  rw [exitWord, team, handler]
  rfl

theorem exitWord_path (s : State) {v : View} (team : v.run = false) (user : v.team.handler = none) :
    exitWord s v = .ended ((s.modTeam v fun t => { (t.exitPath v.side) with lastPath := v.side }).endStep v) := by
  rw [exitWord, team, user]
  rfl

/-- The exit of a team's last path, under no record. -/
theorem Team.exitPath_last {t : Team} {side : Bool} {p : Path} (own : t.at side = some p) (alone : t.at (!side) = none) (open' : t.recs = []) :
    (t.exitPath side).at side = none ∧ (t.exitPath side).at (!side) = none ∧ (t.exitPath side).lastS = p.s ∧ (t.exitPath side).v = t.v := by
  obtain ⟨vectors, -⟩ := t.setAt_keeps side none
  unfold Team.exitPath
  rw [own, open']
  refine ⟨?_, ?_, rfl, vectors⟩
  · exact t.at_setAt_self side none
  · exact (t.at_setAt_other side none).trans alone

theorem Team.paths_none {t : Team} {side : Bool} (own : t.at side = none) (other : t.at (!side) = none) : t.pathA = none ∧ t.pathB = none := by
  cases side with
  | false => exact ⟨own, other⟩
  | true => exact ⟨other, own⟩

end Sys2Proof.Machine

section
open Sys2Proof Sys2Proof.Machine

/-- Settles O34: each word's effect is the transfer or the change of state that it is said to be, and BRC and YIELD have two. -/
theorem controlWords : Obligations.ControlWords := by
  refine ⟨fun c w => ⟨?nop, fun o => ?bra, fun z k o => ⟨?taken, ?passed⟩, fun l o => ?call, fun l t => ?calli, fun t => ?ret⟩,
    fun c w => ⟨fun n => ?waitcyc, fun p => ?prio, ?goesOn, ?yields, fun a g => ?trtag⟩⟩
  case nop => exact completes_of (exec_nop c w) fun _ _ _ => rfl
  case bra => exact transfers_of (exec_bra c w o) fun _ _ _ => rfl
  case taken => exact transfers_of (exec_brc c w z k o) fun _ _ holds => if_pos (beq_iff_eq.mpr holds)
  case passed => exact completes_of (exec_brc c w z k o) fun _ _ fails => if_neg (mt beq_iff_eq.mp fails)
  case call => exact transfers_of (exec_call c w l o) fun _ _ _ => rfl
  case calli => exact transfers_of (exec_calli c w l t) fun _ _ _ => rfl
  case ret => exact transfers_of (exec_ret c w t) fun _ _ _ => rfl
  case waitcyc => exact completes_of (exec_waitcyc c w n) fun _ _ _ => rfl
  case prio => exact completes_of (exec_prio c w p) fun _ _ _ => rfl
  case goesOn =>
    exact completes_of (exec_yield c w) fun _ _ quiet => if_pos (by rwa [Bool.or_eq_true, Bool.not_eq_true'])
  case yields =>
    exact completes_of (exec_yield c w) fun _ _ asked => if_neg (by rw [asked.1, asked.2]; exact Bool.false_ne_true)
  case trtag => exact completes_of (exec_trtag c w a g) fun _ _ _ => rfl

/-- Settles O35: what a completed word and a transfer leave is read off where they place the path; EXIT by whose it is. -/
theorem pathsGoOnAndEnd : Obligations.PathsGoOnAndEnd := by
  refine ⟨fun s v i pc _ _ => ⟨?finish, ?transfer⟩, fun c w => ⟨?path, ?runner, fun h => ?handler, fun t side p own alone open' => ?last⟩⟩
  case finish =>
    obtain ⟨registers, -, place, word⟩ := State.finish_spec s v i
    refine ⟨keepsRegisters_of_regsOf registers, keepsModes_of_modesOf (State.modesOf_finish s v i), fun step => ?_, place, word⟩
    obtain ⟨-, device, host, -⟩ := State.finish_frame s v i step
    exact SameBytes.of_eq device host
  case transfer =>
    obtain ⟨registers, -, place, word⟩ := State.transfer_spec s v i pc
    exact ⟨keepsRegisters_of_regsOf registers, keepsModes_of_modesOf (State.modesOf_transfer s v i pc), State.sameBytes_transfer i pc,
      place, word, State.ext_transfer s v i pc⟩
  case path => exact ends_of (exec_exit c w) fun s _ user => exitWord_path s user.1 user.2
  case runner => exact ends_of (exec_exit c w) fun s _ run => exitWord_runner s run
  case handler => exact ends_of (exec_exit c w) fun s _ own => exitWord_handler s own.1 own.2
  case last =>
    obtain ⟨gone, other, registers, vectors⟩ := Team.exitPath_last own alone open'
    obtain ⟨goneA, goneB⟩ := Team.paths_none gone other
    exact ⟨goneA, goneB, registers, vectors⟩

end

namespace Sys2Proof.Machine

/-! ### The turn of an agent (log 1) -/

/-- The turn is the agent's that the focus names. -/
def Turn.IsOf (turn : Turn) (f : Focus) : Prop :=
  turn = .issue f.core f.slot f.path ∧ f.runner = false ∨ turn = .runner f.core f.slot ∧ f.path = false ∧ f.runner = true

theorem State.agendaTurn_of_agent {turn : Turn} {f : Focus} (own : turn.IsOf f) (s : State) (rest : List Turn) :
    s.agendaTurn turn rest = s.wordTurn turn f rest := by
  obtain ⟨core, slot, path, runner⟩ := f
  obtain ⟨rfl, rfl⟩ | ⟨rfl, rfl, rfl⟩ := own
  · rfl
  · rfl

theorem State.dueTurn_of_agent {turn : Turn} {f : Focus} (own : turn.IsOf f) (s : State) : s.dueTurn turn = s.dueAt f := by
  obtain ⟨core, slot, path, runner⟩ := f
  obtain ⟨rfl, rfl⟩ | ⟨rfl, rfl, rfl⟩ := own
  · rfl
  · rfl

/-- An agent whose word's cycle has come takes its turn when the cycle has nothing more to see. -/
theorem State.wordTurn_of_ready {s : State} {f : Focus} {v : View} (view : s.viewAt f = some v) (ready : v.time ≤ s.cycle f.core)
    (seen : s.lates = []) (turn : Turn) (rest : List Turn) : s.wordTurn turn f rest = (turn, { s with agenda := rest }) := by
  have onTime : decide (s.cycle f.core < v.time) = false := decide_eq_false (Nat.not_lt.mpr ready)
  simp only [State.wordTurn, view, seen, onTime, Bool.false_eq_true, if_false]

theorem State.takeTurn_of_agent {s : State} {turn : Turn} {f : Focus} {rest : List Turn} {v : View} (own : turn.IsOf f)
    (running : s.pf.stopped = false) (head : s.agenda = turn :: rest) (nothingDue : s.musts = []) (seen : s.lates = [])
    (view : s.viewAt f = some v) (ready : v.time ≤ s.cycle f.core) : s.takeTurn = (some turn, { s with agenda := rest }) := by
  simp only [State.takeTurn, running, Bool.false_eq_true, if_false, head, nothingDue, List.head?_nil, State.agendaTurn_of_agent own,
    State.wordTurn_of_ready view ready seen, ite_self]

/-- The word at the PC, for an agent that nothing stops before its fetch. -/
theorem State.select_of_fetch {s : State} {v : View} {w : Word} (entry : v.run = false → v.team.entry = none) (frozen : s.frozen v = none)
    (comparator : s.comparator v = none) (fetch : s.fetch v v.path.pc v.path.word = .word w) :
    (∀ i, decodeWord w = .ok i → s.select v = .run i) ∧ ∀ r, decodeWord w = .error r → s.select v = .run (.reservedEncoding w) := by
  have noEntry : (if v.run then none else v.team.entry) = none := by
    cases run : v.run with
    | true => rfl
    | false => exact entry run
  unfold State.select
  simp only [noEntry, frozen, comparator, fetch]
  exact ⟨fun i decoded => by rw [decoded], fun r reserved => by rw [reserved]⟩

theorem step_of_due {s t : State} {i : Instr} (due : s.due = .run i t) : step s = exec i t := by
  rw [step, due]

theorem State.due_of_agent {s : State} {turn : Turn} {f : Focus} {rest : List Turn} {v : View} {i : Instr} (own : turn.IsOf f)
    (taken : s.takeTurn = (some turn, { s with agenda := rest })) (view : ({ s with agenda := rest, here := f } : State).view = some v)
    (selected : ({ s with agenda := rest, here := f } : State).select v = .run i) :
    s.due = .run i (({ s with agenda := rest, here := f } : State).noteFetch v) := by
  simp only [State.due, taken, State.dueTurn_of_agent own, State.dueAt, view, selected]

end Sys2Proof.Machine

section
open Sys2Proof Sys2Proof.Machine

/-- Settles O5: nothing being due before it, the agent's turn is the next one, and what it comes to is its word. -/
theorem stepRunsDecodedWord : Obligations.StepRunsDecodedWord := by
  intro s turn f rest v w running head nothingDue seen ready own view entry frozen comparator fetch
  have taken : s.takeTurn = (some turn, { s with agenda := rest }) := State.takeTurn_of_agent own running head nothingDue seen view ready
  have agent : v.run = f.runner := (State.viewAt_spec view).2.2.1
  obtain ⟨decodes, reserves⟩ := State.select_of_fetch (by rwa [agent]) frozen comparator fetch
  exact ⟨fun i decoded => step_of_due (State.due_of_agent own taken view (decodes i decoded)),
    fun r reserved => step_of_due (State.due_of_agent own taken view (reserves r reserved))⟩

end

namespace Sys2Proof.Machine

/-! ### FP32 patterns after FTZ on an input (R79, R86) -/

theorem ftzIn_of_not_isSub {f : Fmt} {x : Nat} (e : FpEnv) (h : f.isSub x = false) : ftzIn f e x = x := by
  rw [ftzIn, h, Bool.and_false, if_neg Bool.false_ne_true]

theorem Fmt.fp32_isSub_of_infBits_le {x : Nat} (h : Fmt.fp32.infBits ≤ Fmt.fp32.body x) : Fmt.fp32.isSub x = false := by
  simp only [Fmt.isSub, Bool.and_eq_false_iff, decide_eq_false_iff_not]
  exact .inr (Nat.not_lt.mpr (le_trans (by decide) h))

/-- FTZ leaves an infinity and a NaN. -/
theorem ftzIn_of_infBits_le {x : Nat} (e : FpEnv) (h : Fmt.fp32.infBits ≤ Fmt.fp32.body x) : ftzIn .fp32 e x = x :=
  ftzIn_of_not_isSub e (Fmt.fp32_isSub_of_infBits_le h)

theorem Fmt.infBits_le_of_isNan {f : Fmt} {x : Nat} (h : f.isNan x = true) : f.infBits ≤ f.body x :=
  (of_decide_eq_true h).le

theorem Fmt.infBits_le_of_isInf {f : Fmt} {x : Nat} (h : f.isInf x = true) : f.infBits ≤ f.body x :=
  (beq_iff_eq.mp h).ge

theorem Fmt.not_isNan_of_isInf {f : Fmt} {x : Nat} (h : f.isInf x = true) : f.isNan x = false :=
  decide_eq_false (beq_iff_eq.mp h).not_gt

theorem Fmt.isSnan_of_not_isNan {f : Fmt} {x : Nat} (h : f.isNan x = false) : f.isSnan x = false := by
  rw [Fmt.isSnan, h, Bool.false_and]

/-- FTZ either leaves the magnitude or takes one below that of the infinities to another. -/
theorem body_ftzIn (e : FpEnv) (x : Nat) :
    Fmt.fp32.body (ftzIn .fp32 e x) = Fmt.fp32.body x ∨
      Fmt.fp32.body (ftzIn .fp32 e x) < Fmt.fp32.infBits ∧ Fmt.fp32.body x < Fmt.fp32.infBits := by
  unfold ftzIn
  split
  next flushed =>
    refine .inr ⟨?_, ?_⟩
    · cases Fmt.fp32.neg x <;> decide
    · by_contra large
      rw [Fmt.fp32_isSub_of_infBits_le (Nat.not_lt.mp large), Bool.and_false] at flushed
      exact Bool.false_ne_true flushed
  next => exact .inl rfl

@[simp] theorem isNan_ftzIn (e : FpEnv) (x : Nat) : Fmt.fp32.isNan (ftzIn .fp32 e x) = Fmt.fp32.isNan x := by
  unfold Fmt.isNan
  rcases body_ftzIn e x with same | ⟨flushed, small⟩
  · rw [same]
  · rw [decide_eq_false flushed.not_gt, decide_eq_false small.not_gt]

@[simp] theorem isInf_ftzIn (e : FpEnv) (x : Nat) : Fmt.fp32.isInf (ftzIn .fp32 e x) = Fmt.fp32.isInf x := by
  unfold Fmt.isInf
  rcases body_ftzIn e x with same | ⟨flushed, small⟩
  · rw [same]
  · rw [beq_false_of_ne flushed.ne, beq_false_of_ne small.ne]

/-! ### The value of a pattern (R79) -/

theorem Fmt.value_of_isInf {f : Fmt} {x : Nat} (h : f.isInf x = true) : f.value x = .inf (f.neg x) := by
  rw [Fmt.value, Fmt.not_isNan_of_isInf h, h, if_neg Bool.false_ne_true, if_pos rfl]

theorem Fmt.exists_value_eq_fin {f : Fmt} {x : Nat} (number : f.isNan x = false) (finite : f.isInf x = false) :
    ∃ n m e, f.value x = .fin n m e := by
  rw [Fmt.value, number, finite, if_neg Bool.false_ne_true, if_neg Bool.false_ne_true, Fmt.finite]
  split
  · exact ⟨_, _, _, rfl⟩
  · exact ⟨_, _, _, rfl⟩

/-! ### NaN operands (R87, R135) -/

/-- The result that R87 gives for a first NaN `a` beside `b`. -/
theorem propagate_of_isNan {f : Fmt} {a : Nat} (b : Nat) (h : f.isNan a = true) :
    propagate f [a, b] = some (f.quiet a, if f.isSnan a || f.isSnan b then flagIV else 0) := by
  rw [propagate, List.find?_cons_of_pos h, Option.map_some, List.any_cons, List.any_cons, List.any_nil, Bool.or_false]

theorem propagate_of_not_isNan {f : Fmt} {a b : Nat} (ha : f.isNan a = false) (hb : f.isNan b = false) : propagate f [a, b] = none := by
  simp [propagate, ha, hb]

theorem propagate_ftzIn_of_isNan (e : FpEnv) {a : Nat} (b : Nat) (h : Fmt.fp32.isNan a = true) :
    propagate .fp32 [ftzIn .fp32 e a, ftzIn .fp32 e b] =
      some (Fmt.fp32.quiet a, if Fmt.fp32.isSnan a || Fmt.fp32.isSnan (ftzIn .fp32 e b) then flagIV else 0) := by
  rw [ftzIn_of_infBits_le e (Fmt.infBits_le_of_isNan h), propagate_of_isNan _ h]

theorem fadd_of_isNan (e : FpEnv) {a : Nat} (b : Nat) (h : Fmt.fp32.isNan a = true) :
    fadd .fp32 e a b = (Fmt.fp32.quiet a, if Fmt.fp32.isSnan a || Fmt.fp32.isSnan (ftzIn .fp32 e b) then flagIV else 0) := by
  simp only [fadd, propagate_ftzIn_of_isNan e b h]

theorem fmul_of_isNan (e : FpEnv) {a : Nat} (b : Nat) (h : Fmt.fp32.isNan a = true) :
    fmul .fp32 e a b = (Fmt.fp32.quiet a, if Fmt.fp32.isSnan a || Fmt.fp32.isSnan (ftzIn .fp32 e b) then flagIV else 0) := by
  simp only [fmul, propagate_ftzIn_of_isNan e b h]

/-- One quiet NaN yields the other input, whether the minimum or the maximum is sought. -/
theorem fminmax_of_quiet_left (e : FpEnv) (max : Bool) {a b : Nat} (nan : Fmt.fp32.isNan a = true) (quiet : Fmt.fp32.isSnan a = false)
    (number : Fmt.fp32.isNan b = false) : fminmax .fp32 e max a b = (ftzIn .fp32 e b, 0) := by
  have other : Fmt.fp32.isNan (ftzIn .fp32 e b) = false := by rw [isNan_ftzIn, number]
  simp [fminmax, ftzIn_of_infBits_le e (Fmt.infBits_le_of_isNan nan), nan, quiet, other, Fmt.isSnan_of_not_isNan other]

/-! ### Infinite operands (R87, R135) -/

/-- Two infinities sum to themselves or to the invalid result, as their signs agree or not. -/
theorem fadd_of_isInf_of_isInf (e : FpEnv) {a b : Nat} (ha : Fmt.fp32.isInf a = true) (hb : Fmt.fp32.isInf b = true) :
    fadd .fp32 e a b = if Fmt.fp32.neg a = Fmt.fp32.neg b then (a, 0) else invalid .fp32 := by
  simp only [fadd, propagate_of_not_isNan (Fmt.not_isNan_of_isInf ha) (Fmt.not_isNan_of_isInf hb),
    ftzIn_of_infBits_le e (Fmt.infBits_le_of_isInf ha), ftzIn_of_infBits_le e (Fmt.infBits_le_of_isInf hb),
    Fmt.value_of_isInf ha, Fmt.value_of_isInf hb]

theorem fadd_of_isInf_left (e : FpEnv) {a b : Nat} (ha : Fmt.fp32.isInf a = true) (number : Fmt.fp32.isNan b = false)
    (finite : Fmt.fp32.isInf b = false) : fadd .fp32 e a b = (a, 0) := by
  rw [← isNan_ftzIn e] at number
  rw [← isInf_ftzIn e] at finite
  obtain ⟨n, m, x, value⟩ := Fmt.exists_value_eq_fin number finite
  simp only [fadd, propagate_of_not_isNan (Fmt.not_isNan_of_isInf ha) number,
    ftzIn_of_infBits_le e (Fmt.infBits_le_of_isInf ha), Fmt.value_of_isInf ha, value]

theorem fadd_of_isInf_right (e : FpEnv) {a b : Nat} (hb : Fmt.fp32.isInf b = true) (number : Fmt.fp32.isNan a = false)
    (finite : Fmt.fp32.isInf a = false) : fadd .fp32 e a b = (b, 0) := by
  rw [← isNan_ftzIn e] at number
  rw [← isInf_ftzIn e] at finite
  obtain ⟨n, m, x, value⟩ := Fmt.exists_value_eq_fin number finite
  simp only [fadd, propagate_of_not_isNan number (Fmt.not_isNan_of_isInf hb),
    ftzIn_of_infBits_le e (Fmt.infBits_le_of_isInf hb), Fmt.value_of_isInf hb, value]

theorem fsub_of_not_isNan (e : FpEnv) {a b : Nat} (ha : Fmt.fp32.isNan a = false) (hb : Fmt.fp32.isNan b = false) :
    fsub .fp32 e a b = fadd .fp32 e a (fneg .fp32 b) := by
  simp only [fsub, propagate_of_not_isNan ha hb]

theorem fmul_zero_of_isInf (e : FpEnv) {b : Nat} (hb : Fmt.fp32.isInf b = true) : fmul .fp32 e 0 b = invalid .fp32 := by
  have zero : Fmt.fp32.value 0 = .fin false 0 Fmt.fp32.qmin := by decide
  simp only [fmul, propagate_of_not_isNan (show Fmt.fp32.isNan 0 = false from rfl) (Fmt.not_isNan_of_isInf hb),
    ftzIn_of_not_isSub e (show Fmt.fp32.isSub 0 = false from rfl), ftzIn_of_infBits_le e (Fmt.infBits_le_of_isInf hb), zero, Fmt.value_of_isInf hb, if_true]

/-! ### Conversions whose result is exact (R85, R134) -/

theorem ftzOut_of_not_isSub {f : Fmt} {r : Nat × Nat} (e : FpEnv) (h : f.isSub r.1 = false) : ftzOut f e r = r := by
  rw [ftzOut, h, Bool.and_false, if_neg Bool.false_ne_true]

theorem ofInt_zero (e : FpEnv) : ofInt e 0 = (0, 0) :=
  ftzOut_of_not_isSub (r := (0, 0)) e rfl

/-- A value that is a multiple of its unit `2 ^ q` in the format, the unit fixed by its leading bit, is rounded in no mode. -/
theorem roundTo_exact {f : Fmt} (rm : Rm) (neg : Bool) {m : Nat} {e q : Int} (nonzero : m ≠ 0)
    (unit : max (e + Nat.log2 m - f.mb) f.qmin = q) (fits : q ≤ e)
    (small : m * 2 ^ (e - q).toNat + (q - f.qmin).toNat * 2 ^ f.mb < f.infBits) :
    roundTo f rm neg m e = (f.signed neg (m * 2 ^ (e - q).toNat + (q - f.qmin).toNat * 2 ^ f.mb), 0) := by
  have body : roundBody f rm neg m e = (m * 2 ^ (e - q).toNat + (q - f.qmin).toNat * 2 ^ f.mb, false) := by
    simp only [roundBody, unit, alignRound, if_pos fits]
  simp only [roundTo, if_neg nonzero, body, if_neg small.not_ge, Bool.false_eq_true, if_false]

theorem Fmt.body_signed {f : Fmt} (neg : Bool) {b : Nat} (h : b < f.signBit) : f.body (f.signed neg b) = b := by
  cases neg with
  | false => exact Nat.mod_eq_of_lt h
  | true => exact (Nat.add_mod_right b f.signBit).trans (Nat.mod_eq_of_lt h)

theorem Fmt.isSub_signed {f : Fmt} (neg : Bool) {b : Nat} (normal : 2 ^ f.mb ≤ b) (h : b < f.signBit) : f.isSub (f.signed neg b) = false := by
  rw [Fmt.isSub, Fmt.body_signed neg h, decide_eq_false normal.not_gt, Bool.and_false]

/-- With its leading bit brought to place `k`, a number lies between `2 ^ k` and twice that. -/
theorem mul_two_pow_sub_log2 {m k : Nat} (nonzero : m ≠ 0) (fits : Nat.log2 m ≤ k) :
    2 ^ k ≤ m * 2 ^ (k - Nat.log2 m) ∧ m * 2 ^ (k - Nat.log2 m) < 2 ^ (k + 1) := by
  constructor
  · calc 2 ^ k = 2 ^ Nat.log2 m * 2 ^ (k - Nat.log2 m) := by rw [← pow_add, Nat.add_sub_cancel' fits]
      _ ≤ m * 2 ^ (k - Nat.log2 m) := Nat.mul_le_mul_right _ (Nat.log2_self_le nonzero)
  · calc m * 2 ^ (k - Nat.log2 m) < 2 ^ (Nat.log2 m + 1) * 2 ^ (k - Nat.log2 m) :=
          Nat.mul_lt_mul_of_pos_right Nat.lt_log2_self (Nat.two_pow_pos _)
      _ = 2 ^ (k + 1) := by rw [← pow_add, Nat.add_right_comm, Nat.add_sub_cancel' fits]

/-- A whole number of at most 24 bits is rounded in no mode and never flushed: its leading bit, brought to place 23, adds the last 1 to a
biased exponent of 127 more than the place it came from. -/
theorem rnd_exact (e : FpEnv) (neg : Bool) {m : Nat} (nonzero : m ≠ 0) (fits : Nat.log2 m ≤ 23) :
    rnd .fp32 e neg m 0 = (Fmt.fp32.signed neg (m * 2 ^ (23 - Nat.log2 m) + (Nat.log2 m + 126) * 2 ^ 23), 0) := by
  obtain ⟨lower, upper⟩ := mul_two_pow_sub_log2 nonzero fits
  have unit : max (0 + (Nat.log2 m : Int) - 23) (-149) = (Nat.log2 m : Int) - 23 := by omega
  have shift : (0 - ((Nat.log2 m : Int) - 23)).toNat = 23 - Nat.log2 m := by omega
  have exponent : ((Nat.log2 m : Int) - 23 - -149).toNat = Nat.log2 m + 126 := by omega
  have rounded := roundTo_exact (f := .fp32) e.rm neg nonzero unit (by omega)
  rw [shift, show Fmt.fp32.qmin = -149 from rfl, exponent, show Fmt.fp32.mb = 23 from rfl, show Fmt.fp32.infBits = 255 * 2 ^ 23 from rfl] at rounded
  rw [rnd, rounded (by omega)]
  refine ftzOut_of_not_isSub e (Fmt.isSub_signed neg ?_ ?_)
  · exact lower.trans (Nat.le_add_right _ _)
  · rw [show Fmt.fp32.signBit = 2 ^ 31 from rfl]
    omega

theorem ofInt_exact (e : FpEnv) {x : Int} (nonzero : x ≠ 0) (fits : Nat.log2 x.natAbs ≤ 23) :
    ofInt e x = (Fmt.fp32.signed (decide (x < 0)) (x.natAbs * 2 ^ (23 - Nat.log2 x.natAbs) + (Nat.log2 x.natAbs + 126) * 2 ^ 23), 0) :=
  rnd_exact e _ (Int.natAbs_ne_zero.mpr nonzero) fits

theorem toInt_of_isNan (e : FpEnv) (isSigned : Bool) {x : Nat} (h : Fmt.fp32.isNan x = true) : toInt e isSigned x = (0, flagIV) := by
  simp only [toInt, ftzIn_of_infBits_le e (Fmt.infBits_le_of_isNan h), Fmt.value, h, if_true]

theorem toInt_one (e : FpEnv) : toInt e true 0x3F800000 = (1, 0) := by
  rw [toInt, ftzIn_of_not_isSub e rfl]
  rfl

end Sys2Proof.Machine

section

open Sys2Proof Sys2Proof.Machine

/-- Settles O23: each word's effect is one write of results with flags in the active lanes; a NaN or an infinity passes FTZ unchanged, so the
branch of the sum, the product or the maximum is chosen before any rounding. -/
theorem floatConversions : Obligations.FloatConversions := by
  refine ⟨⟨fun _ _ _ _ _ => ⟨floatResult_of rfl fun _ => rfl, floatResult_of rfl fun _ => rfl, floatResult_of rfl fun _ => rfl,
      floatResult_of rfl fun _ => rfl, floatResult_of rfl fun _ => rfl, floatResult_of rfl fun _ => rfl⟩,
    fun e => ⟨ofInt_zero e, ofInt_exact e (by decide) (by decide), ofInt_exact e (by decide) (by decide), toInt_of_isNan e true rfl, toInt_one e⟩⟩,
    fun e a b nan => ⟨fadd_of_isNan e b nan, fmul_of_isNan e b nan⟩,
    fun e => ⟨fadd_of_isInf_of_isInf e rfl rfl, fmul_zero_of_isInf e rfl, ?_⟩,
    fun e b number => ⟨fminmax_of_quiet_left e true rfl rfl number, fminmax_of_quiet_left e false rfl rfl number⟩,
    fun e b _ number finite => ⟨fadd_of_isInf_left e rfl number finite, fadd_of_isInf_right e rfl number finite⟩⟩
  rw [fsub_of_not_isNan e rfl rfl]
  exact fadd_of_isInf_of_isInf e rfl rfl

end

namespace Sys2Proof.Machine

/-! ### Scalar arithmetic on words (R119 to R121) -/

theorem intMulh_eq (a b : Word) : intMulh a b = (a.signExtend 64 * b.signExtend 64).extractLsb' 32 32 :=
  BitVec.setWidth_ushiftRight_eq_extractLsb

/-- A choice by a strict order is the one by its weak order where equal values make the two choices alike. -/
theorem ite_lt_eq_ite_le {α β : Type} [LinearOrder β] {m n : β} {x y : α} (alike : m = n → x = y) :
    (if m < n then x else y) = if m ≤ n then x else y := by
  rcases lt_trichotomy m n with less | same | more
  · rw [if_pos less, if_pos less.le]
  · rw [alike same, ite_self, ite_self]
  · rw [if_neg more.not_gt, if_neg more.not_ge]

theorem intMin_eq (a b : Word) : intMin a b = if a.toInt ≤ b.toInt then a else b := by
  simp only [intMin, BitVec.slt_iff_toInt_lt]
  exact ite_lt_eq_ite_le BitVec.toInt_inj.mp

theorem intMax_eq (a b : Word) : intMax a b = if a.toInt ≤ b.toInt then b else a := by
  simp only [intMax, BitVec.slt_iff_toInt_lt]
  exact ite_lt_eq_ite_le fun same => (BitVec.toInt_inj.mp same).symm

theorem intMinu_eq (a b : Word) : intMinu a b = if a.toNat ≤ b.toNat then a else b := by
  simp only [intMinu, BitVec.ult_iff_toNat_lt]
  exact ite_lt_eq_ite_le BitVec.toNat_inj.mp

theorem intMaxu_eq (a b : Word) : intMaxu a b = if a.toNat ≤ b.toNat then b else a := by
  simp only [intMaxu, BitVec.ult_iff_toNat_lt]
  exact ite_lt_eq_ite_le fun same => (BitVec.toNat_inj.mp same).symm

theorem compareS_eq_holdsCode (e : BitVec 3) (a b : Word) :
    compareS e a b = holdsCode e.toNat (decide (a.toInt < b.toInt)) (decide (a.toInt = b.toInt)) false := by
  have equal : (a == b) = decide (a.toInt = b.toInt) := decide_eq_decide.mpr BitVec.toInt_inj.symm
  rw [compareS, equal]
  rfl

theorem ConditionResult.congr {i : Instr} {k : Nat} {f g : State → View → Bool} (h : ConditionResult i k f) (same : ∀ s v, g s v = f s v) :
    ConditionResult i k g := by
  rwa [funext fun s => funext (same s)]

/-- A word that issues is well formed (R78). -/
theorem State.Issues.wellFormed {s : State} {v : View} {i : Instr} (h : s.Issues v i) : i.wellFormed = true := by
  obtain ⟨-, -, decoded, -⟩ := h
  by_contra ill
  rw [State.decodeTrap_malformed (State.malformed_of_illFormed (Bool.not_eq_true _ ▸ ill))] at decoded
  exact nomatch decoded

/-- The pair that SADDW writes begins with an even register (R46). -/
theorem even_of_wellFormed_saddw {c : BitVec 1} {w : BitVec 2} {d a b : BitVec 6} {q : BitVec 2}
    (h : (Instr.saddw c w d a b q).wellFormed = true) : d.toNat % 2 = 0 := by
  simp only [Instr.wellFormed, even, Bool.and_eq_true, beq_iff_eq] at h
  obtain ⟨⟨⟨-, pair⟩, -⟩, -⟩ := h
  exact pair

end Sys2Proof.Machine

section
open Sys2Proof Sys2Proof.Machine

/-- Settles O18: each word is one scalar write of its function of the operands; the choices of SMIN, SMAX, SMINU and SMAXU, strict in the
model, are those of the weak orders, and SMULH's shift takes the upper word. -/
theorem scalarArithmetic : Obligations.ScalarArithmetic := by
  intro c w d a b q
  simp only [← intMulh_eq, ← intMin_eq, ← intMax_eq, ← intMinu_eq, ← intMaxu_eq]
  exact ⟨scalarResult_of fun _ => rfl, scalarResult_of fun _ => rfl, scalarResult_of fun _ => rfl, scalarResult_of fun _ => rfl,
    scalarResult_of fun _ => rfl, scalarResult_of fun _ => rfl, scalarResult_of fun _ => rfl, scalarResult_of fun _ => rfl,
    scalarResult_of fun _ => rfl, scalarResult_of fun _ => rfl, scalarResult_of fun _ => rfl, scalarResult_of fun _ => rfl,
    scalarResult_of fun _ => rfl, scalarResult_of fun _ => rfl⟩

/-- Settles O19: each word is one write of a register, a pair or a condition; EXT places its X in the path. -/
theorem scalarWideAndImmediate : Obligations.ScalarWideAndImmediate := by
  refine ⟨fun c w d a b q => ?saddw, fun c w d a i => ?saddi, fun c w d i => ?smovi, fun c w k e a b q => ?scmp, fun c w d q => ?qstat,
    fun x => ?ext⟩
  case saddw =>
    refine pairResult_of (lat := 1) (fun _ => rfl) fun s v issues _ last => ?_
    have pair := even_of_wellFormed_saddw issues.wellFormed
    omega
  case saddi => exact scalarResult_of (lat := 1) fun _ => rfl
  case smovi => exact scalarResult_of (lat := 1) fun _ => rfl
  case scmp =>
    have written : ConditionResult (.scmp c w k e a b q) k.toNat fun s v => compareS e (v.s a.toNat 0) (s.bS v q b) :=
      conditionResult_of (ready := fun v => v.time + 1) fun _ => rfl
    refine written.congr fun s v => ?_
    rw [compareS_eq_holdsCode]
    generalize (v.s a.toNat 0).toInt = x, (s.bS v q b).toInt = y
    dsimp only
    obtain _ | _ | _ | _ | _ | _ | _ | n := e.toNat
    all_goals
      rw [Bool.eq_iff_iff]
      simp [holdsCode]
    all_goals omega
  case qstat => exact scalarResult_of (lat := 1) fun _ => rfl
  case ext => exact completes_of (fun _ => rfl) fun _ _ _ => rfl

end

namespace Sys2Proof.Machine

/-! ### The end of a debugger's step, for any part of the team that a stop leaves (R302, R303) -/

section
variable {α : Type} (part : Team → α) {side : Bool} (ops : ∀ t o, part { t with ops := o } = part t)
  (halt : ∀ t r, part (t.halt side r) = part t) (haltWith : ∀ t x n, part (t.haltWith x n) = part t)
include ops halt haltWith

theorem State.debugStop_part (s : State) (c slot r k d i : Nat) {t : Team} (h : s.team d i = some t) :
    ∃ u, (s.debugStop c slot side r k).team d i = some u ∧ part u = part t := by
  obtain ⟨o, traced⟩ := (State.traceWord_tells s c slot side 12 (r + 8 * k)).team d i t h
  unfold State.debugStop
  dsimp only
  generalize s.traceWord c slot side 12 (r + 8 * k) = s1 at traced ⊢
  split
  · exact ⟨_, traced, ops t o⟩
  · next u found =>
    have halted : ∃ w, (s1.setTeam c slot (u.halt side r)).team d i = some w ∧ part w = part t := by
      by_cases core : d = c
      · by_cases place : i = slot
        · subst core place
          obtain rfl := Option.some.inj (found.symm.trans traced)
          exact ⟨_, State.team_setTeam_self _ _ _ _, (halt _ _).trans (ops t o)⟩
        · subst core
          exact ⟨_, (State.team_setTeam_slot _ _ _ place).trans traced, ops t o⟩
      · exact ⟨_, (State.team_setTeam_core _ _ _ _ core).trans traced, ops t o⟩
    obtain ⟨w, team, same⟩ := halted
    split
    · exact ⟨_, State.stopLaunch_team _ _ _ d i w team, (haltWith _ _ _).trans same⟩
    · exact ⟨w, team, same⟩

end

theorem State.endStep_part {α : Type} (part : Team → α) (s : State) (v : View) (h : (s.team v.core v.slot).isSome = true)
    (ops : ∀ t o, part { t with ops := o } = part t) (halt : ∀ t r, part (t.halt v.side r) = part t)
    (haltWith : ∀ t x n, part (t.haltWith x n) = part t) : part ((s.endStep v).teamOf v) = part (s.teamOf v) := by
  obtain ⟨t, team⟩ := Option.isSome_iff_exists.mp h
  unfold State.endStep
  split
  · split
    · obtain ⟨u, stopped, same⟩ := State.debugStop_part part ops halt haltWith s v.core v.slot
        (s.stopReason v.core v.slot v.side 2).1 (s.stopReason v.core v.slot v.side 2).2 v.core v.slot team
      rw [State.stopHere, State.teamOf, stopped, State.teamOf, team]
      exact same
    · rfl
  · rfl

/-- The handler and the other path are no part of what a stop at a path changes. -/
def View.beside (v : View) (t : Team) : Option Handler × Option Path := (t.handler, t.at (!v.side))

theorem State.endStep_beside (s : State) (v : View) (h : (s.team v.core v.slot).isSome = true) :
    v.beside ((s.endStep v).teamOf v) = v.beside (s.teamOf v) := by
  refine State.endStep_part v.beside s v h (fun _ _ => rfl) (fun t r => ?_) fun t x n => ?_
  · unfold View.beside Team.halt
    cases v.side <;> rfl
  · unfold View.beside Team.haltWith
    split <;> rfl

/-! ### BRK and RETT (R102, R103, R345) -/

theorem exec_brk (c : BitVec 1) (w : BitVec 2) (g : BitVec 8) (s : State) :
    exec (.brk c w g) s = issueWord (.brk c w g) (fun s v => if v.path.passed then .done s else .trap 0x0D (g.setWidth 64) 0) s := rfl

/-- The path that a return leaves: the word retried from its EXT or passed over, with s48 to s55 from their bank. -/
def Path.returned (p : Path) (h : Handler) (skip : Bool) : Path :=
  let place := if skip then (if h.faultWord = 2 then (h.retryPc + 1, 0) else (h.retryPc, h.faultWord + 1)) else (h.retryPc, h.retryWord)
  { p with
    pc := place.1, word := place.2, exempt := !skip && wordAt h.h 0 &&& 0xFF == 3, s := p.s.take 48 ++ h.bank ++ p.s.drop 56, ext := none,
    poison := p.poison.filter (fun q => !(decide (48 ≤ q.1) && decide (q.1 < 56))) ++ h.bankPoison,
    lag := p.lag.filter fun g => !(decide (48 ≤ g.reg) && decide (g.reg < 56)) }

theorem Team.returnFrom_of_at {t : Team} {h : Handler} {p : Path} (own : t.at h.path = some p) (skip : Bool) :
    t.returnFrom h skip = { t.setAt h.path (some (p.returned h skip)) with handler := none } := by
  unfold Team.returnFrom
  rw [own]
  rfl

/-- The path of a RETT once it has issued. -/
def View.afterRett (v : View) (w : BitVec 2) (p : Path) : Path :=
  { p with nextAt := max p.nextAt (v.time + 1 + w.toNat), passesTo := v.time + 1, chainAt := none, issuedAt := some v.time }

/-- The team that a RETT leaves. -/
def View.rettTeam (v : View) (w : BitVec 2) (h : Handler) (skip : Bool) (t : Team) : Team :=
  (t.returnFrom h skip).setAt h.path (((t.returnFrom h skip).at h.path).map (v.afterRett w))

theorem rettWord_none (w : BitVec 2) (k : BitVec 1) (s : State) {v : View} (user : v.team.handler = none) :
    rettWord w k s v = .trap 0x12 0 0 := by
  unfold rettWord
  rw [user]
  rfl

theorem rettWord_some (w : BitVec 2) (k : BitVec 1) (s : State) {v : View} {h : Handler} (handler : v.team.handler = some h) :
    rettWord w k s v = .ended ((s.modTeam v (v.rettTeam w h (k == 1))).endStep v) := by
  unfold rettWord
  rw [handler]
  rfl

theorem View.rettTeam_of_at {v : View} {t : Team} {h : Handler} {p : Path} (w : BitVec 2) (skip : Bool) (own : t.at v.side = some p)
    (side : h.path = v.side) :
    (v.rettTeam w h skip t).at v.side = some (v.afterRett w (p.returned h skip)) ∧ v.beside (v.rettTeam w h skip t) = (none, t.at (!v.side)) ∧
      (v.rettTeam w h skip t).v = t.v ∧ (v.rettTeam w h skip t).p = t.p ∧ (v.rettTeam w h skip t).step = t.step := by
  rw [View.rettTeam, Team.returnFrom_of_at (by rw [side, own]), side]
  unfold View.beside
  cases v.side <;> exact ⟨rfl, rfl, rfl, rfl, rfl⟩

/-- What a RETT leaves, once the debugger's step has ended with it. -/
theorem State.rett_spec {s : State} {v : View} {h : Handler} {p : Path} (w : BitVec 2) (skip : Bool) (own : (s.teamOf v).at v.side = some p)
    (side : h.path = v.side) :
    let t := ((s.modTeam v (v.rettTeam w h skip)).endStep v).teamOf v
    (∃ m, t.at v.side = some ((v.afterRett w (p.returned h skip)).marked m)) ∧ t.handler = none ∧ t.at (!v.side) = (s.teamOf v).at (!v.side) ∧
      t.v = (s.teamOf v).v ∧ t.p = (s.teamOf v).p := by
  intro t
  have isSome : ((s.modTeam v (v.rettTeam w h skip)).team v.core v.slot).isSome = true := by rw [State.team_modTeam]; rfl
  have near := State.endStep_teamOf _ v isSome
  have beside := State.endStep_beside _ v isSome
  obtain ⟨path, rest, vectors, predicates, -⟩ := View.rettTeam_of_at w skip own side
  rw [State.teamOf_modTeam] at near beside
  rw [rest, View.beside, Prod.mk.injEq] at beside
  obtain ⟨handler, other⟩ := beside
  obtain ⟨m, marked⟩ := near.path v.side
  exact ⟨⟨m, marked.trans (by rw [path]; rfl)⟩, handler, other, near.v.trans vectors, near.p.trans predicates⟩

/-- Eight words in the place of s48 to s55. -/
theorem wordAt_banked {l bank : List Word} (long : 56 ≤ l.length) (eight : bank.length = 8) (n : Nat) :
    wordAt (l.take 48 ++ bank ++ l.drop 56) n = if 48 ≤ n ∧ n < 56 then wordAt bank (n - 48) else wordAt l n := by
  have first : (l.take 48).length = 48 := by rw [List.length_take]; omega
  unfold wordAt
  simp only [List.getD_eq_getElem?_getD]
  rcases lt_or_ge n 48 with low | high
  · rw [if_neg (by omega), List.append_assoc, List.getElem?_append_left (by omega), List.getElem?_take_of_lt low]
  · rcases lt_or_ge n 56 with inside | above
    · rw [if_pos ⟨high, inside⟩, List.append_assoc, List.getElem?_append_right (by omega), first, List.getElem?_append_left (by omega)]
    · rw [if_neg (by omega), List.getElem?_append_right (by rw [List.length_append]; omega), List.length_append, first, eight,
        List.getElem?_drop, Nat.add_sub_cancel' above]

theorem Path.returned_place (p : Path) (h : Handler) (k : BitVec 1) :
    (k = 0 → (p.returned h (k == 1)).pc = h.retryPc ∧ (p.returned h (k == 1)).word = h.retryWord) ∧
      (k = 1 → (p.returned h (k == 1)).pc = (if h.faultWord = 2 then h.retryPc + 1 else h.retryPc) ∧
        (p.returned h (k == 1)).word = if h.faultWord = 2 then 0 else h.faultWord + 1) := by
  refine ⟨?_, ?_⟩
  · rintro rfl
    exact ⟨rfl, rfl⟩
  · rintro rfl
    unfold Path.returned
    by_cases last : h.faultWord = 2
    · simp [last]
    · simp [last]

end Sys2Proof.Machine

section
open Sys2Proof Sys2Proof.Machine

/-- Settles O39: TRAP and BRK by their effect; RETT by the team that it sets, which the end of a debugger's step only marks. -/
theorem exceptionWords : Obligations.ExceptionWords := by
  refine ⟨fun c w k => ⟨?trap, ?brk, ?passed⟩, fun c w k => ?user, fun c w k s v h issues handler side team long eight => ?returns⟩
  case trap => exact traps_of (fun _ => rfl) fun _ _ _ => rfl
  case brk => exact traps_of (exec_brk c w k) fun _ _ fresh => if_neg (by rw [fresh]; exact Bool.false_ne_true)
  case passed => exact completes_of (exec_brk c w k) fun _ _ passed => if_pos passed
  case user => exact traps_of (fun _ => rfl) fun s _ user => rettWord_none w k s user
  case returns =>
    have views := issues.1
    have issued := State.teamOf_atIssue views team
    have own : ((s.atIssue v).teamOf v).at v.side = some v.path.issuing := by rw [issued, Team.at_setAt_self]
    obtain ⟨⟨m, path⟩, closed, other, vectors, predicates⟩ := State.rett_spec w (k == 1) own side
    obtain ⟨retry, skip⟩ := Path.returned_place v.path.issuing h k
    obtain ⟨vSame, pSame, -⟩ := State.atIssue_spec views
    rw [Path.issuing_eq] at path retry skip
    refine ⟨_, _, issueWord_ended issues (rettWord_some w k _ handler), closed, path, retry, skip, wordAt_banked long eight, rfl, rfl, rfl, rfl,
      vectors.trans vSame, predicates.trans pSame, other.trans ?_, fun noStep => ?_⟩
    · rw [issued, Team.at_setAt_other]
    · obtain ⟨-, mem, hostMem, -, step, -⟩ := State.atIssue_frame views
      have quiet : ((((s.atIssue v).modTeam v (v.rettTeam w h (k == 1))).teamOf v).step) = none := by
        obtain ⟨-, -, -, -, kept⟩ := View.rettTeam_of_at w (k == 1) own side
        rw [State.teamOf_modTeam, kept, step, noStep]
      rw [State.endStep_none _ v quiet]
      exact .of_eq mem hostMem

end

namespace Sys2Proof.Machine

/-! ### Shapes whose effect depends on the team at issue -/

section
variable {i : Instr} {H : State → View → Prop} {eff : State → View → Effect} {e : State → View → State}

theorem completes_of_issues (h : ∀ s, exec i s = issueWord i eff s)
    (he : ∀ (s : State) (v : View), s.Issues v i → H (s.atIssue v) v → eff (s.atIssue v) v = .done (e (s.atIssue v) v)) : Completes i H e := by
  intro s v issues holds
  rw [h]
  exact issueWord_done issues (he s v issues holds)

theorem waits_of_issues {r : Nat} (h : ∀ s, exec i s = issueWord i eff s)
    (he : ∀ (s : State) (v : View), s.Issues v i → H (s.atIssue v) v → eff (s.atIssue v) v = .wait (e (s.atIssue v) v) r) : Waits i H e r := by
  intro s v issues holds
  rw [h]
  exact issueWord_wait issues (he s v issues holds)

theorem ends_of_issues (h : ∀ s, exec i s = issueWord i eff s)
    (he : ∀ (s : State) (v : View), s.Issues v i → H (s.atIssue v) v → eff (s.atIssue v) v = .ended (e (s.atIssue v) v)) : Ends i H e := by
  intro s v issues holds
  rw [h]
  exact issueWord_ended issues (he s v issues holds)

end

theorem View.outside_cohort (v : View) (t : Team) : (v.outside t).cohort = t.cohort := by
  unfold View.outside
  cases v.run <;> cases v.side <;> rfl

theorem View.outside_mismatches (v : View) (t : Team) : (v.outside t).mismatches = t.mismatches := by
  unfold View.outside
  cases v.run <;> cases v.side <;> rfl

/-- At issue the team is of the view's cohort and has its record of mismatches. -/
theorem State.teamOf_atIssue_keeps {s : State} {v : View} {i : Instr} (views : s.Views v i) :
    ((s.atIssue v).teamOf v).cohort = v.team.cohort ∧ ((s.atIssue v).teamOf v).mismatches = v.team.mismatches := by
  obtain ⟨-, -, -, outside, -⟩ := State.atIssue_frame views
  rw [← View.outside_cohort, ← View.outside_mismatches, outside, View.outside_cohort, View.outside_mismatches]
  exact ⟨rfl, rfl⟩

/-! ### BAR and BARA (R28, R113) -/

/-- The phase in which an arrival at a barrier of a cohort counts. -/
def State.barPhase (s : State) (c id b : Nat) : Nat := ((s.cohort c id).map fun h => (h.bar b).phase).getD 0

/-- The team arrives, and its path waits for no sibling. -/
def State.arriveAlone (s : State) (v : View) (b : Nat) : State := (s.modPath v fun p => { p with bar := none }).arrive v b

/-- The path waits in a phase of a barrier. -/
def State.waitPhase (s : State) (v : View) (b n : Nat) : State := s.modPath v fun p => { p with bar := some (.phase b n) }

/-- The team arrives for both its paths: the sibling waits in the phase. -/
def State.arriveBoth (s : State) (v : View) (q : Path) (b n : Nat) : State :=
  (s.modTeam v fun t => t.setAt (!v.side) (some { q with bar := some (.phase b n) })).arriveAlone v b

/-- After the arrival in phase `n` a BAR (`stay`) waits in the phase while it is open, and any other word goes on. -/
def View.afterArrival (v : View) (stay : Bool) (b n : Nat) (s : State) : Effect :=
  if stay && s.phaseOpen v b n then .wait (s.waitPhase v b n) 10 else .done s

/-- The path has arrived with an earlier issue of its word. -/
def State.BarBegun (s : State) (v : View) : Prop := ∃ x y, (s.pathOf v).bar = some (.phase x y)

section
variable {s : State} {v : View} {stay : Bool} {b : BitVec 4}

theorem barWord_begun {x y : Nat} (h : (s.pathOf v).bar = some (.phase x y)) (goes : (stay && s.phaseOpen v x y) = false) :
    barWord stay b s v = .done (s.modPath v fun p => { p with bar := none }) := by
  unfold barWord
  simp only [h, goes, Bool.false_eq_true, if_false]

theorem barWord_alone (h : ¬ s.BarBegun v) (alone : (s.teamOf v).at (!v.side) = none) :
    barWord stay b s v = v.afterArrival stay b.toNat (s.barPhase v.core (s.teamOf v).cohort b.toNat) (s.arriveAlone v b.toNat) := by
  unfold barWord
  dsimp only
  split
  · next x y begun => exact absurd ⟨x, y, begun⟩ h
  · rw [alone]
    rfl

theorem barWord_first {q : Path} (h : ¬ s.BarBegun v) (sibling : (s.teamOf v).at (!v.side) = some q)
    (first : ∀ st, q.bar ≠ some (.arrive b.toNat st)) :
    barWord stay b s v = .wait (s.modPath v fun p => { p with bar := some (.arrive b.toNat stay) }) 10 := by
  unfold barWord
  dsimp only
  split
  · next x y begun => exact absurd ⟨x, y, begun⟩ h
  · rw [sibling]
    dsimp only
    split
    · next other => exact if_neg fun same => first _ (same ▸ other)
    · rfl

theorem barWord_second {q : Path} (h : ¬ s.BarBegun v) (sibling : (s.teamOf v).at (!v.side) = some q) {st : Bool}
    (second : q.bar = some (.arrive b.toNat st)) :
    barWord stay b s v = v.afterArrival stay b.toNat (s.barPhase v.core (s.teamOf v).cohort b.toNat)
      (s.arriveBoth v q b.toNat (s.barPhase v.core (s.teamOf v).cohort b.toNat)) := by
  unfold barWord
  dsimp only
  split
  · next x y begun => exact absurd ⟨x, y, begun⟩ h
  · rw [sibling]
    simp only [second, if_true]
    rfl

theorem View.afterArrival_goes {n b : Nat} (h : (stay && s.phaseOpen v b n) = false) : v.afterArrival stay b n s = .done s :=
  if_neg (Bool.eq_false_iff.mp h)

theorem View.afterArrival_waits {n b : Nat} (h : s.phaseOpen v b n = true) : v.afterArrival true b n s = .wait (s.waitPhase v b n) 10 :=
  if_pos h

end

/-! ### Phases of a cohort (R113) -/

/-- A cohort written back is the one that its number finds. -/
theorem State.cohort_setCohort {s : State} {c : Nat} {h g : Cohort} (found : s.cohort c g.id = some h) :
    (s.setCohort c g).cohort c g.id = some g := by
  unfold State.cohort at found ⊢
  rw [State.setCohort, State.core_setCore_self]
  dsimp only
  generalize (s.core c).cohorts = l at found ⊢
  induction l with
  | nil => exact nomatch found
  | cons k rest ih =>
    rw [List.map_cons]
    by_cases own : k.id = g.id
    · rw [if_pos own]
      exact List.find?_cons_of_pos (beq_self_eq_true g.id)
    · have other : (k.id == g.id) = false := beq_eq_false_iff_ne.mpr own
      rw [List.find?_cons, other] at found
      rw [if_neg own, List.find?_cons, other]
      exact ih found

theorem State.id_of_cohort {s : State} {c id : Nat} {h : Cohort} (found : s.cohort c id = some h) : h.id = id :=
  beq_iff_eq.mp (List.find?_some (p := fun g : Cohort => g.id == id) found)

/-- Another barrier of a cohort is where it was. -/
theorem Cohort.bar_put (h : Cohort) (b : Nat) (k : Barrier) :
    ({ h with bars := Table.put h.bars b k } : Cohort).bar b = k ∧
      ∀ n, n ≠ b → ({ h with bars := Table.put h.bars b k } : Cohort).bar n = h.bar n := by
  unfold Cohort.bar
  refine ⟨by rw [Table.get_put_self]; rfl, fun n other => by rw [Table.get_put_other _ _ other]⟩

theorem State.completePhase_open {s : State} {c id b : Nat} {h : Cohort} (found : s.cohort c id = some h)
    (missing : (h.exited ++ (h.bar b).arrived).eraseDups.length < h.size) : s.completePhase c id b = s := by
  unfold State.completePhase
  rw [found]
  exact if_pos missing

theorem State.completePhase_full {s : State} {c id b : Nat} {h : Cohort} (found : s.cohort c id = some h)
    (full : h.size ≤ (h.exited ++ (h.bar b).arrived).eraseDups.length) :
    (s.completePhase c id b).cohort c id = some { h with bars := Table.put h.bars b ⟨(h.bar b).phase + 1, []⟩ } := by
  obtain rfl := State.id_of_cohort found
  unfold State.completePhase
  rw [found]
  simp only [if_neg full.not_gt]
  rw [State.cohort, State.core_setCore_self]
  exact State.cohort_setCohort (g := { h with bars := Table.put h.bars b ⟨(h.bar b).phase + 1, []⟩ }) found

end Sys2Proof.Machine

section
open Sys2Proof Sys2Proof.Machine

/-- Settles O43: each word by what its path and its sibling have begun; a completed phase by the cohort that is written back. -/
theorem barriers : Obligations.Barriers := by
  refine ⟨fun c w b => ?_, fun s c id b h found => ⟨State.completePhase_open found, fun full => ?_⟩⟩
  · have fresh {s : State} {v : View} (h : (s.pathOf v).bar = none) : ¬ s.BarBegun v := fun ⟨_, _, begun⟩ => nomatch h.symm.trans begun
    have cohort {s : State} {v : View} {i : Instr} (issues : s.Issues v i) := (State.teamOf_atIssue_keeps issues.1).1
    refine ⟨?_, ?_, ?_, ?_, ?_, ?_, ?_, fun q => ⟨?_, ?_, ?_⟩⟩
    · refine completes_of (fun _ => rfl) fun s v ⟨_, alone, none'⟩ => ?_
      rw [barWord_alone (fresh none') alone]
      exact View.afterArrival_goes (Bool.false_and _)
    · refine completes_of_issues (fun _ => rfl) fun s v issues ⟨⟨_, alone, none'⟩, done⟩ => ?_
      rw [barWord_alone (fresh none') alone, cohort issues]
      exact View.afterArrival_goes done
    · refine waits_of_issues (fun _ => rfl) fun s v issues ⟨⟨_, alone, none'⟩, opened⟩ => ?_
      rw [barWord_alone (fresh none') alone, cohort issues]
      exact View.afterArrival_waits opened
    · exact completes_of (fun _ => rfl) fun s v ⟨x, y, begun, done⟩ => barWord_begun begun done
    · exact completes_of (fun _ => rfl) fun s v ⟨x, y, begun⟩ => barWord_begun begun (Bool.false_and _)
    · exact waits_of (fun _ => rfl) fun s v ⟨unbegun, q, sibling, first⟩ => barWord_first unbegun sibling first
    · exact waits_of (fun _ => rfl) fun s v ⟨unbegun, q, sibling, first⟩ => barWord_first unbegun sibling first
    · refine completes_of_issues (fun _ => rfl) fun s v issues ⟨unbegun, sibling, st, second⟩ => ?_
      rw [barWord_second unbegun sibling second, cohort issues]
      exact View.afterArrival_goes (Bool.false_and _)
    · refine completes_of_issues (fun _ => rfl) fun s v issues ⟨⟨unbegun, sibling, st, second⟩, done⟩ => ?_
      rw [barWord_second unbegun sibling second, cohort issues]
      exact View.afterArrival_goes done
    · refine waits_of_issues (fun _ => rfl) fun s v issues ⟨⟨unbegun, sibling, st, second⟩, opened⟩ => ?_
      rw [barWord_second unbegun sibling second, cohort issues]
      exact View.afterArrival_waits opened
  · obtain ⟨own, others⟩ := h.bar_put b ⟨(h.bar b).phase + 1, []⟩
    exact ⟨_, State.completePhase_full found full, by rw [own], by rw [own], rfl, others⟩

end

namespace Sys2Proof.Machine

/-! ### What holds a word that waits (R112, R113, R116, R209) -/

/-- A word whose only effect is to wait. -/
inductive WaitWord : Instr → Prop
  | waitc (c : BitVec 1) (w : BitVec 2) (h : BitVec 3) (a : BitVec 6) : WaitWord (.waitc c w h a)
  | waitci (c : BitVec 1) (w : BitVec 2) (h : BitVec 3) (n : BitVec 6) : WaitWord (.waitci c w h n)
  | qfence (c : BitVec 1) (w : BitVec 2) (m : BitVec 5) : WaitWord (.qfence c w m)
  | barw (c : BitVec 1) (w : BitVec 2) (b : BitVec 4) : WaitWord (.barw c w b)
  | mwait (c : BitVec 1) (w : BitVec 2) (b : BitVec 5) : WaitWord (.mwait c w b)

/-- The reasons of a wait on a counter with a threshold. -/
def View.counterReasons (v : View) (h : BitVec 3) (threshold : Nat) : List Nat :=
  if h = 5 ∧ !v.team.mismatches.isEmpty then [] else if threshold < v.team.count h.toNat then [3 + h.toNat] else []

/-- A copy of the team in a queue has not completed. -/
def View.copies (v : View) (q : Nat) : Bool :=
  v.team.ops.any fun o => match o.kind with
    | .copy q' _ _ _ _ => q' == q && !o.done
    | _ => false

/-- The reasons that a word that waits has of its own. -/
def State.waitReasons (s : State) (v : View) : Instr → List Nat
  | .waitc _ _ h a => v.counterReasons h (v.s a.toNat 0).toNat
  | .waitci _ _ h n => v.counterReasons h n.toNat
  | .qfence _ _ m =>
    if m.getLsbD 3 && !v.team.mismatches.isEmpty then [] else
    (if (m.getLsbD 0 && v.copies 0) || (m.getLsbD 1 && v.copies 1) then [6] else []) ++
      (if m.getLsbD 2 && v.team.count 4 != 0 then [7] else []) ++ (if m.getLsbD 3 && v.team.count 5 != 0 then [8] else []) ++
      (if m.getLsbD 4 && !(s.commandsOf v.core v.team.uid).isEmpty then [11] else [])
  | .barw _ _ b => match Table.get v.team.arrivals b.toNat with
    | some n => if s.phaseOpen v b.toNat n then [10] else []
    | none => []
  | .mwait _ _ b => if s.batchOpen v (v.s (2 * b.toNat) 0) then [11] else []
  | _ => []

theorem State.waitReasons_subset (s : State) (v : View) {i : Instr} (h : WaitWord i) : s.waitReasons v i ⊆ s.wordReasons v i := by
  have own {a b c : List Nat} : b ⊆ a ++ b ++ c := fun r mem => List.mem_append_left _ (List.mem_append_right _ mem)
  cases h <;> exact own

theorem WaitWord.runnerMay {i : Instr} (h : WaitWord i) : runnerMay i = false := by
  cases h <;> rfl

theorem WaitWord.spineOf {i : Instr} (h : WaitWord i) : spineOf i = none := by
  cases h <;> rfl

/-- A team's word that waits, with its pipe free, has no other reason. -/
theorem State.wordReasons_of_wait {s : State} {v : View} {i : Instr} (h : WaitWord i) (team : v.run = false) (free : s.pipeBusy v i = false) :
    s.wordReasons v i = s.waitReasons v i := by
  have lock : v.interlocked i = false := by rw [View.interlocked, team, Bool.false_and]
  have release : s.releaseHeld v i = false := by
    have none' : releaseScope v i = none := by cases h <;> rfl
    simp [State.releaseHeld, View.releaseOp, none']
  unfold State.wordReasons
  simp only [lock, release, free, Bool.false_eq_true, if_false, List.append_nil]
  cases h <;> rfl

/-- A word that no runner may have is a team's once it has been decoded. -/
theorem View.not_run_of_decodeTrap {s : State} {v : View} {i : Instr} (decoded : s.decodeTrap v i = none) (mayNot : runnerMay i = false) :
    v.run = false := by
  cases run : v.run with
  | false => rfl
  | true =>
    have ill : s.malformed v i = true := by simp [State.malformed, run, mayNot]
    rw [State.decodeTrap_malformed ill] at decoded
    exact nomatch decoded

/-- A word of no chain that nothing but itself may hold. -/
def State.Free (s : State) (v : View) (i : Instr) : Prop :=
  s.Views v i ∧ s.pathReasons v = [] ∧ v.path.chainAt = none ∧ s.decodeTrap v i = none ∧ v.sourceTrap i = none ∧ s.pipeBusy v i = false

section
variable {s : State} {v : View} {i : Instr}

theorem State.Free.frozen (h : s.Free v i) : s.frozen v = none := by
  obtain ⟨-, none', -⟩ := h
  rw [State.frozen, none']
  rfl

/-- What holds such a word is the least of its own reasons. -/
theorem State.Free.holds (h : s.Free v i) (wait : WaitWord i) (alone : (chainOf i).1 = 0) :
    s.holds v i = leastReason (s.waitReasons v i) := by
  obtain ⟨-, none', first, decoded, -, free⟩ := h
  have team := View.not_run_of_decodeTrap decoded wait.runnerMay
  unfold State.holds State.reasons
  rw [none', first, alone, State.wordReasons_of_wait wait team free]
  simp [State.fencedChain]

theorem State.Free.issues (h : s.Free v i) (wait : WaitWord i) (alone : (chainOf i).1 = 0) (goes : s.waitReasons v i = []) : s.Issues v i := by
  have holds := h.holds wait alone
  have frozen := h.frozen
  obtain ⟨views, -, -, decoded, source, -⟩ := h
  refine ⟨views, frozen, decoded, ?_, source, ?_⟩
  · rw [holds, goes]
    rfl
  · rw [State.spinePoison, wait.spineOf]

/-- A word held by one reason of its own waits a cycle. -/
theorem State.Free.before_waiting (h : s.Free v i) (wait : WaitWord i) (alone : (chainOf i).1 = 0) {r : Nat} (waits : s.waitReasons v i = [r]) :
    s.before v i = some (s.waiting v r) := by
  have least : leastReason [r] = some r := by
    unfold leastReason
    split
    · next q found =>
      have mem := List.find?_some found
      rw [List.contains_iff_mem, List.mem_singleton] at mem
      rw [mem]
    · rfl
  have back : s.heldBack v i r = s.waiting v r := by
    have asks : s.asksGrow v i = false := by simp [State.asksGrow, alone]
    rw [State.heldBack, asks]
    rfl
  have holds := h.holds wait alone
  have frozen := h.frozen
  obtain ⟨-, -, -, decoded, source, -⟩ := h
  rw [← back]
  exact State.before_of_holds frozen decoded (fun _ => source) (holds.trans (by rw [waits, least]))

theorem View.counterReasons_goes {h : BitVec 3} {n : Nat} (le : v.team.count h.toNat ≤ n) : v.counterReasons h n = [] := by
  rw [View.counterReasons, if_neg le.not_gt, ite_self]

theorem View.counterReasons_waits {h : BitVec 3} {n : Nat} (matched : h = 5 → v.team.mismatches = []) (above : n < v.team.count h.toNat) :
    v.counterReasons h n = [3 + h.toNat] := by
  rw [View.counterReasons, if_neg, if_pos above]
  rintro ⟨five, recorded⟩
  rw [matched five] at recorded
  exact Bool.false_ne_true recorded

theorem View.copies_eq_false {q : Nat} (h : ¬ ∃ o ∈ v.team.ops, o.done = false ∧ ∃ kind src dst rows, o.kind = .copy q kind src dst rows) :
    v.copies q = false := by
  refine List.any_eq_false.mpr fun o mem on => h ⟨o, mem, ?_⟩
  split at on
  · next q' kind src dst rows copy =>
    rw [Bool.and_eq_true, beq_iff_eq, Bool.not_eq_true'] at on
    obtain ⟨rfl, pending⟩ := on
    exact ⟨pending, kind, src, dst, rows, copy⟩
  · exact absurd on Bool.false_ne_true

theorem Team.count_eq_zero {t : Team} {code : Nat} (h : ¬ ∃ o ∈ t.ops, o.code = code) : t.count code = 0 := by
  rw [Team.count, List.length_eq_zero_iff, List.filter_eq_nil_iff]
  exact fun o mem on => h ⟨o, mem, beq_iff_eq.mp on⟩

theorem State.commandsOf_eq_nil {c uid : Nat} (h : ∀ m, ¬ (m ∈ (s.core c).mtx.window ∧ m.team = uid)) : s.commandsOf c uid = [] :=
  List.filter_eq_nil_iff.mpr fun m mem own => h m ⟨mem, beq_iff_eq.mp own⟩

theorem State.batchOpen_eq_false {x : Word}
    (h : ∀ m, (m ∈ (s.core v.core).mtx.window ∧ m.team = v.team.uid) → m.batch ≠ v.team.batch → 2 ^ 31 ≤ (x - m.batch).toNat) :
    s.batchOpen v x = false := by
  refine List.any_eq_false.mpr fun m mem on => ?_
  rw [Bool.and_eq_true, bne_iff_ne, decide_eq_true_iff] at on
  obtain ⟨window, own⟩ := List.mem_filter.mp mem
  exact absurd on.2 (h m ⟨window, beq_iff_eq.mp own⟩ on.1).not_gt

theorem State.phaseOpen_eq_false {b n : Nat} (h : ∀ g, s.cohort v.core v.team.cohort = some g → n < (g.bar b).phase) :
    s.phaseOpen v b n = false := by
  unfold State.phaseOpen
  split
  · rfl
  · next g found => exact decide_eq_false (h g found).not_ge

/-- No operation of a queue that a QFENCE names is outstanding (R116). -/
theorem State.waitReasons_qfence {m : BitVec 5} (w : BitVec 2)
    (q0 : m.getLsbD 0 = true → ¬ ∃ o ∈ v.team.ops, o.done = false ∧ ∃ kind src dst rows, o.kind = .copy 0 kind src dst rows)
    (q1 : m.getLsbD 1 = true → ¬ ∃ o ∈ v.team.ops, o.done = false ∧ ∃ kind src dst rows, o.kind = .copy 1 kind src dst rows)
    (trans : m.getLsbD 2 = true → ¬ ∃ o ∈ v.team.ops, o.code = 4) (col : m.getLsbD 3 = true → ¬ ∃ o ∈ v.team.ops, o.code = 5)
    (mtx : m.getLsbD 4 = true → ∀ k, ¬ (k ∈ (s.core v.core).mtx.window ∧ k.team = v.team.uid)) :
    s.waitReasons v (.qfence 0 w m) = [] := by
  have off {named out : Bool} (empty : named = true → out = false) : (named && out) = false := by
    cases named with
    | false => rfl
    | true => exact empty rfl
  have none0 := off fun named => View.copies_eq_false (q0 named)
  have none1 := off fun named => View.copies_eq_false (q1 named)
  have none2 : (m.getLsbD 2 && v.team.count 4 != 0) = false := off fun named => by rw [Team.count_eq_zero (trans named)]; rfl
  have none3 : (m.getLsbD 3 && v.team.count 5 != 0) = false := off fun named => by rw [Team.count_eq_zero (col named)]; rfl
  have none4 : (m.getLsbD 4 && !(s.commandsOf v.core v.team.uid).isEmpty) = false :=
    off fun named => by rw [State.commandsOf_eq_nil (mtx named)]; rfl
  simp only [State.waitReasons, none0, none1, none2, none3, none4, Bool.or_false, Bool.false_eq_true, if_false, List.append_nil, ite_self]

theorem State.waitReasons_barw {b : BitVec 4} (w : BitVec 2)
    (passed : ∀ n, Table.get v.team.arrivals b.toNat = some n → ∀ g, s.cohort v.core v.team.cohort = some g → n < (g.bar b.toNat).phase) :
    s.waitReasons v (.barw 0 w b) = [] := by
  unfold State.waitReasons
  dsimp only
  split
  · next n arrived => rw [State.phaseOpen_eq_false (passed n arrived), if_neg Bool.false_ne_true]
  · rfl

/-! ### The effects of these words -/

theorem waitWord_of_ne {h : BitVec 3} (other : h ≠ 5) : waitWord h s v = .done s := if_neg other

theorem waitWord_col_observed (matched : (s.teamOf v).mismatches = []) :
    waitWord 5 s v = .done (s.modTeam v fun t => { t with gc := t.gc + t.cbars, cbars := 0 }) := by
  rw [waitWord, if_pos rfl, colObserved, matched]

theorem colObserved_mismatch {x : Nat} {rest : List Nat} (recorded : (s.teamOf v).mismatches = x :: rest) :
    colObserved s v = .ended ((s.modTeam v fun t => { t with mismatches := rest }).trapView v 0x01 (BitVec.ofNat 64 x) 0 0) := by
  rw [colObserved, recorded]

theorem qfenceWord_goes {m : BitVec 5} (matched : m.getLsbD 3 = false ∨ (s.teamOf v).mismatches = []) : qfenceWord m s v = .done s := by
  unfold qfenceWord
  refine if_neg ?_
  obtain off | none' := matched
  · rw [off, Bool.false_and]
    exact Bool.false_ne_true
  · rw [none', List.isEmpty_nil, Bool.not_true, Bool.and_false]
    exact Bool.false_ne_true

theorem qfenceWord_mismatch {m : BitVec 5} {x : Nat} {rest : List Nat} (named : m.getLsbD 3 = true)
    (recorded : (s.teamOf v).mismatches = x :: rest) :
    qfenceWord m s v = .ended ((s.modTeam v fun t => { t with mismatches := rest }).trapView v 0x01 (BitVec.ofNat 64 x) 0 0) := by
  rw [qfenceWord, named, recorded]
  exact colObserved_mismatch recorded

end

end Sys2Proof.Machine

namespace Sys2Proof.Machine

/-! ### A path that waits a cycle (R298) -/

/-- The stall reason written into the path, before the cycle passes. -/
def State.stalled (s : State) (v : View) (r : Nat) : State := s.modPath v fun p => { p with stall := r }

theorem Runner.ofPath_stalled (u : Runner) (r : Nat) : u.ofPath { u.asPath with stall := r } = u := rfl

section
variable {s : State} {v : View} {i : Instr} (r : Nat)

theorem State.teamOf_waiting (s : State) (v : View) : (s.waiting v r).teamOf v = (s.stalled v r).teamOf v := by
  rw [State.waiting, State.teamOf_used, State.teamOf_passTicks, State.teamOf_passCycles]
  rfl

theorem State.teamOf_stalled (views : s.Views v i) :
    (s.stalled v r).teamOf v = if v.run then v.team else v.team.setAt v.side (some { v.path with stall := r }) := by
  obtain ⟨-, -, -, runner⟩ := views.spec
  rw [State.stalled, State.modPath, State.teamOf_putPath, State.view_teamOf views, State.view_pathOf views]
  cases run : v.run with
  | false => rfl
  | true =>
    rw [runner run, if_pos rfl, if_pos rfl, Runner.ofPath_stalled]

theorem State.regsOf_stalled (s : State) (v : View) : (s.stalled v r).regsOf v = s.regsOf v := by
  obtain ⟨scalars, conditions, -⟩ := State.pathOf_putPath_regs s v { s.pathOf v with stall := r }
  obtain ⟨vectors, predicates⟩ := State.teamOf_putPath_vectors s v { s.pathOf v with stall := r }
  rw [State.regsOf, State.stalled, State.modPath, scalars, conditions, vectors, predicates]
  rfl

theorem State.keepsRegisters_waiting (s : State) (v : View) : KeepsRegisters v s (s.waiting v r) :=
  keepsRegisters_of_regsOf ((State.regsOf_congr (State.teamOf_waiting r s v)).trans (State.regsOf_stalled r s v))

theorem State.keepsModes_waiting (s : State) (v : View) : KeepsModes v s (s.waiting v r) :=
  keepsModes_of_modesOf ((State.modesOf_congr (State.pathOf_congr (State.teamOf_waiting r s v))).trans
    (State.modesOf_putPath s v { s.pathOf v with stall := r } ⟨rfl, rfl, rfl, rfl⟩))

theorem State.keepsPackage_waiting (s : State) (v : View) : KeepsPackage v s (s.waiting v r) := by
  obtain ⟨besides, mem, hostMem, -⟩ := State.Within.putPath v s { s.pathOf v with stall := r }
  refine ⟨?_, .of_eq ?_ ?_⟩
  · rw [State.waiting, State.besides_used, State.besides_passTicks, State.besides_passCycles]
    exact besides
  · exact (State.passTicks_mem _ _).trans ((State.passCycles_mem _ _ _).trans mem)
  · exact (State.passTicks_hostMem _ _).trans ((State.passCycles_hostMem _ _ _).trans hostMem)

theorem State.keepsDirty_waiting (s : State) (v : View) : KeepsDirty v s (s.waiting v r) :=
  (KeepsDirty.putPath v s { s.pathOf v with stall := r }).trans
    (KeepsDirty.of_cores ((State.passTicks_cores _ _).trans (State.passCycles_cores _ _ _)))

theorem State.place_waiting (views : s.Views v i) :
    ((s.waiting v r).pathOf v).pc = v.path.pc ∧ ((s.waiting v r).pathOf v).word = v.path.word := by
  obtain ⟨-, -, pc, word, -⟩ := State.pathOf_putPath_regs s v { s.pathOf v with stall := r }
  rw [State.pathOf_congr (State.teamOf_waiting r s v), State.stalled, State.modPath, pc, word, State.view_pathOf views]
  exact ⟨rfl, rfl⟩

theorem State.cycle_passTicks (s : State) (n d : Nat) : ((s.passTicks n).die d).cycle = (s.die d).cycle := by
  unfold State.passTicks
  split
  · unfold State.die
    split <;> rfl
  · rfl

theorem State.cycle_waiting (s : State) (v : View) :
    ((s.waiting v r).die (dieOf v.core)).cycle = (s.die (dieOf v.core)).cycle + 1 := by
  have passed (t : State) (d : Nat) : ((t.passCycles d 1).die d).cycle = (t.die d).cycle + 1 := by
    rw [State.passCycles, State.die_setDie, if_pos Iff.rfl]
  exact (State.cycle_passTicks _ _ _).trans (passed _ _)

theorem State.fresh_waiting (s : State) (v : View) : (s.waiting v r).fresh = s.fresh + 1 := by
  have passed : (((s.stalled v r).passCycles (dieOf v.core) 1).passTicks 1).fresh = s.fresh := by
    rw [State.passTicks_fresh, State.passCycles_fresh]
    rfl
  exact congrArg (· + 1) passed

end

end Sys2Proof.Machine

section
open Sys2Proof Sys2Proof.Machine

/-- Settles O42: a word that issues by its effect; one that only itself may hold by its own reasons, which are none or the counter's; what a
path that waits leaves by where its stall reason and the cycle are written. -/
theorem waitsOnCounters : Obligations.WaitsOnCounters := by
  refine ⟨⟨?effects, ?free, ?held⟩, fun s v i r views => ?waiting⟩
  case effects =>
    intro c w h a n m b k
    have issued {s : State} {v : View} {i : Instr} {l : List Nat} (issues : s.Issues v i) (recorded : v.team.mismatches = l) :
        ((s.atIssue v).teamOf v).mismatches = l := (State.teamOf_atIssue_keeps issues.1).2.trans recorded
    refine ⟨?_, ?_, ?_, ?_, ?_, ?_, ?_, fun x rest => ⟨?_, ?_, ?_⟩⟩
    · exact completes_of (fun _ => rfl) fun _ _ other => waitWord_of_ne other
    · exact completes_of (fun _ => rfl) fun _ _ other => waitWord_of_ne other
    · exact completes_of_issues (fun _ => rfl) fun _ _ issues matched => waitWord_col_observed (issued issues matched)
    · exact completes_of_issues (fun _ => rfl) fun _ _ issues matched => waitWord_col_observed (issued issues matched)
    · exact completes_of_issues (fun _ => rfl) fun _ _ issues matched => qfenceWord_goes (matched.imp_right (issued issues))
    · exact completes_of (fun _ => rfl) fun _ _ _ => rfl
    · exact completes_of (fun _ => rfl) fun _ _ _ => rfl
    · exact ends_of_issues (fun _ => rfl) fun _ _ issues recorded => colObserved_mismatch (issued issues recorded)
    · exact ends_of_issues (fun _ => rfl) fun _ _ issues recorded => colObserved_mismatch (issued issues recorded)
    · exact ends_of_issues (fun _ => rfl) fun _ _ issues recorded => qfenceWord_mismatch recorded.1 (issued issues recorded.2)
  case free =>
    intro w h a n m b k s v
    have goes {i : Instr} {eff : State → View → Effect} (wait : WaitWord i) (alone : (chainOf i).1 = 0) (free : s.Free v i)
        (none' : s.waitReasons v i = []) (run : exec i s = issueWord i eff s) (done : eff (s.atIssue v) v = .done (s.atIssue v)) :
        exec i s = .next ((s.atIssue v).finish v i) :=
      run.trans (issueWord_done (free.issues wait alone none') done)
    have waits {i : Instr} {r : Nat} {x : Word} (wait : WaitWord i) (alone : (chainOf i).1 = 0) (free : s.Free v i)
        (one : s.waitReasons v i = [r]) (word : encode i = some x) : exec i s = .next (s.waiting v r) :=
      exec_of_before word free.1 (free.before_waiting wait alone one)
    refine ⟨fun free other le => ?_, fun free other le => ?_, fun free q0 q1 trans col mtx => ?_, fun free passed => ?_, fun free retired => ?_,
      fun free matched above => ?_, fun free matched above => ?_⟩
    · exact goes (.waitc ..) rfl free (View.counterReasons_goes le) rfl (waitWord_of_ne other)
    · exact goes (.waitci ..) rfl free (View.counterReasons_goes le) rfl (waitWord_of_ne other)
    · have matched : m.getLsbD 3 = false ∨ v.team.mismatches = [] := by
        cases named : m.getLsbD 3 with
        | false => exact .inl rfl
        | true => exact .inr (col named).1
      exact goes (.qfence ..) rfl free (State.waitReasons_qfence w q0 q1 trans (fun named => (col named).2) mtx) rfl
        (qfenceWord_goes (matched.imp_right (State.teamOf_atIssue_keeps free.1).2.trans))
    · exact goes (eff := fun s _ => .done s) (.barw ..) rfl free (State.waitReasons_barw w passed) rfl rfl
    · exact goes (eff := fun s _ => .done s) (.mwait ..) rfl free (if_neg (Bool.eq_false_iff.mp (State.batchOpen_eq_false retired))) rfl rfl
    · exact waits (.waitc ..) rfl free (View.counterReasons_waits matched above) rfl
    · exact waits (.waitci ..) rfl free (View.counterReasons_waits matched above) rfl
  case held =>
    intro c w h a n s v frozen first matched
    have held {i : Instr} {x : Word} (wait : WaitWord i) (word : encode i = some x) (views : s.Views v i) (decoded : s.decodeTrap v i = none)
        (sources : holdReads i = true → v.sourceTrap i = none) (own : s.waitReasons v i = [3 + h.toNat]) :
        ∃ r, exec i s = .next (s.heldBack v i r) := by
      have mem : 3 + h.toNat ∈ s.reasons v i := by
        have word : 3 + h.toNat ∈ s.wordReasons v i := s.waitReasons_subset v wait (by rw [own]; exact List.mem_singleton_self _)
        unfold State.reasons
        rw [first]
        exact List.mem_append_left _ (List.mem_append_left _ word)
      obtain ⟨r, -, run⟩ := exec_of_fenced word views frozen decoded sources (List.mem_append_right _ mem)
      exact ⟨r, run⟩
    refine ⟨fun views decoded source above => ?_, fun views decoded above => ?_⟩
    · exact held (.waitc ..) rfl views decoded (fun _ => source) (View.counterReasons_waits matched above)
    · exact held (.waitci ..) rfl views decoded (fun reads => nomatch reads) (View.counterReasons_waits matched above)
  case waiting =>
    obtain ⟨pc, word⟩ := State.place_waiting r views
    exact ⟨State.keepsRegisters_waiting r s v, State.keepsModes_waiting r s v, State.keepsPackage_waiting r s v, State.keepsDirty_waiting r s v,
      pc, word, (State.teamOf_waiting r s v).trans (State.teamOf_stalled r views), State.cycle_waiting r s v, State.fresh_waiting r s v⟩

end

namespace Sys2Proof.Machine

/-! ### LAUNCH (R109) -/

section
variable {a : BitVec 6} {s : State} {v : View}

/-- The depth of the launch that a team belongs to (R110). -/
def State.depthOf (s : State) (v : View) : Nat := ((s.launch v.team.ctx v.team.launch).map (·.depth)).getD 0

/-- The state in which LAUNCH examines a record: the core's own writes to it are out, and its reads are counted (log 79). -/
def State.recordRead (s : State) (v : View) (va : Nat) : State :=
  (s.clearWay v.core (s.linesAt v.team.ctx [va])).readRecord v.team.ctx (dieOf v.core) va

theorem launchWord_deep (deep : s.depthOf v = 10) : launchWord a s v = .trap 0x0B 0 10 := by
  unfold launchWord
  exact if_pos deep

theorem launchWord_misaligned (shallow : s.depthOf v ≠ 10) (off : (v.sPair a.toNat 0).toNat % 64 ≠ 0) :
    launchWord a s v = .trap 0x07 (v.sPair a.toNat 0) 0 := by
  unfold launchWord
  refine (if_neg shallow).trans ((if_pos (Or.inl off)).trans ?_)
  rw [BitVec.ofNat_toNat, BitVec.setWidth_eq]

section
variable (shallow : s.depthOf v ≠ 10) (aligned : (v.sPair a.toNat 0).toNat % 64 = 0) (below : (v.sPair a.toNat 0).toNat < 2 ^ 48)
include shallow aligned below

/-- With the first two rows of R109 passed, the verdict over the record decides. -/
theorem launchWord_invalid
    (invalid : (s.recordRead v (v.sPair a.toNat 0).toNat).examine v.team.ctx (dieOf v.core) (v.sPair a.toNat 0).toNat = .invalid) :
    launchWord a s v = Effect.plain 0x01 := by
  unfold State.recordRead at invalid
  unfold launchWord
  refine (if_neg shallow).trans ((if_neg (by omega)).trans ?_)
  dsimp only
  rw [invalid]

theorem launchWord_good {r : Record} {h : Header} {ds : List Word}
    (good : (s.recordRead v (v.sPair a.toNat 0).toNat).examine v.team.ctx (dieOf v.core) (v.sPair a.toNat 0).toNat = .good r h ds) :
    launchWord a s v = .done (((s.recordRead v (v.sPair a.toNat 0).toNat).modTeam v Team.markReleased).accept v.team.ctx
      (some v.team.launch) (s.depthOf v + 1) r h ds none).2 := by
  unfold State.recordRead at good
  unfold launchWord
  refine (if_neg shallow).trans ((if_neg (by omega)).trans ?_)
  dsimp only
  rw [good]
  rfl

end

end

/-! ### The checks of SPAWN (R111) -/

/-- A key passes every check of SPAWN: its alignment, its range, its header and the measurement of its code. -/
structure State.Admits (s : State) (v : View) (r : Record) (key : Nat) : Prop where
  aligned : key % 64 = 0
  below : key < 2 ^ 48
  header : ∃ n, s.spawnHeader v key = .bytes n ∧ spawnFits r (parseHeader n) = true ∧
    s.measure (dieOf v.core) v.team.ctx key (parseHeader n).codesz (parseHeader n).moff = .passes

section
variable {s : State} {v : View} {l : Launch} {keys : List Nat}

theorem State.spawnChecks_of_admits (launch : s.launch v.team.ctx v.team.launch = some l) (shallow : l.depth ≠ 10)
    (admits : ∀ key ∈ keys, s.Admits v l.inForce key) : s.spawnChecks v keys = none := by
  have inRange : (keys.find? fun k => k % 64 != 0 || decide (2 ^ 48 ≤ k)) = none := by
    rw [List.find?_eq_none]
    intro key mem
    obtain ⟨aligned, below, -⟩ := admits key mem
    simpa [aligned] using below
  have headers : ∀ h ∈ keys.map (fun k => (k, s.spawnHeader v k)), ∃ n, h.2 = .bytes n ∧ spawnFits l.inForce (parseHeader n) = true := by
    intro h mem
    obtain ⟨key, isKey, rfl⟩ := List.mem_map.mp mem
    obtain ⟨-, -, n, bytes, fits, -⟩ := admits key isKey
    exact ⟨n, bytes, fits⟩
  unfold State.spawnChecks
  simp only [launch, shallow, if_false, inRange]
  generalize keys.map (fun k => (k, s.spawnHeader v k)) = hs at headers
  have silent : ∀ (f : Nat × Got → Option Effect), (∀ k n, f (k, .bytes n) = none) → hs.findSome? f = none := by
    intro f none
    rw [List.findSome?_eq_none_iff]
    rintro ⟨k, g⟩ mem
    obtain ⟨n, rfl, -⟩ := headers _ mem
    exact none k n
  rw [silent _ fun _ _ => rfl, silent _ fun _ _ => rfl, silent _ fun _ _ => rfl]
  simp only [Option.orElse_none, Option.map_eq_none_iff, List.find?_eq_none]
  rintro ⟨k, g⟩ mem
  obtain ⟨n, rfl, fits⟩ := headers _ mem
  simp [fits]

theorem State.spawnMeasured_of_admits {r : Record} (admits : ∀ key ∈ keys, s.Admits v r key) : s.spawnMeasured v keys = none := by
  unfold State.spawnMeasured
  rw [List.findSome?_eq_none_iff]
  intro key mem
  obtain ⟨-, -, n, bytes, -, passes⟩ := admits key mem
  simp only [bytes, passes]

theorem State.spawnChecks_deep (launch : s.launch v.team.ctx v.team.launch = some l) (deep : l.depth = 10) :
    s.spawnChecks v keys = some (.trap 0x0B (BitVec.ofNat 64 (keys.headD 0)) 10) := by
  unfold State.spawnChecks
  simp only [launch, deep, if_true]

theorem State.spawnChecks_misaligned {k : Nat} (launch : s.launch v.team.ctx v.team.launch = some l) (shallow : l.depth ≠ 10)
    (off : (keys.find? fun k => k % 64 != 0 || decide (2 ^ 48 ≤ k)) = some k) :
    s.spawnChecks v keys = some (.trap 0x07 (BitVec.ofNat 64 k) 0) := by
  unfold State.spawnChecks
  simp only [launch, shallow, if_false, off]

theorem State.readKeys_deep (launch : s.launch v.team.ctx v.team.launch = some l) (deep : l.depth = 10) : s.readKeys v keys = s := by
  unfold State.readKeys
  simp [launch, deep]

theorem State.readKeys_misaligned {k : Nat} (off : (keys.find? fun k => k % 64 != 0 || decide (2 ^ 48 ≤ k)) = some k) :
    s.readKeys v keys = s := by
  have any : (keys.any fun k => k % 64 != 0 || decide (2 ^ 48 ≤ k)) = true :=
    by
    obtain ⟨out, -⟩ := List.find?_eq_some_iff_getElem.mp off
    exact List.any_eq_true.mpr ⟨k, List.mem_of_find?_eq_some off, out⟩
  unfold State.readKeys
  simp only [any, Bool.or_true, if_true]

/-- Below 2^48 a key fails SPAWN's address check by its alignment alone. -/
theorem find?_outOfPlace (below : ∀ j ∈ keys, j < 2 ^ 48) :
    (keys.find? fun k => k % 64 != 0 || decide (2 ^ 48 ≤ k)) = keys.find? fun j => j % 64 != 0 :=
  List.find?_congr fun j mem => by rw [decide_eq_false (Nat.not_le.mpr (below j mem)), Bool.or_false]

end

/-! ### SPAWN (R111) -/

section
variable {a e t : BitVec 6} {s : State} {v : View}

/-- The state in which SPAWN's lanes join: at its first issue the reads of its checks are counted (log 79). -/
def State.keysRead (s : State) (v : View) (e : BitVec 6) : State :=
  if v.path.spawned.isEmpty then s.readKeys v (v.active.map (v.spawnKey e)) else s

/-- A check that fails at the first issue is SPAWN's effect. -/
theorem spawnWord_stops {stop : Effect} (first : v.path.spawned = []) (unread : s.readKeys v (v.active.map (v.spawnKey e)) = s)
    (stops : s.spawnChecks v (v.active.map (v.spawnKey e)) = some stop) : spawnWord a e t s v = stop := by
  unfold spawnWord
  simp only [first, List.isEmpty_nil, if_true, unread, stops, Option.orElse_some]

theorem spawnWord_joins {l : Launch} {s1 : State} {joined : List Nat} (launch : (s.keysRead v e).launch v.team.ctx v.team.launch = some l)
    (shallow : l.depth ≠ 10) (admits : ∀ k ∈ v.active, (s.keysRead v e).Admits v l.inForce (v.spawnKey e k))
    (joins : State.joinAll v (v.s t.toNat 0).toNat (v.spawnKey e) (fun k => v.v a.toNat k) (v.active.filter fun k => !v.path.spawned.contains k)
      v.path.spawned ((s.keysRead v e).modTeam v Team.markReleased) = (joined, true, s1)) :
    spawnWord a e t s v = .done ((s1.modPath v fun p => { p with spawned := [] }).closeBins (clusterOf v.core) v.core
      fun b => b.atEnd == some (v.team.uid, v.path.pid)) := by
  have admits : ∀ key ∈ v.active.map (v.spawnKey e), (s.keysRead v e).Admits v l.inForce key := by simpa using admits
  have passed : (if v.path.spawned.isEmpty then ((s.keysRead v e).spawnChecks v (v.active.map (v.spawnKey e))).orElse
      fun _ => (s.keysRead v e).spawnMeasured v (v.active.map (v.spawnKey e)) else none) = none := by
    rw [State.spawnChecks_of_admits launch shallow admits, State.spawnMeasured_of_admits admits]
    exact ite_self none
  unfold State.keysRead at passed joins
  unfold spawnWord
  simp only [passed, joins, if_true]

end

/-! ### Room for the lanes of a SPAWN (R34) -/

/-- The identifiers of a context's launches. -/
def State.launchIds (s : State) (x : Nat) : List Nat := (s.ctx x).launches.map (·.id)

theorem State.launch_isSome_iff (s : State) (x id : Nat) : (s.launch x id).isSome = true ↔ id ∈ s.launchIds x := by
  simp [State.launch, State.launchIds]

theorem State.launchIds_of_ctxs {s t : State} (h : t.ctxs = s.ctxs) (x : Nat) : t.launchIds x = s.launchIds x := by
  unfold State.launchIds State.ctx
  rw [h]

theorem State.launchIds_setLaunch (s : State) (x : Nat) (l : Launch) : (s.setLaunch x l).launchIds x = s.launchIds x := by
  simp only [State.launchIds, State.setLaunch, State.ctx_setCtx_self, List.map_map]
  refine List.map_congr_left fun m _ => ?_
  dsimp only [Function.comp_apply]
  split
  · next same => exact same.symm
  · rfl

theorem State.launchIds_watchImage (s : State) (x entry codesz : Nat) : (s.watchImage x entry codesz).launchIds x = s.launchIds x := by
  unfold State.watchImage
  split
  · rfl
  · simp [State.launchIds]

theorem State.readDep_ctxs (s : State) (x va : Nat) (met : Bool) : (s.readDep x va met).ctxs = s.ctxs := by
  unfold State.readDep
  split
  · rfl
  · split
    · exact (State.noteRead_ctxs _ _ _).trans (State.demand_ctxs _ _)
    · rfl

theorem State.launchIds_recheck (s : State) (x : Nat) (l : Launch) : (s.recheck x l).launchIds x = s.launchIds x := by
  have read : ((s.readDep x l.rcd.dep0a l.dep0Met).readDep x l.rcd.dep1a l.dep1Met).launchIds x = s.launchIds x :=
    State.launchIds_of_ctxs ((State.readDep_ctxs _ _ _ _).trans (State.readDep_ctxs _ _ _ _)) x
  unfold State.recheck
  dsimp only
  split
  · exact (State.launchIds_setLaunch _ _ _).trans read
  · exact (State.launchIds_setLaunch _ _ _).trans read

/-- An accepted launch comes after the context's others (R331). -/
theorem State.launchIds_accept (s : State) (x : Nat) (parent : Option Nat) (depth : Nat) (r : Record) (h : Header) (ds : List Word)
    (spawned : Option (Nat × Nat)) :
    (s.accept x parent depth r h ds spawned).2.launchIds x = s.launchIds x ++ [(s.accept x parent depth r h ds spawned).1] := by
  unfold State.accept
  dsimp only
  rw [State.launchIds_recheck, State.launchIds_watchImage]
  simp [State.launchIds]

/-- A list's bins that are open. -/
def openIn (bins : List Bin) : Nat := (bins.filter fun b => !b.closed).length

theorem State.openBins_eq (s : State) (k : Nat) : s.openBins k = openIn (s.cluster k) := rfl

theorem State.openBins_setCluster (s : State) (k : Nat) (bins : List Bin) : (s.setCluster k bins).openBins k = openIn bins := by
  rw [State.openBins_eq, State.cluster_setCluster_self]

theorem openIn_append_single_le (bins : List Bin) (b : Bin) : openIn (bins ++ [b]) ≤ openIn bins + 1 := by
  unfold openIn
  rw [List.filter_append, List.length_append]
  have := List.length_filter_le (fun b : Bin => !b.closed) [b]
  simpa using this

/-- A bin replaced by one that is open only if it was leaves no more bins open. -/
theorem openIn_set_le {bins : List Bin} {i : Nat} {b b' : Bin} (at_i : bins[i]? = some b) (shut : b.closed = true → b'.closed = true) :
    openIn (bins.set i b') ≤ openIn bins := by
  obtain ⟨lt, rfl⟩ := List.getElem?_eq_some_iff.mp at_i
  have pos : bins[i].closed = false → 0 < bins.countP fun b => !b.closed := fun open_i =>
    List.countP_pos_iff.mpr ⟨bins[i], List.getElem_mem lt, by simp [open_i]⟩
  simp only [openIn, ← List.countP_eq_length_filter, List.countP_set lt]
  cases before : bins[i].closed with
  | true => simp [shut before]
  | false =>
    have := pos before
    simp only [Bool.not_false, if_true]
    split <;> omega

/-- Closing bins numbers what it does and changes a cluster's list, in which no more bins are open. -/
structure Closing (k : Nat) (s t : State) : Prop where
  ctxs : t.ctxs = s.ctxs
  bins : t.openBins k ≤ s.openBins k

theorem State.closeBins_closing (s : State) (k closer : Nat) (which : Bin → Bool) : Closing k s (s.closeBins k closer which) := by
  refine List.foldlRecOn (motive := Closing k s) _ _ ⟨rfl, Nat.le_refl _⟩ ?_
  intro t closing i _
  dsimp only
  split
  · next b at_i =>
    split
    · refine ⟨closing.ctxs, Nat.le_trans ?_ closing.bins⟩
      rw [State.openBins_setCluster]
      exact openIn_set_le at_i fun _ => rfl
    · exact closing
  · exact closing

/-- A bin that its last lane has filled closes by its core (R34): the bin, and the state with the event numbered. -/
def View.closeFull (v : View) (b : Bin) (s : State) : Bin × State :=
  if b.width ≤ b.args.length then ({ b with closed := true, closer := v.core, closedSeq := s.number.1 }, s.number.2) else (b, s)

theorem View.closeFull_ctxs (v : View) (b : Bin) (s : State) : (v.closeFull b s).2.ctxs = s.ctxs := by
  unfold View.closeFull
  split <;> rfl

theorem View.closed_closeFull (v : View) {b : Bin} (s : State) (closed : b.closed = true) : (v.closeFull b s).1.closed = true := by
  unfold View.closeFull
  split
  · rfl
  · exact closed

/-- A context's launch is there, and `n` more bins may open in a cluster and `n` more launches be accepted into the context. -/
structure State.Room (s : State) (x id k n : Nat) : Prop where
  held : id ∈ s.launchIds x
  bins : s.openBins k + n ≤ 64
  slots : (s.launchIds x).length + n ≤ 1024

section
variable {s t : State} {x id k n : Nat}

theorem State.Room.closing (room : s.Room x id k n) (closing : Closing k s t) : t.Room x id k n := by
  obtain ⟨held, bins, slots⟩ := room
  rw [← State.launchIds_of_ctxs closing.ctxs] at held slots
  exact ⟨held, by have := closing.bins; omega, slots⟩

/-- A list of bins with at most one more open, with no launch accepted, takes at most one place. -/
theorem State.Room.setCluster {bins : List Bin} (room : s.Room x id k (n + 1)) (ctxs : t.ctxs = s.ctxs)
    (opened : openIn bins ≤ openIn (s.cluster k) + 1) : (t.setCluster k bins).Room x id k n := by
  obtain ⟨held, open_, slots⟩ := room
  rw [State.openBins_eq] at open_
  have ids : (t.setCluster k bins).launchIds x = s.launchIds x := State.launchIds_of_ctxs ctxs x
  exact ⟨ids ▸ held, by rw [State.openBins_setCluster]; omega, by rw [ids]; omega⟩

/-- So does one with a launch accepted. -/
theorem State.Room.setCluster_accept {bins : List Bin} {new : Nat} (room : s.Room x id k (n + 1)) (ids : t.launchIds x = s.launchIds x ++ [new])
    (opened : openIn bins ≤ openIn (s.cluster k) + 1) : (t.setCluster k bins).Room x id k n := by
  obtain ⟨held, open_, slots⟩ := room
  rw [State.openBins_eq] at open_
  have ids : (t.setCluster k bins).launchIds x = s.launchIds x ++ [new] := ids
  refine ⟨?_, by rw [State.openBins_setCluster]; omega, ?_⟩
  · rw [ids]
    exact List.mem_append_left _ held
  · rw [ids, List.length_append, List.length_singleton]
    omega

end

/-- A lane with room for it finds a bin, and leaves room for the lanes after it. -/
theorem State.joinBin_of_room {s : State} {v : View} {key timer n : Nat} {arg : Word}
    (room : s.Room v.team.ctx v.team.launch (clusterOf v.core) (n + 1)) :
    ∃ t, s.joinBin v key timer arg = some t ∧ t.Room v.team.ctx v.team.launch (clusterOf v.core) n := by
  replace room := room.closing (State.closeBins_closing s (clusterOf v.core) 2304 fun b => b.due s.tick.toNat)
  unfold State.joinBin State.closeDue
  dsimp only
  generalize s.closeBins (clusterOf v.core) 2304 (fun b => b.due s.tick.toNat) = s at room ⊢
  have append_le (b : Bin) := openIn_append_single_le (s.cluster (clusterOf v.core)) b
  split
  · next gone => exact absurd ((State.launch_isSome_iff _ _ _).mpr room.held) (by simp [gone])
  · next opener _ =>
    split
    · next i found =>
      split
      · next outside =>
        obtain ⟨lt, -⟩ := List.findIdx?_eq_some_iff_getElem.mp found
        exact absurd outside (by simp [lt])
      · next b at_i =>
        exact ⟨_, rfl, room.setCluster (v.closeFull_ctxs { b with args := b.args ++ [arg] } s)
          (Nat.le_succ_of_le (openIn_set_le at_i (v.closed_closeFull (b := { b with args := b.args ++ [arg] }) s)))⟩
    · split
      · next full =>
        have := room.bins
        simp only [State.openBins_eq, openIn] at this
        omega
      · split
        · next l _ =>
          exact ⟨_, rfl, room.setCluster (v.closeFull_ctxs ⟨_, key, l.id, opener.id, _, [arg], _, false, 2304, 0, _⟩ s) (append_le _)⟩
        · split
          · next full =>
            have := room.slots
            simp only [State.launchIds, List.length_map] at this
            omega
          · exact ⟨_, rfl, room.setCluster_accept
              ((State.launchIds_of_ctxs (v.closeFull_ctxs ⟨_, key, _, opener.id, _, [arg], _, false, 2304, 0, _⟩ _) _).trans (State.launchIds_accept _ _ _ _ _ _ _ _)) (append_le _)⟩

theorem State.joinAll_of_room {v : View} (timer : Nat) (key : Nat → Nat) (arg : Nat → Word) (lanes joined : List Nat) (s : State)
    (room : s.Room v.team.ctx v.team.launch (clusterOf v.core) lanes.length) :
    ∃ all s1, State.joinAll v timer key arg lanes joined s = (all, true, s1) := by
  induction lanes generalizing joined s with
  | nil => exact ⟨joined, s, rfl⟩
  | cons l rest ih =>
    obtain ⟨t, found, room⟩ := State.joinBin_of_room (key := key l) (timer := timer) (arg := arg l) room
    rw [State.joinAll, found]
    exact ih (l :: joined) t room

end Sys2Proof.Machine

section
open Sys2Proof Sys2Proof.Machine

/-- Settles O45: LAUNCH follows the rows of R109 by the verdict over its record; SPAWN, with every key admitted, goes on once its
lanes have joined, each lane that has room leaving room for the next; its first failing check is its trap. -/
theorem launchAndSpawn : Obligations.LaunchAndSpawn := by
  unfold Obligations.LaunchAndSpawn
  refine ⟨fun c w a r h ds => ⟨?_, ?_, ?_, ?_⟩, ?_, ?_, fun c w a e t l k => ⟨?_, ?_⟩⟩
  · refine completes_of (fun _ => rfl) ?_
    rintro s v ⟨shallow, aligned, below, good⟩
    exact launchWord_good shallow aligned below good
  · exact traps_of (fun _ => rfl) fun s v deep => launchWord_deep deep
  · refine traps_of (fun _ => rfl) ?_
    rintro s v ⟨shallow, off⟩
    exact launchWord_misaligned shallow off
  · refine traps_of (fun _ => rfl) ?_
    rintro s v ⟨shallow, aligned, below, invalid⟩
    exact launchWord_invalid shallow aligned below invalid
  · intro c w a e t s s1 v l hdr joined issues s0 launch shallow lanes joins
    refine issueWord_done issues (spawnWord_joins (s := s.atIssue v) launch shallow (fun k mem => ?_) joins)
    obtain ⟨aligned, below, bytes, fits, passes⟩ := lanes k mem
    exact ⟨aligned, below, hdr k, bytes, fits, passes⟩
  · intro v timer key arg lanes joined s held bins slots
    refine State.joinAll_of_room timer key arg lanes joined s ⟨(State.launch_isSome_iff _ _ _).mp held, bins, ?_⟩
    rwa [State.launchIds, List.length_map]
  · refine traps_of (fun _ => rfl) ?_
    rintro s v ⟨first, launch, deep⟩
    exact spawnWord_stops first (State.readKeys_deep launch deep) (State.spawnChecks_deep launch deep)
  · refine traps_of (fun _ => rfl) ?_
    rintro s v ⟨first, launch, shallow, below, off⟩
    rw [← find?_outOfPlace below] at off
    exact spawnWord_stops first (State.readKeys_misaligned off) (State.spawnChecks_misaligned launch shallow off)

end

namespace Sys2Proof.Machine

/-! ### Vector words of one write (R126) -/

/-- A word whose effect is one vector write of `f` in its active lanes. -/
theorem vectorResult_of {i : Instr} {d lat : Nat} {last : Bool} {f : State → View → Nat → Word}
    (h : ∀ s, exec i s = issueWord i (fun s v => .done (s.setV v d (v.each (f s v)) lat last)) s) : VectorResult i d f :=
  vectorResultWhen_of h fun _ _ _ => rfl

/-! ### Integers in a lane (R128, R132, R133) -/

theorem intMulhu_eq (a b : Word) : intMulhu a b = (a.setWidth 64 * b.setWidth 64).extractLsb' 32 32 :=
  BitVec.setWidth_ushiftRight_eq_extractLsb

theorem popCount_eq (x : Word) : popCount x = BitVec.ofNat 32 ((List.range 32).filter fun i => x.getLsbD i).length := by
  rw [popCount, List.countP_eq_length_filter]

/-- From the leading bit's place down, no higher place holds a 1. -/
theorem find?_leadingZeros {x : Word} (nonzero : x ≠ 0) :
    (List.range 33).find? (fun n => n == 32 || x.getLsbD (31 - n)) = some (31 - Nat.log2 x.toNat) := by
  have positive : x.toNat ≠ 0 := fun zero => nonzero (BitVec.eq_of_toNat_eq zero)
  have small : Nat.log2 x.toNat < 32 := (Nat.log2_lt positive).mpr x.isLt
  rw [List.find?_range_eq_some]
  refine ⟨?_, by simp; omega, fun n below => ?_⟩
  · rw [show 31 - (31 - Nat.log2 x.toNat) = Nat.log2 x.toNat by omega, BitVec.getLsbD, Nat.testBit_log2 positive, Bool.or_true]
  · have above : x.toNat < 2 ^ (31 - n) := (Nat.log2_lt positive).mp (by omega)
    simp [BitVec.getLsbD, Nat.testBit_lt_two_pow above]
    omega

theorem leadingZeros_eq (x : Word) :
    leadingZeros x = BitVec.ofNat 32 ((List.range 33).find? fun n => n == 32 || x.getLsbD (31 - n)).get! := by
  by_cases zero : x = 0
  · subst zero
    decide
  · rw [leadingZeros, if_neg zero, find?_leadingZeros zero, Option.get!_some]

theorem absWord_eq (x : Word) : absWord x = BitVec.ofNat 32 x.toInt.natAbs := by
  have bound := x.isLt
  rw [absWord]
  split
  · next negative =>
    rw [BitVec.msb_eq_decide] at negative
    apply BitVec.eq_of_toNat_eq
    simp only [decide_eq_true_eq] at negative
    rw [BitVec.toInt_eq_toNat_cond, if_neg (by omega), BitVec.toNat_neg, BitVec.toNat_ofNat]
    omega
  · next positive =>
    rw [BitVec.msb_eq_decide] at positive
    apply BitVec.eq_of_toNat_eq
    simp only [decide_eq_true_eq] at positive
    rw [BitVec.toInt_eq_toNat_cond, if_pos (by omega), BitVec.toNat_ofNat]
    omega

/-- A field that would reach past bit 31 ends there: the mask of its width and the word's own end cut alike. -/
theorem bitField_eq (a b : Word) :
    bitField a b = (let pos := b.toNat % 32
      let n := if b.toNat / 256 % 32 = 0 then 32 else b.toNat / 256 % 32
      BitVec.ofNat 32 (a.toNat / 2 ^ pos % 2 ^ n)) := by
  have field : bits b.toNat 12 8 = b.toNat / 256 % 32 := rfl
  rw [bitField, field]
  dsimp only
  generalize hn : (if b.toNat / 256 % 32 = 0 then 32 else b.toNat / 256 % 32) = n
  have upper : n ≤ 32 := by split at hn <;> omega
  generalize b.toNat % 32 = pos
  have bound := a.isLt
  apply BitVec.eq_of_toNat_eq
  split
  · rw [BitVec.toNat_and, BitVec.toNat_ushiftRight, BitVec.toNat_ofNat, BitVec.toNat_ofNat, Nat.shiftRight_eq_div_pow,
      Nat.mod_eq_of_lt (a := 2 ^ n - 1), Nat.and_two_pow_sub_one_eq_mod, Nat.mod_eq_of_lt (b := 2 ^ 32)]
    · exact (Nat.mod_le _ _).trans_lt ((Nat.div_le_self _ _).trans_lt bound)
    · have := Nat.pow_le_pow_right (n := 2) (by decide) upper
      have := Nat.two_pow_pos n
      omega
  · next past =>
    have short : a.toNat / 2 ^ pos < 2 ^ n := by
      rw [Nat.div_lt_iff_lt_mul (Nat.two_pow_pos pos), ← pow_add]
      exact bound.trans_le (Nat.pow_le_pow_right (by decide) (by omega))
    rw [Nat.mod_eq_of_lt short, BitVec.toNat_ushiftRight, BitVec.toNat_ofNat, Nat.shiftRight_eq_div_pow,
      Nat.mod_eq_of_lt ((Nat.div_le_self _ _).trans_lt bound)]

end Sys2Proof.Machine

section
open Sys2Proof Sys2Proof.Machine

/-- Settles O20: each word is one vector write of its function of the operands; where the model computes the function by another
formula than R128 to R133 state it by, the two agree on every word. -/
theorem vectorIntegers : Obligations.VectorIntegers := by
  unfold Obligations.VectorIntegers
  simp only [← intMulh_eq, ← intMulhu_eq, ← intMin_eq, ← intMax_eq, ← intMinu_eq, ← intMaxu_eq, ← popCount_eq, ← leadingZeros_eq, ← absWord_eq]
  refine ⟨fun c w d a b q => ?binary, fun c w d a b q => ⟨?vaddw, ?vbfx⟩, fun c w d a i => ?vaddi, fun c w d a b j => ?vmad,
    fun c w d b q => ?unary, fun c w d => ?lanes⟩
  case binary =>
    exact ⟨vectorResult_of fun _ => rfl, vectorResult_of fun _ => rfl, vectorResult_of fun _ => rfl, vectorResult_of fun _ => rfl,
      vectorResult_of fun _ => rfl, vectorResult_of fun _ => rfl, vectorResult_of fun _ => rfl, vectorResult_of fun _ => rfl,
      vectorResult_of fun _ => rfl, vectorResult_of fun _ => rfl, vectorResult_of fun _ => rfl, vectorResult_of fun _ => rfl,
      vectorResult_of fun _ => rfl, vectorResult_of fun _ => rfl, vectorResult_of fun _ => rfl⟩
  case vaddw => exact vectorPairResult_of fun _ => rfl
  case vbfx =>
    simp only [← bitField_eq]
    exact vectorResult_of fun _ => rfl
  case vaddi => exact vectorResult_of fun _ => rfl
  case vmad => exact vectorResult_of fun _ => rfl
  case unary =>
    exact ⟨vectorResult_of fun _ => rfl, vectorResult_of fun _ => rfl, vectorResult_of fun _ => rfl, vectorResult_of fun _ => rfl,
      vectorResult_of fun _ => rfl, vectorResult_of fun _ => rfl⟩
  case lanes => exact ⟨vectorResult_of fun _ => rfl, vectorResult_of fun _ => rfl⟩

/-- Settles O24: each word's effect is one write of results with flags in the active lanes; those of VHNEG and VHABS raise none. -/
theorem packedArithmetic : Obligations.PackedArithmetic :=
  ⟨fun _ _ _ _ _ _ _ => ⟨floatResult_of rfl fun _ => rfl, floatResult_of rfl fun _ => rfl, floatResult_of rfl fun _ => rfl,
      floatResult_of rfl fun _ => rfl, floatResult_of rfl fun _ => rfl, floatResult_of rfl fun _ => rfl⟩,
    fun _ _ _ _ _ _ => ⟨vectorResult_of_quiet rfl fun _ => rfl, vectorResult_of_quiet rfl fun _ => rfl⟩,
    fun _ _ _ _ _ _ => ⟨floatResult_of rfl fun _ => rfl, floatResult_of rfl fun _ => rfl⟩⟩

end

namespace Sys2Proof.Machine

/-! ### Compares (R143) -/

theorem compareU_eq_holdsCode (e : BitVec 3) (a b : Word) :
    compareU e a b = holdsCode e.toNat (decide (a.toNat < b.toNat)) (decide (a.toNat = b.toNat)) false := by
  have equal : (a == b) = decide (a.toNat = b.toNat) := decide_eq_decide.mpr BitVec.toNat_inj.symm
  rw [compareU, equal]
  rfl

theorem compareS_lt (a b : Word) : compareS 2 a b = decide (a.toInt < b.toInt) := by
  rw [compareS_eq_holdsCode]
  exact Bool.and_true _

theorem compareS_le (a b : Word) : compareS 3 a b = decide (a.toInt ≤ b.toInt) := by
  rw [compareS_eq_holdsCode, Bool.eq_iff_iff]
  simp [holdsCode, le_iff_lt_or_eq]

theorem compareU_lt (a b : Word) : compareU 2 a b = decide (a.toNat < b.toNat) := by
  rw [compareU_eq_holdsCode]
  exact Bool.and_true _

theorem compareU_ge (a b : Word) : compareU 5 a b = decide (b.toNat ≤ a.toNat) := by
  rw [compareU_eq_holdsCode, Bool.eq_iff_iff]
  simp [holdsCode]

theorem compareS_eq (a b : Word) : compareS 0 a b = decide (a = b) :=
  Bool.and_true _

theorem compareU_ne (a b : Word) : compareU 1 a b = decide (a ≠ b) := by
  rw [decide_not]
  exact Bool.or_false _

/-- With no enabled flag VCMP.F writes its predicate and adds its flags. -/
theorem compareWord_quiet {p e : BitVec 3} {a b : BitVec 6} {q : BitVec 2} {s : State} {v : View}
    (quiet : v.path.enabled (v.active.foldl (fun n l => n ||| (compareF v.path.env e (v.v a.toNat l) (s.bV v (.fp .fp32) q b l)).2) 0) = false) :
    compareWord p e a b q s v =
      .done ((s.setP v p.toNat (v.active.map fun l => (l, (compareF v.path.env e (v.v a.toNat l) (s.bV v (.fp .fp32) q b l)).1)) 2).raiseFlags v
        (v.active.foldl (fun n l => n ||| (compareF v.path.env e (v.v a.toNat l) (s.bV v (.fp .fp32) q b l)).2) 0)) := by
  simp only [compareWord, List.foldl_map, List.map_map, quiet, Bool.false_eq_true, if_false, Function.comp_def]

end Sys2Proof.Machine

section
open Sys2Proof Sys2Proof.Machine

/-- Settles O21: each word is one write of a predicate or of a vector register in the active lanes; the condition codes on a signed and an
unsigned comparison's outcome are the orders of the words as integers. -/
theorem predicatesAndSelect : Obligations.PredicatesAndSelect :=
  ⟨fun _ _ _ _ _ _ _ => ⟨predicateResult_of fun _ => rfl, predicateResult_of fun _ => rfl,
      completes_of (fun _ => rfl) fun _ _ quiet => compareWord_quiet quiet⟩,
    fun x y => ⟨compareS_lt x y, compareS_le x y, compareU_lt x y, compareU_ge x y, compareS_eq x y, compareU_ne x y⟩,
    fun _ _ _ _ _ => ⟨predicateResult_of fun _ => rfl, predicateResult_of fun _ => rfl, predicateResult_of fun _ => rfl,
      predicateResult_of fun _ => rfl⟩,
    fun _ _ _ _ _ _ _ => vectorResult_of fun _ => rfl⟩

end

namespace Sys2Proof.Machine

/-! ### Shuffles (R149 to R151) -/

theorem View.takesPart_iff {v : View} {l : Nat} : v.takesPart l = true ↔ l ∈ v.active := by
  rw [View.takesPart, Bool.and_eq_true, decide_eq_true_iff, View.mem_active]

/-- What a lane reads of register `a` in the lane of index `j` of its group: its own value where that lane is inactive. -/
def View.groupRead (v : View) (a l j : Nat) : Word :=
  if l / v.team.group * v.team.group + j ∈ v.active then v.v a (l / v.team.group * v.team.group + j) else v.v a l

/-- A shuffle is one vector write: the value at the source index where there is one, else the lane's own. -/
theorem shuffleWord_eq (src : Nat → Nat → Nat → Option Nat) (d a b : BitVec 6) (q : BitVec 2) :
    shuffleWord src d a b q = fun s v => .done (s.setV v d.toNat (v.each fun l =>
      ((src v.team.group (l % v.team.group) (s.bV v .int q b l).toNat).map (v.groupRead a.toNat l)).getD (v.v a.toNat l)) 6 true) := by
  funext s v
  refine congrArg (fun f => Effect.done (s.setV v d.toNat (v.each f) 6 true)) (funext fun l => ?_)
  dsimp only
  cases src v.team.group (l % v.team.group) (s.bV v .int q b l).toNat with
  | none => rfl
  | some j => exact if_congr View.takesPart_iff rfl rfl

theorem shuffleResult_of {i : Instr} {src : Nat → Nat → Nat → Option Nat} {d a b : BitVec 6} {q : BitVec 2} {f : State → View → Nat → Word}
    (h : ∀ s, exec i s = issueWord i (shuffleWord src d a b q) s)
    (value : ∀ s v l, f s v l =
      ((src v.team.group (l % v.team.group) (s.bV v .int q b l).toNat).map (v.groupRead a.toNat l)).getD (v.v a.toNat l)) :
    VectorResult i d.toNat f := by
  obtain rfl : f = _ := funext fun s => funext fun v => funext fun l => value s v l
  exact vectorResult_of fun s => by rw [h, shuffleWord_eq]

/-- An index given on a condition reads the source where the condition holds. -/
theorem getD_map_ite {α β : Type} (c : Prop) [Decidable c] (j : α) (f : α → β) (own : β) :
    ((if c then some j else none).map f).getD own = if c then f j else own := by
  split <;> rfl

end Sys2Proof.Machine

section
open Sys2Proof Sys2Proof.Machine

/-- Settles O26: each word reads at the index its row of R150 names; the lane that it names takes part exactly where it is active. -/
theorem shuffles : Obligations.Shuffles := by
  intro c w d a b q from' x
  refine ⟨shuffleResult_of (fun _ => rfl) fun _ _ _ => rfl, shuffleResult_of (fun _ => rfl) fun _ _ _ => ?_,
    shuffleResult_of (fun _ => rfl) fun _ _ _ => ?_, shuffleResult_of (fun _ => rfl) fun _ _ _ => rfl,
    shuffleResult_of (fun _ => rfl) fun _ _ _ => rfl⟩
  · exact (getD_map_ite _ _ _ _).symm
  · exact (getD_map_ite _ _ _ _).symm

end

namespace Sys2Proof.Machine

/-! ### A special function whose debugger's step ends on it (R146, R303; log 34) -/

/-- VRCP v3, v1. -/
def vrcpV1 : Instr := .vrcp 0 0 3 1 0

/-- The view of the VRCP in the state of `steppedOverRing`: the stop record that ends the step goes to a replicated page, beside a load in
flight of its line. -/
def steppedVrcpView : Option View := steppedOverRing.view.map (steppedOverRing.paced · vrcpV1)

theorem steppedVrcpView_isSome : steppedVrcpView.isSome = true := by
  decide +kernel

/-- The VRCP issues, and its team has the one load in flight. -/
theorem steppedVrcpView_issues : ∀ v ∈ steppedVrcpView,
    (steppedOverRing.frozen v = none ∧ steppedOverRing.decodeTrap v vrcpV1 = none ∧ steppedOverRing.holds v vrcpV1 = none ∧
      v.sourceTrap vrcpV1 = none ∧ steppedOverRing.spinePoison v vrcpV1 = none) ∧
    v.core = 0 ∧ v.slot = 0 ∧ v.team.ops = [ringLoad] := by
  decide +kernel

/-- Once it has issued, the load in flight has read its lane. -/
theorem lanesRead_vrcpV1 : lanesRead (exec vrcpV1 steppedOverRing) = some [1, 0] := by
  decide +kernel

end Sys2Proof.Machine

section
open Sys2Proof Sys2Proof.Machine

/-- Refutes O25: a VRCP that ends a debugger's step posts its operation, but the step's stop record is written to a replicated page, and the
team's load in flight of that line reads before the write: the operations are not those before the VRCP and one more. -/
theorem not_sfuWords : ¬ Obligations.SfuWords := by
  rintro ⟨words, -⟩
  obtain ⟨posts, -⟩ := words 0 0 3 1 0
  obtain ⟨v, viewed⟩ := Option.isSome_iff_exists.mp steppedVrcpView_isSome
  obtain ⟨issues, core, slot, inFlight⟩ := steppedVrcpView_issues v viewed
  obtain ⟨t, runs, ops, -⟩ := posts steppedOverRing v ⟨viewed, issues⟩ trivial
  have read := lanesRead_vrcpV1
  rw [vrcpV1, runs] at read
  obtain ⟨u, team, lanes⟩ := Option.map_eq_some_iff.mp read
  have after : t.teamOf v = u := by rw [State.teamOf, core, slot, team, Option.getD_some]
  rw [after, inFlight] at ops
  rw [ops] at lanes
  exact absurd lanes (by simp [ringLoad, View.op])

end


namespace Sys2Proof.Machine

/-! ### Words of two vector writes (R125, R126) -/

/-- Two neighbouring vector registers written in some of the active lanes each, and nothing else of the team or the package. -/
theorem State.finish_setV_setV {s t : State} {v : View} {i : Instr} {d lat : Nat} {last : Bool} {on on1 : List Nat} {f g : Nat → Word}
    (views : s.Views v i) (column : v.hasColumn d) (column1 : v.hasColumn (d + 1)) (within : on ⊆ v.active) (within1 : on1 ⊆ v.active)
    (after : t = (((s.atIssue v).setV v d (on.map fun l => (l, f l)) lat last).setV v (d + 1) (on1.map fun l => (l, g l)) lat last).finish v i) :
    (∀ l, t.vAt v d l = if l ∈ on then f l else s.vAt v d l) ∧
      (∀ l, t.vAt v (d + 1) l = if l ∈ on1 then g l else s.vAt v (d + 1) l) ∧
      KeepsVectors v s t [d, d + 1] ∧ KeepsScalars v s t [] ∧ KeepsPredicates v s t [] ∧ (v.team.step = none → KeepsPackage v s t) := by
  obtain ⟨vectors0, predicates0, scalars0, -⟩ := State.atIssue_spec views
  obtain ⟨inside1, vectors1, predicates1, scalars1, -⟩ := State.setV_spec (s.atIssue v) v d (on.map fun l => (l, f l)) lat last
  generalize (s.atIssue v).setV v d (on.map fun l => (l, f l)) lat last = u1 at *
  obtain ⟨inside2, vectors2, predicates2, scalars2, -⟩ := State.setV_spec u1 v (d + 1) (on1.map fun l => (l, g l)) lat last
  generalize u1.setV v (d + 1) (on1.map fun l => (l, g l)) lat last = u2 at *
  obtain ⟨readS, -, readV, readP, readS0, -, readV0, readP0⟩ := finish_registers (u := u2) i views
  rw [after]
  rw [vectors1, vectors0] at vectors2
  have below : ∀ {r : Nat} {ls : List Nat}, v.hasColumn r → ls ⊆ v.active → ∀ k ∈ ls, k < (v.team.v.getD r []).length :=
    fun column within k mem => column.2 ▸ v.active_lt (within mem)
  refine ⟨fun l => ?_, fun l => ?_, fun r other l => ?_, fun n _ => ?_, fun n _ l => ?_,
    fun unstepped => keepsPackage_finish views (((State.Within.atIssue views).trans inside1).trans inside2) unstepped⟩
  · rw [readV, readV0, vectors2, getD_set_other _ _ _ (by omega), getD_set_self _ _ _ _ column.1, column_map _ _ _ _ (below column within)]
  · rw [readV, readV0, vectors2, getD_set_self _ _ _ _ (by rw [List.length_set]; exact column1.1), getD_set_other _ _ _ (by omega),
      column_map _ _ _ _ (below column1 within1)]
  · obtain ⟨first, second⟩ : r ≠ d ∧ r ≠ d + 1 := by simpa using other
    rw [readV, readV0, vectors2, getD_set_other _ _ _ second, getD_set_other _ _ _ first]
  · rw [readS, readS0, scalars2, scalars1, scalars0]
  · rw [readP, readP0, predicates2, predicates1, predicates0]

/-! ### Floating-point words on a condition of the team (R51, R127) -/

theorem State.setFp_disabled {s : State} {v : View} {d lat : Nat} {last : Bool} {f : Nat → Word × Nat}
    (disabled : v.path.enabled (v.flagsOf f) = false) :
    s.setFp v d (v.active.map fun l => (l, f l)) lat last =
      .done ((s.setV v d (v.active.map fun l => (l, (f l).1)) lat last).raiseFlags v (v.flagsOf f)) := by
  rw [View.flagsOf] at disabled
  simp only [State.setFp, disabled, Bool.false_eq_true, if_false, List.map_map, Function.comp_def, View.flagsOf]

theorem State.setFp_enabled {s : State} {v : View} {d lat : Nat} {last : Bool} {f : Nat → Word × Nat}
    (enabled : v.path.enabled (v.flagsOf f) = true) :
    s.setFp v d (v.active.map fun l => (l, f l)) lat last = .trapFp (v.flagsOf f) := by
  rw [View.flagsOf] at enabled
  simp only [State.setFp, enabled, if_true, View.flagsOf]

/-- With no trap enabled no flag traps. -/
theorem Path.enabled_of_masked {p : Path} (masked : bits p.fpmode.toNat 8 4 = 0) (flags : Nat) : p.enabled flags = false := by
  rw [Path.enabled, masked, Nat.and_zero]
  rfl

/-- Every word whose effect, on the teams that `H` admits, is floating-point results in the active lanes has the result shape. -/
theorem floatResultWhen_of {i : Instr} {H : View → Prop} {d lat : Nat} {last : Bool} {f : State → View → Nat → Word × Nat}
    {eff : State → View → Effect} (team : runnerMay i = false) (h : ∀ s, exec i s = issueWord i eff s)
    (he : ∀ s v, H v → eff s v = s.setFp v d (v.active.map fun l => (l, f s v l)) lat last) : FloatResultWhen H i d f := by
  refine ⟨fun s v issues admitted column disabled => ?_, fun s v issues admitted enabled => ?_⟩
  · have views := issues.1
    refine ⟨_, by rw [h]; exact issueWord_done issues ((he _ _ admitted).trans (State.setFp_disabled disabled)), ?_⟩
    generalize f (s.atIssue v) v = x
    obtain ⟨vectors0, predicates0, scalars0, conditions0, -⟩ := State.atIssue_spec views
    obtain ⟨inside1, vectors1, predicates1, scalars1, conditions1, modes1, outside1⟩ :=
      State.setV_spec (s.atIssue v) v d (v.active.map fun l => (l, (x l).1)) lat last
    generalize (s.atIssue v).setV v d (v.active.map fun l => (l, (x l).1)) lat last = u1 at *
    obtain ⟨inside2, vectors2, predicates2, scalars2, conditions2, modes2, outside2⟩ := State.raiseFlags_spec u1 v (v.flagsOf x)
    generalize u1.raiseFlags v (v.flagsOf x) = u2 at *
    obtain ⟨flags2, mode2, mask2, -⟩ := modes2 (issues.not_run team)
    obtain ⟨readS, readC, readV, readP, readS0, readC0, readV0, readP0⟩ := finish_registers (u := u2) i views
    have inside := ((State.Within.atIssue views).trans inside1).trans inside2
    have modes0 := modes1.trans (State.modesOf_atIssue s v)
    have finished := State.modesOf_finish u2 v i
    simp only [State.modesOf, Prod.mk.injEq, State.view_pathOf views] at modes0 finished
    obtain ⟨mask1, mode1, flags1, -⟩ := modes0
    obtain ⟨mask, mode, flags, -⟩ := finished
    have written : ∀ l, (u2.finish v i).vAt v d l = if l ∈ v.active then (x l).1 else s.vAt v d l := fun l => by
      rw [readV, readV0, vectors2, vectors1, vectors0, getD_set_self _ _ _ _ column.1,
        column_map _ _ _ _ fun k mem => column.2 ▸ v.active_lt mem]
    refine ⟨fun l on => by rw [written, if_pos on], fun l off => by rw [written, if_neg off], by rw [flags, flags2, flags1],
      by rw [mode, mode2, mode1], by rw [mask, mask2, mask1], fun r other l => ?_, fun n _ => ?_, fun n _ => ?_, fun n _ l => ?_,
      fun unstepped => ⟨keepsPackage_finish views inside unstepped, ?_⟩⟩
    · rw [readV, readV0, vectors2, vectors1, vectors0, getD_set_other _ _ _ (by simpa using other)]
    · rw [readS, readS0, scalars2, scalars1, scalars0]
    · rw [readC, readC0, conditions2, conditions1, conditions0]
    · rw [readP, readP0, predicates2, predicates1, predicates0]
    · have same : v.outside ((s.atIssue v).teamOf v) = v.outside (s.teamOf v) := by
        rw [(State.atIssue_frame views).2.2.2.1, State.view_teamOf views]
      exact (View.outside_unvector_congr v (outside_finish (i := i) views inside unstepped)).trans
        ((View.outside_unvector_congr v outside2).trans (outside1.trans (View.outside_unvector_congr v same)))
  · rw [h, issueWord_of_issues _ issues, he _ _ admitted, State.setFp_enabled enabled]
    rfl

/-- Where the results carry no flag, the word is one that writes a vector register: it never traps, and FPFLAGS stays. -/
theorem vectorResultWhen_of_quiet {i : Instr} {H : View → Prop} {d lat : Nat} {last : Bool} {f : State → View → Nat → Word}
    {eff : State → View → Effect} (team : runnerMay i = false) (h : ∀ s, exec i s = issueWord i eff s)
    (he : ∀ s v, H v → eff s v = s.setFp v d (v.active.map fun l => (l, f s v l, 0)) lat last) : VectorResultWhen H i d f := by
  intro s v issues admitted column
  have quiet : v.flagsOf (fun l => (f (s.atIssue v) v l, 0)) = 0 := orFlags_quiet _ _
  have disabled : v.path.enabled (v.flagsOf fun l => (f (s.atIssue v) v l, 0)) = false := by
    rw [quiet, Path.enabled, Nat.zero_and]
    rfl
  obtain ⟨t, runs, on, off, flags, mode, mask, vectors, scalars, conditions, predicates, frame⟩ :=
    (floatResultWhen_of team h he).1 s v issues admitted column disabled
  have finished := runs.symm.trans ((h s).trans (issueWord_done issues ((he _ _ admitted).trans (State.setFp_quiet _ _ _ _ _ _ _))))
  have tick : (t.pathOf v).tick = (s.pathOf v).tick := by
    rw [Host.Outcome.next.inj finished, State.tick_setV_raiseFlags_finish issues.1 (issues.not_run team), State.view_pathOf issues.1]
  have modes : KeepsModes v s t := by
    rw [quiet] at flags
    refine ⟨?_, ?_, ?_, tick⟩
    · rw [mask, State.view_pathOf issues.1]
    · rw [mode, State.view_pathOf issues.1]
    · rw [flags, State.view_pathOf issues.1]
      exact BitVec.or_zero
  exact ⟨t, runs, on, off, vectors, scalars, conditions, predicates, modes, frame⟩

/-- A word over groups, with no trap enabled, completes. -/
theorem groupResult_of {i : Instr} {d lat : Nat} {last : Bool} {eff : State → View → Effect} {vals : State → View → List (Nat × Word × Nat)}
    (h : ∀ s, exec i s = issueWord i eff s) (he : ∀ s v, eff s v = s.setFp v d (vals s v) lat last) : GroupResult i eff := by
  intro s v issues masked
  have done := he (s.atIssue v) v
  simp only [State.setFp, Path.enabled_of_masked masked, Bool.false_eq_true, if_false] at done
  exact ⟨_, done, by rw [h]; exact issueWord_done issues done⟩

/-! ### The lanes of a group (R149) -/

theorem View.pairwise_active (v : View) : v.active.Pairwise (· < ·) := List.pairwise_lt_range.filter _

theorem groupBase_beq (g k l : Nat) : (groupBase g k == groupBase g l) = (k / g == l / g) := by
  rw [Bool.eq_iff_iff, beq_iff_eq, beq_iff_eq, groupBase, groupBase]
  refine ⟨fun same => ?_, congrArg (· * g)⟩
  rcases Nat.eq_zero_or_pos g with rfl | positive
  · rw [Nat.div_zero, Nat.div_zero]
  · exact Nat.eq_of_mul_eq_mul_right positive same

/-- In ascending order, the active lanes of a group are those of its indices whose lane is active. -/
theorem View.active_group {v : View} (positive : 0 < v.team.group) (l : Nat) :
    (v.active.filter fun k => k / v.team.group == l / v.team.group) =
      ((List.range v.team.group).map (l / v.team.group * v.team.group + ·)).filter fun k => decide (k ∈ v.active) := by
  refine List.Pairwise.eq_of_mem_iff (r := (· < ·)) (v.pairwise_active.filter _) (List.Pairwise.filter _ ?_) fun k => ?_
  · exact List.pairwise_lt_range.map _ fun _ _ less => Nat.add_lt_add_left less _
  · simp only [List.mem_filter, List.mem_map, List.mem_range, beq_iff_eq, decide_eq_true_eq]
    constructor
    · rintro ⟨active, same⟩
      exact ⟨⟨k % v.team.group, Nat.mod_lt _ positive, by rw [← same, Nat.div_add_mod']⟩, active⟩
    · rintro ⟨⟨j, below, rfl⟩, active⟩
      exact ⟨active, by rw [Nat.mul_comm, Nat.mul_add_div positive, Nat.div_eq_of_lt below, Nat.add_zero]⟩

theorem View.group_pos {v : View} {l : Nat} (whole : v.team.lanes % v.team.group = 0) (active : l ∈ v.active) : 0 < v.team.group := by
  have below := v.active_lt active
  refine Nat.pos_of_ne_zero fun zero => ?_
  rw [zero, Nat.mod_zero] at whole
  omega

theorem View.mem_groupLanes {v : View} {base l : Nat} : l ∈ v.groupLanes base ↔ l ∈ v.active ∧ groupBase v.team.group l = base := by
  rw [View.groupLanes, List.mem_filter, beq_iff_eq]

/-- Where the groups are whole, their lanes one group after another are all the active lanes. -/
theorem View.flatMap_groupLanes {v : View} (whole : v.team.lanes % v.team.group = 0) : v.bases.flatMap v.groupLanes = v.active := by
  have based : ∀ l ∈ v.active, groupBase v.team.group l ∈ v.bases := fun l active => by
    have below := v.active_lt active
    refine List.mem_map.mpr ⟨l / v.team.group, List.mem_range.mpr ?_, rfl⟩
    exact Nat.div_lt_div_of_lt_of_dvd (Nat.dvd_of_mod_eq_zero whole) below
  refine List.Pairwise.eq_of_mem_iff (r := (· < ·)) (List.pairwise_flatMap.mpr ⟨fun _ _ => v.pairwise_active.filter _, ?_⟩)
    v.pairwise_active fun l => ?_
  · refine List.pairwise_lt_range.map _ fun m n less x first y second => ?_
    obtain ⟨active, low⟩ := View.mem_groupLanes.mp first
    obtain ⟨-, high⟩ := View.mem_groupLanes.mp second
    have bases : groupBase v.team.group x < groupBase v.team.group y := by
      rw [low, high]
      exact Nat.mul_lt_mul_of_pos_right less (View.group_pos whole active)
    by_contra above
    exact bases.not_ge (Nat.mul_le_mul_right _ (Nat.div_le_div_right (Nat.not_lt.mp above)))
  · rw [List.mem_flatMap]
    exact ⟨fun ⟨_, _, mem⟩ => (View.mem_groupLanes.mp mem).1, fun active => ⟨_, based l active, View.mem_groupLanes.mpr ⟨active, rfl⟩⟩⟩

/-- Results given group by group, each group's lanes in ascending order, are results given lane by lane. -/
theorem View.flatMap_bases {α : Type} {v : View} (whole : v.team.lanes % v.team.group = 0) (F : Nat → Nat → α) :
    (v.bases.flatMap fun base => (v.groupLanes base).map (F base)) = v.active.map fun l => F (groupBase v.team.group l) l := by
  rw [← View.flatMap_groupLanes whole, List.map_flatMap]
  refine List.flatMap_congr fun base _ => List.map_congr_left fun l mem => ?_
  rw [(View.mem_groupLanes.mp mem).2]

/-! ### Masks over a group (R152) -/

theorem testBit_groupMask (v : View) (l : Nat) (on : Nat → Bool) (k : Nat) :
    (groupMask v l on).testBit k =
      decide (k < v.team.group ∧ l / v.team.group * v.team.group + k ∈ v.active ∧ on (l / v.team.group * v.team.group + k) = true) := by
  obtain ⟨small, held⟩ := testBit_foldl_range
    (fun k => v.takesPart (groupBase v.team.group l + k) && on (groupBase v.team.group l + k)) v.team.group
  by_cases inside : k < v.team.group
  · refine (held k inside).trans ?_
    rw [Bool.eq_iff_iff, Bool.and_eq_true, View.takesPart_iff, decide_eq_true_iff, and_iff_right inside]
    rfl
  · have bound : groupMask v l on < 2 ^ k := small.trans_le (Nat.pow_le_pow_right (by decide) (Nat.not_lt.mp inside))
    rw [Nat.testBit_lt_two_pow bound, decide_eq_false fun h => inside h.1]

theorem getLsbD_lowWord (m : Nat) {k : Nat} (h : k < 32) : ((BitVec.ofNat 64 m).setWidth 32).getLsbD k = m.testBit k := by
  rw [BitVec.getLsbD_setWidth, BitVec.getLsbD_ofNat, decide_eq_true h, decide_eq_true (show k < 64 by omega), Bool.true_and, Bool.true_and]

theorem getLsbD_highWord (m : Nat) {k : Nat} (h : k < 32) : ((BitVec.ofNat 64 m >>> 32).setWidth 32).getLsbD k = m.testBit (32 + k) := by
  rw [BitVec.getLsbD_setWidth, BitVec.getLsbD_ushiftRight, BitVec.getLsbD_ofNat, decide_eq_true h, decide_eq_true (show 32 + k < 64 by omega),
    Bool.true_and, Bool.true_and]

theorem maskWord_small {d : BitVec 6} {f : State → View → Nat → Nat} {s : State} {v : View} (small : v.team.group ≤ 32) :
    maskWord d f s v = .done (s.setV v d.toNat (v.active.map fun l => (l, (BitVec.ofNat 64 (f s v l)).setWidth 32)) 6 true) := by
  simp only [maskWord, if_neg (show v.team.group ≠ 64 by omega), List.map_map, Function.comp_def]

theorem maskWord_pair {d : BitVec 6} {f : State → View → Nat → Nat} {s : State} {v : View} (wide : v.team.group = 64)
    (even : d.toNat % 2 = 0) (held : d.toNat + 1 < v.team.held) :
    maskWord d f s v = .done ((s.setV v d.toNat (v.active.map fun l => (l, (BitVec.ofNat 64 (f s v l)).setWidth 32)) 6 true).setV v (d.toNat + 1)
      (v.active.map fun l => (l, (BitVec.ofNat 64 (f s v l) >>> 32).setWidth 32)) 6 true) := by
  simp only [maskWord, if_pos wide, if_neg (show ¬ d.toNat % 2 = 1 by omega), if_neg (Nat.not_le.mpr held), State.setVPair, List.map_map,
    Function.comp_def]

/-- Every word whose effect is a mask over each lane's group has the result shape. -/
theorem maskResult_of {i : Instr} {d : BitVec 6} {on : View → Nat → Nat → Bool}
    (h : ∀ s, exec i s = issueWord i (maskWord d fun _ v l => groupMask v l (on v l)) s) : MaskResult i d on := by
  intro s v issues column bit'
  have mask : ∀ l k, (groupMask v l (on v l)).testBit k = bit' l k := fun l k => testBit_groupMask v l (on v l) k
  refine ⟨fun small => ?_, fun wide even held column1 => ?_⟩
  · obtain ⟨t, runs, active, inactive, vectors, scalars, -, predicates, -, frame⟩ :=
      (vectorResultWhen_of (H := fun v => v.team.group ≤ 32) h fun s v small => maskWord_small small) s v issues small column
    refine ⟨t, runs, fun l mem k below => ?_, inactive, vectors, scalars, predicates, fun unstepped => (frame unstepped).1⟩
    rw [active l mem, getLsbD_lowWord _ below, mask]
  · obtain ⟨low, high, vectors, scalars, predicates, frame⟩ := State.finish_setV_setV (lat := 6) (last := true)
      (f := fun l => (BitVec.ofNat 64 (groupMask v l (on v l))).setWidth 32)
      (g := fun l => (BitVec.ofNat 64 (groupMask v l (on v l)) >>> 32).setWidth 32) issues.1 column column1
      (List.Subset.refl _) (List.Subset.refl _) rfl
    refine ⟨_, by rw [h]; exact issueWord_done issues (maskWord_pair wide even held), fun l mem k below => ⟨?_, ?_⟩, vectors, scalars, predicates,
      frame⟩
    · rw [low, if_pos mem, getLsbD_lowWord _ below, mask]
    · rw [high, if_pos mem, getLsbD_highWord _ below, mask]

/-! ### Votes (R153) -/

theorem any_vote (v : View) (p : Nat) : (v.active.map (v.p p)).any id = decide (∃ l ∈ v.active, v.p p l = true) := by
  rw [List.any_map, Bool.eq_iff_iff, List.any_eq_true, decide_eq_true_iff]
  rfl

theorem all_vote (v : View) (p : Nat) : (v.active.map (v.p p)).all id = decide (∀ l ∈ v.active, v.p p l = true) := by
  rw [List.all_map, Bool.eq_iff_iff, List.all_eq_true, decide_eq_true_iff]
  rfl

/-! ### Reductions by key (R154) -/

/-- The active lanes of a lane's group that hold its key in register `a`. -/
def View.keyLanes (v : View) (a l : Nat) : List Nat :=
  v.active.filter fun k => k / v.team.group == l / v.team.group && v.v a k == v.v a l

/-- The lanes that lead their key: the lowest of each. -/
def View.keyLeaders (v : View) (a : Nat) : List Nat := v.active.filter fun l => (v.keyLanes a l).head? == some l

theorem View.keyLeaders_subset (v : View) (a : Nat) : v.keyLeaders a ⊆ v.active := fun _ mem => (List.mem_filter.mp mem).1

/-- The values of a key combined in ascending lane order. -/
def keyTotal (f : Word → Word → Word) : List Word → Word
  | x :: rest => rest.foldl f x
  | [] => 0

theorem keyedWord_eq (f : Word → Word → Word) (d a b : BitVec 6) (q : BitVec 2) (s : State) (v : View) :
    keyedWord f d a b q s v =
      .done ((s.setV v d.toNat ((v.keyLeaders a.toNat).map fun l => (l, keyTotal f ((v.keyLanes a.toNat l).map (s.bV v .int q b)))) 6 true).setV v
        (d.toNat + 1) (v.active.map fun l => (l, if (v.keyLeaders a.toNat).contains l then 1 else 0)) 6 true) := by
  simp only [keyedWord, groupBase_beq]
  rfl

/-- A lane leads its key where no lane of the key lies below it. -/
theorem View.mem_keyLeaders {v : View} {a l : Nat} (active : l ∈ v.active) :
    l ∈ v.keyLeaders a ↔ ∀ k ∈ v.keyLanes a l, l ≤ k := by
  have own : l ∈ v.keyLanes a l := List.mem_filter.mpr ⟨active, by rw [beq_self_eq_true, beq_self_eq_true]; rfl⟩
  have ascending : (v.keyLanes a l).Pairwise (· < ·) := v.pairwise_active.filter _
  rw [View.keyLeaders, List.mem_filter, and_iff_right active, beq_iff_eq]
  cases lanes : v.keyLanes a l with
  | nil => exact absurd (lanes ▸ own) List.not_mem_nil
  | cons x rest =>
    rw [lanes] at own ascending
    obtain ⟨least, -⟩ := List.pairwise_cons.mp ascending
    rw [List.head?_cons, Option.some_inj]
    constructor
    · rintro rfl k mem
      rcases List.mem_cons.mp mem with rfl | later
      · exact le_refl _
      · exact (least k later).le
    · intro lowest
      rcases List.mem_cons.mp own with same | later
      · exact same.symm
      · exact absurd (lowest x List.mem_cons_self) (Nat.not_le.mpr (least l later))

/-- Every word whose effect is a reduction by key has the result shape. -/
theorem keyedResult_of {i : Instr} {d a b : BitVec 6} {q : BitVec 2} {f : Word → Word → Word}
    (h : ∀ s, exec i s = issueWord i (keyedWord f d a b q) s) : KeyedResult i d a b q f := by
  intro s v issues column column1 same
  have leader : ∀ l ∈ v.active, l ∈ v.keyLeaders a.toNat ↔ ∀ k ∈ same l, l ≤ k := fun l active => View.mem_keyLeaders active
  obtain ⟨totals, marks, vectors, scalars, predicates, frame⟩ := State.finish_setV_setV (lat := 6) (last := true)
    (f := fun l => keyTotal f ((v.keyLanes a.toNat l).map ((s.atIssue v).bV v .int q b)))
    (on := v.keyLeaders a.toNat) (g := fun l => if (v.keyLeaders a.toNat).contains l then 1 else 0) issues.1 column column1
    (v.keyLeaders_subset _) (List.Subset.refl _) rfl
  refine ⟨_, by rw [h]; exact issueWord_done issues (keyedWord_eq f d a b q _ v), fun l active lowest => ⟨?_, fun x rest values => ?_⟩,
    fun l active ⟨k, mem, lower⟩ => ?_, fun l inactive => ⟨?_, ?_⟩, vectors, scalars, predicates, frame⟩
  · rw [marks, if_pos active, if_pos (List.contains_iff_mem.mpr ((leader l active).mpr lowest))]
  · rw [totals, if_pos ((leader l active).mpr lowest)]
    exact congrArg (keyTotal f) values
  · have follows : l ∉ v.keyLeaders a.toNat := fun leads => Nat.not_le.mpr lower ((leader l active).mp leads k mem)
    rw [marks, totals, if_pos active, if_neg follows, if_neg fun mem => follows (List.contains_iff_mem.mp mem)]
    exact ⟨rfl, rfl⟩
  · rw [totals, if_neg fun leads => inactive (v.keyLeaders_subset _ leads)]
  · rw [marks, if_neg inactive]

/-! ### Running sums (R155) -/

/-- The running value after some values of a group: their FP32 sum in lane order with the last sum's flags, or their sum with wrap-around. -/
def groupSum (fp : Bool) (e : FpEnv) (xs : List Word) : Word × Nat := if fp then runningSum e xs else (xs.foldl (· + ·) 0, 0)

/-- The running value that the next lane of a group adds to, if it is not the first. -/
def carriedSum (fp : Bool) (e : FpEnv) (xs : List Word) : Option Word := if xs = [] then none else some (groupSum fp e xs).1

theorem groupSum_append {xs : List Word} (fp : Bool) (e : FpEnv) (y : Word) (later : xs ≠ []) :
    groupSum fp e (xs ++ [y]) =
      if fp then fpWord (fadd .fp32 e (groupSum fp e xs).1.toNat y.toNat) else ((groupSum fp e xs).1 + y, 0) := by
  obtain ⟨x, rest, rfl⟩ := List.exists_cons_of_ne_nil later
  cases fp with
  | false => simp only [groupSum, Bool.false_eq_true, if_false, List.foldl_append, List.foldl_cons, List.foldl_nil]
  | true => simp only [groupSum, if_true, runningSum, List.cons_append, List.foldl_append, List.foldl_cons, List.foldl_nil]

/-- Each lane adds its value to the running value of the lanes before it. -/
theorem runningSums_cons (fp : Bool) (e : FpEnv) (l : Nat) (y : Word) (rest : List (Nat × Word)) (xs : List Word) :
    runningSums fp e ((l, y) :: rest) (carriedSum fp e xs) =
      (l, (groupSum fp e (xs ++ [y])).1, (groupSum fp e xs).1, (groupSum fp e (xs ++ [y])).2) ::
        runningSums fp e rest (carriedSum fp e (xs ++ [y])) := by
  rw [show carriedSum fp e (xs ++ [y]) = some (groupSum fp e (xs ++ [y])).1 from if_neg (by simp)]
  by_cases first : xs = []
  · subst first
    cases fp with
    | false => simp [runningSums, carriedSum, groupSum]
    | true => simp [runningSums, carriedSum, groupSum, runningSum]
  · rw [carriedSum, if_neg first, runningSums, groupSum_append fp e y first]

/-- The part of an ascending list below one of its lanes, without and with that lane. -/
theorem filter_upTo {done rest : List Nat} {l : Nat} (ascending : (done ++ l :: rest).Pairwise (· < ·)) :
    (done ++ l :: rest).filter (fun k => decide (k < l)) = done ∧
      (done ++ l :: rest).filter (fun k => decide (k < l) || k == l) = done ++ [l] := by
  obtain ⟨-, tail, before⟩ := List.pairwise_append.mp ascending
  obtain ⟨after, -⟩ := List.pairwise_cons.mp tail
  have below : ∀ k ∈ done, k < l := fun k mem => before k mem l List.mem_cons_self
  have none : rest.filter (fun k => decide (k < l)) = [] ∧ rest.filter (fun k => decide (k < l) || k == l) = [] := by
    simp only [List.filter_eq_nil_iff, Bool.or_eq_true, decide_eq_true_eq, beq_iff_eq]
    exact ⟨fun k mem => (after k mem).asymm, fun k mem => by have := after k mem; omega⟩
  have all : done.filter (fun k => decide (k < l)) = done ∧ done.filter (fun k => decide (k < l) || k == l) = done := by
    simp only [List.filter_eq_self, Bool.or_eq_true, decide_eq_true_eq]
    exact ⟨below, fun k mem => .inl (below k mem)⟩
  rw [List.filter_append, List.filter_append, List.filter_cons, List.filter_cons, none.1, none.2, all.1, all.2]
  simp

/-- What a lane of an ascending list receives: the running value up to it, and that before it. -/
def laneSums (fp : Bool) (e : FpEnv) (x : Nat → Word) (ls : List Nat) (l : Nat) : Nat × Word × Word × Nat :=
  let own := groupSum fp e ((ls.filter fun k => decide (k < l) || k == l).map x)
  (l, own.1, (groupSum fp e ((ls.filter fun k => decide (k < l)).map x)).1, own.2)

theorem runningSums_eq (fp : Bool) (e : FpEnv) (x : Nat → Word) {done ls : List Nat} (ascending : (done ++ ls).Pairwise (· < ·)) :
    runningSums fp e (ls.map fun l => (l, x l)) (carriedSum fp e (done.map x)) = ls.map (laneSums fp e x (done ++ ls)) := by
  induction ls generalizing done with
  | nil => rfl
  | cons l rest ih =>
    obtain ⟨before, upTo⟩ := filter_upTo ascending
    have shifted : done ++ l :: rest = (done ++ [l]) ++ rest := (List.append_cons done l rest)
    rw [List.map_cons, List.map_cons, runningSums_cons, laneSums, before, upTo]
    simp only [List.map_append, List.map_cons, List.map_nil]
    rw [shifted] at ascending ⊢
    rw [← ih ascending, List.map_append, List.map_cons, List.map_nil]

theorem View.prefixOf_eq (v : View) (a l : Nat) (own : Bool) :
    v.prefixOf a l own = ((v.groupLanes (groupBase v.team.group l)).filter fun k => decide (k < l) || (own && k == l)).map (v.v a) := by
  simp only [View.prefixOf, View.groupLanes, List.filter_filter, groupBase_beq, Bool.and_comm]

/-- What VSCAN.ADD and VSCANX.ADD give a lane, with the flags of the lane's own sum. -/
def View.scanned (v : View) (exclusive fp : Bool) (a l : Nat) : Word × Nat :=
  ((groupSum fp v.path.env (v.prefixOf a l (!exclusive))).1, (groupSum fp v.path.env (v.prefixOf a l true)).2)

theorem scanWord_eq {v : View} (whole : v.team.lanes % v.team.group = 0) (exclusive : Bool) (d a : BitVec 6) (t : BitVec 1) (s : State) :
    scanWord exclusive d a t s v = s.setFp v d.toNat (v.active.map fun l => (l, v.scanned exclusive (t == 1) a.toNat l)) 6 true := by
  have sums : ∀ base, runningSums (t == 1) v.path.env ((v.groupLanes base).map fun l => (l, v.v a.toNat l)) none =
      (v.groupLanes base).map (laneSums (t == 1) v.path.env (v.v a.toNat) (v.groupLanes base)) := fun base =>
    runningSums_eq (t == 1) v.path.env (v.v a.toNat) (done := []) (v.pairwise_active.filter _)
  simp only [scanWord, sums]
  rw [View.flatMap_bases whole fun base => laneSums (t == 1) v.path.env (v.v a.toNat) (v.groupLanes base), List.map_map]
  refine congrArg (s.setFp v d.toNat · 6 true) (List.map_congr_left fun l _ => ?_)
  cases exclusive <;> simp [laneSums, View.scanned, View.prefixOf_eq]

theorem View.prefixOf_inclusive (v : View) (a l : Nat) :
    v.prefixOf a l true = (v.active.filter fun k => k / v.team.group == l / v.team.group && decide (k ≤ l)).map (v.v a) := by
  rw [View.prefixOf]
  refine congrArg (List.map _) (List.filter_congr fun k _ => congrArg _ ?_)
  rw [Bool.true_and, Bool.eq_iff_iff, Bool.or_eq_true, decide_eq_true_iff, decide_eq_true_iff, beq_iff_eq, Nat.le_iff_lt_or_eq]

theorem View.prefixOf_exclusive (v : View) (a l : Nat) :
    v.prefixOf a l false = (v.active.filter fun k => k / v.team.group == l / v.team.group && decide (k < l)).map (v.v a) := by
  simp only [View.prefixOf, Bool.false_and, Bool.or_false]

/-! ### The tree of VREDG (R156) -/

/-- comb of R156, with none for a lane that takes no part, and its flags. -/
def combined (comb : Word → Word → Word × Nat) : Option Word → Option Word → Option Word × Nat
  | some x, some y => (some (comb x y).1, (comb x y).2)
  | some x, none => (some x, 0)
  | none, y => (y, 0)

theorem treeAt_succ (comb : Word → Word → Word × Nat) (w : Nat → Option Word) (n k : Nat) :
    treeAt comb w (n + 1) k =
      let x := treeAt comb w n (min k (k ^^^ 2 ^ n))
      let y := treeAt comb w n (max k (k ^^^ 2 ^ n))
      ((combined comb x.1 y.1).1, x.2 ||| y.2 ||| (combined comb x.1 y.1).2) := by
  rw [treeAt]
  generalize treeAt comb w n (min k (k ^^^ 2 ^ n)) = x
  generalize treeAt comb w n (max k (k ^^^ 2 ^ n)) = y
  obtain ⟨x, xf⟩ := x
  obtain ⟨y, yf⟩ := y
  cases x with
  | none => simp only [combined, Nat.or_zero]
  | some x =>
    cases y with
    | none => simp only [combined, Nat.or_zero]
    | some y => rfl

/-- A round combines the values of each pair of indices at its distance, all at once. -/
theorem treeRound_range (comb : Word → Word → Word × Nat) {dist g : Nat} (w : Nat → Option Word) (flags : Nat)
    (inside : ∀ k < g, k ^^^ dist < g) :
    treeRound comb dist ((List.range g).map w) flags =
      ((List.range g).map fun k => (combined comb (w (min k (k ^^^ dist))) (w (max k (k ^^^ dist)))).1,
        (List.range g).foldl (fun n k => n ||| (combined comb (w (min k (k ^^^ dist))) (w (max k (k ^^^ dist)))).2) flags) := by
  have held : ∀ k < g, ((List.range g).map w).getD k none = w k := fun k below => by
    rw [List.getD_eq_getElem _ _ (by rw [List.length_map, List.length_range]; exact below), List.getElem_map, List.getElem_range]
  have out : treeRound comb dist ((List.range g).map w) flags =
      (((List.range g).map fun k => combined comb (w (min k (k ^^^ dist))) (w (max k (k ^^^ dist)))).map (·.1),
        ((List.range g).map fun k => combined comb (w (min k (k ^^^ dist))) (w (max k (k ^^^ dist)))).foldl (fun n e => n ||| e.2) flags) := by
    simp only [treeRound, xorIndex, List.length_map, List.length_range]
    refine congrArg (fun out : List (Option Word × Nat) => (out.map (·.1), out.foldl (fun n e => n ||| e.2) flags))
      (List.map_congr_left fun k mem => ?_)
    have below := List.mem_range.mp mem
    rw [held _ (min_lt_of_left_lt below), held _ (max_lt below (inside k below))]
    cases w (min k (k ^^^ dist)) with
    | none => cases w (max k (k ^^^ dist)) <;> rfl
    | some x => cases w (max k (k ^^^ dist)) <;> rfl
  rw [out, List.map_map, List.foldl_map]
  rfl

/-- The two indices that a round of distance `2 ^ n` combines lie in the lower and the upper half of a block of twice that. -/
theorem halves_of_block (n k : Nat) :
    min k (k ^^^ 2 ^ n) / 2 ^ n = 2 * (k / 2 ^ (n + 1)) ∧ max k (k ^^^ 2 ^ n) / 2 ^ n = 2 * (k / 2 ^ (n + 1)) + 1 := by
  have monotone : Monotone fun m : Nat => m / 2 ^ n := fun _ _ le => Nat.div_le_div_right le
  have flipped : (k ^^^ 2 ^ n) / 2 ^ n = (k / 2 ^ n) ^^^ 1 := by rw [Nat.xor_div_two_pow, Nat.div_self (Nat.two_pow_pos n)]
  have low := monotone.map_min (a := k) (b := k ^^^ 2 ^ n)
  have high := monotone.map_max (a := k) (b := k ^^^ 2 ^ n)
  beta_reduce at low high
  rw [low, high, flipped, pow_succ, ← Nat.div_div_eq_div_mul]
  generalize k / 2 ^ n = q
  rcases Nat.even_or_odd q with even | odd
  · rw [Nat.xor_one_of_even even]
    obtain ⟨r, rfl⟩ := even
    omega
  · rw [Nat.xor_one_of_odd odd]
    obtain ⟨r, rfl⟩ := odd
    omega

/-- The value of block `b` of `2 ^ n` indices: its two halves combined, the lower one first. -/
def blockTree (comb : Word → Word → Word × Nat) (w : Nat → Option Word) : Nat → Nat → Option Word × Nat
  | 0, b => (w b, 0)
  | n + 1, b =>
    let x := blockTree comb w n (2 * b)
    let y := blockTree comb w n (2 * b + 1)
    ((combined comb x.1 y.1).1, x.2 ||| y.2 ||| (combined comb x.1 y.1).2)

/-- Every index of a block has the block's value. -/
theorem treeAt_eq_blockTree (comb : Word → Word → Word × Nat) (w : Nat → Option Word) (n k : Nat) :
    treeAt comb w n k = blockTree comb w n (k / 2 ^ n) := by
  induction n generalizing k with
  | zero => rw [pow_zero, Nat.div_one]; rfl
  | succ n ih =>
    obtain ⟨lower, upper⟩ := halves_of_block n k
    rw [treeAt_succ, ih, ih, lower, upper]
    rfl

/-! ### The rounds of the tree -/

/-- The flags of some indices together. -/
def flagsOver (ks : List Nat) (f : Nat → Nat) : Nat := ks.foldl (fun n k => n ||| f k) 0

theorem testBit_foldl_or (ks : List Nat) (f : Nat → Nat) (m i : Nat) :
    (ks.foldl (fun n k => n ||| f k) m).testBit i = (m.testBit i || ks.any fun k => (f k).testBit i) := by
  induction ks generalizing m with
  | nil => rw [List.foldl_nil, List.any_nil, Bool.or_false]
  | cons k ks ih => rw [List.foldl_cons, ih, Nat.testBit_or, List.any_cons, Bool.or_assoc]

theorem testBit_flagsOver (ks : List Nat) (f : Nat → Nat) (i : Nat) : (flagsOver ks f).testBit i = ks.any fun k => (f k).testBit i := by
  rw [flagsOver, testBit_foldl_or, Nat.zero_testBit, Bool.false_or]

/-- Indices of one and the same flags have these together. -/
theorem flagsOver_const {ks : List Nat} {f : Nat → Nat} {c k : Nat} (mem : k ∈ ks) (same : ∀ j ∈ ks, f j = c) : flagsOver ks f = c := by
  refine Nat.eq_of_testBit_eq fun i => ?_
  rw [testBit_flagsOver, Bool.eq_iff_iff, List.any_eq_true]
  exact ⟨fun ⟨j, inside, set⟩ => same j inside ▸ set, fun set => ⟨k, mem, (same k mem).symm ▸ set⟩⟩

/-- After a round the flags are those so far and those of its combinations. -/
theorem flagsOver_round {g n : Nat} (f c : Nat → Nat) (within : n < g) :
    (List.range (2 ^ g)).foldl (fun m k => m ||| c k) (flagsOver (List.range (2 ^ g)) f) =
      flagsOver (List.range (2 ^ g)) fun k => f (min k (k ^^^ 2 ^ n)) ||| f (max k (k ^^^ 2 ^ n)) ||| c k := by
  refine Nat.eq_of_testBit_eq fun i => ?_
  have inside : ∀ k < 2 ^ g, k ^^^ 2 ^ n < 2 ^ g := fun k below => Nat.xor_lt_two_pow below (Nat.pow_lt_pow_right (by decide) within)
  rw [testBit_foldl_or, testBit_flagsOver, testBit_flagsOver, Bool.eq_iff_iff]
  simp only [Bool.or_eq_true, List.any_eq_true, List.mem_range, Nat.testBit_or]
  constructor
  · rintro (⟨k, below, set⟩ | ⟨k, below, set⟩)
    · refine ⟨k, below, .inl ?_⟩
      rcases le_total k (k ^^^ 2 ^ n) with least | most
      · exact .inl (by rwa [min_eq_left least])
      · exact .inr (by rwa [max_eq_left most])
    · exact ⟨k, below, .inr set⟩
  · rintro ⟨k, below, (set | set) | set⟩
    · exact .inl ⟨_, min_lt_of_left_lt below, set⟩
    · exact .inl ⟨_, max_lt below (inside k below), set⟩
    · exact .inr ⟨k, below, set⟩

/-- After `n` rounds over `2 ^ g` indices each holds its value in the tree, and the flags are those of all of them. -/
theorem treeRounds_eq (comb : Word → Word → Word × Nat) (w : Nat → Option Word) {g n : Nat} (within : n ≤ g) :
    ((List.range n).map (2 ^ ·)).foldl (fun a d => treeRound comb d a.1 a.2) ((List.range (2 ^ g)).map w, 0) =
      ((List.range (2 ^ g)).map fun k => (treeAt comb w n k).1, flagsOver (List.range (2 ^ g)) fun k => (treeAt comb w n k).2) := by
  induction n with
  | zero => exact congrArg (Prod.mk _) (flagsOver_const (List.mem_range.mpr (Nat.two_pow_pos g)) fun _ _ => rfl).symm
  | succ n ih =>
    have inside : ∀ k < 2 ^ g, k ^^^ 2 ^ n < 2 ^ g := fun k below => Nat.xor_lt_two_pow below (Nat.pow_lt_pow_right (by decide) within)
    rw [List.range_succ, List.map_append, List.foldl_append, ih (Nat.le_of_succ_le within), List.map_singleton, List.foldl_cons, List.foldl_nil,
      treeRound_range comb _ _ inside, flagsOver_round _ _ within]
    simp only [treeAt_succ]

/-- The tree of a group of `2 ^ g` lanes: every lane's value, and the flags that each lane's value carries. -/
theorem treeOf_eq (comb : Word → Word → Word × Nat) (w : Nat → Option Word) {g l : Nat} (small : g ≤ 6) (below : l < 2 ^ g) :
    (treeOf comb (2 ^ g) ((List.range (2 ^ g)).map w)).1.getD l none = (treeAt comb w g l).1 ∧
      (treeOf comb (2 ^ g) ((List.range (2 ^ g)).map w)).2 = (treeAt comb w g l).2 := by
  have distances : ([1, 2, 4, 8, 16, 32].filter fun d => decide (d < 2 ^ g)) = (List.range g).map (2 ^ ·) := by
    interval_cases g <;> decide
  rw [treeOf, distances, treeRounds_eq comb w (le_refl g)]
  refine ⟨?_, flagsOver_const (List.mem_range.mpr below) fun k inside => ?_⟩
  · rw [List.getD_eq_getElem _ _ (by rw [List.length_map, List.length_range]; exact below), List.getElem_map, List.getElem_range]
  · rw [treeAt_eq_blockTree, treeAt_eq_blockTree, Nat.div_eq_of_lt below, Nat.div_eq_of_lt (List.mem_range.mp inside)]

/-! ### Totals over a group (R156) -/

/-- Some values combined in their order, if there are any. -/
def inOrder (f : Word → Word → Word) : List Word → Option Word
  | [] => none
  | x :: rest => some (rest.foldl f x)

theorem combined_inOrder {f : Word → Word → Word} (assoc : ∀ x y z, f (f x y) z = f x (f y z)) (xs ys : List Word) :
    combined (fun x y => (f x y, 0)) (inOrder f xs) (inOrder f ys) = (inOrder f (xs ++ ys), 0) := by
  have : Std.Associative f := ⟨assoc⟩
  cases xs with
  | nil => rfl
  | cons x xs =>
    cases ys with
    | nil => rw [List.append_nil]; rfl
    | cons y ys =>
      simp only [inOrder, combined, List.cons_append, List.foldl_append, List.foldl_cons, List.foldl_assoc]

/-- The tree of an associative operation combines a block's values in the order of their indices. -/
theorem blockTree_eq_inOrder {f : Word → Word → Word} (assoc : ∀ x y z, f (f x y) z = f x (f y z)) (w : Nat → Option Word) (n b : Nat) :
    blockTree (fun x y => (f x y, 0)) w n b = (inOrder f ((List.range (2 ^ n)).filterMap fun k => w (b * 2 ^ n + k)), 0) := by
  induction n generalizing b with
  | zero =>
    rw [blockTree]
    cases h : w b <;> simp [h, inOrder]
  | succ n ih =>
    have lower : 2 * b * 2 ^ n = b * 2 ^ (n + 1) := by ring
    have upper : (2 * b + 1) * 2 ^ n = b * 2 ^ (n + 1) + 2 ^ n := by ring
    have halves : List.range (2 ^ (n + 1)) = List.range (2 ^ n) ++ (List.range (2 ^ n)).map (2 ^ n + ·) := by
      rw [← List.range_add]
      congr 1
      omega
    rw [blockTree, ih, ih, lower, upper, combined_inOrder assoc, halves, List.filterMap_append, List.filterMap_map]
    simp only [Function.comp_def, Nat.add_assoc, Nat.or_zero]

theorem toInt_intMax (x y : Word) : (intMax x y).toInt = max x.toInt y.toInt := by
  rw [intMax_eq, apply_ite BitVec.toInt, max_def]

theorem intMax_assoc (x y z : Word) : intMax (intMax x y) z = intMax x (intMax y z) :=
  BitVec.toInt_inj.mp (by simp only [toInt_intMax, max_assoc])

/-- The most negative word is the least of all. -/
theorem intMax_least (x : Word) : intMax 0x80000000 x = x := by
  have least := BitVec.le_toInt x
  exact BitVec.toInt_inj.mp (by rw [toInt_intMax]; exact max_eq_right least)

/-- The choice among a list of indices of those that satisfy a condition. -/
theorem filterMap_ite {α β : Type} (p : β → Prop) [DecidablePred p] (r : β → Word) (h : α → β) (xs : List α) :
    (xs.filterMap fun x => if p (h x) then some (r (h x)) else none) = ((xs.map h).filter fun y => decide (p y)).map r := by
  induction xs with
  | nil => rfl
  | cons x xs ih =>
    by_cases holds : p (h x)
    · simp [holds, ih]
    · simp [holds, ih]

/-! ### VREDG (R156) -/

/-- comb of R156 for VREDG.ADD and VREDG.MAX of type `t`. -/
def reduceComb (max : Bool) (t : BitVec 1) (e : FpEnv) (x y : Word) : Word × Nat :=
  if t = 1 then fpWord (if max then fminmax .fp32 e true x.toNat y.toNat else fadd .fp32 e x.toNat y.toNat)
  else (if max then intMax x y else x + y, 0)

/-- A lane's input: under FTZ first for type 1. -/
def View.reduceInput (v : View) (a : Nat) (t : BitVec 1) (l : Nat) : Word :=
  if t = 1 then BitVec.ofNat 32 (ftzIn .fp32 v.path.env (v.v a l).toNat) else v.v a l

/-- The tree's value in a lane's group and its flags. -/
def View.reduced (v : View) (comb : Word → Word → Word × Nat) (read : Nat → Word) (l : Nat) : Word × Nat :=
  let r := treeAt comb (fun k =>
    let j := l / v.team.group * v.team.group + k
    if j ∈ v.active then some (read j) else none) (Nat.log2 v.team.group) (l % v.team.group)
  (r.1.getD 0, r.2)

theorem reduceWord_eq {v : View} (whole : v.team.lanes % v.team.group = 0) (power : ∃ n ≤ 6, v.team.group = 2 ^ n) (max : Bool) (d a : BitVec 6)
    (t : BitVec 1) (s : State) :
    reduceWord max d a t s v = s.setFp v d.toNat
      (v.active.map fun l => (l, v.reduced (reduceComb max t v.path.env) (v.reduceInput a.toNat t) l)) 6 true := by
  obtain ⟨n, small, power⟩ := power
  refine congrArg (s.setFp v d.toNat · 6 true) ?_
  rw [List.flatMap_map]
  refine (View.flatMap_bases whole _).trans (List.map_congr_left fun l _ => ?_)
  have inputs : ((List.range v.team.group).map fun k => if v.takesPart (groupBase v.team.group l + k) then
      some (v.reduceInput a.toNat t (groupBase v.team.group l + k)) else none) = (List.range v.team.group).map fun k =>
        if l / v.team.group * v.team.group + k ∈ v.active then some (v.reduceInput a.toNat t (l / v.team.group * v.team.group + k)) else none :=
    List.map_congr_left fun k _ => if_congr View.takesPart_iff rfl rfl
  have index : l - groupBase v.team.group l = l % v.team.group := by
    rw [Nat.mod_eq_sub, groupBase, Nat.mul_comm]
  have below : l % v.team.group < 2 ^ n := power ▸ Nat.mod_lt l (power ▸ Nat.two_pow_pos n)
  have levels : Nat.log2 v.team.group = n := by rw [power, Nat.log2_two_pow]
  obtain ⟨value, flags⟩ := treeOf_eq (reduceComb max t v.path.env) (fun k => if l / v.team.group * v.team.group + k ∈ v.active then
    some (v.reduceInput a.toNat t (l / v.team.group * v.team.group + k)) else none) small below
  rw [← levels, levels, ← power, ← inputs] at value flags
  rw [View.reduced, levels]
  refine Prod.ext rfl (Prod.ext (congrArg (Option.getD · 0) (Eq.trans ?_ value)) flags)
  exact congrArg (List.getD _ · none) index

/-- The values of a group's active lanes, in ascending lane order. -/
def View.groupValues (v : View) (a l : Nat) : List Word :=
  (v.active.filter fun k => k / v.team.group == l / v.team.group).map (v.v a)

/-- The tree of an associative operation without flags gives each active lane the total of its group in lane order, from any value that
the operation leaves as it finds the other. -/
theorem View.reduced_total {v : View} {a l : Nat} {f : Word → Word → Word} {start : Word} (power : ∃ n ≤ 6, v.team.group = 2 ^ n)
    (active : l ∈ v.active) (assoc : ∀ x y z, f (f x y) z = f x (f y z)) (neutral : ∀ x, f start x = x) :
    v.reduced (fun x y => (f x y, 0)) (v.v a) l = ((v.groupValues a l).foldl f start, 0) := by
  obtain ⟨n, -, power⟩ := power
  have positive : 0 < v.team.group := power ▸ Nat.two_pow_pos n
  have tree : v.reduced (fun x y => (f x y, 0)) (v.v a) l = ((inOrder f (v.groupValues a l)).getD 0, 0) := by
    have levels : Nat.log2 v.team.group = n := by rw [power, Nat.log2_two_pow]
    have block : l % v.team.group / 2 ^ n = 0 := Nat.div_eq_of_lt (power ▸ Nat.mod_lt l positive)
    simp only [View.reduced, treeAt_eq_blockTree, blockTree_eq_inOrder assoc, levels, block, Nat.zero_mul, Nat.zero_add]
    rw [filterMap_ite (· ∈ v.active), ← power, ← View.active_group positive]
    rfl
  have own : l ∈ v.active.filter fun k => k / v.team.group == l / v.team.group := List.mem_filter.mpr ⟨active, beq_self_eq_true _⟩
  rw [tree]
  cases values : v.groupValues a l with
  | nil => exact absurd own (by rw [List.map_eq_nil_iff.mp values]; exact List.not_mem_nil)
  | cons x rest => rw [List.foldl_cons, neutral]; rfl

/-- A reduction of type 0 whose operation is associative gives each lane its group's total. -/
theorem reductionResult_of {i : Instr} {max : Bool} {d a : BitVec 6} {f : Word → Word → Word} {start : Word} (team : runnerMay i = false)
    (h : ∀ s, exec i s = issueWord i (reduceWord max d a 0) s) (comb : ∀ e, reduceComb max 0 e = fun x y => (f x y, 0))
    (assoc : ∀ x y z, f (f x y) z = f x (f y z)) (neutral : ∀ x, f start x = x) :
    VectorResultWhen (fun v => v.team.lanes % v.team.group = 0 ∧ ∃ n ≤ 6, v.team.group = 2 ^ n) i d.toNat
      fun _ v l => (v.groupValues a.toNat l).foldl f start := by
  refine vectorResultWhen_of_quiet (lat := 6) (last := true) team h fun s v ⟨whole, power⟩ => ?_
  rw [reduceWord_eq whole power, comb]
  refine congrArg (s.setFp v d.toNat · 6 true) (List.map_congr_left fun l active => congrArg (Prod.mk l) ?_)
  exact View.reduced_total power active assoc neutral

end Sys2Proof.Machine

section
open Sys2Proof Sys2Proof.Machine

/-- Settles O27: a mask's bits are those of the fold over its group; the lowest active lane of a key leads it; scans and trees go group by
group, which over whole groups is lane by lane.  A tree combines its group in lane order, so that for type 0, whose operations are
associative, it is the total; for type 1 every lane's value carries the flags of its whole tree. -/
theorem votesAndReductions : Obligations.VotesAndReductions := by
  refine ⟨fun c w d p => ?ballot, fun c w d a => ?same, fun c w k p => ⟨?any, ?all⟩, fun c w d a b q => ?keyed, fun c w d a => ⟨?scan, ?scanx⟩,
    fun c w d a t => ?groups, fun c w d a => ⟨?total, ?largest, ?sums, ?sumsx, ?tree, ?treeMax⟩⟩
  case ballot => exact maskResult_of fun _ => rfl
  case same => exact maskResult_of fun _ => rfl
  case any =>
    simp only [← any_vote]
    exact conditionResult_of (ready := fun v => v.time + v.lastPass + 6) fun _ => rfl
  case all =>
    simp only [← all_vote]
    exact conditionResult_of (ready := fun v => v.time + v.lastPass + 6) fun _ => rfl
  case keyed =>
    simp only [← intMin_eq, ← intMax_eq]
    exact ⟨keyedResult_of fun _ => rfl, keyedResult_of fun _ => rfl, keyedResult_of fun _ => rfl⟩
  case scan =>
    simp only [← View.prefixOf_inclusive]
    exact vectorResultWhen_of_quiet rfl (fun _ => rfl) fun s v whole => scanWord_eq whole false d a 0 s
  case scanx =>
    simp only [← View.prefixOf_exclusive]
    exact vectorResultWhen_of_quiet rfl (fun _ => rfl) fun s v whole => scanWord_eq whole true d a 0 s
  case groups =>
    exact ⟨groupResult_of (fun _ => rfl) fun _ _ => rfl, groupResult_of (fun _ => rfl) fun _ _ => rfl,
      groupResult_of (fun _ => rfl) fun _ _ => rfl, groupResult_of (fun _ => rfl) fun _ _ => rfl⟩
  case total => exact reductionResult_of rfl (fun _ => rfl) (fun _ => rfl) BitVec.add_assoc BitVec.zero_add
  case largest =>
    simp only [← intMax_eq]
    exact reductionResult_of rfl (fun _ => rfl) (fun _ => rfl) intMax_assoc intMax_least
  case sums => exact floatResultWhen_of rfl (fun _ => rfl) fun s v whole => scanWord_eq whole false d a 1 s
  case sumsx => exact floatResultWhen_of rfl (fun _ => rfl) fun s v whole => scanWord_eq whole true d a 1 s
  case tree => exact floatResultWhen_of rfl (fun _ => rfl) fun s v ⟨whole, power⟩ => reduceWord_eq whole power false d a 1 s
  case treeMax => exact floatResultWhen_of rfl (fun _ => rfl) fun s v ⟨whole, power⟩ => reduceWord_eq whole power true d a 1 s

end

namespace Sys2Proof.Machine

/-! ### Runs of bytes as words (R1, R161) -/

theorem leNat_append (xs ys : List Byte) : leNat (xs ++ ys) = leNat xs + 256 ^ xs.length * leNat ys := by
  induction xs with
  | nil => simp [leNat]
  | cons x xs ih =>
    rw [List.cons_append, leNat, leNat, ih, List.length_cons, pow_succ]
    ring

/-- Two bytes are read with the first one lowest. -/
theorem leNat_pair (lo hi : Byte) : leNat [lo, hi] = (hi ++ lo).toNat := by
  rw [BitVec.toNat_append, ← Nat.shiftLeft_add_eq_or_of_lt lo.isLt, Nat.shiftLeft_eq, leNat, leNat, leNat]
  omega

/-- Of words stored one after another, the bytes from the one numbered `i` on give that word. -/
theorem word_of_leNat_words (ws : List Word) (i : Nat) :
    BitVec.ofNat 32 (leNat (ws.flatMap fun w => leBytes 4 w.toNat) / 2 ^ (32 * i)) = wordAt ws i := by
  induction ws generalizing i with
  | nil => simp [leNat, wordAt]
  | cons w ws ih =>
    have split : leNat ((w :: ws).flatMap fun w => leBytes 4 w.toNat) =
        w.toNat + 2 ^ 32 * leNat (ws.flatMap fun w => leBytes 4 w.toNat) := by
      rw [List.flatMap_cons, leNat_append, leNat_leBytes, length_leBytes, show 256 ^ 4 = 2 ^ 32 from rfl, Nat.mod_eq_of_lt w.isLt]
    rw [split]
    cases i with
    | zero =>
      rw [Nat.mul_zero, pow_zero, Nat.div_one]
      exact BitVec.eq_of_toNat_eq (by rw [BitVec.toNat_ofNat, Nat.add_mul_mod_self_left, Nat.mod_eq_of_lt w.isLt]; rfl)
    | succ i =>
      rw [Nat.mul_succ, Nat.add_comm (32 * i), pow_add, ← Nat.div_div_eq_div_mul, Nat.add_mul_div_left _ _ (Nat.two_pow_pos 32),
        Nat.div_eq_of_lt w.isLt, Nat.zero_add, ih]
      rfl

end Sys2Proof.Machine

section
open Sys2Proof Sys2Proof.Machine

/-- Settles O9: the reset state lists no byte and no page. -/
theorem resetMemoryForm : Obligations.ResetMemoryForm := ⟨rfl, fun _ => rfl, fun _ => rfl⟩

/-- Settles O14: a byte or a pair of bytes is a word's low end, and words stored one after another are read back in order. -/
theorem formatsOfLoadsAndStores : Obligations.FormatsOfLoadsAndStores := by
  refine ⟨fun b => ?_, fun b0 b1 => ?_, fun w r => ⟨?_, ?_, ?_⟩, fun w0 w1 r => ?_, fun w0 w1 w2 w3 r => ?_⟩
  · simp [loadWords, leNat]
  · simp only [loadWords, leNat_pair, BitVec.ofNat_toNat, BitVec.setWidth_eq, and_self]
  · have word := word_of_leNat_words [w] 0
    rw [Nat.mul_zero, pow_zero, Nat.div_one] at word
    exact congrArg (fun a => [a]) word
  · simp [storeBytes, leBytes, wordAt]
  · simp [storeBytes, leBytes, wordAt, ← BitVec.toNat_inj, Nat.shiftRight_eq_div_pow]
  · have low := word_of_leNat_words [w0, w1] 0
    have high := word_of_leNat_words [w0, w1] 1
    rw [Nat.mul_zero, pow_zero, Nat.div_one] at low
    exact congrArg₂ (fun a b => [a, b]) low high
  · exact List.map_congr_left (l := List.range 4) fun i _ => word_of_leNat_words [w0, w1, w2, w3] i

end

namespace Sys2Proof.Machine

/-! ### The checks of an access over its lanes (R160) -/

/-- A check that comes to trap 0x04. -/
def Look.isFault : Look → Bool
  | .fault _ => true
  | _ => false

/-- A check that meets a page marked short. -/
def Look.isShort : Look → Bool
  | .short _ => true
  | _ => false

theorem find?_eq_none_of_forall_eq {α : Type} {f : α → Nat} {l : List α} (h : ∀ e ∈ l, f e = 0) : (l.find? fun e => f e != 0) = none :=
  List.find?_eq_none.mpr fun e mem => by simp [h e mem]

/-- The first element that has a value gives the first value of a list. -/
theorem findSome?_of_find? {α β : Type} {f : α → Option β} {p : α → Bool} (named : ∀ a, (f a).isSome = p a) {l : List α} {a : α}
    (first : l.find? p = some a) : l.findSome? f = f a := by
  induction l with
  | nil => exact nomatch first
  | cons b rest ih =>
    rw [List.find?_cons] at first
    rw [List.findSome?_cons]
    cases value : f b with
    | some x =>
      have here := named b
      rw [value, Option.isSome_some] at here
      rw [← here] at first
      obtain rfl := Option.some.inj first
      rw [value]
    | none =>
      have later := named b
      rw [value, Option.isSome_none] at later
      rw [← later] at first
      exact ih first

section
variable {s : State} {v : View} {i : Intent} {size : Nat} {addrs : List (Nat × Nat)} {e : Nat × Nat}

theorem State.lookAll_misaligned (lowest : (addrs.find? fun e => e.2 % size != 0) = some e) :
    s.lookAll v i size addrs = .error (.trap 0x07 (BitVec.ofNat 64 e.2) 0) := by
  rw [State.lookAll, lowest]

/-- Of aligned addresses, the first whose check faults gives the trap. -/
theorem State.lookAll_fault {aux : Word} (aligned : ∀ e ∈ addrs, e.2 % size = 0)
    (lowest : (addrs.find? fun e => (s.check v.team.ctx i e.2).isFault) = some e) (fault : s.check v.team.ctx i e.2 = .fault aux) :
    s.lookAll v i size addrs = .error (.trap 0x04 (failVa aux e.2) aux) := by
  rw [State.lookAll, find?_eq_none_of_forall_eq aligned]
  dsimp only
  rw [List.findSome?_map, findSome?_of_find? (fun a => by rw [Function.comp_apply]; dsimp only; cases s.check v.team.ctx i a.2 <;> rfl) lowest,
    Function.comp_apply]
  dsimp only
  rw [fault]

/-- Where none faults, the first that reaches a page marked short does. -/
theorem State.lookAll_short (aligned : ∀ e ∈ addrs, e.2 % size = 0) (permitted : ∀ e ∈ addrs, ∀ aux, s.check v.team.ctx i e.2 ≠ .fault aux)
    (lowest : (addrs.find? fun e => (s.check v.team.ctx i e.2).isShort) = some e) :
    s.lookAll v i size addrs = .error (.trap 0x05 (BitVec.ofNat 64 (e.2 / 65536 * 65536)) 0x80000000) := by
  have short : (s.check v.team.ctx i e.2).isShort = true :=
    List.find?_some (p := fun e : Nat × Nat => (s.check v.team.ctx i e.2).isShort) lowest
  rw [State.lookAll, find?_eq_none_of_forall_eq aligned]
  dsimp only
  rw [List.findSome?_map, List.findSome?_eq_none_iff.mpr ?none, List.findSome?_map,
    findSome?_of_find? (fun a => by rw [Function.comp_apply]; dsimp only; cases s.check v.team.ctx i a.2 <;> rfl) lowest, Function.comp_apply]
  case none =>
    intro a mem
    rw [Function.comp_apply]
    dsimp only
    cases look : s.check v.team.ctx i a.2 with
    | fault aux => exact absurd look (permitted a mem aux)
    | away | short | found => rfl
  dsimp only
  cases look : s.check v.team.ctx i e.2 with
  | short pg => rfl
  | fault | away | found => rw [look] at short; exact nomatch short

/-- Lanes that all reach their locations are the access. -/
theorem State.lookAll_reaches {locs : Nat → Loc} (reach : Reaches s v i size addrs locs) :
    s.lookAll v i size addrs = .ok (accessesOf addrs locs size) := by
  have looks : (addrs.map fun e => (e, s.check v.team.ctx i e.2)) = addrs.map fun e => (e, Look.found (locs e.1)) :=
    List.map_congr_left fun e mem => by rw [(reach e mem).2]
  rw [State.lookAll, find?_eq_none_of_forall_eq fun e mem => (reach e mem).1]
  dsimp only
  rw [looks]
  have nothing {β : Type} : (addrs.findSome? fun _ => (none : Option β)) = none := List.findSome?_eq_none_iff.mpr fun _ _ => rfl
  simp [accessesOf, List.findSome?_map, List.filterMap_map, Function.comp_def, nothing]

end

/-! ### What one address's check comes to (R160, R353) -/

section
variable {s : State} {x va : Nat} {i : Intent}

theorem State.check_beyond (beyond : 2 ^ 48 ≤ va) : s.check x i va = .fault (BitVec.ofNat 32 i.kind ||| 4) := if_pos beyond

theorem State.check_unmapped (inside : va < 2 ^ 48) (unmapped : s.lookup x va = none) : s.check x i va = .fault (BitVec.ofNat 32 i.kind) := by
  rw [State.check, if_neg (Nat.not_le.mpr inside), unmapped]

theorem State.check_not_permitted {e size : Nat} (inside : va < 2 ^ 48) (mapped : s.lookup x va = some (e, size))
    (denied : (i.write = true ∧ bit e 2 = false) ∨ (i.code = true ∧ bit e 3 = false)) :
    s.check x i va = .fault (BitVec.ofNat 32 i.kind ||| 8) := by
  have refused : ((i.write && !bit e 2) || (i.code && !bit e 3)) = true := by
    rcases denied with ⟨intent, permission⟩ | ⟨intent, permission⟩ <;> simp [intent, permission]
  rw [State.check, if_neg (Nat.not_le.mpr inside), mapped]
  exact if_pos refused

end

/-! ### Loads and stores that a check stops -/

section
variable {d a o : BitVec 6} {q : BitVec 2} {f : BitVec 4} {s : State} {v : View} {e : Effect}

theorem ldgWord_stopped (stops : s.lookAll v Intent.load (loadSize f.toNat)
      (v.active.map fun l => (l, address (v.vPair a.toNat l) (immOff v.path.ext o) (loadSize f.toNat))) = .error e) :
    ldgWord d a o q f s v = e := by
  rw [ldgWord, stops]

theorem stgWord_stopped (stops : s.lookAll v Intent.store (storeSize f.toNat)
      (v.active.map fun l => (l, address (v.vPair a.toNat l) (immOff v.path.ext o) (storeSize f.toNat))) = .error e) :
    stgWord d a o f s v = e := by
  rw [stgWord, stops]

end

end Sys2Proof.Machine

section
open Sys2Proof Sys2Proof.Machine

/-- Settles O30: the checks of R160 are made in the order of its rows, each over all lanes, and the first lane that fails one gives its
trap. -/
theorem accessTraps : Obligations.AccessTraps := by
  refine ⟨fun c w d a o q f s v e => ⟨?_, ?_, fun aux => ⟨?_, ?_, ?_⟩⟩, fun s x va i => ⟨State.check_beyond, State.check_unmapped,
    fun e size inside mapped => ⟨fun write denied => ?_, fun code denied => ?_⟩⟩⟩
  · exact fun issues lowest => issueWord_trap issues (ldgWord_stopped (State.lookAll_misaligned lowest))
  · exact fun issues lowest => issueWord_trap issues (stgWord_stopped (State.lookAll_misaligned lowest))
  · exact fun issues aligned lowest fault => issueWord_trap issues (ldgWord_stopped (State.lookAll_fault aligned lowest fault))
  · exact fun issues aligned lowest fault => issueWord_trap issues (stgWord_stopped (State.lookAll_fault aligned lowest fault))
  · exact fun issues aligned permitted lowest => issueWord_trap issues (ldgWord_stopped (State.lookAll_short aligned permitted lowest))
  · exact State.check_not_permitted inside mapped (.inl ⟨write, denied⟩)
  · exact State.check_not_permitted inside mapped (.inr ⟨code, denied⟩)

end

namespace Sys2Proof.Machine

/-! ### The executing core at issue -/

/-- At issue nothing of the executing core but its teams has changed. -/
theorem State.core_atIssue (s : State) (v : View) : ∃ teams, (s.atIssue v).core v.core = { s.core v.core with teams := teams } := by
  have reached : (s.reach v).core v.core = s.core v.core := by rw [State.core, State.reach_cores]; rfl
  unfold State.atIssue
  dsimp only
  split
  · unfold State.modPath State.putPath State.setTeam
    rw [State.core_setCore_self, reached]
    exact ⟨_, rfl⟩
  · exact ⟨_, reached⟩

theorem State.nextOp_atIssue (s : State) (v : View) : ((s.atIssue v).core v.core).nextOp = (s.core v.core).nextOp := by
  obtain ⟨teams, same⟩ := s.core_atIssue v
  rw [same]

theorem State.cohort_atIssue (s : State) (v : View) (id : Nat) : (s.atIssue v).cohort v.core id = s.cohort v.core id := by
  obtain ⟨teams, same⟩ := s.core_atIssue v
  rw [State.cohort, same]
  rfl

/-! ### Accesses that nothing stops -/

/-- A charge that the ladle covers is paid (R174). -/
theorem State.charge_covered {s : State} {v : View} {accs : List Access} {addrs : List (Nat × Nat)} {l : Ladle} (covered : s.Covered v accs l) :
    s.charge v accs addrs = .ok (s.paid v accs l, charged accs) := by
  obtain ⟨unanswered, ladle, covers⟩ := covered
  unfold State.charge State.paid
  dsimp only
  rw [unanswered]
  dsimp only
  by_cases free : charged accs = []
  · rw [if_pos free, free]
    rfl
  · rw [if_neg free, if_neg (by simpa using free), ladle, Option.getD_some, if_pos covers]
    rfl

/-- In the region, with no race to check, a scratchpad access goes on (R160). -/
theorem State.scratchCheck_inRegion {s : State} {v : View} {core : Nat} {h : Cohort} {write remote : Bool} {size : Nat} {addrs : List (Nat × Nat)}
    (region : InRegion v size addrs) : s.scratchCheck v core h write remote size size addrs = .ok s := by
  obtain ⟨raceless, inside⟩ := region
  have fits : (addrs.find? fun e => decide (v.team.scrb < e.2 + size)) = none :=
    List.find?_eq_none.mpr fun e mem => by simpa using (inside e mem).2
  rw [State.scratchCheck, find?_eq_none_of_forall_eq fun e mem => (inside e mem).1]
  dsimp only
  rw [fits, raceless]
  rfl

/-! ### Atomics (R169 to R171) -/

/-- Every word whose effect is an atomic's posts its lanes. -/
theorem atomResult_of {i : Instr} {op : Nat} {d a : BitVec 6} {o : BitVec 2} {e : BitVec 3} {p r : BitVec 1}
    (h : ∀ s, exec i s = issueWord i (atomWord op d a o e p r) s) : AtomResult i op d a o e p r := by
  constructor
  · intro locs s v l global issues
    dsimp only
    intro reach covered
    rw [h]
    refine issueWord_done issues ?_
    rw [atomWord, if_pos global]
    dsimp only
    rw [State.lookAll_reaches reach, State.nextOp_atIssue]
    by_cases loads : op = 12
    · simp only [if_pos loads]
    · simp only [if_neg loads, State.charge_covered (covered loads)]
  · intro s v scratch issues
    dsimp only
    intro region resident
    obtain ⟨k, found⟩ := Option.isSome_iff_exists.mp resident
    rw [h]
    refine issueWord_done issues ?_
    rw [atomWord, if_neg (by rw [scratch]; decide)]
    dsimp only
    rw [State.cohort_atIssue, found, State.nextOp_atIssue]
    dsimp only
    rw [State.scratchCheck_inRegion region, State.id_of_cohort found]

/-- A choice by a comparison of words is the other one by its converse. -/
theorem ite_slt_eq {α : Type} (x y : Word) (p q : α) : (if y.slt x then p else q) = if x.toInt ≤ y.toInt then q else p := by
  by_cases le : x.toInt ≤ y.toInt
  · rw [if_pos le, if_neg (by simpa [BitVec.slt] using le)]
  · rw [if_neg le, if_pos (by simpa [BitVec.slt] using le)]

theorem ite_ult_eq {α : Type} (x y : Word) (p q : α) : (if y.ult x then p else q) = if x.toNat ≤ y.toNat then q else p := by
  by_cases le : x.toNat ≤ y.toNat
  · rw [if_pos le, if_neg (by simpa [BitVec.ult] using le)]
  · rw [if_neg le, if_pos (by simpa [BitVec.ult] using le)]

/-- A second operand that is the only NaN is quieted (R87). -/
theorem fadd_of_isNan_right (e : FpEnv) {a b : Nat} (number : Fmt.fp32.isNan a = false) (nan : Fmt.fp32.isNan b = true) :
    (fadd .fp32 e a b).1 = Fmt.fp32.quiet b := by
  have same := ftzIn_of_infBits_le e (Fmt.infBits_le_of_isNan nan)
  have first : [ftzIn .fp32 e a, b].find? Fmt.fp32.isNan = some b := by
    rw [List.find?_cons, isNan_ftzIn, number]
    exact List.find?_cons_of_pos nan
  simp only [fadd, same, propagate, first, Option.map_some]

end Sys2Proof.Machine

section
open Sys2Proof Sys2Proof.Machine

/-- Settles O32: an atomic that no check stops posts its lanes; what each stores is its row of R169, FADD.F32 being a sum to nearest and
FADD.BF16X2 one of each half. -/
theorem atomicWords : Obligations.AtomicWords := by
  refine ⟨fun c w d a o e p r => ?posts, fun m b => ?values⟩
  case posts =>
    exact ⟨atomResult_of fun _ => rfl, atomResult_of fun _ => rfl, atomResult_of fun _ => rfl, atomResult_of fun _ => rfl,
      atomResult_of fun _ => rfl, atomResult_of fun _ => rfl, atomResult_of fun _ => rfl, atomResult_of fun _ => rfl,
      atomResult_of fun _ => rfl, atomResult_of fun _ => rfl, atomResult_of fun _ => rfl, atomResult_of fun _ => rfl,
      atomResult_of fun _ => rfl, atomResult_of fun _ => rfl, atomResult_of fun _ => rfl⟩
  case values =>
    intro x y
    refine ⟨rfl, ?_, ?_, ?_, ?_, rfl, rfl, rfl, rfl, rfl, rfl, rfl, rfl, rfl, ?_, ?_, ?_, by decide +kernel⟩
    · exact congrArg (fun z : Word => some (z.setWidth 64)) (ite_slt_eq x y y x)
    · exact congrArg (fun z : Word => some (z.setWidth 64)) (ite_slt_eq y x y x)
    · exact congrArg (fun z : Word => some (z.setWidth 64)) (ite_ult_eq x y y x)
    · exact congrArg (fun z : Word => some (z.setWidth 64)) (ite_ult_eq y x y x)
    · rw [Nat.mul_comm 65536]
      rfl
    · exact fun nan => congrArg Prod.fst (fadd_of_isNan _ _ nan)
    · exact fun number nan => fadd_of_isNan_right _ number nan

end

namespace Sys2Proof.Machine

/-! ### Words that end a debugger's step beside a load of the ring's line (R303; log 34) -/

/-- A ladle of context 0 that holds granules of both dies. -/
def filledLadle : Ladle := ⟨0, 4096, 4096, 0, 0, false⟩

/-- The team of `steppedOverRing` with 0x10100, an address in the page of its image, in every lane of v4, and with a filled ladle. -/
def accessOverRing : State :=
  let s := steppedOverRing
  s.setCore 0 { s.core 0 with
    teams := (s.core 0).teams.map fun e => (e.1, { e.2 with v := e.2.v.set 4 (List.replicate 32 0x10100) })
    ladles := [filledLadle] }

/-- The device location of 0x10100. -/
def imageLoc : Loc := .dev 0x110100 false false false

/-- The word issues, in the team in slot 0 of core 0 whose only operation in flight is the load of the ring's line. -/
abbrev State.OverRing (s : State) (v : View) (i : Instr) : Prop := s.Issues v i ∧ v.core = 0 ∧ v.slot = 0 ∧ v.team.ops = [ringLoad]

/-- LDG.B32 v8, [v4]; STG.B32 v8, [v4]; RSVQ s4. -/
def ldgV4 : Instr := .ldg 0 0 8 4 0 0 4
def stgV4 : Instr := .stg 0 0 8 4 0 0 4
def rsvqS4 : Instr := .rsvq 0 0 4 0

/-- The lanes' addresses of an access of 4 bytes through v4. -/
def View.addrsV4 (v : View) : List (Nat × Nat) := v.active.map fun l => (l, address (v.vPair 4 l) (immOff v.path.ext 0) 4)

/-- A property that the view of the agent of the focus has, with the passes of a word. -/
theorem State.exists_view {s : State} (i : Instr) {P : View → Prop} [DecidablePred P]
    (holds : (s.view.map (s.paced · i)).any (fun v => decide (P v)) = true) : ∃ v, P v := by
  obtain ⟨v, -, property⟩ := Option.any_eq_true _ _ |>.mp holds
  exact ⟨v, of_decide_eq_true property⟩

theorem ldgV4_overRing : ∃ v, accessOverRing.OverRing v ldgV4 ∧
    Reaches (accessOverRing.atIssue v) v Intent.load 4 v.addrsV4 fun _ => imageLoc :=
  State.exists_view (s := accessOverRing) ldgV4 (P := fun v => accessOverRing.OverRing v ldgV4 ∧
    ∀ e ∈ v.addrsV4, e.2 % 4 = 0 ∧ (accessOverRing.atIssue v).check v.team.ctx Intent.load e.2 = .found imageLoc) (by decide +kernel)

/-- The accesses of the store. -/
def View.accsV4 (v : View) : List Access := accessesOf v.addrsV4 (fun _ => imageLoc) 4

theorem stgV4_overRing : ∃ v, accessOverRing.OverRing v stgV4 ∧
    (Reaches (accessOverRing.atIssue v) v Intent.store 4 v.addrsV4 fun _ => imageLoc) ∧ accessOverRing.Covered v v.accsV4 filledLadle :=
  State.exists_view (s := accessOverRing) stgV4 (P := fun v => accessOverRing.OverRing v stgV4 ∧
    (∀ e ∈ v.addrsV4, e.2 % 4 = 0 ∧ (accessOverRing.atIssue v).check v.team.ctx Intent.store e.2 = .found imageLoc) ∧
    (accessOverRing.pathOf v).answer = none ∧ accessOverRing.ladle v.core v.team.ctx = some filledLadle ∧
    chargeOn 0 (charged v.accsV4) ≤ filledLadle.bal0 ∧ chargeOn 1 (charged v.accsV4) ≤ filledLadle.bal1) (by decide +kernel)

theorem rsvqS4_overRing : ∃ v, steppedOverRing.OverRing v rsvqS4 :=
  State.exists_view (s := steppedOverRing) rsvqS4 (by decide +kernel)

/-- Once each has issued, the load in flight has read its lane. -/
theorem lanesRead_ldgV4 : lanesRead (exec ldgV4 accessOverRing) = some [1, 0] := by decide +kernel
theorem lanesRead_stgV4 : lanesRead (exec stgV4 accessOverRing) = some [1, 0] := by decide +kernel
theorem lanesRead_rsvqS4 : lanesRead (exec rsvqS4 steppedOverRing) = some [1, 0] := by decide +kernel

/-- Where the load in flight has read its lane, the operations are not those before the word and one more. -/
theorem State.OverRing.ops_ne {s t : State} {v : View} {i : Instr} (stepped : s.OverRing v i) (runs : exec i s = .next t)
    (read : lanesRead (exec i s) = some [1, 0]) (o : Op) : (t.teamOf v).ops ≠ v.team.ops ++ [o] := by
  obtain ⟨-, core, slot, inFlight⟩ := stepped
  intro ops
  rw [runs] at read
  obtain ⟨u, team, lanes⟩ := Option.map_eq_some_iff.mp read
  have after : t.teamOf v = u := by rw [State.teamOf, core, slot, team, Option.getD_some]
  rw [after, inFlight] at ops
  rw [ops] at lanes
  exact absurd lanes (by simp [ringLoad])

theorem State.OverRing.not_postResult {s : State} {v : View} {i : Instr} {H : State → View → Prop} {code : State → View → Nat}
    {kind : State → View → OpKind} (stepped : s.OverRing v i) (holds : H (s.atIssue v) v) (read : lanesRead (exec i s) = some [1, 0]) :
    ¬ PostResult i H code kind := by
  intro posts
  obtain ⟨t, runs, ops, -⟩ := posts s v stepped.1 holds
  exact stepped.ops_ne runs read _ ops

end Sys2Proof.Machine

section
open Sys2Proof Sys2Proof.Machine

/-- Refutes O28: an LDG that ends a debugger's step posts its load, but the step's stop record is written to a replicated page, and the
team's load in flight of that line reads before the write: the operations are not those before the LDG and one more. -/
theorem not_globalLoads : ¬ Obligations.GlobalLoads := by
  intro words
  obtain ⟨v, stepped, reach⟩ := ldgV4_overRing
  exact stepped.not_postResult reach lanesRead_ldgV4 (words 0 0 8 4 0 0 4 fun _ => imageLoc).1

/-- Refutes O29: an STG whose charge the ladle covers and that ends a debugger's step posts its store, but as the stop record is written the
team's load in flight reads, so that the operations are not those before the STG and one more. -/
theorem not_globalStores : ¬ Obligations.GlobalStores := by
  intro words
  obtain ⟨v, stepped, reach, unanswered, ladle, covers⟩ := stgV4_overRing
  rw [State.view_pathOf stepped.1.1] at unanswered
  obtain ⟨covered, -⟩ := words 0 0 8 4 0 0 4 (fun _ => imageLoc) accessOverRing v _ stepped.1 reach ladle
  obtain ⟨t, runs, ⟨ops, -⟩, -⟩ := covered unanswered covers
  exact stepped.ops_ne runs lanesRead_stgV4 _ ops

/-- Refutes O33: an RSVQ that ends a debugger's step posts its query, but as the stop record is written the team's load in flight reads, so
that the operations are not those before the RSVQ and one more. -/
theorem not_memxWords : ¬ Obligations.MemxWords := by
  rintro ⟨⟨-, words, -⟩, -⟩
  obtain ⟨posts, -⟩ := words 0 0 4 0 0
  obtain ⟨v, stepped⟩ := rsvqS4_overRing
  exact stepped.not_postResult trivial lanesRead_rsvqS4 posts

end

namespace Sys2Proof.Machine

/-! ### A migration's record over a page table (R267, R294, R356) -/

/-- Context 0 traces migrations into a ring at 0x23020, which its tables map to the entries that their last level has from address 0x40000
on; the tick, which is the first word of a record, has the form of a leaf that maps page 0x200 as a host window.  A migration brings that
page into HBM, and page 0x201 waits for the fault unit. -/
def ringOverTable : State :=
  let s := { State.reset with
    mem := Memory.writeList (bootTables []) 0x103010 (leBytes 8 0x100007)
    die0 := { Die.reset with free := 4096, tick := 0x2000043 } }
  let s := s.setCtx 0 { s.ctx 0 with ptb := 0x100000, trBase := 0x23020, trSize := 16, trCtl := 0x41 }
  (s.setPage 0x200 { Page.fresh with state := .migrating }).setPage 0x201 { Page.fresh with state := .remote, queued := some 0 }

/-- The state of a page once the machine has gone on. -/
def pageStateAfter (r : Result) (pg : Nat) : Option PageState :=
  match r with
  | .next t => some (t.page pg).state
  | _ => none

/-- The migration is into HBM, no root start is being accepted, and the page waits for nothing. -/
theorem ringOverTable_migrates : (ringOverTable.page 0x200).state = .migrating ∧ (∀ e ∈ ringOverTable.ctxs, e.2.state ≠ 1) ∧
    (∀ e ∈ ringOverTable.pages, e.1 = 0x200 → e.2.queued = none) ∧ (ringOverTable.page 0x200).toTier = false := by
  decide +kernel

/-- After the tier is lost the page is in HBM, as a host window. -/
theorem pageStateAfter_migrationFailed : pageStateAfter (exec (.migrationFailed 0x200 true) ringOverTable) 0x200 = some .resident := by
  decide +kernel

end Sys2Proof.Machine

section
open Sys2Proof Sys2Proof.Machine

/-- Refutes O53: when a migration fails, the page that waits for the fault unit starts, and its record is written into the trace ring; where
the ring lies over a page table and the record maps the failed page as a host window, the page is backed and does not stay remote. -/
theorem not_capacityEvents : ¬ Obligations.CapacityEvents := by
  rintro ⟨-, -, -, -, migrations, -⟩
  obtain ⟨migrating, starts, waiting, inward⟩ := ringOverTable_migrates
  obtain ⟨-, -, lost, -⟩ := migrations ringOverTable 0x200 migrating starts waiting
  obtain ⟨u, runs, remote, -⟩ := lost inward
  have after := pageStateAfter_migrationFailed
  rw [runs] at after
  exact absurd (remote.symm.trans (Option.some.inj after)) (by decide)

end

namespace Sys2Proof.Machine

/-! ### A collective that ends a debugger's step beside a load of the ring's line (R224, R303; log 34) -/

/-- A declared group of core 0 of this device alone. -/
def loneGroup : Group := ⟨[0, 0, 0, 0], 0, [(0, 0)], true, 3⟩

/-- The team of `steppedOverRing` with `loneGroup` in its register 1 and an operand block in s8 to s11: source and destination at 0, two
words. -/
def groupOverRing : State :=
  let s := steppedOverRing
  s.setCore 0 { s.core 0 with teams := (s.core 0).teams.map fun e => (e.1, { e.2 with
    groups := e.2.groups.set 1 loneGroup
    pathA := e.2.pathA.map fun p => { p with s := p.s.set 10 2 } }) }

/-- CAG s8, g1. -/
def cagG1 : Instr := .cag 0 0 8 1

/-- Its group is declared, and its operand block is that of a legal CAG. -/
abbrev View.MayGather (v : View) : Prop :=
  v.team.groups.getD 1 ⟨[], 0, [], false, 0⟩ = loneGroup ∧ (v.s 8 0).toNat = 0 ∧ (v.s 9 0).toNat = 0 ∧ (v.s 10 0).toNat = 2 ∧
    (v.s 11 0).toNat = 0 ∧ 8 ≤ v.team.scrb

theorem cagG1_overRing : ∃ v, groupOverRing.OverRing v cagG1 ∧ v.MayGather :=
  State.exists_view (s := groupOverRing) cagG1 (by decide +kernel)

/-- Once it has issued, the load in flight has read its lane. -/
theorem lanesRead_cagG1 : lanesRead (exec cagG1 groupOverRing) = some [1, 0] := by decide +kernel

end Sys2Proof.Machine

section
open Sys2Proof Sys2Proof.Machine

/-- Refutes O47: a CAG that ends a debugger's step enters the team's list, but the step's stop record is written to a replicated page, and
the team's load in flight of that line reads before the write: the operations are not those before the CAG and one more. -/
theorem not_collectiveWords : ¬ Obligations.CollectiveWords := by
  rintro ⟨-, words, -⟩
  obtain ⟨gather, -⟩ := words 0 0 8 1 loneGroup
  obtain ⟨v, stepped, declared, source, target, count, mode, region⟩ := cagG1_overRing
  refine stepped.not_postResult ⟨declared, rfl, ?_⟩ lanesRead_cagG1 gather
  simp [source, target, count, mode, ColTerms.shape, loneGroup]
  omega

end

namespace Sys2Proof.Machine

/-! ### What a team holds beside its registers, paths and operations -/

/-- A team's number, its queues and the commands that its IDs name: no write of a register, no path's progress and no stop is of these. -/
def Team.books (t : Team) : Nat × List (List Entry) × Table Nat := (t.uid, t.queues, t.commandIds)

theorem Team.books_setAt (t : Team) (side : Bool) (p : Option Path) : (t.setAt side p).books = t.books := by
  cases side <;> rfl

theorem Team.books_halt (t : Team) (side : Bool) (r : Nat) : (t.halt side r).books = t.books := by
  cases side <;> rfl

theorem Team.books_haltWith (t : Team) (x n : Nat) : (t.haltWith x n).books = t.books := by
  unfold Team.haltWith
  split <;> rfl

theorem Team.books_issued (t : Team) (v : View) : (t.issued v).books = t.books := by
  unfold Team.issued
  split_ifs <;> rfl

theorem Team.books_clash (t : Team) (v : View) (r : Nat) (ls : List Nat) : (t.clash v r ls).books = t.books := by
  unfold Team.clash
  split <;> rfl

theorem State.books_putPath (s : State) (v : View) (p : Path) : ((s.putPath v p).teamOf v).books = (s.teamOf v).books := by
  rw [State.teamOf_putPath]
  split
  · rfl
  · exact Team.books_setAt _ _ _

theorem State.books_atIssue {s : State} {v : View} {i : Instr} (views : s.Views v i) : ((s.atIssue v).teamOf v).books = v.team.books := by
  have reached : (s.reach v).teamOf v = v.team := by rw [State.teamOf_reach, State.view_teamOf views]
  unfold State.atIssue
  dsimp only
  split
  · exact (State.books_putPath _ v _).trans (congrArg Team.books reached)
  · rw [reached]

theorem State.books_setS (s : State) (v : View) (n : Nat) (w : Word) (lat : Nat) : ((s.setS v n w lat).teamOf v).books = (s.teamOf v).books := by
  rw [State.setS_eq, State.teamOf_setTeam, Team.books_clash, State.books_putPath]

theorem State.books_setV (s : State) (v : View) (r : Nat) (vals : List (Nat × Word)) (lat : Nat) (last : Bool) :
    ((s.setV v r vals lat last).teamOf v).books = (s.teamOf v).books := by
  unfold State.setV
  dsimp only
  rw [State.teamOf_dirtyFrame, State.books_putPath, State.teamOf_setTeam]
  exact Team.books_clash ((s.teamOf v).setLanes r vals) v _ _

theorem State.books_finish (s : State) (v : View) (i : Instr) : ((s.finish v i).teamOf v).books = (s.teamOf v).books := by
  unfold State.finish
  dsimp only
  have seated : (((((s.modPath v (v.advance i)).used).modTeam v fun t => t.issued v).occupy v i).team v.core v.slot).isSome = true := by
    rw [State.team_occupy, State.team_modTeam]
    rfl
  have issued : (((((s.modPath v (v.advance i)).used).modTeam v fun t => t.issued v).occupy v i).teamOf v).books = (s.teamOf v).books := by
    rw [State.teamOf_occupy, State.teamOf_modTeam, Team.books_issued]
    exact State.books_putPath s v _
  generalize (((s.modPath v (v.advance i)).used).modTeam v fun t => t.issued v).occupy v i = u at seated issued
  have either (again : Bool) : ((if again = true then u.again v else u.endStep v).teamOf v).books = (s.teamOf v).books := by
    cases again
    · exact (State.endStep_part Team.books u v seated (fun _ _ => rfl) (fun t r => t.books_halt v.side r) Team.books_haltWith).trans issued
    · exact issued
  exact either _

/-! ### The end of a word that writes no register -/

/-- A word whose effect leaves the registers and modes of its path leaves them. -/
theorem keeps_finish {s u : State} {v : View} {i : Instr} (views : s.Views v i) (regs : u.regsOf v = (s.atIssue v).regsOf v)
    (modes : u.modesOf v = (s.atIssue v).modesOf v) : KeepsRegisters v s (u.finish v i) ∧ KeepsModes v s (u.finish v i) := by
  obtain ⟨-, -, -, -, -, issued⟩ := State.atIssue_frame views
  obtain ⟨finished, -⟩ := State.finish_spec u v i
  exact ⟨keepsRegisters_of_regsOf (finished.trans (regs.trans issued)),
    keepsModes_of_modesOf ((State.modesOf_finish u v i).trans (modes.trans (State.modesOf_atIssue s v)))⟩

/-- A change of the team beside its registers, paths and runner leaves the registers and modes of its path. -/
theorem State.regsOf_modTeam {s : State} {v : View} {f : Team → Team}
    (paths : ∀ t, (f t).pathA = t.pathA ∧ (f t).pathB = t.pathB ∧ (f t).runner.asPath = t.runner.asPath)
    (columns : ∀ t, (f t).v = t.v ∧ (f t).p = t.p) :
    (s.modTeam v f).regsOf v = s.regsOf v ∧ (s.modTeam v f).modesOf v = s.modesOf v := by
  have path := s.pathOf_modTeam v f paths
  refine ⟨?_, State.modesOf_congr path⟩
  obtain ⟨vectors, predicates⟩ := columns (s.teamOf v)
  rw [State.regsOf, State.teamOf_modTeam, path, vectors, predicates]
  rfl

/-- A word whose change lies within the team writes no byte, where no step ends on it. -/
theorem sameBytes_finish {s u : State} {v : View} {i : Instr} (views : s.Views v i) (within : State.Within v (s.atIssue v) u)
    (unstepped : v.team.step = none) : SameBytes s (u.finish v i) :=
  (keepsPackage_finish views ((State.Within.atIssue views).trans within) unstepped).2

end Sys2Proof.Machine

namespace Sys2Proof.Machine

/-! ### RUN and RSTOP (R231) -/

section
variable {s : State} {v : View}

theorem runWord_refused (o : BitVec 16) (s : State) (h : v.team.runner.running = true ∨ v.team.two = true) :
    runWord o s v = Effect.plain 0x01 :=
  if_pos (by simpa using h)

/-- The state after the fetch of the runner mark. -/
def State.markRead (s : State) (v : View) : State :=
  (s.clearWay v.core (s.linesAt v.team.ctx [v.team.image + 64])).readRun (dieOf v.core) v.team.ctx (v.team.image + 64) 4

theorem runWord_marked {o : BitVec 16} (idle : v.team.runner.running = false) (one : v.team.two = false)
    (mark : (s.markRead v).runnerMark v = .word 0x60000000) :
    runWord o s v = .done ((s.markRead v).modTeam v fun t => { t with
      runner := ⟨v.target (immInt v.path.ext o), 0, (List.range 16).map fun n => v.s n 0, [], [false, false, false, false], none, true, false,
        false, false, 0, none, none, (0, 0), none, v.time⟩
      ops := t.ops.filter fun x => !x.ofRunner }) := by
  rw [State.markRead] at mark ⊢
  rw [runWord, idle, one, if_neg (by decide)]
  dsimp only
  rw [mark]
  exact if_neg (by decide)

theorem rstopWord_idle (free : v.team.runner.running = true → v.team.runner.parked = none ∧ v.team.runner.refill = none) :
    rstopWord s v = .done (s.modTeam v fun t => { t with runner := { t.runner with running := false } }) := by
  have goes : (v.team.runner.running && (v.team.runner.parked.isSome || v.team.runner.refill.isSome)) = false := by
    cases running : v.team.runner.running with
    | false => rfl
    | true =>
      obtain ⟨parked, refill⟩ := free running
      rw [parked, refill]
      rfl
  simp only [rstopWord, goes, Bool.false_eq_true, if_false]

theorem rstopWord_waiting (running : v.team.runner.running = true)
    (waits : v.team.runner.parked.isSome = true ∨ v.team.runner.refill.isSome = true) :
    rstopWord s v = .done (s.modTeam v fun t => { t with runner := { t.runner with stopping := true } }) := by
  have held : (v.team.runner.running && (v.team.runner.parked.isSome || v.team.runner.refill.isSome)) = true := by
    rw [running, Bool.true_and, Bool.or_eq_true]
    exact waits
  simp only [rstopWord, held, if_true]

/-! ### The queues (R233 to R235) -/

theorem Team.queues_of_books {t u : Team} (h : t.books = u.books) : t.queues = u.queues := congrArg (fun b => b.2.1) h

/-- A change of the queues of the team at issue is what the word leaves of them. -/
theorem State.queues_finish {s u : State} {v : View} (i : Instr) {f : List (List Entry) → List (List Entry)} (views : s.Views v i)
    (books : (u.teamOf v).queues = f (((s.atIssue v).teamOf v).queues)) : ((u.finish v i).teamOf v).queues = f v.team.queues := by
  rw [Team.queues_of_books (State.books_finish u v i), books, Team.queues_of_books (State.books_atIssue views)]

/-- QPUSH: the pair that it adds (R234). -/
def View.pushed (v : View) (a : BitVec 6) : Entry :=
  ⟨v.sPair a.toNat 0, v.path.poison.any fun e => e.1 == a.toNat || e.1 == a.toNat + 1⟩

theorem qpushWord_eq (a : BitVec 6) (q : BitVec 2) (s : State) (v : View) : qpushWord a q s v =
    .done (s.modTeam v fun t => { t with queues := t.queues.set q.toNat (t.queues.getD q.toNat [] ++ [v.pushed a]) }) := rfl

theorem exec_qpush (c : BitVec 1) (w : BitVec 2) {a : BitVec 6} {q : BitVec 2} {f : BitVec 1} (issues : s.Issues v (.qpush c w a q f))
    (within : q.toNat < v.team.queues.length) :
    ∃ t, exec (.qpush c w a q f) s = .next t ∧ (t.teamOf v).queues.getD q.toNat [] = v.team.queues.getD q.toNat [] ++ [v.pushed a] ∧
      (∀ k, k ≠ q.toNat → (t.teamOf v).queues.getD k [] = v.team.queues.getD k []) ∧
      KeepsRegisters v s t ∧ KeepsModes v s t ∧ (v.team.step = none → SameBytes s t) := by
  refine ⟨_, issueWord_done issues (qpushWord_eq a q _ v), ?_⟩
  let u := (s.atIssue v).modTeam v fun t => { t with queues := t.queues.set q.toNat (t.queues.getD q.toNat [] ++ [v.pushed a]) }
  have queues : ((u.finish v (.qpush c w a q f)).teamOf v).queues =
      v.team.queues.set q.toNat (v.team.queues.getD q.toNat [] ++ [v.pushed a]) :=
    State.queues_finish _ (f := fun l => l.set q.toNat (l.getD q.toNat [] ++ [v.pushed a])) issues.1
      (congrArg Team.queues (State.teamOf_modTeam _ v _))
  obtain ⟨regs, modes⟩ := State.regsOf_modTeam (s := s.atIssue v) (v := v)
    (f := fun t => { t with queues := t.queues.set q.toNat (t.queues.getD q.toNat [] ++ [v.pushed a]) })
    (fun _ => ⟨rfl, rfl, rfl⟩) fun _ => ⟨rfl, rfl⟩
  obtain ⟨registers, kept⟩ := keeps_finish issues.1 regs modes
  refine ⟨?_, fun k other => ?_, registers, kept, fun unstepped => sameBytes_finish issues.1 (State.Within.setTeam v _ _ rfl) unstepped⟩
  · exact (congrArg (·.getD q.toNat []) queues).trans (getD_set_self _ _ _ _ within)
  · exact (congrArg (·.getD k []) queues).trans (getD_set_other _ _ _ other)

/-! ### QPOPS (R235) -/

theorem qpopsWord_empty {d : BitVec 6} {q : BitVec 2} (empty : v.team.queues.getD q.toNat [] = []) :
    qpopsWord d q s v = .trap 0x01 ((v.team.qstat q.toNat).setWidth 64) 0 := by
  rw [qpopsWord, empty]

/-- The registers of a pop that took a poisoned entry are poisoned. -/
def State.poisonPair (s : State) (v : View) (d : Nat) (e : Entry) : State :=
  if e.poison then s.modPath v fun p => { p with
    poison := ([d, d + 1].filter fun r => decide (r < 63)).map (fun r => (r, v.path.pc)) ++ p.poison } else s

theorem qpopsWord_cons {d : BitVec 6} {q : BitVec 2} {e : Entry} {rest : List Entry} (held : v.team.queues.getD q.toNat [] = e :: rest) :
    qpopsWord d q s v =
      .done (((s.setSPair v d.toNat e.value (s.popLatency v)).poisonPair v d.toNat e).modTeam v fun t => t.pop q.toNat 1) := by
  rw [qpopsWord, held]
  rfl

theorem State.poisonPair_spec (s : State) (v : View) (d : Nat) (e : Entry) :
    State.Within v s (s.poisonPair v d e) ∧ (s.poisonPair v d e).regsOf v = s.regsOf v ∧
      ((s.poisonPair v d e).teamOf v).books = (s.teamOf v).books := by
  unfold State.poisonPair
  split
  · refine ⟨State.Within.putPath v s _, ?_, State.books_putPath s v _⟩
    obtain ⟨scalars, conditions, -⟩ := State.pathOf_putPath_regs s v { s.pathOf v with
      poison := ([d, d + 1].filter fun r => decide (r < 63)).map (fun r => (r, v.path.pc)) ++ (s.pathOf v).poison }
    obtain ⟨vectors, predicates⟩ := State.teamOf_putPath_vectors s v { s.pathOf v with
      poison := ([d, d + 1].filter fun r => decide (r < 63)).map (fun r => (r, v.path.pc)) ++ (s.pathOf v).poison }
    rw [State.regsOf, State.modPath, scalars, conditions, vectors, predicates]
    rfl
  · exact ⟨.refl v s, rfl, rfl⟩

/-- A pair below s63 written. -/
theorem State.setSPair_spec (s : State) (v : View) {d : Nat} (below : d + 1 < 63) (x : DWord) (lat : Nat) :
    State.Within v s (s.setSPair v d x lat) ∧
      (s.setSPair v d x lat).regsOf v = ((s.teamOf v).v, (s.teamOf v).p,
        ((s.pathOf v).s.set d (x.setWidth 32)).set (d + 1) ((x >>> 32).setWidth 32), (s.pathOf v).cond) ∧
      ((s.setSPair v d x lat).teamOf v).books = (s.teamOf v).books := by
  have low : ¬ (v.run = false ∧ d = 63) := fun h => by omega
  have high : ¬ (v.run = false ∧ d + 1 = 63) := fun h => by omega
  unfold State.setSPair
  obtain ⟨within1, scalars1, conditions1, vectors1, predicates1, -⟩ := State.setS_spec s v d (x.setWidth 32) lat
  have books1 := State.books_setS s v d (x.setWidth 32) lat
  generalize s.setS v d (x.setWidth 32) lat = s1 at *
  obtain ⟨within2, scalars2, conditions2, vectors2, predicates2, -⟩ := State.setS_spec s1 v (d + 1) ((x >>> 32).setWidth 32) lat
  rw [if_neg low] at scalars1
  rw [if_neg high, scalars1] at scalars2
  refine ⟨within1.trans within2, ?_, (State.books_setS s1 v _ _ lat).trans books1⟩
  rw [State.regsOf, vectors2, predicates2, scalars2, conditions2, vectors1, predicates1, conditions1]

/-- Entries popped leave the registers of the path. -/
theorem State.pop_spec (s : State) (v : View) (q k : Nat) :
    State.Within v s (s.modTeam v fun t => t.pop q k) ∧ (s.modTeam v fun t => t.pop q k).regsOf v = s.regsOf v :=
  ⟨State.Within.setTeam v s _ rfl,
    (State.regsOf_modTeam (s := s) (v := v) (f := fun t => t.pop q k) (fun _ => ⟨rfl, rfl, rfl⟩) fun _ => ⟨rfl, rfl⟩).1⟩

/-- What QPOPS leaves, at the state of its issue. -/
def State.popsPair (s : State) (v : View) (d : Nat) (q : BitVec 2) (e : Entry) : State :=
  ((s.setSPair v d e.value (s.popLatency v)).poisonPair v d e).modTeam v fun t => t.pop q.toNat 1

theorem State.popsPair_spec (s : State) (v : View) {d : Nat} (below : d + 1 < 63) (q : BitVec 2) (e : Entry) :
    State.Within v s (s.popsPair v d q e) ∧
      (s.popsPair v d q e).regsOf v = ((s.teamOf v).v, (s.teamOf v).p,
        ((s.pathOf v).s.set d (e.value.setWidth 32)).set (d + 1) ((e.value >>> 32).setWidth 32), (s.pathOf v).cond) ∧
      ((s.popsPair v d q e).teamOf v).queues = (s.teamOf v).queues.set q.toNat (((s.teamOf v).queues.getD q.toNat []).drop 1) := by
  unfold State.popsPair
  obtain ⟨inside1, regs1, books1⟩ := State.setSPair_spec s v below e.value (s.popLatency v)
  generalize s.setSPair v d e.value (s.popLatency v) = u1 at inside1 regs1 books1 ⊢
  obtain ⟨inside2, regs2, books2⟩ := u1.poisonPair_spec v d e
  generalize u1.poisonPair v d e = u2 at inside2 regs2 books2 ⊢
  obtain ⟨inside3, regs3⟩ := u2.pop_spec v q.toNat 1
  refine ⟨(inside1.trans inside2).trans inside3, regs3.trans (regs2.trans regs1), ?_⟩
  rw [State.teamOf_modTeam, ← Team.queues_of_books (books2.trans books1)]
  rfl

theorem exec_qpops (c : BitVec 1) (w : BitVec 2) {d : BitVec 6} {q : BitVec 2} (issues : s.Issues v (.qpops c w d q)) {e : Entry}
    {rest : List Entry} (held : v.team.queues.getD q.toNat [] = e :: rest) (below : d.toNat + 1 < 63) (long : 63 ≤ v.path.s.length)
    (within : q.toNat < v.team.queues.length) :
    ∃ t, exec (.qpops c w d q) s = .next t ∧ t.sAt v d.toNat = e.value.setWidth 32 ∧ t.sAt v (d.toNat + 1) = (e.value >>> 32).setWidth 32 ∧
      (t.teamOf v).queues.getD q.toNat [] = rest ∧ KeepsScalars v s t [d.toNat, d.toNat + 1] ∧ KeepsVectors v s t [] ∧
      KeepsPredicates v s t [] ∧ KeepsConditions v s t [] ∧ (v.team.step = none → SameBytes s t) := by
  refine ⟨((s.atIssue v).popsPair v d.toNat q e).finish v (.qpops c w d q), issueWord_done issues (qpopsWord_cons held), ?_⟩
  obtain ⟨vectors0, predicates0, scalars0, conditions0, -⟩ := State.atIssue_spec issues.1
  obtain ⟨inside, regs, popped⟩ := (s.atIssue v).popsPair_spec v below q e
  generalize (s.atIssue v).popsPair v d.toNat q e = u at inside regs popped ⊢
  rw [vectors0, predicates0, scalars0, conditions0, State.regsOf, Prod.mk.injEq, Prod.mk.injEq, Prod.mk.injEq] at regs
  obtain ⟨vectors, predicates, scalars, conditions⟩ := regs
  have queues := State.queues_finish (.qpops c w d q) (f := fun l => l.set q.toNat ((l.getD q.toNat []).drop 1)) issues.1 popped
  obtain ⟨readS, readC, readV, readP, readS0, readC0, readV0, readP0⟩ := finish_registers (u := u) (.qpops c w d q) issues.1
  refine ⟨?_, ?_, ?_, fun n other => ?_, fun r _ l => ?_, fun n _ l => ?_, fun n _ => ?_, sameBytes_finish issues.1 inside⟩
  · rw [readS, scalars, wordAt_set_other _ _ (by omega), wordAt_set _ _ _ _ (by omega), if_pos rfl]
  · rw [readS, scalars, wordAt_set _ _ _ _ (by rw [List.length_set]; omega), if_pos rfl]
  · rw [queues, getD_set_self _ _ _ _ within, held]
    rfl
  · obtain ⟨first, second⟩ : n ≠ d.toNat ∧ n ≠ d.toNat + 1 := by simpa using other
    rw [readS, readS0, scalars, wordAt_set_other _ _ second, wordAt_set_other _ _ first]
  · rw [readV, readV0, vectors]
  · rw [readP, readP0, predicates]
  · rw [readC, readC0, conditions]

/-! ### QPOP (R235) -/

theorem qpopWord_short {d : BitVec 6} {q : BitVec 2} (few : v.active.length ≤ 32)
    (short : (v.team.queues.getD q.toNat []).length < v.active.length) :
    qpopWord d q s v = .trap 0x01 ((v.team.qstat q.toNat).setWidth 64) 0 := by
  rw [qpopWord, if_neg few.not_gt, queueShort, if_pos short]

/-- The lanes of a pop with the entries that they take. -/
def View.popped (v : View) (q : BitVec 2) : List (Nat × Entry) := v.active.zip (v.team.queues.getD q.toNat [])

/-- The words of a pop: what is read of the entry that each lane takes. -/
def View.popWords (v : View) (q : BitVec 2) (f : Entry → Word) : List (Nat × Word) := (v.popped q).map fun e => (e.1, f e.2)

/-- The two words of an entry. -/
def Entry.low (e : Entry) : Word := e.value.setWidth 32
def Entry.high (e : Entry) : Word := (e.value >>> 32).setWidth 32

/-- The team once its registers are written: the entries have left the queue, and what poisoned entries fill is poisoned, with the pop's
PC. -/
def View.popTeam (v : View) (d : BitVec 6) (q : BitVec 2) (t : Team) : Team :=
  { t.pop q.toNat v.active.length with
    vpoison := t.vpoison ++ ((v.popped q).filter fun e => e.2.poison).flatMap fun e =>
      [(d.toNat, e.1, v.path.pc), (d.toNat + 1, e.1, v.path.pc)] }

/-- What QPOP leaves, at the state of its issue. -/
def State.popsLanes (s : State) (v : View) (d : BitVec 6) (q : BitVec 2) : State :=
  ((s.setV v d.toNat (v.popWords q Entry.low) (s.popLatency v) false).setV v (d.toNat + 1) (v.popWords q Entry.high) (s.popLatency v)
    false).modTeam v (v.popTeam d q)

theorem qpopWord_enough {d : BitVec 6} {q : BitVec 2} (few : v.active.length ≤ 32)
    (enough : v.active.length ≤ (v.team.queues.getD q.toNat []).length) : qpopWord d q s v = .done (s.popsLanes v d q) := by
  rw [qpopWord, if_neg few.not_gt, queueShort, if_neg enough.not_gt]
  rfl

theorem State.popsLanes_spec (s : State) (v : View) (d : BitVec 6) (q : BitVec 2) :
    State.Within v s (s.popsLanes v d q) ∧
      (s.popsLanes v d q).regsOf v = (((s.teamOf v).v.set d.toNat (column ((s.teamOf v).v.getD d.toNat []) (v.popWords q Entry.low))).set
          (d.toNat + 1) (column ((s.teamOf v).v.getD (d.toNat + 1) []) (v.popWords q Entry.high)),
        (s.teamOf v).p, (s.pathOf v).s, (s.pathOf v).cond) ∧
      ((s.popsLanes v d q).teamOf v).queues =
        (s.teamOf v).queues.set q.toNat (((s.teamOf v).queues.getD q.toNat []).drop v.active.length) := by
  unfold State.popsLanes
  generalize s.popLatency v = lat
  obtain ⟨inside1, vectors1, predicates1, scalars1, conditions1, -⟩ := s.setV_spec v d.toNat (v.popWords q Entry.low) lat false
  have books1 := s.books_setV v d.toNat (v.popWords q Entry.low) lat false
  generalize s.setV v d.toNat (v.popWords q Entry.low) lat false = u1 at *
  obtain ⟨inside2, vectors2, predicates2, scalars2, conditions2, -⟩ := u1.setV_spec v (d.toNat + 1) (v.popWords q Entry.high) lat false
  have books2 := u1.books_setV v (d.toNat + 1) (v.popWords q Entry.high) lat false
  generalize u1.setV v (d.toNat + 1) (v.popWords q Entry.high) lat false = u2 at *
  refine ⟨(inside1.trans inside2).trans (State.Within.setTeam v u2 _ rfl),
    (State.regsOf_modTeam (s := u2) (v := v) (f := v.popTeam d q) (fun _ => ⟨rfl, rfl, rfl⟩) fun _ => ⟨rfl, rfl⟩).1.trans ?_, ?_⟩
  · rw [vectors1, getD_set_other _ _ _ (by omega)] at vectors2
    rw [State.regsOf, vectors2, predicates2, predicates1, scalars2, scalars1, conditions2, conditions1]
  · rw [State.teamOf_modTeam, ← Team.queues_of_books (books2.trans books1)]
    rfl

/-- Each lane of a pop takes one entry: the k-th active lane the k-th of the queue. -/
theorem View.column_popWords {q : BitVec 2} (enough : v.active.length ≤ (v.team.queues.getD q.toNat []).length) (f : Entry → Word)
    {col : List Word} (lanes : col.length = v.team.lanes) {k : Nat} (inside : k < v.active.length) :
    wordAt (column col (v.popWords q f)) (v.active.getD k 0) = f ((v.team.queues.getD q.toNat []).getD k ⟨0, false⟩) := by
  have taking : (v.popWords q f).map (·.1) = v.active := by
    rw [View.popWords, List.map_map]
    exact List.map_fst_zip enough
  have mem : (v.active.getD k 0, f ((v.team.queues.getD q.toNat []).getD k ⟨0, false⟩)) ∈ v.popWords q f := by
    have next := inside.trans_le enough
    refine List.mem_map.mpr ⟨(v.active[k], (v.team.queues.getD q.toNat [])[k]), List.mem_iff_getElem.mpr ⟨k, ?_, List.getElem_zip⟩, ?_⟩
    · rw [View.popped, List.length_zip]
      omega
    · rw [List.getD_eq_getElem _ _ inside, List.getD_eq_getElem _ _ next]
  refine column_of_mem ?_ (fun e within => ?_) mem
  · rw [taking]
    exact v.pairwise_active.imp fun lt => lt.ne
  · rw [lanes]
    exact v.active_lt (taking ▸ List.mem_map_of_mem within)

theorem exec_qpop (c : BitVec 1) (w : BitVec 2) {d : BitVec 6} {q : BitVec 2} (issues : s.Issues v (.qpop c w d q))
    (few : v.active.length ≤ 32) (enough : v.active.length ≤ (v.team.queues.getD q.toNat []).length)
    (within : q.toNat < v.team.queues.length) (column0 : v.hasColumn d.toNat) (column1 : v.hasColumn (d.toNat + 1)) :
    ∃ t, exec (.qpop c w d q) s = .next t ∧
      (∀ k, k < v.active.length → let l := v.active.getD k 0
        t.vAt v d.toNat l = (((v.team.queues.getD q.toNat []).getD k ⟨0, false⟩).value).setWidth 32 ∧
          t.vAt v (d.toNat + 1) l = (((v.team.queues.getD q.toNat []).getD k ⟨0, false⟩).value >>> 32).setWidth 32) ∧
      (t.teamOf v).queues.getD q.toNat [] = (v.team.queues.getD q.toNat []).drop v.active.length ∧
      KeepsVectors v s t [d.toNat, d.toNat + 1] ∧ KeepsScalars v s t [] ∧ KeepsPredicates v s t [] ∧
      (v.team.step = none → SameBytes s t) := by
  refine ⟨((s.atIssue v).popsLanes v d q).finish v (.qpop c w d q), issueWord_done issues (qpopWord_enough few enough), ?_⟩
  obtain ⟨vectors0, predicates0, scalars0, -⟩ := State.atIssue_spec issues.1
  obtain ⟨inside, regs, popped⟩ := (s.atIssue v).popsLanes_spec v d q
  generalize (s.atIssue v).popsLanes v d q = u at inside regs popped ⊢
  rw [vectors0, predicates0, scalars0, State.regsOf, Prod.mk.injEq, Prod.mk.injEq, Prod.mk.injEq] at regs
  obtain ⟨vectors, predicates, scalars, -⟩ := regs
  have queues := State.queues_finish (.qpop c w d q) (f := fun l => l.set q.toNat ((l.getD q.toNat []).drop v.active.length)) issues.1 popped
  obtain ⟨readS, -, readV, readP, readS0, -, readV0, readP0⟩ := finish_registers (u := u) (.qpop c w d q) issues.1
  refine ⟨fun k lane => ⟨?_, ?_⟩, ?_, fun r other l => ?_, fun n _ => ?_, fun n _ l => ?_, sameBytes_finish issues.1 inside⟩
  · rw [readV, vectors, getD_set_other _ _ _ (by omega), getD_set_self _ _ _ _ column0.1]
    exact View.column_popWords enough Entry.low column0.2 lane
  · rw [readV, vectors, getD_set_self _ _ _ _ (by rw [List.length_set]; exact column1.1)]
    exact View.column_popWords enough Entry.high column1.2 lane
  · rw [queues, getD_set_self _ _ _ _ within]
  · obtain ⟨first, second⟩ : r ≠ d.toNat ∧ r ≠ d.toNat + 1 := by simpa using other
    rw [readV, readV0, vectors, getD_set_other _ _ _ second, getD_set_other _ _ _ first]
  · rw [readS, readS0, scalars]
  · rw [readP, readP0, predicates]

end

end Sys2Proof.Machine

section
open Sys2Proof Sys2Proof.Machine

/-- Settles O48: RUN by the mark that it has read, RSTOP by what its runner waits for; of the queues by how many entries the pop finds,
each of its lanes taking one. -/
theorem runnerWords : Obligations.RunnerWords := by
  refine ⟨fun c w o => ⟨?run, ?refused⟩, fun c w => ⟨?stops, ?waits⟩, fun c w d a q f s v => ⟨?push, ?pops, ?popsEmpty, ?pop, ?popShort⟩⟩
  case run => exact completes_of (fun _ => rfl) fun s v ⟨idle, one, mark⟩ => runWord_marked idle one mark
  case refused => exact traps_of (fun _ => rfl) fun s v h => runWord_refused o s h
  case stops => exact completes_of (fun _ => rfl) fun s v free => rstopWord_idle free
  case waits => exact completes_of (fun _ => rfl) fun s v ⟨running, waits⟩ => rstopWord_waiting running waits
  case push => exact fun issues within => exec_qpush c w issues within
  case pops => exact fun issues _ e rest held below long within => exec_qpops c w issues held below long within
  case popsEmpty => exact fun issues empty => issueWord_trap issues (qpopsWord_empty empty)
  case pop => exact fun issues _ few enough within column0 column1 => exec_qpop c w issues few enough within column0 column1
  case popShort => exact fun issues few short => issueWord_trap issues (qpopWord_short few short)

end

namespace Sys2Proof.Machine

/-! ### The number of free values across a write -/

theorem foldl_fresh {α β : Type} (g : β → State) {f : β → α → β} (hf : ∀ r a, (g (f r a)).fresh = (g r).fresh) (l : List α) (r : β) :
    (g (l.foldl f r)).fresh = (g r).fresh := by
  induction l generalizing r with
  | nil => rfl
  | cons a l ih => exact (ih _).trans (hf r a)

theorem State.setLine_fresh (s : State) (d l : Nat) (k : L2Line) : (s.setLine d l k).fresh = s.fresh := State.setDie_fresh s _ _

theorem State.commandPage_fresh (s : State) (pg why : Nat) : (s.commandPage pg why).fresh = s.fresh :=
  foldl_fresh (fun s => s) (fun s d => by
    dsimp only
    split <;> simp) _ s

theorem State.windowPage_fresh (s : State) (x pg : Nat) : (s.windowPage x pg).fresh = s.fresh := by
  unfold State.windowPage
  dsimp only
  split
  · rfl
  · rw [State.commandPage_fresh, State.setDie_fresh]
    exact foldl_fresh (fun s => s) (fun s _ => State.setBlock_fresh s _ _) _ _

theorem State.backWindows_fresh (s : State) (x : Nat) (leaves : List (Nat × Nat × Nat)) : (s.backWindows x leaves).fresh = s.fresh :=
  foldl_fresh (fun s => s) (fun s _ => foldl_fresh (fun s => s) (fun s _ => State.windowPage_fresh s _ _) _ s) _ s

theorem State.closeWindows_fresh (s : State) : s.closeWindows.fresh = s.fresh :=
  foldl_fresh (fun s => s) (fun s _ => State.setPage_fresh s _ _) _ s

theorem State.tableChange_fresh (s old : State) : (s.tableChange old).fresh = s.fresh :=
  foldl_fresh (fun s => s) (fun t e => by
    dsimp only
    split_ifs
    · rfl
    · rfl
    · exact (State.closeWindows_fresh _).trans (State.backWindows_fresh t _ _)) _ s

theorem State.fillSwm_fresh (s : State) (d l : Nat) : (s.fillSwm d l).fresh = s.fresh := by
  unfold State.fillSwm State.refer
  split
  · rfl
  · split
    · exact State.setLine_fresh _ _ _ _
    · exact State.setLine_fresh _ _ _ _

theorem State.noteWrite_fresh (s : State) (da : Nat) : (s.noteWrite da).fresh = s.fresh := by
  unfold State.noteWrite
  dsimp only
  split
  · exact (State.setPage_fresh _ _ _).trans (State.setDie_fresh _ _ _)
  · rfl

theorem State.healAt_fresh (s : State) (da n : Nat) : (s.healAt da n).fresh = s.fresh := by
  unfold State.healAt
  dsimp only
  split <;> rfl

theorem State.storeLoc_fresh (s : State) (d : Nat) (loc : Loc) (bs : List Byte) (count : Bool) : (s.storeLoc d loc bs count).fresh = s.fresh := by
  cases loc with
  | host pa => rfl
  | dev da swm uc hw =>
    have noted : (s.noteImage da).fresh = s.fresh := rfl
    unfold State.storeLoc
    dsimp only
    generalize s.noteImage da = t at noted ⊢
    have window : (if hw then t.windowPage (t.page (pageOf da)).ctx (pageOf da) else t).fresh = s.fresh := by
      split
      · exact (State.windowPage_fresh _ _ _).trans noted
      · exact noted
    generalize (if hw then t.windowPage (t.page (pageOf da)).ctx (pageOf da) else t) = u at window ⊢
    rw [← window]
    split
    · split
      · exact State.fillSwm_fresh _ _ _
      · exact (State.setLine_fresh _ _ _ _).trans (State.fillSwm_fresh _ _ _)
    · have counted : (if count then u.noteWrite da else u).fresh = u.fresh := by
        split
        · exact State.noteWrite_fresh _ _
        · rfl
      split
      · exact (State.healAt_fresh _ _ _).trans counted
      · exact (State.setLine_fresh _ _ _ _).trans counted

theorem State.writeLoc_fresh (s : State) (d : Nat) (loc : Loc) (bs : List Byte) : (s.writeLoc d loc bs).fresh = s.fresh :=
  (State.tableChange_fresh _ _).trans (State.storeLoc_fresh s d loc bs true)

theorem State.poisonLoc_fresh (s : State) (d : Nat) (loc : Loc) : (s.poisonLoc d loc).fresh = s.fresh := by
  cases loc with
  | host pa => rfl
  | dev da swm uc hw =>
    unfold State.poisonLoc
    dsimp only
    split
    · rfl
    · split
      · exact State.setLine_fresh _ _ _ _
      · rfl

theorem State.poisonLoc_mem (s : State) (d : Nat) (loc : Loc) : (s.poisonLoc d loc).mem = s.mem := by
  cases loc with
  | host pa => rfl
  | dev da swm uc hw =>
    unfold State.poisonLoc
    dsimp only
    split
    · rfl
    · split
      · exact State.setLine_mem _ _ _ _
      · rfl

theorem State.poisonLoc_ctxs (s : State) (d : Nat) (loc : Loc) : (s.poisonLoc d loc).ctxs = s.ctxs := by
  cases loc with
  | host pa => rfl
  | dev da swm uc hw =>
    unfold State.poisonLoc
    dsimp only
    split
    · rfl
    · split
      · exact State.setLine_ctxs _ _ _ _
      · rfl

/-! ### Rows written to global memory (R214, R268) -/

theorem State.writeLoc_sameRings (s : State) (d : Nat) (loc : Loc) (bs : List Byte) : SameRings s (s.writeLoc d loc bs) :=
  (State.storeLoc_sameRings s d loc bs true).trans (.of_ctxs (State.tableChange_ctxs _ _))

theorem State.writePiece_fresh (s : State) (c : Nat) (a : Access) (first : Nat) (bytes : List Byte) (bad skip before : List Nat) :
    (s.writePiece c a first bytes bad skip before).fresh = s.fresh := by
  refine (foldl_fresh (fun s => s) (fun _ _ => State.poisonLoc_fresh _ _ _) _ _).trans ?_
  split
  · exact State.writeLoc_fresh _ _ _ _
  · exact (State.tableChange_fresh _ _).trans (foldl_fresh Prod.snd (fun _ _ => State.storeLoc_fresh _ _ _ _ _) _ _)

theorem State.writePiece_sameRings (s : State) (c : Nat) (a : Access) (first : Nat) (bytes : List Byte) (bad skip before : List Nat) :
    SameRings s (s.writePiece c a first bytes bad skip before) := by
  unfold State.writePiece
  dsimp only
  refine .trans ?_ (.of_ctxs (foldl_ctxs _ (fun _ _ => State.poisonLoc_ctxs _ _ _) _ _))
  split
  · exact State.writeLoc_sameRings _ _ _ _
  · refine .trans ?_ (.of_ctxs (State.tableChange_ctxs _ _))
    exact foldl_sameRings Prod.snd (fun _ _ => State.storeLoc_sameRings _ _ _ _ _) _ (_, s)

theorem State.writeRow_fresh (s : State) (c : Nat) (row : CopyRow) (bytes : List Byte) (bad skip before : List Nat) :
    (s.writeRow c row bytes bad skip before).fresh = s.fresh :=
  foldl_fresh Prod.snd (fun _ _ => State.writePiece_fresh _ _ _ _ _ _ _ _) row.global (0, s)

theorem State.writeRow_sameRings (s : State) (c : Nat) (row : CopyRow) (bytes : List Byte) (bad skip before : List Nat) :
    SameRings s (s.writeRow c row bytes bad skip before) :=
  foldl_sameRings Prod.snd (fun _ _ => State.writePiece_sameRings _ _ _ _ _ _ _ _) row.global (0, s)

/-- A piece written leaves bytes that depend on the bytes before alone. -/
theorem State.writePiece_mem_congr {s t : State} (same : s.mem = t.mem) (c : Nat) (a : Access) (first : Nat) (bytes : List Byte)
    (bad skip before : List Nat) :
    (s.writePiece c a first bytes bad skip before).mem = (t.writePiece c a first bytes bad skip before).mem := by
  unfold State.writePiece
  refine (foldl_mem_of (fun s => s) (fun _ _ => State.poisonLoc_mem _ _ _) _ _).trans
    (.trans ?_ (foldl_mem_of (fun s => s) (fun _ _ => State.poisonLoc_mem _ _ _) _ _).symm)
  have stored (u w : State) (loc : Loc) (bs : List Byte) (n m : Bool) (alike : u.mem = w.mem) :
      (u.storeLoc (dieOf c) loc bs n).mem = (w.storeLoc (dieOf c) loc bs m).mem :=
    (State.storeLoc_mem_congr _ loc bs n alike).trans (State.storeLoc_mem_congr _ loc bs m rfl).symm
  split
  · exact (State.storeLoc_mem_congr (dieOf c) a.loc bytes true rfl).symm.trans (State.storeLoc_mem_congr _ _ _ _ same)
  · refine (State.tableChange_keeps _ _).2.1.trans (.trans ?_ (State.tableChange_keeps _ _).2.1.symm)
    exact List.foldl_rel (r := fun (x y : Bool × State) => x.2.mem = y.2.mem) same fun _ _ x y alike => stored x.2 y.2 _ _ _ _ alike

/-- What decides the bytes that a copy writes to global memory: the bytes there, the scratchpads, and the number of free values. -/
def State.CopiesAlike (s t : State) : Prop := s.mem = t.mem ∧ s.cores = t.cores ∧ s.fresh = t.fresh

theorem State.CopiesAlike.writeRow {s t : State} (alike : s.CopiesAlike t) (c : Nat) (row : CopyRow) (bytes : List Byte) (bad skip before : List Nat) :
    (s.writeRow c row bytes bad skip before).CopiesAlike (t.writeRow c row bytes bad skip before) := by
  obtain ⟨mem, cores, fresh⟩ := alike
  refine ⟨?_, by rw [State.writeRow_cores, State.writeRow_cores, cores], by rw [State.writeRow_fresh, State.writeRow_fresh, fresh]⟩
  refine (List.foldl_rel (l := row.global) (a := (0, s)) (b := (0, t)) (r := fun (x y : Nat × State) => x.1 = y.1 ∧ x.2.mem = y.2.mem) ⟨rfl, mem⟩ ?_).2
  rintro a - ⟨n, u⟩ ⟨m, w⟩ ⟨rfl, same⟩
  exact ⟨rfl, State.writePiece_mem_congr same c a _ _ bad skip before⟩

theorem State.CopiesAlike.scratchRow {s t : State} (alike : s.CopiesAlike t) (side : Nat × Nat) (a n : Nat) :
    s.scratchRow side a n (s.fresh * 2 ^ 20) = t.scratchRow side a n (t.fresh * 2 ^ 20) := by
  obtain ⟨-, cores, fresh⟩ := alike
  unfold State.scratchRow State.cohort State.core
  rw [cores, fresh]

/-- The source of a copy to global memory is a scratchpad: reading it changes nothing. -/
theorem State.copySource_of_global {kind : CopyKind} (global : kind.global = true) (s : State) (c : Nat) (src : Nat × Nat) (row : CopyRow) :
    s.copySource c kind src row =
      (((s.scratchRow src row.scr row.len (s.fresh * 2 ^ 20)).1, (s.scratchRow src row.scr row.len (s.fresh * 2 ^ 20)).2, []), s) := by
  cases kind with
  | s2g => rfl
  | sct => rfl
  | g2s | gth | fill | s2s => cases global

theorem CopyKind.not_s2s_of_global {kind : CopyKind} (global : kind.global = true) : (kind == .s2s) = false := by
  cases kind with
  | s2g => rfl
  | sct => rfl
  | g2s | gth | fill | s2s => cases global

/-- One row of a copy to global memory, with its number. -/
def State.copyRowOut (s : State) (c : Nat) (o : Op) (src : Nat × Nat) (e : CopyRow × Nat) : State :=
  let q := s.scratchRow src e.1.scr e.1.len (s.fresh * 2 ^ 20)
  let w := o.overlay e.2 q.1 q.2
  s.writeRow c e.1 w.1 w.2 (o.putIn e.2) (o.putIn e.2)

theorem State.copyRowOut_sameRings (s : State) (c : Nat) (o : Op) (src : Nat × Nat) (e : CopyRow × Nat) : SameRings s (s.copyRowOut c o src e) :=
  State.writeRow_sameRings _ _ _ _ _ _ _

theorem State.CopiesAlike.copyRowOut {s t : State} (alike : s.CopiesAlike t) (c : Nat) (o : Op) (src : Nat × Nat) (e : CopyRow × Nat) :
    (s.copyRowOut c o src e).CopiesAlike (t.copyRowOut c o src e) := by
  unfold State.copyRowOut
  rw [alike.scratchRow]
  exact alike.writeRow c e.1 _ _ _ _

/-- A copy to global memory is its rows in order: what it notes of a scratchpad at its end is no part of the memory or of the contexts. -/
theorem State.copyRows_part {γ : Type} (part : State → γ) (noted : ∀ u c h, part (u.setCohort c h) = part u) (s : State) (c : Nat) (o : Op)
    {kind : CopyKind} (global : kind.global = true) (src dst : Nat × Nat) (rows : List CopyRow) :
    part (s.copyRows c o kind src dst rows) = part (rows.zipIdx.foldl (fun s e => s.copyRowOut c o src e) s) := by
  unfold State.copyRows
  simp only [State.copySource_of_global global, CopyKind.not_s2s_of_global global, State.copyPut, global, Bool.false_and, Bool.false_eq_true,
    if_true, if_false, List.zipIdx_nil, List.map_nil, List.append_nil]
  have rowsOnly := List.foldl_hom (l := rows.zipIdx) (init := ([], s)) (Prod.snd : List (Nat × Option Nat) × State → State)
    (g₁ := fun r e => (r.1, r.2.copyRowOut c o src e)) (g₂ := fun s e => s.copyRowOut c o src e) fun _ _ => rfl
  rw [rowsOnly]
  split
  · split
    · rfl
    · exact noted _ _ _
  · rfl

theorem State.copyRows_mem_congr {s t : State} (alike : s.CopiesAlike t) (c : Nat) (o : Op) {kind : CopyKind} (global : kind.global = true)
    (src dst : Nat × Nat) (rows : List CopyRow) : (s.copyRows c o kind src dst rows).mem = (t.copyRows c o kind src dst rows).mem := by
  rw [State.copyRows_part State.mem State.setCohort_mem s c o global, State.copyRows_part State.mem State.setCohort_mem t c o global]
  exact (List.foldl_rel (r := State.CopiesAlike) alike fun e _ _ _ same => same.copyRowOut c o src e).1

theorem State.copyRows_sameRings (s : State) (c : Nat) (o : Op) {kind : CopyKind} (global : kind.global = true) (src dst : Nat × Nat)
    (rows : List CopyRow) : SameRings s (s.copyRows c o kind src dst rows) :=
  (foldl_sameRings (fun s => s) (fun s e => State.copyRowOut_sameRings s c o src e) rows.zipIdx s).trans
    (.of_ctxs (State.copyRows_part State.ctxs State.setCohort_ctxs s c o global src dst rows))

end Sys2Proof.Machine

namespace Sys2Proof.Machine

/-! ### A copy takes effect (R214) -/

theorem State.excess_ctxs (s : State) (c x d : Nat) : (s.excess c x d).ctxs = s.ctxs := by
  unfold State.excess
  split
  · rfl
  · split
    · exact State.setDie_ctxs _ _ _
    · rfl

theorem State.refund_ctxs (s : State) (c x d n : Nat) : (s.refund c x d n).ctxs = s.ctxs := by
  unfold State.refund
  split
  · exact State.setDie_ctxs _ _ _
  · exact State.excess_ctxs _ _ _ _

theorem State.touchPage_ctxs (s : State) (x pg : Nat) : (s.touchPage x pg).ctxs = s.ctxs := by
  obtain ⟨pages, touched⟩ := s.touchPage_eq x pg
  rw [touched]

theorem State.answer_ctxs (s : State) (c x id b : Nat) (wasDirty more : Bool) : (s.answer c x id b wasDirty more).ctxs = s.ctxs := by
  have headroom (t : State) (h : Nat) (k : Block) : (if h = 0 then t else (t.setBlock b k).touchPage x (b / 128)).ctxs = t.ctxs := by
    split
    · rfl
    · exact State.touchPage_ctxs _ _ _
  unfold State.answer
  split
  · split
    · rfl
    · exact State.refund_ctxs _ _ _ _ _
  · dsimp only
    split
    · exact headroom _ _ _
    · exact (State.refund_ctxs _ _ _ _ _).trans (headroom _ _ _)

/-- First touches before a copy are of pages alone. -/
theorem State.touches_copiesAlike (s : State) (x : Nat) (l : List Access) : (l.foldl (fun s a => s.touchLoc x a.loc) s).CopiesAlike s := by
  refine List.foldlRecOn (motive := fun u => State.CopiesAlike u s) l _ ⟨rfl, rfl, rfl⟩ fun u alike a _ => ?_
  obtain ⟨pages, touched⟩ := u.touchLoc_eq x a.loc
  rw [touched]
  exact alike

/-- The copy at the head of its queue, with no page away, leaves in memory what its rows write. -/
theorem exec_copyOperationComplete {s : State} {c q uid : Nat} {o : Op} {t : Team} {q' : Nat} {kind : CopyKind} {src dst : Nat × Nat}
    {rows : List CopyRow} (head : s.copyHead c q = some (uid, o)) (team : s.teamUid c uid = some t) (copy : o.kind = .copy q' kind src dst rows) :
    ∃ u, exec (.copyOperationComplete c q) s = .next u ∧
      (s.copyAway rows = [] →
        let s1 := (s.copyReady c o rows).copyServe uid kind rows
        (s1.opNow c o).junk = [] → (kind.global = true → (s1.ctx t.ctx).trWr = 0) →
          u.mem = (s1.copyRows c (s1.opNow c o) kind src dst rows).mem) := by
  rw [show exec (.copyOperationComplete c q) s = execCopyOperationComplete c q s from rfl]
  unfold execCopyOperationComplete
  simp only [head, copy, team]
  by_cases away : s.copyAway rows = []
  case neg => exact ⟨_, if_pos (by simp [away]), fun here => absurd here away⟩
  refine ⟨_, if_neg (by simp [away]), fun _ whole quiet => ?_⟩
  generalize (s.copyReady c o rows).copyServe uid kind rows = s1 at whole quiet ⊢
  generalize s1.opNow c o = o1 at whole ⊢
  have answers (u : State) : (o1.charged.foldl (fun s b => s.answer c t.ctx o1.id b (s1.blockDirty b) false) u).mem = u.mem :=
    foldl_mem_of (fun s => s) (fun s b => State.answer_mem _ _ _ _ _ _ _) _ u
  refine (State.putOp_mem _ _ _ _).trans ?_
  cases global : kind.global with
  | false => exact answers _
  | true =>
    have touched := s1.touches_copiesAlike t.ctx (rows.flatMap (·.global))
    have pages : SameRings s1 ((rows.flatMap (·.global)).foldl (fun s a => s.touchLoc t.ctx a.loc) s1) :=
      .of_ctxs (foldl_ctxs _ (fun (s : State) (a : Access) => s.touchLoc_ctxs t.ctx a.loc) _ s1)
    simp only [if_true]
    generalize (rows.flatMap (·.global)).foldl (fun s a => s.touchLoc t.ctx a.loc) s1 = s2 at touched pages ⊢
    have rings := (pages.trans (s2.copyRows_sameRings c o1 global src dst rows)).trans
      (.of_ctxs (foldl_ctxs _ (fun s b => s.answer_ctxs c t.ctx o1.id b (s1.blockDirty b) false) o1.charged _))
    rw [State.tearTrace_empty ((rings.trWr t.ctx).trans (quiet global)), whole]
    exact (answers _).trans (State.copyRows_mem_congr touched c o1 global src dst rows)

end Sys2Proof.Machine

namespace Sys2Proof.Machine

/-! ### A fill (R215) -/

/-- Bytes put in turn from `a` on. -/
theorem Table.get_foldl_put {α : Type} (bs : List α) (a : Nat) (m : List (Nat × α)) (i : Nat) :
    Table.get (bs.zipIdx.foldl (fun m e => Table.put m (a + e.2) e.1) m) i = if a ≤ i ∧ i < a + bs.length then bs[i - a]? else Table.get m i := by
  suffices from' : ∀ k, Table.get ((bs.zipIdx k).foldl (fun m e => Table.put m (a + e.2) e.1) m) i =
      if a + k ≤ i ∧ i < a + k + bs.length then bs[i - (a + k)]? else Table.get m i from from' 0
  induction bs generalizing m with
  | nil => exact fun k => (if_neg fun h => by simp only [List.length_nil] at h; omega).symm
  | cons b bs ih =>
    intro k
    rw [List.zipIdx_cons, List.foldl_cons, ih, List.length_cons]
    by_cases first : i = a + k
    · subst first
      rw [if_neg (by omega), if_pos (by omega), Table.get_put_self, Nat.sub_self]
      rfl
    · rw [Table.get_put_other _ _ first]
      by_cases within : a + (k + 1) ≤ i ∧ i < a + (k + 1) + bs.length
      · rw [if_pos within, if_pos (by omega), show i - (a + k) = i - (a + (k + 1)) + 1 by omega, List.getElem?_cons_succ]
      · rw [if_neg within, if_neg (by omega)]

theorem Cohort.byte_write (h : Cohort) (a : Nat) (bs : List Byte) (i : Nat) :
    (h.write a bs).byte i = if a ≤ i ∧ i < a + bs.length then bs.getD (i - a) 0 else h.byte i := by
  unfold Cohort.byte Cohort.write
  dsimp only
  rw [Table.get_foldl_put]
  split
  next within => rw [List.getElem?_eq_getElem (by omega), List.getD_eq_getElem _ _ (by omega), Option.getD_some]
  next => rfl

/-- A write into a region is its cohort's. -/
theorem State.cohort_scratchWrite {s : State} {c id : Nat} {h : Cohort} (found : s.cohort c id = some h) (a : Nat) (bs : List Byte) :
    (s.scratchWrite c id a bs).cohort c id = some (h.write a bs) := by
  have own := State.id_of_cohort found
  subst own
  unfold State.scratchWrite
  simp only [found]
  have written : (s.setCohort c (h.write a bs)).cohort c h.id = some (h.write a bs) := State.cohort_setCohort (g := h.write a bs) found
  unfold State.cohort State.dirtyUnits at *
  rw [State.core_setCore_self]
  exact written

/-- A row with no word under poison is stored as its bytes. -/
theorem State.cohort_scratchPut {s : State} {side : Nat × Nat} {h : Cohort} (found : s.cohort side.1 side.2 = some h) (a : Nat) (bs : List Byte) :
    (s.scratchPut side a bs []).cohort side.1 side.2 = some (h.write a bs) := by
  have written := State.cohort_scratchWrite found a bs
  have own := State.id_of_cohort written
  unfold State.scratchPut
  simp only [written, List.foldl_nil]
  exact own ▸ State.cohort_setCohort (own.symm ▸ written)

/-- Byte `k` of a word. -/
theorem leBytes_word (x : Word) {k : Nat} (h : k < 4) : (leBytes 4 x.toNat).getD k 0 = (x >>> (8 * k)).setWidth 8 := by
  have byte (n : Nat) : BitVec.ofNat 8 (x.toNat / 2 ^ n) = (x >>> n).setWidth 8 := by
    refine BitVec.eq_of_toNat_eq ?_
    rw [BitVec.toNat_ofNat, BitVec.toNat_setWidth, BitVec.toNat_ushiftRight, Nat.shiftRight_eq_div_pow]
  rw [← byte]
  have bytes : leBytes 4 x.toNat = [BitVec.ofNat 8 x.toNat, BitVec.ofNat 8 (x.toNat / 256), BitVec.ofNat 8 (x.toNat / 256 / 256),
    BitVec.ofNat 8 (x.toNat / 256 / 256 / 256)] := rfl
  rw [bytes]
  interval_cases k
  · simp
  · simp
  · simp [Nat.div_div_eq_div_mul]
  · simp [Nat.div_div_eq_div_mul]

/-- The bytes of `n` equal words. -/
theorem getD_repeated {w : List Byte} (four : w.length = 4) (n : Nat) {i : Nat} (h : i < 4 * n) :
    ((List.range n).flatMap fun _ => w).getD i 0 = w.getD (i % 4) 0 := by
  induction n generalizing i with
  | zero => omega
  | succ n ih =>
    rw [List.range_succ_eq_map, List.flatMap_cons, List.flatMap_map]
    by_cases first : i < 4
    · rw [List.getD_append _ _ _ _ (by omega), Nat.mod_eq_of_lt first]
    · rw [List.getD_append_right _ _ _ _ (by omega), four, ih (by omega), show (i - 4) % 4 = i % 4 by omega]

/-- A fill writes its value to each word of its row. -/
theorem State.copyRows_fill {s : State} {dst : Nat × Nat} {h : Cohort} (found : s.cohort dst.1 dst.2 = some h) {row : CopyRow} (words : row.len % 4 = 0)
    {o : Op} (unread : o.got = []) (unwritten : o.put = []) (c : Nat) (value : Word) (src : Nat × Nat) :
    ∃ g, (s.copyRows c o (.fill value) src dst [row]).cohort dst.1 dst.2 = some g ∧
      ∀ i, g.byte i = if row.scr ≤ i ∧ i < row.scr + row.len then (value >>> (8 * ((i - row.scr) % 4))).setWidth 8 else h.byte i := by
  have copied : s.copyRows c o (.fill value) src dst [row] =
      s.scratchPut dst row.scr ((List.range (row.len / 4)).flatMap fun _ => leBytes 4 value.toNat) [] := by
    have other : (CopyKind.fill value == .s2s) = false := rfl
    have nothing (i : Nat) : o.putIn i = [] := by rw [Op.putIn, unwritten]; rfl
    have whole (i : Nat) (bytes : List Byte) (bad : List Nat) : o.overlay i bytes bad = (bytes, bad) := by rw [Op.overlay, unread]; rfl
    have source : s.copySource c (.fill value) src row = (((List.range (row.len / 4)).flatMap fun _ => leBytes 4 value.toNat, [], []), s) := rfl
    have put (bytes : List Byte) : s.copyPut c (.fill value) dst row bytes [] [] [] = s.scratchPut dst row.scr bytes [] := rfl
    unfold State.copyRows
    simp only [other, Bool.false_and, List.zipIdx_cons, List.zipIdx_nil, List.foldl_cons, List.foldl_nil, source, Bool.false_eq_true, if_false,
      nothing, whole, put, List.map_nil, List.append_nil]
    split <;> rfl
  refine ⟨_, copied ▸ State.cohort_scratchPut found _ _, fun i => ?_⟩
  have length : ((List.range (row.len / 4)).flatMap fun _ => leBytes 4 value.toNat).length = row.len := by
    rw [List.length_flatMap, List.map_const', List.sum_replicate, List.length_range, length_leBytes]
    simp only [smul_eq_mul]
    omega
  rw [Cohort.byte_write, length]
  split
  next within => rw [getD_repeated (length_leBytes 4 _) _ (by omega), leBytes_word _ (by omega)]
  next => rfl

end Sys2Proof.Machine

namespace Sys2Proof.Machine

/-! ### Collectives complete (R224) -/

/-- A member's part, where a member of this device has posted one. -/
def State.finishPosted (g seq : Nat) (srcs : List (List (List Nat × Bool))) (s : State) : Posted → State
  | .here k u _ => s.finishMember k u.uid g seq srcs
  | _ => s

section

variable {s : State} {c id : Nat} {t : Team} {o : Op} {g seq rank src dst region : Nat} {terms : ColTerms}

theorem exec_collectiveComplete (op : s.opAt c id = some (t, o)) (col : o.kind = .col g seq terms rank src dst region)
    (open' : o.done = false) (turn : t.colWaits o = false) {remote : List (Nat × List (BitVec 32))}
    (all : ∀ p ∈ s.posted c t g seq terms remote, ∃ k u x, p = .here k u x) :
    exec (.collectiveComplete c id remote) s =
      let ps := s.posted c t g seq terms remote
      if !colAgree terms ps then
        .next ((if terms.op = 5 then s else s.freeUnits c region dst (terms.shape.2.1 * terms.shape.2.2)).finishCol c t.uid o true)
      else if !colTurn ps g seq then .next s
      else
        let s1 := s.colWay g seq ps
        let qs := s1.posted c t g seq terms remote
        .next (qs.foldl (State.finishPosted g seq (qs.map (s1.sourceOf g seq terms))) s1) := by
  have posted : ((s.posted c t g seq terms remote).any Posted.missing) = false := by
    refine List.any_eq_false.mpr fun p member => ?_
    obtain ⟨k, u, x, rfl⟩ := all p member
    exact Bool.false_ne_true
  rw [show exec (.collectiveComplete c id remote) s = execCollectiveComplete c id remote s from rfl]
  unfold execCollectiveComplete
  simp only [op, col, open', turn, posted, Bool.or_self, Bool.false_eq_true, if_false]
  rfl

theorem exec_collectiveComplete_agreed (op : s.opAt c id = some (t, o)) (col : o.kind = .col g seq terms rank src dst region)
    (open' : o.done = false) (turn : t.colWaits o = false) {remote : List (Nat × List (BitVec 32))}
    (agreed : ∀ p ∈ s.posted c t g seq terms remote, ∃ k u, p = .here k u terms) (turns : colTurn (s.posted c t g seq terms remote) g seq = true) :
    exec (.collectiveComplete c id remote) s =
      let s1 := s.colWay g seq (s.posted c t g seq terms remote)
      let qs := s1.posted c t g seq terms remote
      .next (qs.foldl (State.finishPosted g seq (qs.map (s1.sourceOf g seq terms))) s1) := by
  have agree : colAgree terms (s.posted c t g seq terms remote) = true := by
    refine List.all_eq_true.mpr fun p member => ?_
    obtain ⟨k, u, rfl⟩ := agreed p member
    exact beq_self_eq_true terms
  have all (p) (member : p ∈ s.posted c t g seq terms remote) : ∃ k u x, p = Posted.here k u x := by
    obtain ⟨k, u, same⟩ := agreed p member
    exact ⟨k, u, terms, same⟩
  rw [exec_collectiveComplete op col open' turn all]
  simp only [agree, turns, Bool.not_true, Bool.false_eq_true, if_false]

theorem exec_collectiveComplete_mismatch (op : s.opAt c id = some (t, o)) (col : o.kind = .col g seq terms rank src dst region)
    (open' : o.done = false) (turn : t.colWaits o = false) {remote : List (Nat × List (BitVec 32))} (barrier : terms.op = 5)
    (all : ∀ p ∈ s.posted c t g seq terms remote, ∃ k u x, p = .here k u x)
    (differ : ∃ k u x, .here k u x ∈ s.posted c t g seq terms remote ∧ x ≠ terms) :
    exec (.collectiveComplete c id remote) s = .next (s.finishCol c t.uid o true) := by
  have disagree : colAgree terms (s.posted c t g seq terms remote) = false := by
    obtain ⟨k, u, x, member, other⟩ := differ
    exact List.all_eq_false.mpr ⟨_, member, fun same => other (beq_iff_eq.mp same)⟩
  rw [exec_collectiveComplete op col open' turn all]
  simp only [disagree, Bool.not_false, if_true, barrier]

end

/-! ### Matrix commands start and retire (R200) -/

section

variable {s : State} {c n : Nat} {m : MatCmd} {t : Team}

theorem exec_matrixCommandStart (command : ((s.core c).mtx.window.find? fun q => q.seq == n) = some m) (team : s.teamUid c m.team = some t)
    (stays : t.yielding = true → (s.ctx t.ctx).forced = false) (free : (s.core c).mtx.canStart m = true) :
    ∃ u, exec (.matrixCommandStart c n) s = .next u ∧ SameBytes s u ∧
      (u.core c).mtx.window = (s.core c).mtx.window.map fun q => if q.seq = n then { q with started := true } else q := by
  have held : (t.yielding && (s.ctx t.ctx).forced) = false := by
    cases yields : t.yielding with
    | false => rfl
    | true => exact stays yields
  rw [show exec (.matrixCommandStart c n) s = execMatrixCommandStart c n s from rfl]
  unfold execMatrixCommandStart
  simp only [command, team, held, free, Bool.not_false, Bool.and_self, if_true]
  exact ⟨_, rfl, SameBytes.of_eq rfl rfl, by rw [State.core_setCore_self]⟩

theorem exec_matrixCommandRetire_started (command : ((s.core c).mtx.window.find? fun q => q.seq == n) = some m)
    (team : s.teamUid c m.team = some t) (started : m.started = true) :
    exec (.matrixCommandRetire c n) s = .next ((((s.matrixEffect c m t).setCore c { (s.matrixEffect c m t).core c with
      mtx := { ((s.matrixEffect c m t).core c).mtx with
        window := ((s.matrixEffect c m t).core c).mtx.window.filter fun q => q.seq != n } })).freeEngine c) := by
  rw [show exec (.matrixCommandRetire c n) s = execMatrixCommandRetire c n s from rfl]
  unfold execMatrixCommandRetire
  simp only [command, team, started, Bool.not_true, Bool.false_eq_true, if_false]

theorem exec_matrixCommandRetire_waiting (command : ((s.core c).mtx.window.find? fun q => q.seq == n) = some m) (waiting : m.started = false) :
    exec (.matrixCommandRetire c n) s = .next s := by
  rw [show exec (.matrixCommandRetire c n) s = execMatrixCommandRetire c n s from rfl]
  unfold execMatrixCommandRetire
  simp only [command, waiting, Bool.not_false, if_true]

end

end Sys2Proof.Machine

section
open Sys2Proof Sys2Proof.Machine

/-- Settles O50: each event is its function's branch for the head operation, the posted members or the command; a copy to global memory writes
what its rows write because the pages that it touches first decide no byte. -/
theorem engineEvents : Obligations.EngineEvents := by
  refine ⟨?copy, ?fill, ?agreed, ?mismatch, fun s c n m t command team => ⟨?start, ?retire, ?waiting⟩⟩
  case copy => exact fun s c q uid o t q' kind src dst rows head team copy => exec_copyOperationComplete head team copy
  case fill => exact fun s c o value src dst row h found words unread unwritten => State.copyRows_fill found words unread unwritten c value src
  case agreed =>
    exact fun s c id remote t o g seq rank src dst region terms op open' col agreed turn turns =>
      exec_collectiveComplete_agreed op col open' turn agreed turns
  case mismatch =>
    exact fun s c id remote t o g seq rank src dst region terms op open' col barrier all differ turn =>
      exec_collectiveComplete_mismatch op col open' turn barrier all differ
  case start => exact exec_matrixCommandStart command team
  case retire => exact exec_matrixCommandRetire_started command team
  case waiting => exact exec_matrixCommandRetire_waiting command

end

namespace Sys2Proof.Machine

/-! ### Copy words (R214 to R217) -/

section
variable {s : State} {v : View}

/-- Where no race is checked, the shadow stops no access. -/
theorem State.copyShadow_raceless (raceless : v.team.race = false) (s : State) (core id : Nat) (write remote : Bool) (rows : List (Nat × Nat)) :
    s.copyShadow v core id write remote rows = .ok s := by
  unfold State.copyShadow
  split
  · rfl
  · exact if_pos (by rw [raceless]; rfl)

/-- The words of a plan's index list. -/
def CopyPlan.indexWords (p : CopyPlan) (region : Option Cohort) (count : Nat) : List Nat :=
  match p.index, region with
  | some a, some h => (List.range count).map fun j => (h.word (a + 4 * j)).toNat
  | _, _ => []

/-- The global byte runs of a plan's rows, from its index words and its base address. -/
def CopyPlan.runs (p : CopyPlan) (xs : List Nat) (base : Nat) : List (Nat × Nat × Nat) :=
  if p.global then p.rows.zipIdx.flatMap fun e =>
    (linesOf (if p.index.isSome then (base + xs.getD e.2 0 * p.len) % 2 ^ 64 else e.1.1) p.len).map fun k => (e.2, k.1, k.2)
  else []

/-- The intent of a plan's global accesses. -/
def CopyPlan.intent (p : CopyPlan) (s : State) (v : View) : Intent :=
  if p.writesGlobal then Intent.store
  else { Intent.load with metered := ((s.launch v.team.ctx v.team.launch).map (·.rcd.metered)).getD false }

/-- A plan's accesses for the pieces of its rows. -/
def pieceAddrs (pieces : List (Nat × Nat × Nat)) : List (Nat × Nat) := pieces.zipIdx.map fun e => (e.2, e.1.2.1)

/-- A copy word from its global accesses on. -/
def CopyPlan.post (p : CopyPlan) (q : BitVec 2) (src dst : Nat × Nat) (pieces : List (Nat × Nat × Nat)) (s : State) (v : View) : Effect :=
  match s.lookAll v (p.intent s v) 1 (pieceAddrs pieces) with
  | .error e => e
  | .ok accs =>
    let accs := (accs.zip pieces).map fun e => ({ e.1 with size := e.2.2.2 } : Access)
    match (if p.writesGlobal then s.charge v accs (pieceAddrs pieces) else .ok (s, [])) with
    | .error e => e
    | .ok (s, blocks) =>
      let rows := p.rows.zipIdx.map fun e => (⟨((accs.zip pieces).filter fun a => a.2.1 == e.2).map (·.1), e.1.2.1, e.1.2.2, p.len⟩ : CopyRow)
      let id := (s.core v.core).nextOp
      let s := (s.cacheAll (dieOf v.core) v.team.ctx (pieceAddrs pieces)).addOp v 3 (.copy q.toNat p.kind src dst rows) blocks
      .done (s.noteCommand v id)

/-- A copy word whose operands and scratchpad sides pass their checks comes to its global accesses (R216). -/
theorem copyWord_posts {op : Nat} (q : BitVec 2) {b n : BitVec 6} {src dst : Nat × Nat} {r : Nat → Word} (operands : r = fun k => v.s (b.toNat + k) 0)
    {p : CopyPlan} (plan : p = copyPlan op r (n.toNat + 1)) (legal : copyReserved op r = false) (sides : s.copySides v op r = .ok (src, dst))
    (aligned : ∀ e ∈ p.aligned, e.1 % 4 = 0) (inside : ∀ e ∈ p.scratchReads (n.toNat + 1) ++ p.scratchWrites, e.1 + e.2 ≤ v.team.scrb)
    (raceless : v.team.race = false) :
    copyWord op q b n s v =
      p.post q src dst (p.runs (p.indexWords (s.cohort v.core v.team.cohort) (n.toNat + 1)) ((r 1).append (r 0)).toNat) s v := by
  have fits : ((p.scratchReads (n.toNat + 1) ++ p.scratchWrites).find? fun e => decide (v.team.scrb < e.1 + e.2)) = none :=
    List.find?_eq_none.mpr fun e mem => by simpa using inside e mem
  subst operands
  unfold copyWord
  dsimp only
  rw [if_neg (by rw [legal]; exact Bool.false_ne_true), sides]
  dsimp only
  rw [← plan, find?_eq_none_of_forall_eq (f := fun e : Nat × Option Nat => e.1 % 4) aligned]
  dsimp only
  rw [fits]
  dsimp only
  rw [State.copyShadow_raceless raceless]
  dsimp only
  rw [State.copyShadow_raceless raceless]
  rfl

/-- The accesses of pieces, each with its piece's length. -/
theorem sized_accessesOf (locs : Nat → Loc) (pieces : List (Nat × Nat × Nat)) :
    ((accessesOf (pieceAddrs pieces) locs 1).zip pieces).map (fun e => ({ e.1 with size := e.2.2.2 } : Access)) =
      (pieceAddrs pieces).map fun e => ⟨e.1, locs e.1, (pieces.getD e.1 (0, 0, 0)).2.2⟩ := by
  refine List.ext_getElem (by simp [accessesOf, pieceAddrs]) fun k within _ => ?_
  have inside : k < pieces.length := by simpa [accessesOf, pieceAddrs] using within
  simp [accessesOf, pieceAddrs, inside]

theorem State.nextOp_paid (s : State) (v : View) (accs : List Access) (l : Ladle) :
    ((s.paid v accs l).core v.core).nextOp = (s.core v.core).nextOp := by
  have path (p : Path → Path) : ((s.modPath v p).core v.core).nextOp = (s.core v.core).nextOp := by
    unfold State.modPath State.putPath State.setTeam
    rw [State.core_setCore_self]
  unfold State.paid State.setLadle
  dsimp only
  split
  · exact path _
  · rw [State.core_setCore_self]
    exact path _

/-- A copy whose rows are reached and whose writes are covered posts one operation (R214). -/
theorem CopyPlan.post_reaches {p : CopyPlan} {pieces : List (Nat × Nat × Nat)} {locs : Nat → Loc} {l : Ladle} (q : BitVec 2) (src dst : Nat × Nat)
    (reach : Reaches s v (p.intent s v) 1 (pieceAddrs pieces) locs) {accs : List Access}
    (accesses : accs = (pieceAddrs pieces).map fun e => ⟨e.1, locs e.1, (pieces.getD e.1 (0, 0, 0)).2.2⟩)
    (covered : p.writesGlobal = true → s.Covered v accs l) :
    p.post q src dst pieces s v = .done (((((if p.writesGlobal then s.paid v accs l else s).cacheAll (dieOf v.core) v.team.ctx (pieceAddrs pieces)).addOp
      v 3 (.copy q.toNat p.kind src dst (p.rows.zipIdx.map fun e => ⟨((accs.zip pieces).filter fun a => a.2.1 == e.2).map (·.1), e.1.2.1, e.1.2.2,
        p.len⟩)) (if p.writesGlobal then charged accs else [])).noteCommand v (s.core v.core).nextOp)) := by
  unfold CopyPlan.post
  rw [State.lookAll_reaches reach]
  dsimp only
  rw [sized_accessesOf, ← accesses]
  by_cases writes : p.writesGlobal = true
  · simp only [if_pos writes, State.charge_covered (covered writes), State.nextOp_paid]
  · simp only [if_neg writes]

/-- Each plan has a row for each count. -/
theorem length_rows_copyPlan (op : Nat) (r : Nat → Word) (n : Nat) : (copyPlan op r n).rows.length = n := by
  unfold copyPlan
  split <;> exact (List.length_map _).trans List.length_range

/-- The address of a row, where the index list lies in the region of cohort `h`. -/
def CopyPlan.address (p : CopyPlan) (base : Nat) (h : Cohort) (j : Nat) : Nat :=
  match p.index with
  | some x => (base + (h.word (x + 4 * j)).toNat * p.len) % 2 ^ 64
  | none => (p.rows.getD j (0, 0, 0)).1

theorem CopyPlan.runs_eq_pieces {p : CopyPlan} {n : Nat} (rows : p.rows.length = n) (base : Nat) (h : Cohort) :
    p.runs (p.indexWords (some h) n) base = p.pieces (p.address base h) := by
  unfold CopyPlan.runs CopyPlan.pieces
  refine if_congr Iff.rfl (List.flatMap_congr fun e mem => ?_) rfl
  obtain ⟨-, below, row⟩ := List.mem_zipIdx mem
  have inside : e.2 < n := by omega
  unfold CopyPlan.address CopyPlan.indexWords
  cases index : p.index with
  | some x => simp [inside]
  | none => simp [row, rows, inside]

theorem State.launch_atIssue (s : State) (v : View) (x n : Nat) : (s.atIssue v).launch x n = s.launch x n := by
  have reached : (s.reach v).ctxs = s.ctxs := by
    unfold State.reach
    dsimp only
    split
    · rfl
    · rw [State.passTicks_ctxs, State.passCycles_ctxs]
  have issued : (s.atIssue v).ctxs = s.ctxs := by
    unfold State.atIssue
    dsimp only
    split <;> exact reached
  rw [State.launch, State.ctx, issued]
  rfl

end

/-- Every word whose effect is a copy's posts its rows. -/
theorem copyResult_of {i : Instr} {op : Nat} {q : BitVec 2} {b n : BitVec 6} (h : ∀ s, exec i s = issueWord i (copyWord op q b n) s) :
    CopyResult op i q b n := by
  intro locs s v l src dst region issues
  dsimp only
  intro legal sides aligned inside raceless found reach covered
  rw [h]
  refine issueWord_done issues ?_
  rw [copyWord_posts q rfl rfl legal sides aligned inside raceless, State.cohort_atIssue, found,
    CopyPlan.runs_eq_pieces (length_rows_copyPlan op _ _), ← State.nextOp_atIssue s v]
  refine CopyPlan.post_reaches q src dst (locs := locs) (l := l) ?_ rfl covered
  unfold CopyPlan.intent
  rw [State.launch_atIssue]
  exact reach

end Sys2Proof.Machine

namespace Sys2Proof.Machine

/-! ### MFENCE, MSTAT and MERRQ (R209 to R211) -/

theorem bits_31_19_eq_zero {w : Nat} (fits : w < 2 ^ 32) : bits w 31 19 = 0 ↔ w < 2 ^ 19 := by
  unfold bits
  omega

/-- The log of a retired batch that a team keeps, by the low half of the batch's number. -/
def State.keptLog (s : State) (v : View) (n : Nat) : Option BatchLog :=
  ((s.teamOf v).logs.find? fun l => l.batch.toNat % 65536 == n % 65536).bind fun l =>
    if (s.commandsOf v.core (s.teamOf v).uid).any fun m => m.batch == l.batch then none else some l

/-- What MERRQ says of entry `n` of a log: GONE where there is none. -/
def merrqAnswer (n : Nat) : Option BatchLog → Nat
  | none => 2 ^ 53
  | some l => match l.entries[n]? with
    | none => if l.more then 2 ^ 62 else 0
    | some e => 2 ^ 63 + (if l.more then 2 ^ 62 else 0) + e.opnd * 2 ^ 59 + e.id * 2 ^ 54 + e.i * 2 ^ 40 + e.k * 2 ^ 32 + e.n * 2 ^ 24 +
        e.addr % 2 ^ 20

section
variable {s : State} {v : View} {b : Nat}

theorem merrqWord_reserved (high : 2 ^ 19 ≤ (v.s b 0).toNat) : merrqWord b s v = Effect.plain 0x01 :=
  if_pos fun zero => absurd ((bits_31_19_eq_zero (v.s b 0).isLt).mp zero) (by omega)

theorem merrqWord_legal (low : (v.s b 0).toNat < 2 ^ 19) :
    merrqWord b s v = .done (s.setSPair v b (BitVec.ofNat 64 (merrqAnswer ((v.s b 0).toNat / 65536) (s.keptLog v (v.s b 0).toNat))) 2) := by
  have half (x : Nat) : bits x 15 0 = x % 65536 := by
    unfold bits
    omega
  have entry : bits (v.s b 0).toNat 18 16 = (v.s b 0).toNat / 65536 := by
    unfold bits
    omega
  unfold merrqWord State.keptLog
  dsimp only
  rw [if_neg (not_not.mpr ((bits_31_19_eq_zero (v.s b 0).isLt).mpr low))]
  simp only [half, entry]
  generalize (s.teamOf v).logs.find? _ = found
  cases found with
  | none => rfl
  | some l =>
    dsimp only [Option.bind_some]
    generalize (if ((s.commandsOf v.core (s.teamOf v).uid).any fun m => m.batch == l.batch) = true then (none : Option BatchLog) else some l) = kept
    cases kept with
    | none => rfl
    | some k => cases read : k.entries[(v.s b 0).toNat / 65536]? <;> simp only [merrqAnswer, read]

theorem State.keptLog_missing {n : Nat} (missing : ∀ l ∈ (s.teamOf v).logs, l.batch.toNat % 65536 ≠ n % 65536) : s.keptLog v n = none := by
  unfold State.keptLog
  rw [List.find?_eq_none.mpr fun l mem => by simpa using missing l mem]
  rfl

/-- The first log with the number answers, once its batch has retired. -/
theorem State.keptLog_first {n : Nat} {before after : List BatchLog} {l : BatchLog} (logs : (s.teamOf v).logs = before ++ l :: after)
    (others : ∀ k ∈ before, k.batch.toNat % 65536 ≠ n % 65536) (own : l.batch.toNat % 65536 = n % 65536) :
    s.keptLog v n = if ∀ m ∈ s.commandsOf v.core (s.teamOf v).uid, m.batch ≠ l.batch then some l else none := by
  have first : ((s.teamOf v).logs.find? fun l => l.batch.toNat % 65536 == n % 65536) = some l := by
    rw [logs, List.find?_append, List.find?_eq_none.mpr fun k mem => by simpa using others k mem]
    exact List.find?_cons_of_pos (p := fun l : BatchLog => l.batch.toNat % 65536 == n % 65536) (beq_iff_eq.mpr own)
  unfold State.keptLog
  rw [first, Option.bind_some]
  by_cases retired : ∀ m ∈ s.commandsOf v.core (s.teamOf v).uid, m.batch ≠ l.batch
  · rw [if_pos retired, if_neg (by simpa using retired)]
  · rw [if_neg retired, if_pos (by simpa using retired)]

theorem State.uid_atIssue {i : Instr} (views : s.Views v i) : ((s.atIssue v).teamOf v).uid = v.team.uid :=
  congrArg Prod.fst (State.books_atIssue views)

end

/-- MERRQ completes with the answer of the log that answers. -/
theorem merrq_completes {c : BitVec 1} {w : BitVec 2} {b : BitVec 5} {H : State → View → Prop} {x : Nat}
    (legal : ∀ s v, H s v → (v.s (2 * b.toNat) 0).toNat < 2 ^ 19)
    (answer : ∀ s v, (s.teamOf v).uid = v.team.uid → H s v →
      merrqAnswer ((v.s (2 * b.toNat) 0).toNat / 65536) (s.keptLog v (v.s (2 * b.toNat) 0).toNat) = x) :
    Completes (.merrq c w b) H fun s v => s.setSPair v (2 * b.toNat) (BitVec.ofNat 64 x) 2 := by
  refine completes_of_issues (eff := merrqWord (2 * b.toNat)) (fun _ => rfl) fun s v issues holds => ?_
  rw [merrqWord_legal (legal _ _ holds), answer _ _ (State.uid_atIssue issues.1) holds]

theorem mstat_completes (c : BitVec 1) (w : BitVec 2) (b : BitVec 5) :
    Completes (.mstat c w b) always fun s v =>
      ((s.setS v (2 * b.toNat) (s.mstatus v.core (s.teamOf v)) 2).setS v (2 * b.toNat + 1)
        (BitVec.ofNat 32 (s.commandsOf v.core v.team.uid).length) 2).modTeam v fun t => { t with operr := false, logovf := false } := by
  refine completes_of_issues (eff := mstatWord (2 * b.toNat)) (fun _ => rfl) fun s v issues _ => ?_
  rw [← State.uid_atIssue issues.1]
  rfl

end Sys2Proof.Machine

namespace Sys2Proof.Machine

/-! ### The matrix engines and the operation numbers of the cores at the end of a word -/

/-- A core's matrix engine and the number of its next operation. -/
def Core.engine (k : Core) : Matrix × Nat := (k.mtx, k.nextOp)

/-- Every core has its engine and the number of its next operation as they were. -/
def SameEngines (s t : State) : Prop := ∀ c, (t.core c).engine = (s.core c).engine

theorem SameEngines.refl (s : State) : SameEngines s s := fun _ => rfl

theorem SameEngines.trans {s t u : State} (a : SameEngines s t) (b : SameEngines t u) : SameEngines s u := fun c => (b c).trans (a c)

theorem SameEngines.of_cores {s t : State} (cores : t.cores = s.cores) : SameEngines s t := fun c => by
  unfold State.core
  rw [cores]

theorem SameEngines.setCore {s : State} {c : Nat} {k : Core} (same : k.engine = (s.core c).engine) : SameEngines s (s.setCore c k) := by
  intro d
  by_cases other : d = c
  · subst other
    rw [State.core_setCore_self, same]
  · rw [State.core_setCore_other _ _ other]

theorem SameEngines.setTeam (s : State) (c i : Nat) (t : Team) : SameEngines s (s.setTeam c i t) := .setCore rfl

theorem SameEngines.modTeam (s : State) (v : View) (f : Team → Team) : SameEngines s (s.modTeam v f) := .setTeam _ _ _ _

theorem SameEngines.modPath (s : State) (v : View) (f : Path → Path) : SameEngines s (s.modPath v f) := .setTeam _ _ _ _

theorem foldl_sameEngines {α β : Type} (g : β → State) {f : β → α → β} (hf : ∀ r a, SameEngines (g r) (g (f r a))) (l : List α) (r : β) :
    SameEngines (g r) (g (l.foldl f r)) := by
  induction l generalizing r with
  | nil => exact .refl _
  | cons a l ih => exact (hf r a).trans (ih _)

theorem State.readLine_sameEngines (s : State) (c x : Nat) (cached : Bool) (loc : Loc) (mask : BitVec 4) (key : Nat) :
    SameEngines s (s.readLine c x cached loc mask key).2 := by
  have read : SameEngines s (s.cachedRead c x loc.line 128 key).2.2.2 := by
    unfold State.cachedRead
    dsimp only
    split
    · exact .refl s
    · exact (SameEngines.of_cores (s.demand_keeps _).1).trans (.setCore rfl)
  unfold State.readLine
  split
  · dsimp only
    split
    · exact read.trans (.of_cores (State.noteRead_keeps _ _ _).1)
    · exact read
  · exact .of_cores (State.readAt_keeps _ _ _).1

theorem State.readLanes_sameEngines (s : State) (c x : Nat) (cached : Bool) (lanes : List Access) (key : Nat) :
    SameEngines s (s.readLanes c x cached lanes key).2 := by
  refine foldl_sameEngines (fun (r : List (Nat × List Byte × Bool) × List ((Nat × Loc) × List Byte × Bool) × State) => r.2.2)
    (fun r a => ?_) lanes ([], [], s)
  dsimp only
  split
  · exact .refl _
  · exact State.readLine_sameEngines _ _ _ _ _ _ _

theorem State.readInFlight_sameEngines (s : State) (c uid : Nat) (o : Op) (line : Nat) : SameEngines s (s.readInFlight c uid o line).2 := by
  unfold State.readInFlight
  split
  · unfold State.loadLine
    split
    · exact (State.readLanes_sameEngines _ _ _ _ _ _).trans (.of_cores rfl)
    · exact .refl s
  · exact .of_cores (State.atomRead_keeps _ _ _ _).1
  · split
    · exact .refl s
    · exact .of_cores (State.copyWords_keeps _ _ _ _).1
  · exact .refl s

theorem State.serveLine_sameEngines (s : State) (line : Nat) : SameEngines s (s.serveLine line) := by
  unfold State.serveLine
  split
  · exact .refl s
  · refine foldl_sameEngines (fun t => t) (fun t c => ?_) _ s
    refine foldl_sameEngines (fun (r : List (Nat × Nat) × State) => r.2) (fun r e => ?_) _ ([], t)
    dsimp only
    generalize (_ || _ : Bool) = now
    cases now
    · exact .refl _
    · exact (State.readInFlight_sameEngines _ _ _ _ _).trans (.setCore rfl)

theorem State.ownWrite_sameEngines (s : State) (x : Nat) (loc : Loc) (bs : List Byte) : SameEngines s (s.ownWrite x loc bs) := by
  have served (t : State) (lines : List Nat) : SameEngines t (t.serveLines lines) :=
    foldl_sameEngines (fun t => t) (fun t l => t.serveLine_sameEngines l) _ t
  exact ((SameEngines.of_cores (s.roomFor_keeps x loc bs.length).1).trans (served _ _)).trans (.of_cores (State.writeLoc_keeps _ _ _ _).1)

theorem State.trace_sameEngines (s : State) (x kind src team word : Nat) (path : Bool) (pc payload : Nat) :
    SameEngines s (s.trace x kind src team word path pc payload) := by
  unfold State.trace
  dsimp only
  split
  · exact .refl s
  · split
    · exact .of_cores rfl
    · split
      · exact (State.ownWrite_sameEngines _ _ _ _).trans (.of_cores rfl)
      · exact .of_cores rfl

/-- A core with the teams of a launch stopped. -/
def Core.haltWith (x launch : Nat) (k : Core) : Core :=
  { k with
    teams := k.teams.map fun e => (e.1, e.2.haltWith x launch)
    evicted := k.evicted.map fun e => (e.1, e.2.haltWith x launch) }

theorem State.stopLaunch_sameEngines (s : State) (x launch : Nat) : SameEngines s (s.stopLaunch x launch) := by
  intro c
  have cores : (s.stopLaunch x launch).cores = s.cores.map fun e => (e.1, e.2.haltWith x launch) := rfl
  unfold State.core
  rw [cores, Table.get_map]
  cases Table.get s.cores c <;> rfl

theorem State.debugStop_sameEngines (s : State) (c slot : Nat) (side : Bool) (reason comparator : Nat) :
    SameEngines s (s.debugStop c slot side reason comparator) := by
  have told : SameEngines s (s.traceWord c slot side 12 (reason + 8 * comparator)) := by
    unfold State.traceWord
    split
    · exact .refl s
    · exact State.trace_sameEngines _ _ _ _ _ _ _ _ _
  unfold State.debugStop
  dsimp only
  split
  · exact told
  next t _ =>
    have stopped (k : Ctx) := (told.trans (.setTeam _ c slot (t.halt side reason))).trans (SameEngines.of_cores (State.setCtx_cores _ t.ctx k))
    split
    · exact (stopped _).trans (State.stopLaunch_sameEngines _ _ _)
    · exact stopped _

/-- The end of a word, with a step that ends on it or without, is of teams, contexts and memory. -/
theorem State.finish_sameEngines (s : State) (v : View) (i : Instr) : SameEngines s (s.finish v i) := by
  have ended (t : State) : SameEngines t (t.endStep v) := by
    unfold State.endStep
    split
    · split
      · exact State.debugStop_sameEngines _ _ _ _ _ _
      · exact .refl t
    · exact .refl t
  unfold State.finish
  dsimp only
  have issued : SameEngines s (((s.modPath v (v.advance i)).used).modTeam v fun t => t.issued v) :=
    (SameEngines.modPath s v (v.advance i)).trans (.modTeam _ v _)
  refine issued.trans ?_
  generalize ((s.modPath v (v.advance i)).used).modTeam v (fun t => t.issued v) = u
  have either (again : Bool) : SameEngines u (if again = true then (u.occupy v i).again v else (u.occupy v i).endStep v) := by
    cases again
    · exact (SameEngines.of_cores rfl).trans (ended (u.occupy v i))
    · exact .of_cores rfl
  exact either _

end Sys2Proof.Machine

namespace Sys2Proof.Machine

/-! ### Graph commands enter the window (R194 to R200) -/

section
variable {s : State} {v : View}

/-- The number of a command, kept for the debugger, is of one path alone. -/
theorem State.noteCommand_spec (s : State) (v : View) (n : Nat) :
    SameEngines s (s.noteCommand v n) ∧ (s.noteCommand v n).regsOf v = s.regsOf v ∧ (s.noteCommand v n).modesOf v = s.modesOf v ∧
      ((s.noteCommand v n).teamOf v).books = (s.teamOf v).books ∧ State.Within v s (s.noteCommand v n) := by
  have kept : SameEngines s s ∧ s.regsOf v = s.regsOf v ∧ s.modesOf v = s.modesOf v ∧ (s.teamOf v).books = (s.teamOf v).books ∧
      State.Within v s s := ⟨.refl s, rfl, rfl, rfl, .refl v s⟩
  unfold State.noteCommand
  split
  · split
    · unfold State.modPath
      obtain ⟨scalars, conditions, -, -, -⟩ := State.pathOf_putPath_regs s v { s.pathOf v with lastCommand := some n }
      obtain ⟨vectors, predicates⟩ := State.teamOf_putPath_vectors s v { s.pathOf v with lastCommand := some n }
      refine ⟨.setTeam _ _ _ _, ?_, State.modesOf_putPath s v _ ⟨rfl, rfl, rfl, rfl⟩, State.books_putPath s v _, .putPath v s _⟩
      rw [State.regsOf, vectors, predicates, scalars, conditions]
      rfl
    · exact kept
  · exact kept

/-- A core whose next operation is a command in the window of its engine, which the launch of the view owns from then on. -/
def Core.entered (k : Core) (v : View) (cmd : MatCmd) : Core :=
  let m := k.mtx.take v.team.ctx v.team.launch
  { k with nextOp := k.nextOp + 1, mtx := { m with window := m.window ++ [cmd] } }

/-- A team whose ID `id` names command `n`. -/
def Team.named (id n : Nat) (t : Team) : Team := { t with commandIds := Table.put t.commandIds id n }

/-- What a graph command leaves, at the state of its issue. -/
def State.enterCommand (s : State) (v : View) (id : Nat) (cmd : MatCmd) : State :=
  ((s.setCore v.core ((s.core v.core).entered v cmd)).modTeam v (Team.named id (s.core v.core).nextOp)).noteCommand v (s.core v.core).nextOp

theorem State.enterCommand_spec (s : State) (v : View) (id : Nat) (cmd : MatCmd) :
    ((s.enterCommand v id cmd).core v.core).engine = ((s.core v.core).entered v cmd).engine ∧
      Table.get ((s.enterCommand v id cmd).teamOf v).commandIds id = some (s.core v.core).nextOp ∧
      (s.enterCommand v id cmd).regsOf v = s.regsOf v ∧ (s.enterCommand v id cmd).modesOf v = s.modesOf v ∧
      (s.enterCommand v id cmd).mem = s.mem ∧ (s.enterCommand v id cmd).hostMem = s.hostMem ∧
      ((s.enterCommand v id cmd).teamOf v).step = (s.teamOf v).step := by
  unfold State.enterCommand
  generalize (s.core v.core).nextOp = n
  have engine : ((s.setCore v.core ((s.core v.core).entered v cmd)).core v.core).engine = ((s.core v.core).entered v cmd).engine := by
    rw [State.core_setCore_self]
  have team : (s.setCore v.core ((s.core v.core).entered v cmd)).teamOf v = s.teamOf v := by
    rw [State.teamOf, State.team, State.core_setCore_self]
    rfl
  have mem : (s.setCore v.core ((s.core v.core).entered v cmd)).mem = s.mem := rfl
  have hostMem : (s.setCore v.core ((s.core v.core).entered v cmd)).hostMem = s.hostMem := rfl
  generalize s.setCore v.core ((s.core v.core).entered v cmd) = u at engine team mem hostMem ⊢
  obtain ⟨regs, modes⟩ := State.regsOf_modTeam (s := u) (v := v) (f := Team.named id n) (fun _ => ⟨rfl, rfl, rfl⟩) fun _ => ⟨rfl, rfl⟩
  have named : (u.modTeam v (Team.named id n)).teamOf v = (s.teamOf v).named id n := by rw [State.teamOf_modTeam, team]
  obtain ⟨engines, regs', modes', books, within⟩ := State.noteCommand_spec (u.modTeam v (Team.named id n)) v n
  have ids : (((u.modTeam v (Team.named id n)).noteCommand v n).teamOf v).commandIds = Table.put (s.teamOf v).commandIds id n :=
    (congrArg (fun b : Nat × List (List Entry) × Table Nat => b.2.2) books).trans (congrArg Team.commandIds named)
  refine ⟨(engines v.core).trans ((SameEngines.modTeam u v _ v.core).trans engine), ?_, regs'.trans (regs.trans (State.regsOf_congr team)),
    modes'.trans (modes.trans (State.modesOf_congr (State.pathOf_congr team))), within.mem.trans mem, within.hostMem.trans hostMem,
    within.step.trans ((congrArg Team.step named).trans rfl)⟩
  rw [ids, Table.get_put_self]

/-- The command that a graph word enters. -/
def State.graphCommand (s : State) (v : View) (op : Nat) (id p q : BitVec 5) (ws : List Word) (f : BitVec 256) : MatCmd :=
  ⟨(s.core v.core).nextOp, v.team.uid, v.slot, v.team.ctx, v.team.launch, op, id.toNat,
    (s.predecessor v p ++ s.predecessor v q).eraseDups, ws, f, v.team.batch, false, v.path.pc, [], [], [], [], []⟩

/-- A graph word whose block and runs pass their checks enters its command (R194 to R200). -/
theorem matrixWord_enters {op nregs base : Nat} (id p q : BitVec 5) {h : Cohort} (found : s.cohort v.core v.team.cohort = some h) {ws : List Word}
    (operands : ws = (List.range nregs).map fun k => v.s (base + k) 0) {f : BitVec 256}
    (format : f = if hasBlock op then BitVec.ofNat 256 (leNat (h.read (wordAt ws 1).toNat 32)) else 0)
    (block : hasBlock op = true → (wordAt ws 1).toNat % 32 = 0 ∧ (wordAt ws 1).toNat + 32 ≤ v.team.scrb) (legal : contentsBad op ws f = false)
    (runs : ∀ r ∈ matrixRuns op ws f, r.1 % r.2.1 = 0 ∧ (r.2.2 ≠ 0 → r.1 + r.2.2 ≤ v.team.scrb)) :
    matrixWord op nregs id p q base s v = .done (s.enterCommand v id.toNat (s.graphCommand v op id p q ws f)) := by
  have aligned : (hasBlock op && (wordAt ws 1).toNat % 32 != 0) = false := by
    cases has : hasBlock op with
    | false => rfl
    | true => simpa using (block has).1
  have inside : (hasBlock op && decide (v.team.scrb < (wordAt ws 1).toNat + 32)) = false := by
    cases has : hasBlock op with
    | false => rfl
    | true => simpa using (block has).2
  have runsAligned : ((matrixRuns op ws f).find? fun r => r.1 % r.2.1 != 0) = none :=
    find?_eq_none_of_forall_eq (f := fun r : Nat × Nat × Nat => r.1 % r.2.1) fun r mem => (runs r mem).1
  have runsInside : ((matrixRuns op ws f).find? fun r => r.2.2 != 0 && decide (v.team.scrb < r.1 + r.2.2)) = none :=
    List.find?_eq_none.mpr fun r mem => by simpa using (runs r mem).2
  unfold matrixWord
  dsimp only
  rw [found, Option.getD_some, ← operands, ← format, aligned, inside, legal]
  simp only [Bool.false_eq_true, if_false]
  rw [runsAligned]
  dsimp only
  rw [runsInside]
  rfl

theorem State.predecessor_atIssue (s : State) (v : View) (id : BitVec 5) : (s.atIssue v).predecessor v id = s.predecessor v id := by
  obtain ⟨teams, same⟩ := s.core_atIssue v
  unfold State.predecessor
  rw [same]

theorem State.graphCommand_atIssue (s : State) (v : View) (op : Nat) (id p q : BitVec 5) (ws : List Word) (f : BitVec 256) :
    (s.atIssue v).graphCommand v op id p q ws f = s.graphCommand v op id p q ws f := by
  unfold State.graphCommand
  rw [State.predecessor_atIssue, State.predecessor_atIssue, State.nextOp_atIssue]

theorem State.entered_atIssue (s : State) (v : View) (cmd : MatCmd) :
    (((s.atIssue v).core v.core).entered v cmd).engine = ((s.core v.core).entered v cmd).engine := by
  obtain ⟨teams, same⟩ := s.core_atIssue v
  rw [same]
  rfl

/-- What the end of the word leaves of an entered command. -/
theorem State.finish_enterCommand {i : Instr} (views : s.Views v i) (id : Nat) (cmd : MatCmd) :
    let t := ((s.atIssue v).enterCommand v id cmd).finish v i
    (t.core v.core).engine = ((s.core v.core).entered v cmd).engine ∧ Table.get (t.teamOf v).commandIds id = some (s.core v.core).nextOp ∧
      KeepsRegisters v s t ∧ (v.team.step = none → SameBytes s t) := by
  obtain ⟨engine, named, regs, modes, mem, hostMem, step⟩ := (s.atIssue v).enterCommand_spec v id cmd
  rw [State.entered_atIssue] at engine
  rw [State.nextOp_atIssue] at named
  generalize (s.atIssue v).enterCommand v id cmd = u at engine named regs modes mem hostMem step ⊢
  have ids : ((u.finish v i).teamOf v).commandIds = (u.teamOf v).commandIds :=
    congrArg (fun b : Nat × List (List Entry) × Table Nat => b.2.2) (State.books_finish u v i)
  refine ⟨(u.finish_sameEngines v i v.core).trans engine, ids ▸ named, (keeps_finish views regs modes).1, fun unstepped => ?_⟩
  obtain ⟨-, memIssue, hostIssue, -, stepIssue, -⟩ := State.atIssue_frame views
  obtain ⟨-, memEnd, hostEnd, -⟩ := u.finish_frame v i (step.trans (stepIssue.trans unstepped))
  exact .of_eq (memEnd.trans (mem.trans memIssue)) (hostEnd.trans (hostMem.trans hostIssue))

end

/-- Every word whose effect is a graph command's enters it. -/
theorem matrixResult_of {i : Instr} {op nregs base : Nat} {id p q : BitVec 5} (h : ∀ s, exec i s = issueWord i (matrixWord op nregs id p q base) s) :
    MatrixResult op nregs i id p q base := by
  intro s v region issues found ws at' f block legal runs m
  have enters := matrixWord_enters id p q ((State.cohort_atIssue s v _).trans found) rfl rfl block legal runs
  rw [State.graphCommand_atIssue] at enters
  obtain ⟨engine, named, registers, bytes⟩ := State.finish_enterCommand issues.1 id.toNat (s.graphCommand v op id p q ws f)
  exact ⟨_, (h s).trans (issueWord_done issues enters), congrArg Prod.fst engine, named, congrArg Prod.snd engine, registers, bytes⟩

end Sys2Proof.Machine

section
open Sys2Proof Sys2Proof.Machine

/-- Settles O46: a copy word that no check stops posts its rows, a graph word enters its command, whose engine the end of the word leaves, and
MERRQ gives the answer of the first kept log with its number. -/
theorem engineWords : Obligations.EngineWords := by
  refine ⟨fun c w q b n => ?copies, fun c w i p q b => ?graph,
    fun c w b => ⟨?fence, mstat_completes c w b, ?missing, fun l before after => ?log, ?reserved⟩⟩
  case copies =>
    exact ⟨copyResult_of fun _ => rfl, copyResult_of fun _ => rfl, copyResult_of fun _ => rfl, copyResult_of fun _ => rfl,
      copyResult_of fun _ => rfl, copyResult_of fun _ => rfl⟩
  case graph =>
    exact ⟨matrixResult_of fun _ => rfl, matrixResult_of fun _ => rfl, matrixResult_of fun _ => rfl, matrixResult_of fun _ => rfl,
      matrixResult_of fun _ => rfl, matrixResult_of fun _ => rfl, matrixResult_of fun _ => rfl⟩
  case fence => exact completes_of (eff := mfenceWord) (fun _ => rfl) fun _ _ _ => rfl
  case missing =>
    refine merrq_completes (fun s v h => h.1) fun s v _ ⟨_, missing⟩ => ?_
    rw [State.keptLog_missing missing]
    rfl
  case log =>
    refine ⟨merrq_completes (fun s v h => h.1.1) ?unretired, fun n e entry => merrq_completes (fun s v h => h.1.1) ?entry,
      merrq_completes (fun s v h => h.1.1) ?beyond⟩
    case unretired =>
      rintro s v uid ⟨⟨-, logs, others, own⟩, unretired⟩
      rw [State.keptLog_first logs others own, uid, if_neg unretired]
      rfl
    case entry =>
      rintro s v uid ⟨⟨-, logs, others, own⟩, retired, number⟩
      rw [State.keptLog_first logs others own, uid, if_pos retired, number]
      simp only [merrqAnswer, entry]
    case beyond =>
      rintro s v uid ⟨⟨-, logs, others, own⟩, retired, beyond⟩
      rw [State.keptLog_first logs others own, uid, if_pos retired]
      simp only [merrqAnswer, List.getElem?_eq_none beyond]
  case reserved => exact traps_of (eff := merrqWord (2 * b.toNat)) (fun _ => rfl) fun _ _ high => merrqWord_reserved high

end

namespace Sys2Proof.Machine

/-! ### The L2 lines across the bookkeeping of a write (R246, R356, R357) -/

/-- A die whose other fields change keeps its lines. -/
theorem State.line_setDie_of_l2 (s : State) {e : Nat} {k : Die} (same : k.l2 = (s.die e).l2) (d l : Nat) :
    (s.setDie e k).line d l = s.line d l := by
  unfold State.line
  rw [State.die_setDie]
  split
  · next die =>
      have own : s.die e = s.die d := if_congr die rfl rfl
      rw [same, own]
  · rfl

theorem State.setPage_line (s : State) (pg : Nat) (p : Page) (d l : Nat) : (s.setPage pg p).line d l = s.line d l := rfl

theorem State.setBlock_line (s : State) (b : Nat) (k : Block) (d l : Nat) : (s.setBlock b k).line d l = s.line d l := rfl

/-- Steps that each leave an L2 line leave it together. -/
theorem foldl_line {α : Type} {f : State → α → State} {d l : Nat} (hf : ∀ s a, (f s a).line d l = s.line d l) (as : List α) (s : State) :
    (as.foldl f s).line d l = s.line d l := by
  induction as generalizing s with
  | nil => rfl
  | cons a as ih => exact (ih _).trans (hf s a)

theorem State.commandPage_line (s : State) (pg why d l : Nat) : (s.commandPage pg why).line d l = s.line d l :=
  foldl_line (fun s e => by
    dsimp only
    split
    · exact s.line_setDie_of_l2 (by rfl) d l
    · rfl) _ s

theorem State.windowPage_line (s : State) (x pg d l : Nat) : (s.windowPage x pg).line d l = s.line d l := by
  unfold State.windowPage
  dsimp only
  split
  · rfl
  · rw [State.commandPage_line]
    exact (State.line_setDie_of_l2 _ (by rfl) d l).trans (foldl_line (fun s _ => s.setBlock_line _ _ d l) _ _)

theorem State.backWindows_line (s : State) (x : Nat) (leaves : List (Nat × Nat × Nat)) (d l : Nat) :
    (s.backWindows x leaves).line d l = s.line d l :=
  foldl_line (fun s _ => foldl_line (fun s _ => s.windowPage_line _ _ d l) _ s) _ s

theorem State.closeWindows_line (s : State) (d l : Nat) : s.closeWindows.line d l = s.line d l :=
  foldl_line (fun s _ => s.setPage_line _ _ d l) _ s

theorem State.tableChange_line (s old : State) (d l : Nat) : (s.tableChange old).line d l = s.line d l :=
  foldl_line (fun t e => by
    dsimp only
    split_ifs
    · rfl
    · rfl
    · exact (State.closeWindows_line _ d l).trans (State.backWindows_line t _ _ d l)) _ s

/-- The window's bookkeeping before a write leaves every line. -/
theorem State.beforeWrite_line (s : State) (da : Nat) (hw : Bool) (d l : Nat) :
    (if hw then (s.noteImage da).windowPage ((s.noteImage da).page (pageOf da)).ctx (pageOf da) else s.noteImage da).line d l = s.line d l := by
  split_ifs
  · exact State.windowPage_line _ _ _ d l
  · rfl

theorem State.refer_line (s : State) (pg d l : Nat) : (s.refer pg).line d l = s.line d l := by
  unfold State.refer
  split <;> rfl

/-! ### The bytes of a line of an SWM page (R246) -/

/-- The bytes of an SWM line as a die reads them: those of its L2 copy, and the home copy's where it holds none. -/
def State.swmData (s : State) (d l : Nat) : List Byte :=
  match s.line d l with
  | some k => k.data
  | none => Memory.readList s.mem (128 * l) 128

theorem State.swmData_congr {s t : State} {d l : Nat} (line : t.line d l = s.line d l) (mem : t.mem = s.mem) : t.swmData d l = s.swmData d l := by
  unfold State.swmData
  rw [line, mem]

theorem State.swmData_of_line {s : State} {d l : Nat} {k : L2Line} (held : s.line d l = some k) : s.swmData d l = k.data := by
  unfold State.swmData
  rw [held]

theorem State.length_swmData {s : State} {d l : Nat} (whole : ∀ k, s.line d l = some k → k.data.length = 128) : (s.swmData d l).length = 128 := by
  unfold State.swmData
  split
  · next k held => exact whole k held
  · simp [Memory.readList]

/-- A read of a run inside one line of an SWM page whose mappings agree. -/
theorem State.readLoc_swm {s : State} {da n : Nat} (agree : s.mixed (pageOf da) = false) (inside : da % 128 + n ≤ 128) (d : Nat) (uc hw : Bool) :
    s.readLoc d (.dev da true uc hw) n = ((s.swmData d (lineOf da)).drop (da % 128)).take n := by
  have run : s.readLoc d (.dev da true uc hw) n = s.bytesAt d (.dev da true uc hw) n := by
    show (if s.mixed (pageOf da) then _ else _) = _
    rw [agree]
    rfl
  rw [run]
  unfold State.bytesAt State.swmData
  dsimp only
  rw [if_pos rfl]
  cases s.line d (lineOf da) with
  | some k => rfl
  | none =>
    have place : 128 * lineOf da + da % 128 = da := Nat.div_add_mod da 128
    exact (congrArg (Memory.readList s.mem · n) place).symm.trans (Memory.take_drop_readList s.mem _ inside).symm

/-- The fill of an SWM line: the die then holds it, with the bytes that it read there before. -/
theorem State.fillSwm_line (s : State) (d l : Nat) : ∃ k, (s.fillSwm d l).line d l = some k ∧ k.data = s.swmData d l := by
  unfold State.fillSwm State.swmData
  cases held : s.line d l with
  | some k => exact ⟨k, held, rfl⟩
  | none => exact ⟨_, by rw [State.refer_line, State.line_setLine, if_pos ⟨Iff.rfl, rfl⟩], rfl⟩

/-! ### A run of bytes laid over the bytes of a line -/

/-- The bytes of a line after a run was written from an offset on. -/
def overlay (off : Nat) (bs data : List Byte) : List Byte :=
  data.zipIdx.map fun e => if ((List.range bs.length).map fun i => off + i).contains e.2 then bs.getD (e.2 - off) 0 else e.1

theorem getElem?_overlay (off : Nat) (bs data : List Byte) (i : Nat) :
    (overlay off bs data)[i]? = data[i]?.map fun b => if off ≤ i ∧ i < off + bs.length then bs.getD (i - off) 0 else b := by
  have named : (((List.range bs.length).map fun i => off + i).contains i = true) ↔ off ≤ i ∧ i < off + bs.length := by
    rw [List.contains_iff_mem]
    simp only [List.mem_map, List.mem_range]
    exact ⟨fun ⟨j, below, eq⟩ => by omega, fun ⟨low, high⟩ => ⟨i - off, by omega, by omega⟩⟩
  rw [overlay, List.getElem?_map, List.getElem?_zipIdx, Option.map_map]
  simp only [Function.comp_def, Nat.zero_add, named]

/-- The run reads back. -/
theorem take_drop_overlay {off : Nat} {bs data : List Byte} (inside : off + bs.length ≤ data.length) :
    ((overlay off bs data).drop off).take bs.length = bs := by
  refine List.ext_getElem? fun i => ?_
  by_cases within : i < bs.length
  · rw [List.getElem?_take_of_lt within, List.getElem?_drop, getElem?_overlay, List.getElem?_eq_getElem (by omega), Option.map_some,
      if_pos (by omega), Nat.add_sub_cancel_left, List.getD_eq_getElem _ _ within, List.getElem?_eq_getElem within]
  · rw [List.getElem?_eq_none (by simp; omega), List.getElem?_eq_none (by omega)]

/-- Beside the run the bytes are as before. -/
theorem take_drop_overlay_beside {off i n : Nat} {bs : List Byte} (beside : i + n ≤ off ∨ off + bs.length ≤ i) (data : List Byte) :
    ((overlay off bs data).drop i).take n = (data.drop i).take n := by
  refine List.ext_getElem? fun j => ?_
  by_cases within : j < n
  · have outside : ¬ (off ≤ i + j ∧ i + j < off + bs.length) := by omega
    rw [List.getElem?_take_of_lt within, List.getElem?_take_of_lt within, List.getElem?_drop, List.getElem?_drop, getElem?_overlay]
    simp only [outside, if_false, Option.map_id']
  · rw [List.getElem?_take_eq_none (by omega), List.getElem?_take_eq_none (by omega)]

/-! ### A write to an SWM page (R246) -/

/-- A run stored to an SWM page is laid over the bytes of the storing die's copy of the line. -/
theorem State.storeLoc_swmData (s : State) (d da : Nat) (uc hw count : Bool) (bs : List Byte) :
    (s.storeLoc d (.dev da true uc hw) bs count).swmData d (lineOf da) = overlay (da % 128) bs (s.swmData d (lineOf da)) := by
  have same := State.swmData_congr (s.beforeWrite_line da hw d (lineOf da)) (s.beforeWrite_keeps da hw).2.1
  unfold State.storeLoc
  dsimp only at same ⊢
  generalize (if hw then (s.noteImage da).windowPage ((s.noteImage da).page (pageOf da)).ctx (pageOf da) else s.noteImage da) = u at same ⊢
  obtain ⟨k, held, bytes⟩ := u.fillSwm_line d (lineOf da)
  rw [if_pos rfl, held, ← same, ← bytes]
  exact State.swmData_of_line ((State.line_setLine _ d _ d _ _).trans (if_pos ⟨Iff.rfl, rfl⟩))

theorem State.writeLoc_swmData (s : State) (d da : Nat) (uc hw : Bool) (bs : List Byte) :
    (s.writeLoc d (.dev da true uc hw) bs).swmData d (lineOf da) = overlay (da % 128) bs (s.swmData d (lineOf da)) :=
  (State.swmData_congr (State.tableChange_line _ s d _) (State.tableChange_keeps _ s).2.1).trans (s.storeLoc_swmData d da uc hw true bs)

/-- The writing die reads the run it wrote to an SWM page. -/
theorem State.readLoc_writeLoc_swm {s : State} {d da : Nat} {uc hw : Bool} {bs : List Byte} (inside : da % 128 + bs.length ≤ 128)
    (whole : ∀ k, s.line d (lineOf da) = some k → k.data.length = 128)
    (agree : (s.writeLoc d (.dev da true uc hw) bs).mixed (pageOf da) = false) :
    (s.writeLoc d (.dev da true uc hw) bs).readLoc d (.dev da true uc hw) bs.length = bs := by
  rw [State.readLoc_swm agree inside, State.writeLoc_swmData]
  exact take_drop_overlay (by rw [State.length_swmData whole]; exact inside)

/-- The writing die reads every other byte of the line as before the write. -/
theorem State.readLoc_writeLoc_swm_beside {s : State} {d da a : Nat} {uc hw : Bool} {bs : List Byte} (line : lineOf a = lineOf da)
    (beside : a < da ∨ da + bs.length ≤ a) (before : s.mixed (pageOf da) = false)
    (after : (s.writeLoc d (.dev da true uc hw) bs).mixed (pageOf da) = false) :
    (s.writeLoc d (.dev da true uc hw) bs).readLoc d (.dev a true uc hw) 1 = s.readLoc d (.dev a true uc hw) 1 := by
  have page : pageOf a = pageOf da := by
    unfold lineOf at line
    unfold pageOf
    omega
  have offsets : a % 128 + 1 ≤ da % 128 ∨ da % 128 + bs.length ≤ a % 128 := by
    unfold lineOf at line
    omega
  rw [← page] at before after
  rw [State.readLoc_swm after (by omega), State.readLoc_swm before (by omega), line, State.writeLoc_swmData]
  exact take_drop_overlay_beside offsets _

end Sys2Proof.Machine

section
open Sys2Proof Sys2Proof.Machine

/-- Settles O13: HBM and host memory take the run and nothing else; a run written to an SWM page is laid over the writing die's L2 copy of its
line, which that die reads. -/
theorem writtenBytes : Obligations.WrittenBytes := by
  refine ⟨fun s d da uc hw bs wf => ?hbm, fun s d da uc hw bs => ?swm, fun s d pa bs wf => ?host⟩
  case hbm =>
    obtain ⟨-, mem, hostMem⟩ := s.writeLoc_keeps d (.dev da false uc hw) bs
    exact ⟨fun a => by rw [mem, Memory.read_writeList s.mem da a bs (s.memoryWf_iff.mp wf).1], hostMem⟩
  case swm =>
    obtain ⟨-, mem, hostMem⟩ := s.writeLoc_keeps d (.dev da true uc hw) bs
    exact ⟨mem, hostMem, fun inside whole =>
      ⟨State.readLoc_writeLoc_swm inside whole, fun a line beside before after => State.readLoc_writeLoc_swm_beside line beside before after⟩⟩
  case host =>
    obtain ⟨-, mem, hostMem⟩ := s.writeLoc_keeps d (.host pa) bs
    exact ⟨fun a => by rw [hostMem, Memory.read_writeList s.hostMem pa a bs (s.memoryWf_iff.mp wf).2], mem⟩

end
